-- ==== Sys2Proof/Word.lean ====
section
/-!
DEFINITION. The machine's words: a register word is 64 bits (R12, R15), memory is bytes, and multi-byte
fields are little-endian (R10).
-/

namespace Sys2Proof

/-- A register word: every register of BAR0 is at most 64 bits wide (R15). -/
abbrev Word := BitVec 64

/-- One byte of a memory. -/
abbrev Byte := BitVec 8

/-- The bits `[lo + w - 1 : lo]` of a number (R10: bit 0 is the least significant). -/
def bitsOf (v lo w : Nat) : Nat := v / 2 ^ lo % 2 ^ w

/-- `v` with its bits `[lo + w - 1 : lo]` replaced by the low `w` bits of `x`. -/
def putBits (v lo w x : Nat) : Nat :=
  v - bitsOf v lo w * 2 ^ lo + x % 2 ^ w * 2 ^ lo

/-- A number read as a signed number of `n` bits. -/
def toSigned (n v : Nat) : Int :=
  if v % 2 ^ n < 2 ^ (n - 1) then (v % 2 ^ n : Nat) else (v % 2 ^ n : Nat) - (2 ^ n : Nat)

/-- A signed number narrowed to `n` bits, two's complement. -/
def ofSigned (n : Nat) (v : Int) : Nat := (v % (2 ^ n : Nat)).toNat

/-- Little-endian bytes of a number, `n` of them (R10). -/
def toBytes : Nat → Nat → List Byte
  | 0, _ => []
  | n + 1, v => BitVec.ofNat 8 v :: toBytes n (v / 256)

/-- The number that little-endian bytes spell (R10). -/
def ofBytes : List Byte → Nat
  | [] => 0
  | b :: bs => b.toNat + 256 * ofBytes bs

end Sys2Proof
end

