-- ==== Sys2Proof/Config.lean ====
section
/-!
DEFINITION. What the spec leaves open: values with no body, of which nothing can be proved. A statement that holds
of the machine holds for every choice of them.
-/

namespace Sys2Proof.Config

/-- A value the spec calls unpredictable or does not state, where the machine goes on (log entry 1). The argument is
the state's count of such values drawn so far. -/
opaque freeWord : Nat → Word

/-- A byte of a packet that the spec does not state (log entry 1). -/
opaque freeByte : Nat → Byte

/-- What a memory holds where the spec calls its contents undefined (R511; log entry 1): the draw, and the address. -/
opaque freeMem : Nat → Nat → Byte

/-- The PCI vendor ID that the maker is assigned (R339), which the spec does not give. -/
opaque vendorId : BitVec 16

/-- The version of the boot ROM (R458), which each stepping fixes. -/
opaque romVer : Nat

/-- The version of the canned-program library that firmware provides (R419, R424). -/
opaque libVer : Nat

/-- A byte of the library's image at an offset below 64 KiB (R424). -/
opaque libByte : Nat → Byte

/-- The vendor key hashes VKH that are fused at manufacture (R443). -/
opaque vendorHash : Nat → List Byte

/-- The unique device secret (R443, R454). -/
opaque uds : List Byte

/-- The bytes over which CDI is computed (R454), whose widths the spec does not give: ROM_VER, the firmware's digest and
SVN, the owner key's hash, and the two policy bits. -/
opaque cdiMsg : Nat → List Byte → Nat → List Byte → Bool → Bool → List Byte

end Sys2Proof.Config
end

