-- ==== Sys2Proof/Machine/AMap.lean ====
section
/-!
DEFINITION. Sparse tables as plain data: a list of key and value pairs in one canonical form, keys strictly
rising and no entry equal to what an unlisted key reads as.
-/

namespace Sys2Proof.Machine

/-- A sparse table from keys to values. -/
abbrev AMap (κ β : Type) := List (κ × β)

/-- The value of key `k`; an unlisted key reads as `d`. -/
def AMap.get {κ β : Type} [DecidableEq κ] (m : AMap κ β) (d : β) (k : κ) : β :=
  match m with
  | [] => d
  | (k', v) :: r => if k' = k then v else AMap.get r d k

/-- The table without key `k`. -/
def AMap.erase {κ β : Type} [DecidableEq κ] (m : AMap κ β) (k : κ) : AMap κ β :=
  match m with
  | [] => []
  | (k', v) :: r => if k' = k then AMap.erase r k else (k', v) :: AMap.erase r k

/-- A table with key `k`, which it does not list, put before the first greater key. -/
def AMap.ins {κ β : Type} (lt : κ → κ → Bool) (m : AMap κ β) (k : κ) (v : β) : AMap κ β :=
  match m with
  | [] => [(k, v)]
  | (k', v') :: r => if lt k k' then (k, v) :: (k', v') :: r else (k', v') :: AMap.ins lt r k v

/-- The table with key `k` holding `v`; holding what an unlisted key reads as removes the entry. -/
def AMap.set {κ β : Type} [DecidableEq κ] [DecidableEq β] (lt : κ → κ → Bool) (m : AMap κ β)
    (d : β) (k : κ) (v : β) : AMap κ β :=
  if v = d then AMap.erase m k else AMap.ins lt (AMap.erase m k) k v

/-- The canonical form: every key below all later ones, no entry equal to its default. -/
def AMap.wf {κ β : Type} [DecidableEq β] (lt : κ → κ → Bool) (d : κ → β) (m : AMap κ β) : Bool :=
  match m with
  | [] => true
  | (k, v) :: r => decide (v ≠ d k) && r.all (fun e => lt k e.1) && AMap.wf lt d r

/-- A sparse table keyed by numbers. -/
abbrev SMap (β : Type) := AMap Nat β

/-- The order of numeric keys. -/
def natLt (a b : Nat) : Bool := decide (a < b)

/-- Read of a number-keyed table. -/
def SMap.get {β : Type} (m : SMap β) (d : β) (k : Nat) : β := AMap.get m d k

/-- Write of a number-keyed table. -/
def SMap.set {β : Type} [DecidableEq β] (m : SMap β) (d : β) (k : Nat) (v : β) : SMap β :=
  AMap.set natLt m d k v

/-- Canonical form of a number-keyed table whose unlisted keys all read as `d`. -/
def SMap.wf {β : Type} [DecidableEq β] (m : SMap β) (d : β) : Bool := AMap.wf natLt (fun _ => d) m

/-- A memory of bytes whose unlisted addresses read as zero; the pairs are `Host.Cell`s. -/
abbrev Memory := SMap Byte

/-- What an unlisted address of an on-die memory reads as (DESIGN CHOICE, log entry 3). -/
def Memory.blank : Byte := 0

/-- The canonical form of a memory. -/
def Memory.wf (m : Memory) : Bool := SMap.wf m Memory.blank

/-- One byte of a memory. -/
def Memory.read (m : Memory) (a : Nat) : Byte := SMap.get m Memory.blank a

/-- One byte written. -/
def Memory.write (m : Memory) (a : Nat) (b : Byte) : Memory := SMap.set m Memory.blank a b

/-- `n` bytes from address `a` up. -/
def Memory.readN (m : Memory) : Nat → Nat → List Byte
  | _, 0 => []
  | a, n + 1 => Memory.read m a :: Memory.readN m (a + 1) n

/-- A list of bytes written from address `a` up. -/
def Memory.writeL (m : Memory) (a : Nat) : List Byte → Memory
  | [] => m
  | b :: bs => Memory.writeL (Memory.write m a b) (a + 1) bs

/-- A set of numbers as a strictly rising list: membership. -/
def NSet.has (l : List Nat) (k : Nat) : Bool := l.contains k

/-- A set of numbers with `k` added, kept strictly rising. -/
def NSet.add (l : List Nat) (k : Nat) : List Nat :=
  match l with
  | [] => [k]
  | a :: r => if k < a then k :: a :: r else if k = a then a :: r else a :: NSet.add r k

/-- A set of numbers with `k` removed. -/
def NSet.del (l : List Nat) (k : Nat) : List Nat := l.filter (fun a => a != k)

end Sys2Proof.Machine
end

