-- ==== Sys2Proof/Machine/RegNames.lean ====
section
/-!
DEFINITION. The names of the memory-mapped registers: one name per register table of the spec. The
bit layout of each is in Machine/Fields.lean.
-/

namespace Sys2Proof.Machine

/-- The register tables of the spec, each with the rule that gives it. -/
inductive RegId where
  /-- R57 (02_queues.md). -/
  | grp
  /-- R57 (02_queues.md). -/
  | qmuStat
  /-- R58 (02_queues.md). -/
  | qctx
  /-- R61 (02_queues.md). -/
  | qctl
  /-- R84 (03_scheduling.md). -/
  | qscCtl
  /-- R84 (03_scheduling.md). -/
  | qscCommit
  /-- R84 (03_scheduling.md). -/
  | clsW
  /-- R84 (03_scheduling.md). -/
  | kingQuota
  /-- R84 (03_scheduling.md). -/
  | kingStat
  /-- R84 (03_scheduling.md). -/
  | kstShadow
  /-- R85 (03_scheduling.md). -/
  | fxbCtl
  /-- R85 (03_scheduling.md). -/
  | fxbCommit
  /-- R85 (03_scheduling.md). -/
  | fxbVc
  /-- R85 (03_scheduling.md). -/
  | fxbIw
  /-- R87 (03_scheduling.md). -/
  | lockbrk
  /-- R133 (04_channel_programs.md). -/
  | pgmCtl
  /-- R133 (04_channel_programs.md). -/
  | pgmStat
  /-- R133 (04_channel_programs.md). -/
  | staleLog
  /-- R158 (05_izgen_encoding.md). -/
  | semOwn
  /-- R204 (07_segments.md). -/
  | pdData
  /-- R204 (07_segments.md). -/
  | invCmd
  /-- R204 (07_segments.md). -/
  | invStat
  /-- R204 (07_segments.md). -/
  | segvLog
  /-- R227 (08_gambit.md). -/
  | gbtCtl
  /-- R227 (08_gambit.md). -/
  | gbtCnt0
  /-- R227 (08_gambit.md). -/
  | gbtCnt1
  /-- R227 (08_gambit.md). -/
  | gbtCnt2
  /-- R227 (08_gambit.md). -/
  | gbtCnt3
  /-- R227 (08_gambit.md). -/
  | gbtClr
  /-- R227 (08_gambit.md). -/
  | gbtStat
  /-- R227 (08_gambit.md). -/
  | gbtHsel
  /-- R227 (08_gambit.md). -/
  | gbtHist
  /-- R265 (09_data_path.md). -/
  | dmgCtl
  /-- R265 (09_data_path.md). -/
  | dmgCommit
  /-- R265 (09_data_path.md). -/
  | dmgCw
  /-- R265 (09_data_path.md). -/
  | xferLog
  /-- R266 (09_data_path.md). -/
  | txlStat
  /-- R267 (09_data_path.md). -/
  | bpmStat
  /-- R267 (09_data_path.md). -/
  | poolData
  /-- R295 (10_roloa_link.md). -/
  | pluCtl
  /-- R295 (10_roloa_link.md). -/
  | pluStat
  /-- R295 (10_roloa_link.md). -/
  | pluCred
  /-- R295 (10_roloa_link.md). -/
  | pluErr
  /-- R295 (10_roloa_link.md). -/
  | pluCnt
  /-- R295 (10_roloa_link.md). -/
  | srcLog
  /-- R296 (10_roloa_link.md). -/
  | rtCtl
  /-- R310 (11_roloa_transactions.md). -/
  | txnCtl
  /-- R310 (11_roloa_transactions.md). -/
  | txnStat
  /-- R314 (11_roloa_transactions.md). -/
  | dpData
  /-- R320 (11_roloa_transactions.md). -/
  | dpCmd
  /-- R320 (11_roloa_transactions.md). -/
  | dpStat
  /-- R321 (11_roloa_transactions.md). -/
  | extBind
  /-- R325 (11_roloa_transactions.md). -/
  | extLog
  /-- R325 (11_roloa_transactions.md). -/
  | extCnt
  /-- R341 (12_host_port.md). -/
  | dvsec
  /-- R347 (12_host_port.md). -/
  | hpuCtl
  /-- R347 (12_host_port.md). -/
  | hpuStat
  /-- R347 (12_host_port.md). -/
  | hpuPeer
  /-- R360 (13_memory_fifos.md). -/
  | spmCtl
  /-- R360 (13_memory_fifos.md). -/
  | spmAper
  /-- R360 (13_memory_fifos.md). -/
  | bankCmd
  /-- R360 (13_memory_fifos.md). -/
  | spmStat
  /-- R360 (13_memory_fifos.md). -/
  | testStat
  /-- R360 (13_memory_fifos.md). -/
  | ownLog
  /-- R360 (13_memory_fifos.md). -/
  | eccLog
  /-- R360 (13_memory_fifos.md). -/
  | bankOwn
  /-- R372 (13_memory_fifos.md). -/
  | fifoCfg
  /-- R372 (13_memory_fifos.md). -/
  | fifoWm
  /-- R372 (13_memory_fifos.md). -/
  | fifoStat
  /-- R372 (13_memory_fifos.md). -/
  | fifoCnt
  /-- R392 (14_interrupts.md). -/
  | eicCtl
  /-- R392 (14_interrupts.md). -/
  | eicStat
  /-- R392 (14_interrupts.md). -/
  | eqData
  /-- R392 (14_interrupts.md). -/
  | srcCfg
  /-- R392 (14_interrupts.md). -/
  | srcStat
  /-- R392 (14_interrupts.md). -/
  | srcCmd
  /-- R392 (14_interrupts.md). -/
  | coreEq
  /-- R520 (15_faults.md). -/
  | errLog
  /-- R405 (15_faults.md). -/
  | fclFirst
  /-- R405 (15_faults.md). -/
  | fclCtl
  /-- R405 (15_faults.md). -/
  | fclNmi
  /-- R405 (15_faults.md). -/
  | fclReact
  /-- R405 (15_faults.md). -/
  | lostmap
  /-- R409 (16_acp_mailbox.md). -/
  | mbDb
  /-- R409 (16_acp_mailbox.md). -/
  | mbStat
  /-- R409 (16_acp_mailbox.md). -/
  | mbCfg
  /-- R413 (16_acp_mailbox.md). -/
  | mbArb
  /-- R422 (16_acp_mailbox.md). -/
  | glbExpert
  /-- R441 (17_modes_config.md). -/
  | cfsStat
  /-- R441 (17_modes_config.md). -/
  | cfsVer
  /-- R441 (17_modes_config.md). -/
  | cfsSwmap
  /-- R441 (17_modes_config.md). -/
  | cfsCtl
  /-- R441 (17_modes_config.md). -/
  | failLog
  /-- R441 (17_modes_config.md). -/
  | epochLog
  /-- R458 (18_security.md). -/
  | secStat
  /-- R458 (18_security.md). -/
  | glbBoot
  /-- R483 (19_power_ageing.md). -/
  | pcmCtl
  /-- R483 (19_power_ageing.md). -/
  | pcmStat
  /-- R484 (19_power_ageing.md). -/
  | agmCtl
  /-- R484 (19_power_ageing.md). -/
  | agmPlan
  /-- R499 (20_hotplug.md). -/
  | hpcCtl
  /-- R499 (20_hotplug.md). -/
  | hpcErr
  /-- R499 (20_hotplug.md). -/
  | slotCfg
  /-- R499 (20_hotplug.md). -/
  | slotStat
  /-- R499 (20_hotplug.md). -/
  | slotLed
  /-- R513 (21_pins_reset.md). -/
  | glbReset
  /-- R441 (17_modes_config.md). -/
  | cfsPart
  /-- R84 (03_scheduling.md). -/
  | kstActive
  /-- R158 (05_izgen_encoding.md). -/
  | gebOwn
  /-- R56 (02_queues.md). -/
  | qctxSel
  /-- R83 (03_scheduling.md). -/
  | cluW
  /-- R83 (03_scheduling.md). -/
  | kstCtl
  /-- R83 (03_scheduling.md). -/
  | qwSel
  /-- R83 (03_scheduling.md). -/
  | qwData
  /-- R83 (03_scheduling.md). -/
  | grpW
  /-- R204 (07_segments.md). -/
  | pdSel
  /-- R267 (09_data_path.md). -/
  | poolSel
  /-- R267 (09_data_path.md). -/
  | bpmHfree
  /-- R296 (10_roloa_link.md). -/
  | nodeRt
  /-- R296 (10_roloa_link.md). -/
  | domRt
  /-- R296 (10_roloa_link.md). -/
  | nodeRtA
  /-- R296 (10_roloa_link.md). -/
  | domRtA
  /-- R320 (11_roloa_transactions.md). -/
  | dpSel
  /-- R320 (11_roloa_transactions.md). -/
  | dpImage
  /-- R372 (13_memory_fifos.md). -/
  | fifoSel
  /-- R372 (13_memory_fifos.md). -/
  | fifoPtr
  /-- R372 (13_memory_fifos.md). -/
  | fifoPtrB
  /-- R372 (13_memory_fifos.md). -/
  | fifoCmd
  /-- R372 (13_memory_fifos.md). -/
  | ptrLog
  /-- R392 (14_interrupts.md). -/
  | eicCommit
  /-- R392 (14_interrupts.md). -/
  | eqSel
  /-- R392 (14_interrupts.md). -/
  | srcSel
  /-- R405 (15_faults.md). -/
  | fclFsw
  /-- R409 (16_acp_mailbox.md). -/
  | mbReq
  /-- R409 (16_acp_mailbox.md). -/
  | mbRsp
  /-- R388 (14_interrupts.md). -/
  | eqDb
  /-- R483 (19_power_ageing.md). -/
  | pcmPlan
  /-- R483 (19_power_ageing.md). -/
  | eclkCeil
  /-- R483 (19_power_ageing.md). -/
  | pcmEff
  /-- R483 (19_power_ageing.md). -/
  | pcmRet
  /-- R483 (19_power_ageing.md). -/
  | wakeLog
  /-- R483 (19_power_ageing.md). -/
  | engState
  /-- R483 (19_power_ageing.md). -/
  | pcmVtab
  /-- R484 (19_power_ageing.md). -/
  | agmTgt
  /-- R484 (19_power_ageing.md). -/
  | agmLife
  /-- R484 (19_power_ageing.md). -/
  | agmDeg
  /-- R484 (19_power_ageing.md). -/
  | agmSram
  /-- R484 (19_power_ageing.md). -/
  | agmLrep
  /-- R484 (19_power_ageing.md). -/
  | agmLeye
deriving DecidableEq, Repr

/-- The place of a register table in the list above, for the canonical order of the register file. -/
def RegId.num (r : RegId) : Nat := r.ctorIdx

/-- One 64-bit register word: its table, and the one or two indices (which of the numbered copies, which
word). A register that is not numbered has index 0. -/
structure Reg where
  id : RegId
  i : Nat := 0
  j : Nat := 0
deriving DecidableEq, Repr

/-- The canonical order of the register file. -/
def Reg.lt (a b : Reg) : Bool :=
  decide (a.id.num < b.id.num) ||
    (a.id.num == b.id.num && (decide (a.i < b.i) || (a.i == b.i && decide (a.j < b.j))))

/-- A field of a register word: `w` bits from bit `lo`. -/
structure Field where
  reg : Reg
  lo : Nat
  w : Nat
deriving DecidableEq, Repr

/-- The field types of R12. -/
inductive RType where
  | rw | ro | w1c | w1s | wo | rwo | rwc | rwi | rws
deriving DecidableEq, Repr

/-- One row of a register table: bits, type, reset value. -/
structure FieldRow where
  lo : Nat
  w : Nat
  ty : RType
  rst : Nat
deriving DecidableEq, Repr

end Sys2Proof.Machine
end

