-- ==== Sys2Proof/Machine/Fields.lean ====
section
/-!
DEFINITION. The bit layout of every register, from the spec's register tables (Bits, Field, Type, Reset), and the
value each register word has after a cold reset.
-/

namespace Sys2Proof.Machine

/-- The reaction sets of R394 at cold reset, bit 0 INT, 1 NMI, 2 BLOCK_RESET, 3 CHIP_RESET, 4 PIN. -/
def reactReset (i : Nat) : Nat :=
  if i = 0 then 0b10001
  else if i ≤ 8 then 0b00001
  else if i ≤ 11 then 0b10011
  else if i ≤ 19 then 0b00101
  else if i = 20 then 0b10011
  else if i ≤ 28 then 0b00101
  else if i = 29 then 0b10011
  else if i = 30 then 0b00001
  else if i = 31 then 0b00001
  else if i = 32 then 0b00001
  else if i = 33 then 0b10010
  else if i = 34 then 0b10000
  else if i = 35 then 0b11000
  else if i = 36 then 0b10010
  else if i = 37 then 0b11000
  else if i ≤ 40 then 0b00011
  else if i = 41 then 0b10011
  else if i = 42 then 0b00001
  else if i = 63 then 0b10000
  else 0

/-- The rows of a register table that stand in word `j` of copy `i`. -/
def rowsOf (r : Reg) : List FieldRow :=
  match r.id with
  | .grp => [⟨0, 1, .rw, 0⟩, ⟨1, 10, .rw, 0⟩, ⟨12, 12, .rw, 0⟩, ⟨32, 16, .ro, 0⟩]
  | .qmuStat => [⟨0, 16, .ro, 0⟩, ⟨16, 1, .w1c, 0⟩, ⟨17, 1, .w1c, 0⟩, ⟨18, 1, .wo, 0⟩]
  | .qctx =>
    match r.j with
    | 0 => [⟨0, 5, .rw, 0⟩, ⟨12, 45, .rw, 0⟩]
    | 1 => [⟨0, 5, .rw, 0⟩, ⟨12, 45, .rw, 0⟩]
    | 2 => [⟨0, 20, .ro, 0⟩, ⟨32, 20, .ro, 0⟩]
    | 3 => [⟨0, 20, .ro, 0⟩, ⟨32, 20, .ro, 0⟩, ⟨63, 1, .ro, 1⟩]
    | 4 => [⟨0, 1, .rw, 0⟩, ⟨1, 2, .rw, 3⟩, ⟨8, 4, .rw, 0⟩, ⟨16, 12, .rw, 0⟩, ⟨32, 24, .rw, 0⟩]
    | 5 => [⟨0, 3, .ro, 0⟩, ⟨3, 1, .ro, 0⟩, ⟨4, 5, .ro, 0⟩, ⟨12, 4, .ro, 0⟩, ⟨16, 8, .ro, 0⟩]
    | 6 => [⟨0, 32, .ro, 0⟩, ⟨32, 16, .ro, 0⟩]
    | 7 => [⟨0, 57, .ro, 0⟩]
    | _ => []
  | .qctl => [⟨0, 16, .rw, 0⟩, ⟨16, 4, .wo, 0⟩, ⟨20, 1, .rw, 0⟩, ⟨31, 1, .ro, 0⟩, ⟨32, 4, .ro, 0⟩]
  | .qscCtl => [⟨0, 1, .rw, 0⟩, ⟨1, 5, .rwc, 10⟩]
  | .qscCommit => [⟨0, 1, .wo, 0⟩]
  | .clsW => [⟨0, 8, .rwc, 8⟩, ⟨8, 8, .rwc, 4⟩, ⟨16, 8, .rwc, 2⟩, ⟨24, 8, .rwc, 16⟩]
  | .kingQuota => [⟨0, 11, .rwc, 64⟩]
  | .kingStat => [⟨0, 1, .ro, 0⟩, ⟨1, 1, .ro, 0⟩, ⟨16, 16, .ro, 0⟩, ⟨32, 16, .ro, 0⟩, ⟨48, 8, .ro, 0⟩, ⟨56, 1, .wo, 0⟩]
  | .kstShadow => [⟨0, 1, .rw, 0⟩, ⟨1, 1, .rw, 0⟩, ⟨2, 10, .rw, 0⟩, ⟨12, 1, .ro, 0⟩]
  | .fxbCtl => [⟨0, 4, .rwc, 9⟩]
  | .fxbCommit => [⟨0, 1, .wo, 0⟩]
  | .fxbVc => [⟨0, 16, .rwc, 128⟩, ⟨16, 8, .rwc, 4⟩, ⟨24, 8, .rwc, 4⟩, ⟨32, 8, .rwc, 1⟩]
  | .fxbIw => [⟨0, 8, .rwi, 1⟩, ⟨8, 8, .rwi, 1⟩, ⟨16, 8, .rwi, 1⟩, ⟨24, 8, .rwi, 1⟩, ⟨32, 8, .rwi, 1⟩, ⟨40, 8, .rwi, 1⟩, ⟨48, 8, .rwi, 1⟩, ⟨56, 8, .rwi, 1⟩]
  | .lockbrk => [⟨0, 1, .w1c, 0⟩, ⟨1, 1, .w1c, 0⟩, ⟨2, 10, .ro, 0⟩, ⟨12, 4, .ro, 0⟩, ⟨16, 16, .ro, 0⟩, ⟨32, 4, .ro, 0⟩]
  | .pgmCtl => [⟨0, 1, .rw, 1⟩, ⟨1, 5, .rw, 12⟩]
  | .pgmStat => [⟨0, 8, .ro, 0⟩, ⟨8, 8, .ro, 0⟩, ⟨16, 8, .ro, 0⟩, ⟨24, 8, .ro, 0⟩, ⟨32, 1, .wo, 0⟩]
  | .staleLog => [⟨0, 1, .w1c, 0⟩, ⟨1, 1, .w1c, 0⟩, ⟨2, 10, .ro, 0⟩, ⟨12, 12, .ro, 0⟩, ⟨24, 8, .ro, 0⟩]
  | .semOwn => [⟨0, 1, .rwi, 0⟩, ⟨1, 12, .rwi, 0⟩, ⟨13, 1, .rwi, 0⟩]
  | .pdData =>
    match r.j with
    | 0 => [⟨0, 1, .rw, 0⟩, ⟨1, 10, .rw, 0⟩, ⟨11, 5, .rw, 0⟩]
    | 1 => [⟨12, 45, .rw, 0⟩]
    | _ => []
  | .invCmd => [⟨0, 2, .rw, 0⟩, ⟨2, 1, .rw, 0⟩, ⟨3, 1, .rw, 0⟩, ⟨4, 12, .rw, 0⟩, ⟨16, 16, .rw, 0⟩, ⟨32, 1, .wo, 0⟩]
  | .invStat => [⟨0, 1, .ro, 0⟩, ⟨1, 1, .w1c, 0⟩, ⟨2, 1, .w1c, 0⟩, ⟨8, 8, .ro, 0⟩]
  | .segvLog => [⟨0, 1, .w1c, 0⟩, ⟨1, 1, .w1c, 0⟩, ⟨2, 10, .ro, 0⟩, ⟨12, 8, .ro, 0⟩, ⟨20, 16, .ro, 0⟩, ⟨36, 12, .ro, 0⟩, ⟨48, 1, .ro, 0⟩]
  | .gbtCtl => [⟨0, 1, .rwi, 1⟩, ⟨1, 2, .rwi, 3⟩, ⟨16, 16, .rwi, 256⟩, ⟨32, 8, .rwi, 32⟩, ⟨40, 8, .rwi, 16⟩]
  | .gbtCnt0 => [⟨0, 32, .ro, 0⟩, ⟨32, 32, .ro, 0⟩]
  | .gbtCnt1 => [⟨0, 32, .ro, 0⟩, ⟨32, 32, .ro, 0⟩]
  | .gbtCnt2 => [⟨0, 32, .ro, 0⟩, ⟨32, 32, .ro, 0⟩]
  | .gbtCnt3 => [⟨0, 32, .ro, 0⟩, ⟨32, 32, .ro, 0⟩]
  | .gbtClr => [⟨0, 1, .wo, 0⟩]
  | .gbtStat => [⟨0, 11, .ro, 0⟩, ⟨16, 8, .ro, 0⟩, ⟨32, 10, .ro, 0⟩]
  | .gbtHsel => [⟨0, 16, .rw, 0⟩]
  | .gbtHist => [⟨0, 16, .rwi, 43690⟩]
  | .dmgCtl => [⟨0, 4, .rwc, 8⟩, ⟨4, 8, .rwc, 64⟩]
  | .dmgCommit => [⟨0, 1, .wo, 0⟩]
  | .dmgCw => [⟨0, 8, .rwc, 1⟩, ⟨8, 8, .rwc, 1⟩, ⟨16, 8, .rwc, 1⟩, ⟨24, 8, .rwc, 1⟩, ⟨32, 8, .rwc, 1⟩, ⟨40, 8, .rwc, 1⟩, ⟨48, 8, .rwc, 1⟩, ⟨56, 8, .rwc, 1⟩]
  | .xferLog => [⟨0, 1, .w1c, 0⟩, ⟨1, 1, .w1c, 0⟩, ⟨2, 10, .ro, 0⟩, ⟨12, 2, .ro, 0⟩, ⟨14, 4, .ro, 0⟩, ⟨18, 40, .ro, 0⟩, ⟨58, 1, .ro, 0⟩, ⟨59, 1, .w1c, 0⟩]
  | .txlStat => [⟨0, 1, .ro, 0⟩, ⟨1, 4, .ro, 0⟩, ⟨8, 1, .ro, 0⟩, ⟨9, 4, .ro, 0⟩]
  | .bpmStat => [⟨0, 1, .w1c, 0⟩, ⟨1, 3, .ro, 0⟩, ⟨4, 31, .ro, 0⟩, ⟨35, 13, .ro, 0⟩, ⟨48, 16, .ro, 0⟩]
  | .poolData =>
    match r.j with
    | 0 => [⟨0, 1, .rw, 0⟩, ⟨1, 2, .rw, 0⟩, ⟨3, 4, .rw, 0⟩, ⟨7, 12, .rw, 0⟩, ⟨19, 1, .rw, 0⟩]
    | 1 => [⟨12, 45, .rw, 0⟩]
    | 2 => [⟨0, 31, .rw, 0⟩, ⟨32, 16, .rw, 0⟩]
    | 3 => [⟨12, 45, .rw, 0⟩]
    | 4 => [⟨0, 16, .rw, 0⟩, ⟨16, 30, .rw, 0⟩]
    | 5 => [⟨0, 31, .ro, 0⟩, ⟨31, 1, .ro, 0⟩, ⟨32, 1, .w1c, 0⟩, ⟨33, 8, .ro, 0⟩]
    | 6 => [⟨0, 31, .ro, 0⟩, ⟨32, 5, .ro, 0⟩]
    | _ => []
  | .pluCtl => [⟨0, 1, .rw, 0⟩, ⟨1, 1, .rw, 0⟩, ⟨2, 1, .rw, 1⟩, ⟨3, 1, .w1s, 0⟩, ⟨4, 3, .rw, 5⟩, ⟨7, 3, .rw, 4⟩, ⟨10, 1, .wo, 0⟩, ⟨16, 8, .rw, (0x10 * (r.i + 1))⟩]
  | .pluStat => [⟨0, 3, .ro, 0⟩, ⟨3, 3, .ro, 0⟩, ⟨6, 1, .ro, 0⟩, ⟨7, 3, .ro, 0⟩, ⟨10, 3, .ro, 0⟩, ⟨13, 1, .ro, 0⟩, ⟨14, 2, .ro, 0⟩, ⟨16, 16, .ro, 0⟩, ⟨32, 4, .ro, 0⟩]
  | .pluCred => [⟨0, 9, .ro, 0⟩, ⟨12, 12, .ro, 0⟩, ⟨32, 9, .ro, 0⟩, ⟨44, 12, .ro, 0⟩]
  | .pluErr => [⟨0, 1, .w1c, 0⟩, ⟨1, 1, .w1c, 0⟩, ⟨2, 4, .ro, 0⟩, ⟨6, 32, .ro, 0⟩]
  | .pluCnt => [⟨0, 16, .ro, 0⟩, ⟨16, 16, .ro, 0⟩, ⟨32, 16, .ro, 0⟩, ⟨48, 16, .ro, 0⟩]
  | .srcLog => [⟨0, 1, .w1c, 0⟩, ⟨16, 16, .ro, 0⟩, ⟨32, 16, .ro, 0⟩, ⟨48, 8, .ro, 0⟩]
  | .rtCtl => [⟨0, 8, .rw, 0⟩, ⟨8, 8, .rw, 1⟩, ⟨16, 8, .rw, 2⟩, ⟨24, 1, .w1s, 0⟩]
  | .txnCtl => [⟨0, 16, .rw, 1000⟩]
  | .txnStat => [⟨0, 16, .ro, 0⟩, ⟨16, 16, .ro, 0⟩, ⟨32, 16, .ro, 0⟩, ⟨48, 1, .wo, 0⟩]
  | .dpData =>
    match r.j with
    | 0 => [⟨0, 1, .rw, 0⟩, ⟨1, 1, .ro, 0⟩, ⟨2, 12, .rw, 0⟩, ⟨16, 16, .rw, 0⟩, ⟨32, 8, .rw, 0⟩, ⟨40, 1, .rw, 0⟩, ⟨41, 3, .rw, 0⟩, ⟨48, 8, .ro, 0⟩]
    | 1 => [⟨0, 48, .rw, 0⟩, ⟨48, 16, .rw, 0⟩]
    | 2 => [⟨0, 48, .rw, 0⟩]
    | 3 => [⟨0, 48, .rw, 0⟩]
    | _ => []
  | .dpCmd => [⟨0, 12, .rw, 0⟩, ⟨12, 4, .wo, 0⟩, ⟨31, 1, .ro, 0⟩, ⟨32, 4, .ro, 0⟩]
  | .dpStat => [⟨0, 1, .w1c, 0⟩, ⟨16, 16, .ro, 0⟩]
  | .extBind => [⟨0, 1, .rw, 0⟩, ⟨1, 16, .rw, 0⟩, ⟨17, 3, .rw, 0⟩, ⟨20, 1, .rw, 0⟩, ⟨21, 12, .rw, 0⟩, ⟨33, 16, .rw, 0⟩, ⟨49, 7, .rw, 0⟩]
  | .extLog => [⟨0, 1, .w1c, 0⟩, ⟨1, 1, .w1c, 0⟩, ⟨2, 1, .ro, 0⟩, ⟨3, 3, .ro, 0⟩, ⟨6, 10, .ro, 0⟩, ⟨16, 8, .ro, 0⟩, ⟨24, 32, .ro, 0⟩]
  | .extCnt => [⟨0, 16, .ro, 0⟩, ⟨16, 16, .ro, 0⟩, ⟨32, 16, .ro, 0⟩, ⟨48, 1, .wo, 0⟩]
  | .dvsec =>
    match r.j with
    | 1 => [⟨32, 1, .ro, 0⟩, ⟨33, 3, .ro, 0⟩, ⟨36, 3, .ro, 0⟩, ⟨39, 1, .ro, 0⟩, ⟨40, 1, .ro, 0⟩, ⟨48, 8, .ro, 0⟩]
    | 2 => [⟨0, 4, .rw, 4⟩, ⟨32, 8, .ro, 160⟩]
    | _ => []
  | .hpuCtl => [⟨0, 4, .rw, 15⟩, ⟨4, 3, .rw, 5⟩, ⟨7, 1, .w1s, 0⟩]
  | .hpuStat => [⟨0, 1, .ro, 0⟩, ⟨1, 1, .ro, 0⟩, ⟨2, 3, .ro, 0⟩, ⟨5, 3, .ro, 0⟩, ⟨8, 1, .ro, 0⟩, ⟨16, 16, .ro, 0⟩, ⟨32, 16, .ro, 0⟩, ⟨48, 1, .wo, 0⟩]
  | .hpuPeer => [⟨0, 1, .rw, 0⟩, ⟨1, 10, .rw, 0⟩]
  | .spmCtl => [⟨0, 1, .rw, 0⟩, ⟨1, 5, .rw, 12⟩, ⟨16, 8, .rw, 64⟩]
  | .spmAper => [⟨0, 10, .rw, 0⟩]
  | .bankCmd => [⟨0, 10, .rw, 0⟩, ⟨10, 2, .wo, 0⟩, ⟨12, 1, .rw, 0⟩, ⟨13, 1, .rw, 0⟩, ⟨14, 1, .rw, 0⟩, ⟨16, 16, .rw, 0⟩, ⟨32, 1, .ro, 0⟩, ⟨33, 3, .ro, 0⟩]
  | .spmStat => [⟨0, 16, .ro, 0⟩, ⟨16, 16, .ro, 0⟩, ⟨32, 8, .ro, 0⟩, ⟨40, 8, .ro, 0⟩, ⟨48, 1, .wo, 0⟩]
  | .testStat => [⟨0, 1, .ro, 0⟩, ⟨1, 10, .ro, 0⟩, ⟨11, 6, .ro, 0⟩, ⟨32, 32, .ro, 0⟩]
  | .ownLog => [⟨0, 1, .w1c, 0⟩, ⟨1, 1, .w1c, 0⟩, ⟨2, 16, .ro, 0⟩, ⟨18, 10, .ro, 0⟩, ⟨28, 1, .ro, 0⟩]
  | .eccLog => [⟨0, 1, .w1c, 0⟩, ⟨1, 1, .w1c, 0⟩, ⟨2, 10, .ro, 0⟩, ⟨12, 18, .ro, 0⟩, ⟨30, 1, .ro, 0⟩]
  | .bankOwn => [⟨0, 16, .ro, 0⟩, ⟨16, 3, .ro, 0⟩, ⟨19, 1, .ro, 0⟩, ⟨20, 1, .ro, 0⟩]
  | .fifoCfg => [⟨0, 1, .rw, 0⟩, ⟨1, 1, .rw, 0⟩, ⟨2, 2, .rw, 0⟩, ⟨4, 4, .rw, 15⟩, ⟨8, 4, .rw, 15⟩, ⟨12, 1, .rw, 0⟩, ⟨13, 12, .rw, 0⟩, ⟨32, 16, .rw, 0⟩, ⟨48, 16, .rw, 0⟩]
  | .fifoWm => [⟨0, 13, .rw, 4096⟩, ⟨16, 13, .rw, 0⟩]
  | .fifoStat => [⟨0, 13, .ro, 0⟩, ⟨16, 13, .ro, 0⟩, ⟨32, 13, .ro, 0⟩, ⟨48, 1, .ro, 0⟩, ⟨49, 1, .ro, 0⟩, ⟨50, 1, .w1c, 0⟩, ⟨51, 1, .w1c, 0⟩, ⟨52, 1, .ro, 0⟩, ⟨53, 1, .ro, 0⟩, ⟨54, 1, .ro, 0⟩]
  | .fifoCnt => [⟨0, 16, .ro, 0⟩, ⟨16, 16, .ro, 0⟩, ⟨32, 16, .ro, 0⟩, ⟨48, 1, .wo, 0⟩]
  | .eicCtl => [⟨0, 3, .rwi, 0⟩, ⟨4, 4, .rwc, 8⟩, ⟨8, 16, .rwc, 64⟩]
  | .eicStat => [⟨0, 16, .ro, 0⟩, ⟨16, 16, .ro, 0⟩, ⟨32, 1, .wo, 0⟩]
  | .eqData =>
    match r.j with
    | 0 => [⟨0, 1, .rw, 0⟩, ⟨1, 1, .ro, 0⟩, ⟨2, 1, .w1c, 0⟩, ⟨3, 5, .rw, 0⟩, ⟨8, 10, .rw, 0⟩, ⟨18, 11, .rw, 0⟩]
    | 1 => [⟨12, 45, .rw, 0⟩]
    | 2 => [⟨0, 20, .ro, 0⟩, ⟨32, 20, .ro, 0⟩, ⟨63, 1, .ro, 1⟩]
    | 3 => [⟨0, 16, .rwi, 0⟩, ⟨16, 8, .rwi, 0⟩, ⟨32, 16, .rwi, 0⟩, ⟨48, 16, .ro, 0⟩]
    | _ => []
  | .srcCfg => [⟨0, 1, .rwi, 1⟩, ⟨1, 8, .rwi, 255⟩, ⟨9, 1, .rwi, 0⟩, ⟨10, 12, .rwi, 0⟩]
  | .srcStat => [⟨0, 1, .ro, 0⟩, ⟨1, 1, .ro, 0⟩, ⟨2, 1, .ro, 0⟩, ⟨3, 1, .ro, 0⟩, ⟨4, 1, .w1c, 0⟩, ⟨8, 8, .ro, 0⟩, ⟨16, 8, .ro, 0⟩]
  | .srcCmd => [⟨0, 2, .wo, 0⟩]
  | .coreEq =>
    match r.j with
    | 0 => [⟨0, 1, .rw, 0⟩, ⟨1, 4, .rw, 0⟩, ⟨12, 9, .rw, 0⟩]
    | 1 => [⟨0, 20, .ro, 0⟩, ⟨32, 20, .rw, 0⟩, ⟨63, 1, .ro, 1⟩]
    | 2 => [⟨0, 1, .w1c, 0⟩, ⟨1, 1, .w1c, 0⟩, ⟨2, 16, .ro, 0⟩]
    | _ => []
  | .errLog => [⟨0, 1, .w1c, 0⟩, ⟨1, 1, .w1c, 0⟩, ⟨2, 4, .ro, 0⟩, ⟨6, 10, .ro, 0⟩, ⟨16, 32, .ro, 0⟩]
  | .fclFirst => [⟨0, 6, .ro, 0⟩, ⟨6, 1, .ro, 0⟩, ⟨7, 1, .w1c, 0⟩]
  | .fclCtl => [⟨0, 2, .rws, 0⟩, ⟨2, 8, .rws, 8⟩]
  | .fclNmi => [⟨0, 1, .w1c, 0⟩]
  | .fclReact => [⟨0, 1, .rws, (bitsOf (reactReset r.i) 0 1)⟩, ⟨1, 1, .rws, (bitsOf (reactReset r.i) 1 1)⟩, ⟨2, 1, .rws, (bitsOf (reactReset r.i) 2 1)⟩, ⟨3, 1, .rws, (bitsOf (reactReset r.i) 3 1)⟩, ⟨4, 1, .rws, (bitsOf (reactReset r.i) 4 1)⟩, ⟨8, 8, .ro, 0⟩, ⟨16, 1, .ro, 0⟩, ⟨17, 1, .wo, 0⟩, ⟨18, 1, .wo, 0⟩]
  | .lostmap => [⟨0, 64, .w1c, 0⟩]
  | .mbDb => [⟨0, 1, .wo, 0⟩, ⟨1, 1, .wo, 0⟩]
  | .mbStat => [⟨0, 1, .ro, 0⟩, ⟨1, 1, .w1c, 0⟩, ⟨2, 1, .ro, 0⟩, ⟨3, 1, .w1c, 0⟩, ⟨8, 8, .ro, 0⟩, ⟨16, 1, .w1c, 0⟩, ⟨17, 1, .w1c, 0⟩, ⟨18, 1, .w1c, 0⟩, ⟨19, 1, .w1c, 0⟩]
  | .mbCfg => [⟨0, 1, .rw, 0⟩, ⟨1, 1, .rw, 0⟩]
  | .mbArb => [⟨0, 8, .rwi, 16⟩, ⟨8, 8, .rwi, 1⟩]
  | .glbExpert => [⟨0, 1, .ro, 0⟩, ⟨1, 1, .ro, 0⟩, ⟨16, 16, .ro, 0⟩, ⟨32, 1, .wo, 0⟩]
  | .cfsStat => [⟨0, 3, .ro, 0⟩, ⟨3, 1, .w1c, 0⟩, ⟨8, 8, .ro, 0⟩, ⟨32, 32, .ro, 0⟩]
  | .cfsVer => [⟨0, 32, .ro, 0⟩, ⟨32, 32, .ro, 0⟩]
  | .cfsSwmap => [⟨0, 64, .ro, 0⟩]
  | .cfsCtl => [⟨0, 16, .rw, 10⟩]
  | .failLog => [⟨0, 1, .w1c, 0⟩, ⟨1, 6, .ro, 0⟩, ⟨32, 32, .ro, 0⟩]
  | .epochLog =>
    match r.j with
    | 0 => [⟨0, 8, .ro, 0⟩, ⟨8, 1, .ro, 0⟩, ⟨9, 1, .ro, 0⟩, ⟨32, 32, .ro, 0⟩]
    | 1 => [⟨0, 32, .ro, 0⟩, ⟨32, 32, .ro, 0⟩]
    | _ => []
  | .secStat => [⟨0, 2, .ro, 3⟩, ⟨2, 1, .ro, 0⟩, ⟨3, 1, .ro, 0⟩, ⟨4, 2, .ro, 0⟩, ⟨6, 1, .ro, 0⟩, ⟨7, 1, .ro, 0⟩, ⟨8, 8, .ro, 0⟩, ⟨16, 7, .ro, 0⟩, ⟨24, 7, .ro, 0⟩, ⟨32, 4, .ro, 0⟩, ⟨36, 4, .ro, 0⟩, ⟨40, 4, .ro, 0⟩, ⟨44, 1, .ro, 0⟩, ⟨45, 1, .ro, 0⟩]
  | .glbBoot => [⟨0, 1, .rws, 0⟩]
  | .pcmCtl => [⟨0, 1, .rw, 1⟩, ⟨1, 1, .w1s, 0⟩, ⟨2, 4, .rw, 2⟩, ⟨8, 8, .rw, 20⟩, ⟨16, 8, .rw, 10⟩, ⟨24, 16, .rw, 1000⟩, ⟨40, 6, .rw, 63⟩, ⟨46, 8, .rw, 100⟩]
  | .pcmStat => [⟨0, 2, .ro, 0⟩, ⟨2, 1, .ro, 0⟩, ⟨3, 3, .ro, 0⟩, ⟨6, 8, .ro, 0⟩, ⟨14, 1, .ro, 0⟩, ⟨16, 10, .ro, 0⟩, ⟨26, 8, .ro, 0⟩]
  | .agmCtl => [⟨0, 1, .rw, 1⟩, ⟨1, 7, .rw, 3⟩, ⟨8, 8, .rw, 10⟩, ⟨16, 8, .rw, 5⟩, ⟨24, 16, .rw, 168⟩, ⟨40, 8, .rw, 16⟩, ⟨48, 16, .rw, 60⟩]
  | .agmPlan => [⟨0, 3, .ro, 0⟩, ⟨3, 1, .ro, 0⟩, ⟨8, 8, .ro, 0⟩, ⟨32, 32, .ro, 0⟩]
  | .hpcCtl => [⟨0, 1, .rw, 0⟩, ⟨1, 1, .rw, 0⟩, ⟨2, 16, .rw, 3999⟩, ⟨18, 7, .rw, 127⟩, ⟨25, 7, .rw, 127⟩, ⟨32, 8, .rw, 20⟩, ⟨40, 4, .rw, 5⟩, ⟨44, 8, .rw, 10⟩, ⟨52, 8, .rw, 10⟩]
  | .hpcErr => [⟨0, 1, .w1c, 0⟩, ⟨1, 1, .w1c, 0⟩, ⟨2, 2, .ro, 0⟩, ⟨4, 7, .ro, 0⟩, ⟨11, 2, .ro, 0⟩]
  | .slotCfg => [⟨0, 1, .rw, 0⟩, ⟨1, 2, .rw, 0⟩, ⟨3, 7, .rw, 0⟩, ⟨10, 7, .rw, 0⟩, ⟨17, 1, .rw, 0⟩, ⟨18, 1, .rw, 0⟩, ⟨19, 1, .rw, 1⟩, ⟨24, 8, .rw, 50⟩]
  | .slotStat => [⟨0, 3, .ro, 0⟩, ⟨3, 1, .ro, 0⟩, ⟨4, 1, .ro, 0⟩, ⟨5, 1, .ro, 0⟩, ⟨6, 1, .ro, 0⟩, ⟨7, 1, .ro, 0⟩, ⟨8, 1, .w1c, 0⟩, ⟨9, 1, .w1c, 0⟩, ⟨10, 1, .w1c, 0⟩, ⟨16, 8, .ro, 0⟩, ⟨24, 8, .ro, 0⟩]
  | .slotLed => [⟨0, 2, .rw, 0⟩, ⟨2, 1, .rw, 0⟩, ⟨3, 2, .rw, 0⟩, ⟨5, 2, .rw, 0⟩, ⟨7, 1, .rw, 0⟩, ⟨8, 2, .rw, 0⟩, ⟨10, 1, .rw, 0⟩]
  | .glbReset => [⟨0, 1, .w1s, 0⟩, ⟨8, 8, .wo, 0⟩, ⟨16, 4, .ro, 0⟩, ⟨20, 8, .ro, 0⟩]
  | .cfsPart => [⟨0, 64, .ro, 0⟩]
  | .kstActive => [⟨0, 1, .ro, 0⟩, ⟨1, 1, .ro, 0⟩, ⟨2, 10, .ro, 0⟩, ⟨12, 1, .ro, 0⟩]
  | .gebOwn => [⟨0, 1, .rwi, 0⟩, ⟨1, 12, .rwi, 0⟩, ⟨13, 1, .rwi, 0⟩]
  | .qctxSel => [⟨0, 16, .rw, 0⟩]
  | .cluW => [⟨0, 8, .rwc, 1⟩, ⟨8, 8, .rwc, 1⟩, ⟨16, 8, .rwc, 1⟩, ⟨24, 8, .rwc, 1⟩, ⟨32, 8, .rwc, 1⟩, ⟨40, 8, .rwc, 1⟩, ⟨48, 8, .rwc, 1⟩, ⟨56, 8, .rwc, 1⟩]
  | .kstCtl => [⟨0, 1, .w1s, 0⟩]
  | .qwSel => [⟨0, 12, .rw, 0⟩]
  | .qwData => [⟨0, 8, .rwc, 1⟩, ⟨8, 8, .rwc, 1⟩, ⟨16, 8, .rwc, 1⟩, ⟨24, 8, .rwc, 1⟩, ⟨32, 8, .rwc, 1⟩, ⟨40, 8, .rwc, 1⟩, ⟨48, 8, .rwc, 1⟩, ⟨56, 8, .rwc, 1⟩]
  | .grpW => [⟨0, 8, .rwi, 1⟩, ⟨8, 8, .rwi, 1⟩, ⟨16, 8, .rwi, 1⟩, ⟨24, 8, .rwi, 1⟩, ⟨32, 8, .rwi, 1⟩, ⟨40, 8, .rwi, 1⟩, ⟨48, 8, .rwi, 1⟩, ⟨56, 8, .rwi, 1⟩]
  | .pdSel => [⟨0, 12, .rw, 0⟩]
  | .poolSel => [⟨0, 12, .rw, 0⟩]
  | .bpmHfree => [⟨0, 64, .wo, 0⟩]
  | .nodeRt => [⟨0, 8, .rw, 15⟩, ⟨8, 8, .rw, 15⟩, ⟨16, 8, .rw, 15⟩, ⟨24, 8, .rw, 15⟩, ⟨32, 8, .rw, 15⟩, ⟨40, 8, .rw, 15⟩, ⟨48, 8, .rw, 15⟩, ⟨56, 8, .rw, 15⟩]
  | .domRt => [⟨0, 8, .rw, 15⟩, ⟨8, 8, .rw, 15⟩, ⟨16, 8, .rw, 15⟩, ⟨24, 8, .rw, 15⟩, ⟨32, 8, .rw, 15⟩, ⟨40, 8, .rw, 15⟩, ⟨48, 8, .rw, 15⟩, ⟨56, 8, .rw, 15⟩]
  | .nodeRtA => [⟨0, 8, .ro, 15⟩, ⟨8, 8, .ro, 15⟩, ⟨16, 8, .ro, 15⟩, ⟨24, 8, .ro, 15⟩, ⟨32, 8, .ro, 15⟩, ⟨40, 8, .ro, 15⟩, ⟨48, 8, .ro, 15⟩, ⟨56, 8, .ro, 15⟩]
  | .domRtA => [⟨0, 8, .ro, 15⟩, ⟨8, 8, .ro, 15⟩, ⟨16, 8, .ro, 15⟩, ⟨24, 8, .ro, 15⟩, ⟨32, 8, .ro, 15⟩, ⟨40, 8, .ro, 15⟩, ⟨48, 8, .ro, 15⟩, ⟨56, 8, .ro, 15⟩]
  | .dpSel => [⟨0, 12, .rw, 0⟩]
  | .dpImage => [⟨0, 64, .ro, 0⟩]
  | .fifoSel => [⟨0, 6, .rw, 0⟩]
  | .fifoPtr => [⟨0, 13, .ro, 0⟩, ⟨16, 13, .ro, 0⟩, ⟨32, 13, .ro, 0⟩, ⟨48, 13, .ro, 0⟩]
  | .fifoPtrB => [⟨0, 13, .ro, 0⟩, ⟨16, 13, .ro, 0⟩, ⟨32, 13, .ro, 0⟩, ⟨48, 13, .ro, 0⟩]
  | .fifoCmd => [⟨0, 3, .wo, 0⟩]
  | .ptrLog => [⟨0, 1, .w1c, 0⟩, ⟨1, 1, .w1c, 0⟩, ⟨2, 6, .ro, 0⟩]
  | .eicCommit => [⟨0, 1, .wo, 0⟩]
  | .eqSel => [⟨0, 12, .rw, 0⟩]
  | .srcSel => [⟨0, 17, .rw, 0⟩]
  | .fclFsw => [⟨0, 64, .w1c, 0⟩]
  | .mbReq => [⟨0, 64, .rw, 0⟩]
  | .mbRsp => [⟨0, 64, .ro, 0⟩]
  | .eqDb => [⟨0, 12, .wo, 0⟩, ⟨32, 20, .wo, 0⟩]
  | .pcmPlan => [⟨0, 8, .rw, 30⟩]
  | .eclkCeil => [⟨0, 8, .rw, 16⟩, ⟨8, 8, .rw, 16⟩, ⟨16, 8, .rw, 16⟩, ⟨24, 8, .rw, 16⟩, ⟨32, 8, .rw, 16⟩, ⟨40, 8, .rw, 16⟩, ⟨48, 8, .rw, 16⟩, ⟨56, 8, .rw, 16⟩]
  | .pcmEff => [⟨0, 8, .ro, 16⟩, ⟨8, 8, .ro, 16⟩, ⟨16, 8, .ro, 16⟩, ⟨24, 8, .ro, 16⟩, ⟨32, 8, .ro, 16⟩, ⟨40, 8, .ro, 16⟩, ⟨48, 8, .ro, 16⟩, ⟨56, 8, .ro, 16⟩]
  | .pcmRet => [⟨0, 64, .rw, 0⟩]
  | .wakeLog => [⟨0, 1, .w1c, 0⟩, ⟨1, 3, .ro, 0⟩, ⟨32, 32, .ro, 0⟩]
  | .engState => [⟨0, 2, .ro, 0⟩, ⟨2, 2, .ro, 0⟩, ⟨4, 2, .ro, 0⟩, ⟨6, 2, .ro, 0⟩, ⟨8, 2, .ro, 0⟩, ⟨10, 2, .ro, 0⟩, ⟨12, 2, .ro, 0⟩, ⟨14, 2, .ro, 0⟩, ⟨16, 2, .ro, 0⟩, ⟨18, 2, .ro, 0⟩, ⟨20, 2, .ro, 0⟩, ⟨22, 2, .ro, 0⟩, ⟨24, 2, .ro, 0⟩, ⟨26, 2, .ro, 0⟩, ⟨28, 2, .ro, 0⟩, ⟨30, 2, .ro, 0⟩]
  | .pcmVtab => [⟨0, 10, .ro, (700 + 4 * r.i)⟩]
  | .agmTgt => [⟨0, 8, .rw, 16⟩, ⟨8, 8, .rw, 16⟩, ⟨16, 8, .rw, 16⟩, ⟨24, 8, .rw, 16⟩, ⟨32, 8, .rw, 16⟩, ⟨40, 8, .rw, 16⟩, ⟨48, 8, .rw, 16⟩, ⟨56, 8, .rw, 16⟩]
  | .agmLife => [⟨0, 32, .rws, 0⟩, ⟨32, 32, .ro, 0⟩]
  | .agmDeg => [⟨0, 12, .ro, 0⟩, ⟨12, 12, .ro, 0⟩, ⟨24, 1, .ro, 0⟩, ⟨32, 32, .ro, 0⟩]
  | .agmSram => [⟨0, 12, .ro, 0⟩, ⟨12, 12, .ro, 0⟩]
  | .agmLrep => [⟨0, 64, .rw, 0⟩]
  | .agmLeye => [⟨0, 8, .ro, 0⟩, ⟨8, 6, .ro, 0⟩, ⟨14, 1, .ro, 0⟩, ⟨15, 5, .ro, 0⟩]

/-- The value of a register word after a cold reset: its fields at their table's reset values. -/
def Reg.reset (r : Reg) : Word :=
  BitVec.ofNat 64 ((rowsOf r).foldl (fun a f => a + f.rst * 2 ^ f.lo) 0)

end Sys2Proof.Machine

namespace Sys2Proof.Machine.Fld

def grp.ASSIGNED (n : Nat) : Field := ⟨⟨.grp, n, 0⟩, 0, 1⟩
def grp.FUNC (n : Nat) : Field := ⟨⟨.grp, n, 0⟩, 1, 10⟩
def grp.VF_PAGE (n : Nat) : Field := ⟨⟨.grp, n, 0⟩, 12, 12⟩
def grp.ENABLED (n : Nat) : Field := ⟨⟨.grp, n, 0⟩, 32, 16⟩
def qmuStat.DB_FOREIGN : Field := ⟨⟨.qmuStat, 0, 0⟩, 0, 16⟩
def qmuStat.GRP_BUSY : Field := ⟨⟨.qmuStat, 0, 0⟩, 16, 1⟩
def qmuStat.REJECTED : Field := ⟨⟨.qmuStat, 0, 0⟩, 17, 1⟩
def qmuStat.CLR_FOREIGN : Field := ⟨⟨.qmuStat, 0, 0⟩, 18, 1⟩
def qctx.SQ_LOG2 (n : Nat) : Field := ⟨⟨.qctx, n, 0⟩, 0, 5⟩
def qctx.SQ_BASE (n : Nat) : Field := ⟨⟨.qctx, n, 0⟩, 12, 45⟩
def qctx.CQ_LOG2 (n : Nat) : Field := ⟨⟨.qctx, n, 1⟩, 0, 5⟩
def qctx.CQ_BASE (n : Nat) : Field := ⟨⟨.qctx, n, 1⟩, 12, 45⟩
def qctx.SQ_TAIL (n : Nat) : Field := ⟨⟨.qctx, n, 2⟩, 0, 20⟩
def qctx.SQ_HEAD (n : Nat) : Field := ⟨⟨.qctx, n, 2⟩, 32, 20⟩
def qctx.CQ_TAIL (n : Nat) : Field := ⟨⟨.qctx, n, 3⟩, 0, 20⟩
def qctx.CQ_HEAD (n : Nat) : Field := ⟨⟨.qctx, n, 3⟩, 32, 20⟩
def qctx.CQ_PHASE (n : Nat) : Field := ⟨⟨.qctx, n, 3⟩, 63, 1⟩
def qctx.GAMBIT_EN (n : Nat) : Field := ⟨⟨.qctx, n, 4⟩, 0, 1⟩
def qctx.CLASS (n : Nat) : Field := ⟨⟨.qctx, n, 4⟩, 1, 2⟩
def qctx.INFLIGHT_MAX (n : Nat) : Field := ⟨⟨.qctx, n, 4⟩, 8, 4⟩
def qctx.PDOM (n : Nat) : Field := ⟨⟨.qctx, n, 4⟩, 16, 12⟩
def qctx.CLOCK_LIMIT (n : Nat) : Field := ⟨⟨.qctx, n, 4⟩, 32, 24⟩
def qctx.STATE (n : Nat) : Field := ⟨⟨.qctx, n, 5⟩, 0, 3⟩
def qctx.SUSP_REQ (n : Nat) : Field := ⟨⟨.qctx, n, 5⟩, 3, 1⟩
def qctx.IN_FLIGHT (n : Nat) : Field := ⟨⟨.qctx, n, 5⟩, 4, 5⟩
def qctx.ERR_CAUSE (n : Nat) : Field := ⟨⟨.qctx, n, 5⟩, 12, 4⟩
def qctx.LAST_EPOCH (n : Nat) : Field := ⟨⟨.qctx, n, 5⟩, 16, 8⟩
def qctx.COMPLETIONS (n : Nat) : Field := ⟨⟨.qctx, n, 6⟩, 0, 32⟩
def qctx.DB_DROPPED (n : Nat) : Field := ⟨⟨.qctx, n, 6⟩, 32, 16⟩
def qctx.ERR_ADDR (n : Nat) : Field := ⟨⟨.qctx, n, 7⟩, 0, 57⟩
def qctl.QID : Field := ⟨⟨.qctl, 0, 0⟩, 0, 16⟩
def qctl.CMD : Field := ⟨⟨.qctl, 0, 0⟩, 16, 4⟩
def qctl.NOTIFY : Field := ⟨⟨.qctl, 0, 0⟩, 20, 1⟩
def qctl.BUSY : Field := ⟨⟨.qctl, 0, 0⟩, 31, 1⟩
def qctl.RESULT : Field := ⟨⟨.qctl, 0, 0⟩, 32, 4⟩
def qscCtl.KING_EN : Field := ⟨⟨.qscCtl, 0, 0⟩, 0, 1⟩
def qscCtl.WIN_LOG2 : Field := ⟨⟨.qscCtl, 0, 0⟩, 1, 5⟩
def qscCommit.COMMIT : Field := ⟨⟨.qscCommit, 0, 0⟩, 0, 1⟩
def clsW.W_KNIGHT : Field := ⟨⟨.clsW, 0, 0⟩, 0, 8⟩
def clsW.W_BISHOP : Field := ⟨⟨.clsW, 0, 0⟩, 8, 8⟩
def clsW.W_PAWN : Field := ⟨⟨.clsW, 0, 0⟩, 16, 8⟩
def clsW.W_KING : Field := ⟨⟨.clsW, 0, 0⟩, 24, 8⟩
def kingQuota.QUOTA : Field := ⟨⟨.kingQuota, 0, 0⟩, 0, 11⟩
def kingStat.BOUND_VALID : Field := ⟨⟨.kingStat, 0, 0⟩, 0, 1⟩
def kingStat.FLOOR_LOW : Field := ⟨⟨.kingStat, 0, 0⟩, 1, 1⟩
def kingStat.BOUND_PS : Field := ⟨⟨.kingStat, 0, 0⟩, 16, 16⟩
def kingStat.OVERQ : Field := ⟨⟨.kingStat, 0, 0⟩, 32, 16⟩
def kingStat.SLOTS_FREE : Field := ⟨⟨.kingStat, 0, 0⟩, 48, 8⟩
def kingStat.CLR_OVERQ : Field := ⟨⟨.kingStat, 0, 0⟩, 56, 1⟩
def kstShadow.VALID (n : Nat) : Field := ⟨⟨.kstShadow, n, 0⟩, 0, 1⟩
def kstShadow.FUNC_EN (n : Nat) : Field := ⟨⟨.kstShadow, n, 0⟩, 1, 1⟩
def kstShadow.FUNC (n : Nat) : Field := ⟨⟨.kstShadow, n, 0⟩, 2, 10⟩
def kstShadow.IN_USE (n : Nat) : Field := ⟨⟨.kstShadow, n, 0⟩, 12, 1⟩
def fxbCtl.WIN_LOG2 : Field := ⟨⟨.fxbCtl, 0, 0⟩, 0, 4⟩
def fxbCommit.COMMIT : Field := ⟨⟨.fxbCommit, 0, 0⟩, 0, 1⟩
def fxbVc.VC0_QUOTA : Field := ⟨⟨.fxbVc, 0, 0⟩, 0, 16⟩
def fxbVc.W_VC1 : Field := ⟨⟨.fxbVc, 0, 0⟩, 16, 8⟩
def fxbVc.W_VC2 : Field := ⟨⟨.fxbVc, 0, 0⟩, 24, 8⟩
def fxbVc.W_VC3 : Field := ⟨⟨.fxbVc, 0, 0⟩, 32, 8⟩
def fxbIw.W_IN0 (n k : Nat) : Field := ⟨⟨.fxbIw, n, k⟩, 0, 8⟩
def fxbIw.W_IN1 (n k : Nat) : Field := ⟨⟨.fxbIw, n, k⟩, 8, 8⟩
def fxbIw.W_IN2 (n k : Nat) : Field := ⟨⟨.fxbIw, n, k⟩, 16, 8⟩
def fxbIw.W_IN3 (n k : Nat) : Field := ⟨⟨.fxbIw, n, k⟩, 24, 8⟩
def fxbIw.W_IN4 (n k : Nat) : Field := ⟨⟨.fxbIw, n, k⟩, 32, 8⟩
def fxbIw.W_IN5 (n k : Nat) : Field := ⟨⟨.fxbIw, n, k⟩, 40, 8⟩
def fxbIw.W_IN6 (n k : Nat) : Field := ⟨⟨.fxbIw, n, k⟩, 48, 8⟩
def fxbIw.W_IN7 (n k : Nat) : Field := ⟨⟨.fxbIw, n, k⟩, 56, 8⟩
def lockbrk.VALID (n : Nat) : Field := ⟨⟨.lockbrk, n, 0⟩, 0, 1⟩
def lockbrk.OVF (n : Nat) : Field := ⟨⟨.lockbrk, n, 0⟩, 1, 1⟩
def lockbrk.OWNER (n : Nat) : Field := ⟨⟨.lockbrk, n, 0⟩, 2, 10⟩
def lockbrk.KIND (n : Nat) : Field := ⟨⟨.lockbrk, n, 0⟩, 12, 4⟩
def lockbrk.RESOURCE (n : Nat) : Field := ⟨⟨.lockbrk, n, 0⟩, 16, 16⟩
def lockbrk.CAUSE (n : Nat) : Field := ⟨⟨.lockbrk, n, 0⟩, 32, 4⟩
def pgmCtl.STALE_EN (n : Nat) : Field := ⟨⟨.pgmCtl, n, 0⟩, 0, 1⟩
def pgmCtl.STALE_LOG2 (n : Nat) : Field := ⟨⟨.pgmCtl, n, 0⟩, 1, 5⟩
def pgmStat.FLAG_FALLS (n : Nat) : Field := ⟨⟨.pgmStat, n, 0⟩, 0, 8⟩
def pgmStat.STALE_VICTIMS (n : Nat) : Field := ⟨⟨.pgmStat, n, 0⟩, 8, 8⟩
def pgmStat.POST_AGAIN (n : Nat) : Field := ⟨⟨.pgmStat, n, 0⟩, 16, 8⟩
def pgmStat.SILENT_FALLS (n : Nat) : Field := ⟨⟨.pgmStat, n, 0⟩, 24, 8⟩
def pgmStat.CLR (n : Nat) : Field := ⟨⟨.pgmStat, n, 0⟩, 32, 1⟩
def staleLog.VALID (n : Nat) : Field := ⟨⟨.staleLog, n, 0⟩, 0, 1⟩
def staleLog.OVF (n : Nat) : Field := ⟨⟨.staleLog, n, 0⟩, 1, 1⟩
def staleLog.VICTIM (n : Nat) : Field := ⟨⟨.staleLog, n, 0⟩, 2, 10⟩
def staleLog.BIT (n : Nat) : Field := ⟨⟨.staleLog, n, 0⟩, 12, 12⟩
def staleLog.LENGTH (n : Nat) : Field := ⟨⟨.staleLog, n, 0⟩, 24, 8⟩
def semOwn.RESTRICT (n k : Nat) : Field := ⟨⟨.semOwn, n, k⟩, 0, 1⟩
def semOwn.PDOM (n k : Nat) : Field := ⟨⟨.semOwn, n, k⟩, 1, 12⟩
def semOwn.RO_OTHERS (n k : Nat) : Field := ⟨⟨.semOwn, n, k⟩, 13, 1⟩
def pdData.VALID (n : Nat) : Field := ⟨⟨.pdData, n, 0⟩, 0, 1⟩
def pdData.FUNC (n : Nat) : Field := ⟨⟨.pdData, n, 0⟩, 1, 10⟩
def pdData.ST_LOG2 (n : Nat) : Field := ⟨⟨.pdData, n, 0⟩, 11, 5⟩
def pdData.ST_BASE (n : Nat) : Field := ⟨⟨.pdData, n, 1⟩, 12, 45⟩
def invCmd.SCOPE : Field := ⟨⟨.invCmd, 0, 0⟩, 0, 2⟩
def invCmd.STOP : Field := ⟨⟨.invCmd, 0, 0⟩, 2, 1⟩
def invCmd.NOTIFY : Field := ⟨⟨.invCmd, 0, 0⟩, 3, 1⟩
def invCmd.PDOM : Field := ⟨⟨.invCmd, 0, 0⟩, 4, 12⟩
def invCmd.SEL : Field := ⟨⟨.invCmd, 0, 0⟩, 16, 16⟩
def invCmd.GO : Field := ⟨⟨.invCmd, 0, 0⟩, 32, 1⟩
def invStat.BUSY : Field := ⟨⟨.invStat, 0, 0⟩, 0, 1⟩
def invStat.DONE : Field := ⟨⟨.invStat, 0, 0⟩, 1, 1⟩
def invStat.REJECTED : Field := ⟨⟨.invStat, 0, 0⟩, 2, 1⟩
def invStat.STOPPED : Field := ⟨⟨.invStat, 0, 0⟩, 8, 8⟩
def segvLog.VALID : Field := ⟨⟨.segvLog, 0, 0⟩, 0, 1⟩
def segvLog.OVF : Field := ⟨⟨.segvLog, 0, 0⟩, 1, 1⟩
def segvLog.CTX : Field := ⟨⟨.segvLog, 0, 0⟩, 2, 10⟩
def segvLog.STATUS : Field := ⟨⟨.segvLog, 0, 0⟩, 12, 8⟩
def segvLog.SEL : Field := ⟨⟨.segvLog, 0, 0⟩, 20, 16⟩
def segvLog.PDOM : Field := ⟨⟨.segvLog, 0, 0⟩, 36, 12⟩
def segvLog.PORT : Field := ⟨⟨.segvLog, 0, 0⟩, 48, 1⟩
def gbtCtl.EN (n : Nat) : Field := ⟨⟨.gbtCtl, n, 0⟩, 0, 1⟩
def gbtCtl.MAX_CKPT (n : Nat) : Field := ⟨⟨.gbtCtl, n, 0⟩, 1, 2⟩
def gbtCtl.HORIZON (n : Nat) : Field := ⟨⟨.gbtCtl, n, 0⟩, 16, 16⟩
def gbtCtl.CB_QUOTA (n : Nat) : Field := ⟨⟨.gbtCtl, n, 0⟩, 32, 8⟩
def gbtCtl.ALLOC_MARGIN (n : Nat) : Field := ⟨⟨.gbtCtl, n, 0⟩, 40, 8⟩
def gbtCnt0.OPENED (n : Nat) : Field := ⟨⟨.gbtCnt0, n, 0⟩, 0, 32⟩
def gbtCnt0.RETIRED (n : Nat) : Field := ⟨⟨.gbtCnt0, n, 0⟩, 32, 32⟩
def gbtCnt1.SQ_MISS (n : Nat) : Field := ⟨⟨.gbtCnt1, n, 0⟩, 0, 32⟩
def gbtCnt1.SQ_HORIZON (n : Nat) : Field := ⟨⟨.gbtCnt1, n, 0⟩, 32, 32⟩
def gbtCnt2.SQ_CONFLICT (n : Nat) : Field := ⟨⟨.gbtCnt2, n, 0⟩, 0, 32⟩
def gbtCnt2.SQ_OTHER (n : Nat) : Field := ⟨⟨.gbtCnt2, n, 0⟩, 32, 32⟩
def gbtCnt3.PAUSES (n : Nat) : Field := ⟨⟨.gbtCnt3, n, 0⟩, 0, 32⟩
def gbtCnt3.DRAINED (n : Nat) : Field := ⟨⟨.gbtCnt3, n, 0⟩, 32, 32⟩
def gbtClr.CLR (n : Nat) : Field := ⟨⟨.gbtClr, n, 0⟩, 0, 1⟩
def gbtStat.CB_USED (n : Nat) : Field := ⟨⟨.gbtStat, n, 0⟩, 0, 11⟩
def gbtStat.SPEC_CTX (n : Nat) : Field := ⟨⟨.gbtStat, n, 0⟩, 16, 8⟩
def gbtStat.WATCH_USED (n : Nat) : Field := ⟨⟨.gbtStat, n, 0⟩, 32, 10⟩
def gbtHsel.QID (n : Nat) : Field := ⟨⟨.gbtHsel, n, 0⟩, 0, 16⟩
def gbtHist.HIST (n k : Nat) : Field := ⟨⟨.gbtHist, n, k⟩, 0, 16⟩
def dmgCtl.WIN_LOG2 (n : Nat) : Field := ⟨⟨.dmgCtl, n, 0⟩, 0, 4⟩
def dmgCtl.SPILL (n : Nat) : Field := ⟨⟨.dmgCtl, n, 0⟩, 4, 8⟩
def dmgCommit.COMMIT (n : Nat) : Field := ⟨⟨.dmgCommit, n, 0⟩, 0, 1⟩
def dmgCw.W0 (n : Nat) : Field := ⟨⟨.dmgCw, n, 0⟩, 0, 8⟩
def dmgCw.W1 (n : Nat) : Field := ⟨⟨.dmgCw, n, 0⟩, 8, 8⟩
def dmgCw.W2 (n : Nat) : Field := ⟨⟨.dmgCw, n, 0⟩, 16, 8⟩
def dmgCw.W3 (n : Nat) : Field := ⟨⟨.dmgCw, n, 0⟩, 24, 8⟩
def dmgCw.W4 (n : Nat) : Field := ⟨⟨.dmgCw, n, 0⟩, 32, 8⟩
def dmgCw.W5 (n : Nat) : Field := ⟨⟨.dmgCw, n, 0⟩, 40, 8⟩
def dmgCw.W6 (n : Nat) : Field := ⟨⟨.dmgCw, n, 0⟩, 48, 8⟩
def dmgCw.W7 (n : Nat) : Field := ⟨⟨.dmgCw, n, 0⟩, 56, 8⟩
def xferLog.VALID (n : Nat) : Field := ⟨⟨.xferLog, n, 0⟩, 0, 1⟩
def xferLog.OVF (n : Nat) : Field := ⟨⟨.xferLog, n, 0⟩, 1, 1⟩
def xferLog.CTX (n : Nat) : Field := ⟨⟨.xferLog, n, 0⟩, 2, 10⟩
def xferLog.MOVER (n : Nat) : Field := ⟨⟨.xferLog, n, 0⟩, 12, 2⟩
def xferLog.CAUSE (n : Nat) : Field := ⟨⟨.xferLog, n, 0⟩, 14, 4⟩
def xferLog.OFFSET (n : Nat) : Field := ⟨⟨.xferLog, n, 0⟩, 18, 40⟩
def xferLog.QUEUED (n : Nat) : Field := ⟨⟨.xferLog, n, 0⟩, 58, 1⟩
def xferLog.MERR (n : Nat) : Field := ⟨⟨.xferLog, n, 0⟩, 59, 1⟩
def txlStat.BUSY0 (n : Nat) : Field := ⟨⟨.txlStat, n, 0⟩, 0, 1⟩
def txlStat.MOVER0 (n : Nat) : Field := ⟨⟨.txlStat, n, 0⟩, 1, 4⟩
def txlStat.BUSY1 (n : Nat) : Field := ⟨⟨.txlStat, n, 0⟩, 8, 1⟩
def txlStat.MOVER1 (n : Nat) : Field := ⟨⟨.txlStat, n, 0⟩, 9, 4⟩
def bpmStat.REJECT : Field := ⟨⟨.bpmStat, 0, 0⟩, 0, 1⟩
def bpmStat.REJ_CAUSE : Field := ⟨⟨.bpmStat, 0, 0⟩, 1, 3⟩
def bpmStat.TOTAL_BUF : Field := ⟨⟨.bpmStat, 0, 0⟩, 4, 31⟩
def bpmStat.POOLS_EN : Field := ⟨⟨.bpmStat, 0, 0⟩, 35, 13⟩
def bpmStat.HFREE_REJ : Field := ⟨⟨.bpmStat, 0, 0⟩, 48, 16⟩
def poolData.EN (n : Nat) : Field := ⟨⟨.poolData, n, 0⟩, 0, 1⟩
def poolData.BACKING (n : Nat) : Field := ⟨⟨.poolData, n, 0⟩, 1, 2⟩
def poolData.BUF_LOG2 (n : Nat) : Field := ⟨⟨.poolData, n, 0⟩, 3, 4⟩
def poolData.PDOM (n : Nat) : Field := ⟨⟨.poolData, n, 0⟩, 7, 12⟩
def poolData.SHARE (n : Nat) : Field := ⟨⟨.poolData, n, 0⟩, 19, 1⟩
def poolData.BACK_BASE (n : Nat) : Field := ⟨⟨.poolData, n, 1⟩, 12, 45⟩
def poolData.NBUF (n : Nat) : Field := ⟨⟨.poolData, n, 2⟩, 0, 31⟩
def poolData.NODE (n : Nat) : Field := ⟨⟨.poolData, n, 2⟩, 32, 16⟩
def poolData.FREE_BASE (n : Nat) : Field := ⟨⟨.poolData, n, 3⟩, 12, 45⟩
def poolData.WAIT_LIMIT (n : Nat) : Field := ⟨⟨.poolData, n, 4⟩, 0, 16⟩
def poolData.LOW_WM (n : Nat) : Field := ⟨⟨.poolData, n, 4⟩, 16, 30⟩
def poolData.FREE (n : Nat) : Field := ⟨⟨.poolData, n, 5⟩, 0, 31⟩
def poolData.LOW (n : Nat) : Field := ⟨⟨.poolData, n, 5⟩, 31, 1⟩
def poolData.LO_SEEN (n : Nat) : Field := ⟨⟨.poolData, n, 5⟩, 32, 1⟩
def poolData.EXHAUST (n : Nat) : Field := ⟨⟨.poolData, n, 5⟩, 33, 8⟩
def poolData.FRESH (n : Nat) : Field := ⟨⟨.poolData, n, 6⟩, 0, 31⟩
def poolData.CACHED (n : Nat) : Field := ⟨⟨.poolData, n, 6⟩, 32, 5⟩
def pluCtl.EN (n : Nat) : Field := ⟨⟨.pluCtl, n, 0⟩, 0, 1⟩
def pluCtl.HOLD (n : Nat) : Field := ⟨⟨.pluCtl, n, 0⟩, 1, 1⟩
def pluCtl.AUTO_RETRAIN (n : Nat) : Field := ⟨⟨.pluCtl, n, 0⟩, 2, 1⟩
def pluCtl.RETRAIN (n : Nat) : Field := ⟨⟨.pluCtl, n, 0⟩, 3, 1⟩
def pluCtl.MAX_RATE (n : Nat) : Field := ⟨⟨.pluCtl, n, 0⟩, 4, 3⟩
def pluCtl.NODE_LOG2 (n : Nat) : Field := ⟨⟨.pluCtl, n, 0⟩, 7, 3⟩
def pluCtl.CLR_CNT (n : Nat) : Field := ⟨⟨.pluCtl, n, 0⟩, 10, 1⟩
def pluCtl.NODE_BASE (n : Nat) : Field := ⟨⟨.pluCtl, n, 0⟩, 16, 8⟩
def pluStat.STATE (n : Nat) : Field := ⟨⟨.pluStat, n, 0⟩, 0, 3⟩
def pluStat.RATE (n : Nat) : Field := ⟨⟨.pluStat, n, 0⟩, 3, 3⟩
def pluStat.PEER_SW (n : Nat) : Field := ⟨⟨.pluStat, n, 0⟩, 6, 1⟩
def pluStat.PEER_MPS (n : Nat) : Field := ⟨⟨.pluStat, n, 0⟩, 7, 3⟩
def pluStat.GRANTED (n : Nat) : Field := ⟨⟨.pluStat, n, 0⟩, 10, 3⟩
def pluStat.RELEASED (n : Nat) : Field := ⟨⟨.pluStat, n, 0⟩, 13, 1⟩
def pluStat.ATTEMPTS (n : Nat) : Field := ⟨⟨.pluStat, n, 0⟩, 14, 2⟩
def pluStat.PEER_NODE (n : Nat) : Field := ⟨⟨.pluStat, n, 0⟩, 16, 16⟩
def pluStat.PEER_MINOR (n : Nat) : Field := ⟨⟨.pluStat, n, 0⟩, 32, 4⟩
def pluCred.TX_HDR (n k : Nat) : Field := ⟨⟨.pluCred, n, k⟩, 0, 9⟩
def pluCred.TX_DATA (n k : Nat) : Field := ⟨⟨.pluCred, n, k⟩, 12, 12⟩
def pluCred.PEER_HDR (n k : Nat) : Field := ⟨⟨.pluCred, n, k⟩, 32, 9⟩
def pluCred.PEER_DATA (n k : Nat) : Field := ⟨⟨.pluCred, n, k⟩, 44, 12⟩
def pluErr.VALID (n : Nat) : Field := ⟨⟨.pluErr, n, 0⟩, 0, 1⟩
def pluErr.OVF (n : Nat) : Field := ⟨⟨.pluErr, n, 0⟩, 1, 1⟩
def pluErr.CAUSE (n : Nat) : Field := ⟨⟨.pluErr, n, 0⟩, 2, 4⟩
def pluErr.WORD (n : Nat) : Field := ⟨⟨.pluErr, n, 0⟩, 6, 32⟩
def pluCnt.SRC_VIOL (n : Nat) : Field := ⟨⟨.pluCnt, n, 0⟩, 0, 16⟩
def pluCnt.UNROUTED (n : Nat) : Field := ⟨⟨.pluCnt, n, 0⟩, 16, 16⟩
def pluCnt.HOP_DROP (n : Nat) : Field := ⟨⟨.pluCnt, n, 0⟩, 32, 16⟩
def pluCnt.REPLAY (n : Nat) : Field := ⟨⟨.pluCnt, n, 0⟩, 48, 16⟩
def srcLog.VALID (n : Nat) : Field := ⟨⟨.srcLog, n, 0⟩, 0, 1⟩
def srcLog.SRC (n : Nat) : Field := ⟨⟨.srcLog, n, 0⟩, 16, 16⟩
def srcLog.DST (n : Nat) : Field := ⟨⟨.srcLog, n, 0⟩, 32, 16⟩
def srcLog.TYPE (n : Nat) : Field := ⟨⟨.srcLog, n, 0⟩, 48, 8⟩
def rtCtl.DOMAIN : Field := ⟨⟨.rtCtl, 0, 0⟩, 0, 8⟩
def rtCtl.SELF : Field := ⟨⟨.rtCtl, 0, 0⟩, 8, 8⟩
def rtCtl.HOST : Field := ⟨⟨.rtCtl, 0, 0⟩, 16, 8⟩
def rtCtl.SWAP : Field := ⟨⟨.rtCtl, 0, 0⟩, 24, 1⟩
def txnCtl.TMO_US : Field := ⟨⟨.txnCtl, 0, 0⟩, 0, 16⟩
def txnStat.TIMEOUTS : Field := ⟨⟨.txnStat, 0, 0⟩, 0, 16⟩
def txnStat.LATE_RSP : Field := ⟨⟨.txnStat, 0, 0⟩, 16, 16⟩
def txnStat.BAD_REQ : Field := ⟨⟨.txnStat, 0, 0⟩, 32, 16⟩
def txnStat.CLR : Field := ⟨⟨.txnStat, 0, 0⟩, 48, 1⟩
def dpData.VALID (n : Nat) : Field := ⟨⟨.dpData, n, 0⟩, 0, 1⟩
def dpData.REMOVED (n : Nat) : Field := ⟨⟨.dpData, n, 0⟩, 1, 1⟩
def dpData.PDOM (n : Nat) : Field := ⟨⟨.dpData, n, 0⟩, 2, 12⟩
def dpData.NODE (n : Nat) : Field := ⟨⟨.dpData, n, 0⟩, 16, 16⟩
def dpData.SLOT (n : Nat) : Field := ⟨⟨.dpData, n, 0⟩, 32, 8⟩
def dpData.SLOT_EN (n : Nat) : Field := ⟨⟨.dpData, n, 0⟩, 40, 1⟩
def dpData.REG_LOG2 (n : Nat) : Field := ⟨⟨.dpData, n, 0⟩, 41, 3⟩
def dpData.GEN (n : Nat) : Field := ⟨⟨.dpData, n, 0⟩, 48, 8⟩
def dpData.REG_BASE (n : Nat) : Field := ⟨⟨.dpData, n, 1⟩, 0, 48⟩
def dpData.IDEM (n : Nat) : Field := ⟨⟨.dpData, n, 1⟩, 48, 16⟩
def dpData.DATA_BASE (n : Nat) : Field := ⟨⟨.dpData, n, 2⟩, 0, 48⟩
def dpData.DATA_LIMIT (n : Nat) : Field := ⟨⟨.dpData, n, 3⟩, 0, 48⟩
def dpCmd.PORT : Field := ⟨⟨.dpCmd, 0, 0⟩, 0, 12⟩
def dpCmd.CMD : Field := ⟨⟨.dpCmd, 0, 0⟩, 12, 4⟩
def dpCmd.BUSY : Field := ⟨⟨.dpCmd, 0, 0⟩, 31, 1⟩
def dpCmd.RESULT : Field := ⟨⟨.dpCmd, 0, 0⟩, 32, 4⟩
def dpStat.REJECT : Field := ⟨⟨.dpStat, 0, 0⟩, 0, 1⟩
def dpStat.SUPD_DROP : Field := ⟨⟨.dpStat, 0, 0⟩, 16, 16⟩
def extBind.VALID (n : Nat) : Field := ⟨⟨.extBind, n, 0⟩, 0, 1⟩
def extBind.NODE (n : Nat) : Field := ⟨⟨.extBind, n, 0⟩, 1, 16⟩
def extBind.UNIT (n : Nat) : Field := ⟨⟨.extBind, n, 0⟩, 17, 3⟩
def extBind.DOM_EN (n : Nat) : Field := ⟨⟨.extBind, n, 0⟩, 20, 1⟩
def extBind.PDOM (n : Nat) : Field := ⟨⟨.extBind, n, 0⟩, 21, 12⟩
def extBind.TMO_US (n : Nat) : Field := ⟨⟨.extBind, n, 0⟩, 33, 16⟩
def extBind.MAX_OUT (n : Nat) : Field := ⟨⟨.extBind, n, 0⟩, 49, 7⟩
def extLog.VALID : Field := ⟨⟨.extLog, 0, 0⟩, 0, 1⟩
def extLog.OVF : Field := ⟨⟨.extLog, 0, 0⟩, 1, 1⟩
def extLog.TMO : Field := ⟨⟨.extLog, 0, 0⟩, 2, 1⟩
def extLog.OPC : Field := ⟨⟨.extLog, 0, 0⟩, 3, 3⟩
def extLog.CTX : Field := ⟨⟨.extLog, 0, 0⟩, 6, 10⟩
def extLog.CST : Field := ⟨⟨.extLog, 0, 0⟩, 16, 8⟩
def extLog.XSTAT : Field := ⟨⟨.extLog, 0, 0⟩, 24, 32⟩
def extCnt.ERRORS : Field := ⟨⟨.extCnt, 0, 0⟩, 0, 16⟩
def extCnt.TIMEOUTS : Field := ⟨⟨.extCnt, 0, 0⟩, 16, 16⟩
def extCnt.LATE : Field := ⟨⟨.extCnt, 0, 0⟩, 32, 16⟩
def extCnt.CLR : Field := ⟨⟨.extCnt, 0, 0⟩, 48, 1⟩
def dvsec.MODE : Field := ⟨⟨.dvsec, 0, 1⟩, 32, 1⟩
def dvsec.MODULES : Field := ⟨⟨.dvsec, 0, 1⟩, 33, 3⟩
def dvsec.RATE : Field := ⟨⟨.dvsec, 0, 1⟩, 36, 3⟩
def dvsec.FABRIC_READY : Field := ⟨⟨.dvsec, 0, 1⟩, 39, 1⟩
def dvsec.FW_READY : Field := ⟨⟨.dvsec, 0, 1⟩, 40, 1⟩
def dvsec.EPOCH : Field := ⟨⟨.dvsec, 0, 1⟩, 48, 8⟩
def dvsec.VF_BAR_LOG2 : Field := ⟨⟨.dvsec, 0, 2⟩, 0, 4⟩
def dvsec.STEPPING : Field := ⟨⟨.dvsec, 0, 2⟩, 32, 8⟩
def hpuCtl.MOD_EN : Field := ⟨⟨.hpuCtl, 0, 0⟩, 0, 4⟩
def hpuCtl.MAX_RATE : Field := ⟨⟨.hpuCtl, 0, 0⟩, 4, 3⟩
def hpuCtl.RETRAIN : Field := ⟨⟨.hpuCtl, 0, 0⟩, 7, 1⟩
def hpuStat.LINK_UP : Field := ⟨⟨.hpuStat, 0, 0⟩, 0, 1⟩
def hpuStat.MODE : Field := ⟨⟨.hpuStat, 0, 0⟩, 1, 1⟩
def hpuStat.MODULES : Field := ⟨⟨.hpuStat, 0, 0⟩, 2, 3⟩
def hpuStat.RATE : Field := ⟨⟨.hpuStat, 0, 0⟩, 5, 3⟩
def hpuStat.CACHE_EN : Field := ⟨⟨.hpuStat, 0, 0⟩, 8, 1⟩
def hpuStat.UNROUTED : Field := ⟨⟨.hpuStat, 0, 0⟩, 16, 16⟩
def hpuStat.PEER_DROP : Field := ⟨⟨.hpuStat, 0, 0⟩, 32, 16⟩
def hpuStat.CLR : Field := ⟨⟨.hpuStat, 0, 0⟩, 48, 1⟩
def hpuPeer.EN (n : Nat) : Field := ⟨⟨.hpuPeer, n, 0⟩, 0, 1⟩
def hpuPeer.FUNC (n : Nat) : Field := ⟨⟨.hpuPeer, n, 0⟩, 1, 10⟩
def spmCtl.TEST_EN : Field := ⟨⟨.spmCtl, 0, 0⟩, 0, 1⟩
def spmCtl.TEST_GAP_LOG2 : Field := ⟨⟨.spmCtl, 0, 0⟩, 1, 5⟩
def spmCtl.YIELD_HOLD : Field := ⟨⟨.spmCtl, 0, 0⟩, 16, 8⟩
def spmAper.BASE_BANK : Field := ⟨⟨.spmAper, 0, 0⟩, 0, 10⟩
def bankCmd.BANK : Field := ⟨⟨.bankCmd, 0, 0⟩, 0, 10⟩
def bankCmd.CMD : Field := ⟨⟨.bankCmd, 0, 0⟩, 10, 2⟩
def bankCmd.CLEAR : Field := ⟨⟨.bankCmd, 0, 0⟩, 12, 1⟩
def bankCmd.TEST_OK : Field := ⟨⟨.bankCmd, 0, 0⟩, 13, 1⟩
def bankCmd.NOTIFY : Field := ⟨⟨.bankCmd, 0, 0⟩, 14, 1⟩
def bankCmd.NEW_OWNER : Field := ⟨⟨.bankCmd, 0, 0⟩, 16, 16⟩
def bankCmd.BUSY : Field := ⟨⟨.bankCmd, 0, 0⟩, 32, 1⟩
def bankCmd.RESULT : Field := ⟨⟨.bankCmd, 0, 0⟩, 33, 3⟩
def spmStat.OWN_VIOL : Field := ⟨⟨.spmStat, 0, 0⟩, 0, 16⟩
def spmStat.CE : Field := ⟨⟨.spmStat, 0, 0⟩, 16, 16⟩
def spmStat.UE : Field := ⟨⟨.spmStat, 0, 0⟩, 32, 8⟩
def spmStat.YIELDS : Field := ⟨⟨.spmStat, 0, 0⟩, 40, 8⟩
def spmStat.CLR : Field := ⟨⟨.spmStat, 0, 0⟩, 48, 1⟩
def testStat.ACTIVE : Field := ⟨⟨.testStat, 0, 0⟩, 0, 1⟩
def testStat.BANK : Field := ⟨⟨.testStat, 0, 0⟩, 1, 10⟩
def testStat.CHUNK : Field := ⟨⟨.testStat, 0, 0⟩, 11, 6⟩
def testStat.PASSES : Field := ⟨⟨.testStat, 0, 0⟩, 32, 32⟩
def ownLog.VALID : Field := ⟨⟨.ownLog, 0, 0⟩, 0, 1⟩
def ownLog.OVF : Field := ⟨⟨.ownLog, 0, 0⟩, 1, 1⟩
def ownLog.REQ : Field := ⟨⟨.ownLog, 0, 0⟩, 2, 16⟩
def ownLog.BANK : Field := ⟨⟨.ownLog, 0, 0⟩, 18, 10⟩
def ownLog.WRITE : Field := ⟨⟨.ownLog, 0, 0⟩, 28, 1⟩
def eccLog.VALID : Field := ⟨⟨.eccLog, 0, 0⟩, 0, 1⟩
def eccLog.OVF : Field := ⟨⟨.eccLog, 0, 0⟩, 1, 1⟩
def eccLog.BANK : Field := ⟨⟨.eccLog, 0, 0⟩, 2, 10⟩
def eccLog.OFFSET : Field := ⟨⟨.eccLog, 0, 0⟩, 12, 18⟩
def eccLog.TEST : Field := ⟨⟨.eccLog, 0, 0⟩, 30, 1⟩
def bankOwn.OWNER (n : Nat) : Field := ⟨⟨.bankOwn, n, 0⟩, 0, 16⟩
def bankOwn.STATE (n : Nat) : Field := ⟨⟨.bankOwn, n, 0⟩, 16, 3⟩
def bankOwn.BORROWED (n : Nat) : Field := ⟨⟨.bankOwn, n, 0⟩, 19, 1⟩
def bankOwn.TEST_OK (n : Nat) : Field := ⟨⟨.bankOwn, n, 0⟩, 20, 1⟩
def fifoCfg.EN (n : Nat) : Field := ⟨⟨.fifoCfg, n, 0⟩, 0, 1⟩
def fifoCfg.XEN (n : Nat) : Field := ⟨⟨.fifoCfg, n, 0⟩, 1, 1⟩
def fifoCfg.XLINE (n : Nat) : Field := ⟨⟨.fifoCfg, n, 0⟩, 2, 2⟩
def fifoCfg.FPRI (n : Nat) : Field := ⟨⟨.fifoCfg, n, 0⟩, 4, 4⟩
def fifoCfg.GROUP (n : Nat) : Field := ⟨⟨.fifoCfg, n, 0⟩, 8, 4⟩
def fifoCfg.EVB_EN (n : Nat) : Field := ⟨⟨.fifoCfg, n, 0⟩, 12, 1⟩
def fifoCfg.EVB (n : Nat) : Field := ⟨⟨.fifoCfg, n, 0⟩, 13, 12⟩
def fifoCfg.PROD (n : Nat) : Field := ⟨⟨.fifoCfg, n, 0⟩, 32, 16⟩
def fifoCfg.CONS (n : Nat) : Field := ⟨⟨.fifoCfg, n, 0⟩, 48, 16⟩
def fifoWm.HI_WM (n : Nat) : Field := ⟨⟨.fifoWm, n, 0⟩, 0, 13⟩
def fifoWm.LO_WM (n : Nat) : Field := ⟨⟨.fifoWm, n, 0⟩, 16, 13⟩
def fifoStat.LEVEL (n : Nat) : Field := ⟨⟨.fifoStat, n, 0⟩, 0, 13⟩
def fifoStat.UNREAD (n : Nat) : Field := ⟨⟨.fifoStat, n, 0⟩, 16, 13⟩
def fifoStat.PKT_CNT (n : Nat) : Field := ⟨⟨.fifoStat, n, 0⟩, 32, 13⟩
def fifoStat.MARK_ACT (n : Nat) : Field := ⟨⟨.fifoStat, n, 0⟩, 48, 1⟩
def fifoStat.XSTATE (n : Nat) : Field := ⟨⟨.fifoStat, n, 0⟩, 49, 1⟩
def fifoStat.HI_SEEN (n : Nat) : Field := ⟨⟨.fifoStat, n, 0⟩, 50, 1⟩
def fifoStat.LO_SEEN (n : Nat) : Field := ⟨⟨.fifoStat, n, 0⟩, 51, 1⟩
def fifoStat.GAP_PEND (n : Nat) : Field := ⟨⟨.fifoStat, n, 0⟩, 52, 1⟩
def fifoStat.DROP_PKT (n : Nat) : Field := ⟨⟨.fifoStat, n, 0⟩, 53, 1⟩
def fifoStat.BROKEN (n : Nat) : Field := ⟨⟨.fifoStat, n, 0⟩, 54, 1⟩
def fifoCnt.DROPS (n : Nat) : Field := ⟨⟨.fifoCnt, n, 0⟩, 0, 16⟩
def fifoCnt.EMPTY_RD (n : Nat) : Field := ⟨⟨.fifoCnt, n, 0⟩, 16, 16⟩
def fifoCnt.BAD_ACC (n : Nat) : Field := ⟨⟨.fifoCnt, n, 0⟩, 32, 16⟩
def fifoCnt.CLR (n : Nat) : Field := ⟨⟨.fifoCnt, n, 0⟩, 48, 1⟩
def eicCtl.PRIGROUP : Field := ⟨⟨.eicCtl, 0, 0⟩, 0, 3⟩
def eicCtl.WIN_LOG2 : Field := ⟨⟨.eicCtl, 0, 0⟩, 4, 4⟩
def eicCtl.HPQ : Field := ⟨⟨.eicCtl, 0, 0⟩, 8, 16⟩
def eicStat.DB_FOREIGN : Field := ⟨⟨.eicStat, 0, 0⟩, 0, 16⟩
def eicStat.MISROUTED : Field := ⟨⟨.eicStat, 0, 0⟩, 16, 16⟩
def eicStat.CLR : Field := ⟨⟨.eicStat, 0, 0⟩, 32, 1⟩
def eqData.EN (n : Nat) : Field := ⟨⟨.eqData, n, 0⟩, 0, 1⟩
def eqData.ERR (n : Nat) : Field := ⟨⟨.eqData, n, 0⟩, 1, 1⟩
def eqData.FULL_SEEN (n : Nat) : Field := ⟨⟨.eqData, n, 0⟩, 2, 1⟩
def eqData.LOG2 (n : Nat) : Field := ⟨⟨.eqData, n, 0⟩, 3, 5⟩
def eqData.FUNC (n : Nat) : Field := ⟨⟨.eqData, n, 0⟩, 8, 10⟩
def eqData.VEC (n : Nat) : Field := ⟨⟨.eqData, n, 0⟩, 18, 11⟩
def eqData.BASE (n : Nat) : Field := ⟨⟨.eqData, n, 1⟩, 12, 45⟩
def eqData.TAIL (n : Nat) : Field := ⟨⟨.eqData, n, 2⟩, 0, 20⟩
def eqData.HEAD (n : Nat) : Field := ⟨⟨.eqData, n, 2⟩, 32, 20⟩
def eqData.PHASE (n : Nat) : Field := ⟨⟨.eqData, n, 2⟩, 63, 1⟩
def eqData.MOD_TIME (n : Nat) : Field := ⟨⟨.eqData, n, 3⟩, 0, 16⟩
def eqData.MOD_COUNT (n : Nat) : Field := ⟨⟨.eqData, n, 3⟩, 16, 8⟩
def eqData.IDLE_TIME (n : Nat) : Field := ⟨⟨.eqData, n, 3⟩, 32, 16⟩
def eqData.SPURIOUS (n : Nat) : Field := ⟨⟨.eqData, n, 3⟩, 48, 16⟩
def srcCfg.MASK (n : Nat) : Field := ⟨⟨.srcCfg, n, 0⟩, 0, 1⟩
def srcCfg.PRI (n : Nat) : Field := ⟨⟨.srcCfg, n, 0⟩, 1, 8⟩
def srcCfg.TGT_CORE (n : Nat) : Field := ⟨⟨.srcCfg, n, 0⟩, 9, 1⟩
def srcCfg.TGT (n : Nat) : Field := ⟨⟨.srcCfg, n, 0⟩, 10, 12⟩
def srcStat.PEND (n : Nat) : Field := ⟨⟨.srcStat, n, 0⟩, 0, 1⟩
def srcStat.ACT (n : Nat) : Field := ⟨⟨.srcStat, n, 0⟩, 1, 1⟩
def srcStat.LVL (n : Nat) : Field := ⟨⟨.srcStat, n, 0⟩, 2, 1⟩
def srcStat.BUSY (n : Nat) : Field := ⟨⟨.srcStat, n, 0⟩, 3, 1⟩
def srcStat.MISROUTE (n : Nat) : Field := ⟨⟨.srcStat, n, 0⟩, 4, 1⟩
def srcStat.CNT (n : Nat) : Field := ⟨⟨.srcStat, n, 0⟩, 8, 8⟩
def srcStat.MEPOCH (n : Nat) : Field := ⟨⟨.srcStat, n, 0⟩, 16, 8⟩
def srcCmd.CMD : Field := ⟨⟨.srcCmd, 0, 0⟩, 0, 2⟩
def coreEq.EN (n : Nat) : Field := ⟨⟨.coreEq, n, 0⟩, 0, 1⟩
def coreEq.LOG2 (n : Nat) : Field := ⟨⟨.coreEq, n, 0⟩, 1, 4⟩
def coreEq.BASE (n : Nat) : Field := ⟨⟨.coreEq, n, 0⟩, 12, 9⟩
def coreEq.TAIL (n : Nat) : Field := ⟨⟨.coreEq, n, 1⟩, 0, 20⟩
def coreEq.HEAD (n : Nat) : Field := ⟨⟨.coreEq, n, 1⟩, 32, 20⟩
def coreEq.PHASE (n : Nat) : Field := ⟨⟨.coreEq, n, 1⟩, 63, 1⟩
def coreEq.EV_PEND (n : Nat) : Field := ⟨⟨.coreEq, n, 2⟩, 0, 1⟩
def coreEq.FULL_SEEN (n : Nat) : Field := ⟨⟨.coreEq, n, 2⟩, 1, 1⟩
def coreEq.SPURIOUS (n : Nat) : Field := ⟨⟨.coreEq, n, 2⟩, 2, 16⟩
def errLog.VALID (n : Nat) : Field := ⟨⟨.errLog, n, 0⟩, 0, 1⟩
def errLog.OVF (n : Nat) : Field := ⟨⟨.errLog, n, 0⟩, 1, 1⟩
def errLog.KIND (n : Nat) : Field := ⟨⟨.errLog, n, 0⟩, 2, 4⟩
def errLog.UNIT (n : Nat) : Field := ⟨⟨.errLog, n, 0⟩, 6, 10⟩
def errLog.LOC (n : Nat) : Field := ⟨⟨.errLog, n, 0⟩, 16, 32⟩
def fclFirst.FIRST : Field := ⟨⟨.fclFirst, 0, 0⟩, 0, 6⟩
def fclFirst.FIRST_V : Field := ⟨⟨.fclFirst, 0, 0⟩, 6, 1⟩
def fclFirst.OVF : Field := ⟨⟨.fclFirst, 0, 0⟩, 7, 1⟩
def fclCtl.NMI_CORE : Field := ⟨⟨.fclCtl, 0, 0⟩, 0, 2⟩
def fclCtl.ESC_LIMIT : Field := ⟨⟨.fclCtl, 0, 0⟩, 2, 8⟩
def fclNmi.NMI_PEND : Field := ⟨⟨.fclNmi, 0, 0⟩, 0, 1⟩
def fclReact.INT (n : Nat) : Field := ⟨⟨.fclReact, n, 0⟩, 0, 1⟩
def fclReact.NMI (n : Nat) : Field := ⟨⟨.fclReact, n, 0⟩, 1, 1⟩
def fclReact.BLOCK_RESET (n : Nat) : Field := ⟨⟨.fclReact, n, 0⟩, 2, 1⟩
def fclReact.CHIP_RESET (n : Nat) : Field := ⟨⟨.fclReact, n, 0⟩, 3, 1⟩
def fclReact.PIN (n : Nat) : Field := ⟨⟨.fclReact, n, 0⟩, 4, 1⟩
def fclReact.RST_CNT (n : Nat) : Field := ⟨⟨.fclReact, n, 0⟩, 8, 8⟩
def fclReact.HELD (n : Nat) : Field := ⟨⟨.fclReact, n, 0⟩, 16, 1⟩
def fclReact.RELEASE (n : Nat) : Field := ⟨⟨.fclReact, n, 0⟩, 17, 1⟩
def fclReact.CLR_CNT (n : Nat) : Field := ⟨⟨.fclReact, n, 0⟩, 18, 1⟩
def lostmap.LOST (n : Nat) : Field := ⟨⟨.lostmap, n, 0⟩, 0, 64⟩
def mbDb.GO (n : Nat) : Field := ⟨⟨.mbDb, n, 0⟩, 0, 1⟩
def mbDb.ABORT (n : Nat) : Field := ⟨⟨.mbDb, n, 0⟩, 1, 1⟩
def mbStat.BUSY (n : Nat) : Field := ⟨⟨.mbStat, n, 0⟩, 0, 1⟩
def mbStat.DONE (n : Nat) : Field := ⟨⟨.mbStat, n, 0⟩, 1, 1⟩
def mbStat.FW_READY (n : Nat) : Field := ⟨⟨.mbStat, n, 0⟩, 2, 1⟩
def mbStat.OVERRUN (n : Nat) : Field := ⟨⟨.mbStat, n, 0⟩, 3, 1⟩
def mbStat.SEQ (n : Nat) : Field := ⟨⟨.mbStat, n, 0⟩, 8, 8⟩
def mbStat.N_CFG (n : Nat) : Field := ⟨⟨.mbStat, n, 0⟩, 16, 1⟩
def mbStat.N_PORT (n : Nat) : Field := ⟨⟨.mbStat, n, 0⟩, 17, 1⟩
def mbStat.N_ASSIGN (n : Nat) : Field := ⟨⟨.mbStat, n, 0⟩, 18, 1⟩
def mbStat.N_FWRST (n : Nat) : Field := ⟨⟨.mbStat, n, 0⟩, 19, 1⟩
def mbCfg.IRQ_DONE (n : Nat) : Field := ⟨⟨.mbCfg, n, 0⟩, 0, 1⟩
def mbCfg.IRQ_NOTICE (n : Nat) : Field := ⟨⟨.mbCfg, n, 0⟩, 1, 1⟩
def mbArb.W_PF : Field := ⟨⟨.mbArb, 0, 0⟩, 0, 8⟩
def mbArb.W_VF : Field := ⟨⟨.mbArb, 0, 0⟩, 8, 8⟩
def glbExpert.UNLOCKED : Field := ⟨⟨.glbExpert, 0, 0⟩, 0, 1⟩
def glbExpert.ALLOWED : Field := ⟨⟨.glbExpert, 0, 0⟩, 1, 1⟩
def glbExpert.DENIED : Field := ⟨⟨.glbExpert, 0, 0⟩, 16, 16⟩
def glbExpert.CLR : Field := ⟨⟨.glbExpert, 0, 0⟩, 32, 1⟩
def cfsStat.STATE : Field := ⟨⟨.cfsStat, 0, 0⟩, 0, 3⟩
def cfsStat.ROLLED_BACK : Field := ⟨⟨.cfsStat, 0, 0⟩, 3, 1⟩
def cfsStat.EPOCH : Field := ⟨⟨.cfsStat, 0, 0⟩, 8, 8⟩
def cfsStat.ACTIVE_VER : Field := ⟨⟨.cfsStat, 0, 0⟩, 32, 32⟩
def cfsVer.PREV_VER : Field := ⟨⟨.cfsVer, 0, 0⟩, 0, 32⟩
def cfsVer.STAGED_VER : Field := ⟨⟨.cfsVer, 0, 0⟩, 32, 32⟩
def cfsSwmap.MAP : Field := ⟨⟨.cfsSwmap, 0, 0⟩, 0, 64⟩
def cfsCtl.FLAG_MS : Field := ⟨⟨.cfsCtl, 0, 0⟩, 0, 16⟩
def failLog.VALID : Field := ⟨⟨.failLog, 0, 0⟩, 0, 1⟩
def failLog.BLOCK : Field := ⟨⟨.failLog, 0, 0⟩, 1, 6⟩
def failLog.START_TS : Field := ⟨⟨.failLog, 0, 0⟩, 32, 32⟩
def epochLog.EPOCH (n : Nat) : Field := ⟨⟨.epochLog, n, 0⟩, 0, 8⟩
def epochLog.VALID (n : Nat) : Field := ⟨⟨.epochLog, n, 0⟩, 8, 1⟩
def epochLog.BY_ROLLBACK (n : Nat) : Field := ⟨⟨.epochLog, n, 0⟩, 9, 1⟩
def epochLog.VERSION (n : Nat) : Field := ⟨⟨.epochLog, n, 0⟩, 32, 32⟩
def epochLog.START_TS (n : Nat) : Field := ⟨⟨.epochLog, n, 1⟩, 0, 32⟩
def epochLog.COMMIT_TS (n : Nat) : Field := ⟨⟨.epochLog, n, 1⟩, 32, 32⟩
def secStat.RUN_SLOT : Field := ⟨⟨.secStat, 0, 0⟩, 0, 2⟩
def secStat.FAIL0 : Field := ⟨⟨.secStat, 0, 0⟩, 2, 1⟩
def secStat.FAIL1 : Field := ⟨⟨.secStat, 0, 0⟩, 3, 1⟩
def secStat.RCV_CAUSE : Field := ⟨⟨.secStat, 0, 0⟩, 4, 2⟩
def secStat.UDS_LOCKED : Field := ⟨⟨.secStat, 0, 0⟩, 6, 1⟩
def secStat.FUSE_BAD : Field := ⟨⟨.secStat, 0, 0⟩, 7, 1⟩
def secStat.ROM_VER : Field := ⟨⟨.secStat, 0, 0⟩, 8, 8⟩
def secStat.FW_SVN : Field := ⟨⟨.secStat, 0, 0⟩, 16, 7⟩
def secStat.CFG_SVN : Field := ⟨⟨.secStat, 0, 0⟩, 24, 7⟩
def secStat.OK_PROG : Field := ⟨⟨.secStat, 0, 0⟩, 32, 4⟩
def secStat.OK_REV : Field := ⟨⟨.secStat, 0, 0⟩, 36, 4⟩
def secStat.VK_REV : Field := ⟨⟨.secStat, 0, 0⟩, 40, 4⟩
def secStat.OWN_FW_REQ : Field := ⟨⟨.secStat, 0, 0⟩, 44, 1⟩
def secStat.OWN_CFG_REQ : Field := ⟨⟨.secStat, 0, 0⟩, 45, 1⟩
def glbBoot.RCV_REQ : Field := ⟨⟨.glbBoot, 0, 0⟩, 0, 1⟩
def pcmCtl.DOZE_EN : Field := ⟨⟨.pcmCtl, 0, 0⟩, 0, 1⟩
def pcmCtl.SLEEP_REQ : Field := ⟨⟨.pcmCtl, 0, 0⟩, 1, 1⟩
def pcmCtl.WARM : Field := ⟨⟨.pcmCtl, 0, 0⟩, 2, 4⟩
def pcmCtl.W2_US : Field := ⟨⟨.pcmCtl, 0, 0⟩, 8, 8⟩
def pcmCtl.W3_MS : Field := ⟨⟨.pcmCtl, 0, 0⟩, 16, 8⟩
def pcmCtl.DOZE_US : Field := ⟨⟨.pcmCtl, 0, 0⟩, 24, 16⟩
def pcmCtl.WAKE_EN : Field := ⟨⟨.pcmCtl, 0, 0⟩, 40, 6⟩
def pcmCtl.T_THROT : Field := ⟨⟨.pcmCtl, 0, 0⟩, 46, 8⟩
def pcmStat.DSTATE : Field := ⟨⟨.pcmStat, 0, 0⟩, 0, 2⟩
def pcmStat.SLEW : Field := ⟨⟨.pcmStat, 0, 0⟩, 2, 1⟩
def pcmStat.SLEEP_REJ : Field := ⟨⟨.pcmStat, 0, 0⟩, 3, 3⟩
def pcmStat.CAPPED : Field := ⟨⟨.pcmStat, 0, 0⟩, 6, 8⟩
def pcmStat.THROTTLE : Field := ⟨⟨.pcmStat, 0, 0⟩, 14, 1⟩
def pcmStat.VDD_MV : Field := ⟨⟨.pcmStat, 0, 0⟩, 16, 10⟩
def pcmStat.TJ : Field := ⟨⟨.pcmStat, 0, 0⟩, 26, 8⟩
def agmCtl.AUTO : Field := ⟨⟨.agmCtl, 0, 0⟩, 0, 1⟩
def agmCtl.REPLAN_MV : Field := ⟨⟨.agmCtl, 0, 0⟩, 1, 7⟩
def agmCtl.RESERVE_MV : Field := ⟨⟨.agmCtl, 0, 0⟩, 8, 8⟩
def agmCtl.GUARD_MIN_MV : Field := ⟨⟨.agmCtl, 0, 0⟩, 16, 8⟩
def agmCtl.REPLAN_H : Field := ⟨⟨.agmCtl, 0, 0⟩, 24, 16⟩
def agmCtl.LANE_MIN : Field := ⟨⟨.agmCtl, 0, 0⟩, 40, 8⟩
def agmCtl.MEAS_S : Field := ⟨⟨.agmCtl, 0, 0⟩, 48, 16⟩
def agmPlan.PSTATE : Field := ⟨⟨.agmPlan, 0, 0⟩, 0, 3⟩
def agmPlan.LIMIT : Field := ⟨⟨.agmPlan, 0, 0⟩, 3, 1⟩
def agmPlan.CAUSE : Field := ⟨⟨.agmPlan, 0, 0⟩, 8, 8⟩
def agmPlan.VERSION : Field := ⟨⟨.agmPlan, 0, 0⟩, 32, 32⟩
def hpcCtl.SG0_EN : Field := ⟨⟨.hpcCtl, 0, 0⟩, 0, 1⟩
def hpcCtl.SG1_EN : Field := ⟨⟨.hpcCtl, 0, 0⟩, 1, 1⟩
def hpcCtl.SG_DIV : Field := ⟨⟨.hpcCtl, 0, 0⟩, 2, 16⟩
def hpcCtl.SG_LEN0 : Field := ⟨⟨.hpcCtl, 0, 0⟩, 18, 7⟩
def hpcCtl.SG_LEN1 : Field := ⟨⟨.hpcCtl, 0, 0⟩, 25, 7⟩
def hpcCtl.DEB_MS : Field := ⟨⟨.hpcCtl, 0, 0⟩, 32, 8⟩
def hpcCtl.WIN_S : Field := ⟨⟨.hpcCtl, 0, 0⟩, 40, 4⟩
def hpcCtl.POLL_MS : Field := ⟨⟨.hpcCtl, 0, 0⟩, 44, 8⟩
def hpcCtl.PWR_T : Field := ⟨⟨.hpcCtl, 0, 0⟩, 52, 8⟩
def hpcErr.VALID : Field := ⟨⟨.hpcErr, 0, 0⟩, 0, 1⟩
def hpcErr.OVF : Field := ⟨⟨.hpcErr, 0, 0⟩, 1, 1⟩
def hpcErr.BUS : Field := ⟨⟨.hpcErr, 0, 0⟩, 2, 2⟩
def hpcErr.ADDR : Field := ⟨⟨.hpcErr, 0, 0⟩, 4, 7⟩
def hpcErr.KIND : Field := ⟨⟨.hpcErr, 0, 0⟩, 11, 2⟩
def slotCfg.EN (n : Nat) : Field := ⟨⟨.slotCfg, n, 0⟩, 0, 1⟩
def slotCfg.BUS (n : Nat) : Field := ⟨⟨.slotCfg, n, 0⟩, 1, 2⟩
def slotCfg.POS (n : Nat) : Field := ⟨⟨.slotCfg, n, 0⟩, 3, 7⟩
def slotCfg.ADDR (n : Nat) : Field := ⟨⟨.slotCfg, n, 0⟩, 10, 7⟩
def slotCfg.AUTO_ON (n : Nat) : Field := ⟨⟨.slotCfg, n, 0⟩, 17, 1⟩
def slotCfg.AUTO_OFF (n : Nat) : Field := ⟨⟨.slotCfg, n, 0⟩, 18, 1⟩
def slotCfg.ACT_HW (n : Nat) : Field := ⟨⟨.slotCfg, n, 0⟩, 19, 1⟩
def slotCfg.OFF_GRACE (n : Nat) : Field := ⟨⟨.slotCfg, n, 0⟩, 24, 8⟩
def slotStat.STATE (n : Nat) : Field := ⟨⟨.slotStat, n, 0⟩, 0, 3⟩
def slotStat.PRES (n : Nat) : Field := ⟨⟨.slotStat, n, 0⟩, 3, 1⟩
def slotStat.BTN (n : Nat) : Field := ⟨⟨.slotStat, n, 0⟩, 4, 1⟩
def slotStat.LATCH (n : Nat) : Field := ⟨⟨.slotStat, n, 0⟩, 5, 1⟩
def slotStat.PFAULT (n : Nat) : Field := ⟨⟨.slotStat, n, 0⟩, 6, 1⟩
def slotStat.PWR_EN (n : Nat) : Field := ⟨⟨.slotStat, n, 0⟩, 7, 1⟩
def slotStat.SURPRISE (n : Nat) : Field := ⟨⟨.slotStat, n, 0⟩, 8, 1⟩
def slotStat.PF_SEEN (n : Nat) : Field := ⟨⟨.slotStat, n, 0⟩, 9, 1⟩
def slotStat.CANCELLED (n : Nat) : Field := ⟨⟨.slotStat, n, 0⟩, 10, 1⟩
def slotStat.IGN_PRESS (n : Nat) : Field := ⟨⟨.slotStat, n, 0⟩, 16, 8⟩
def slotStat.REMOVALS (n : Nat) : Field := ⟨⟨.slotStat, n, 0⟩, 24, 8⟩
def slotLed.ATT_MODE (n : Nat) : Field := ⟨⟨.slotLed, n, 0⟩, 0, 2⟩
def slotLed.ATT_OVR (n : Nat) : Field := ⟨⟨.slotLed, n, 0⟩, 2, 1⟩
def slotLed.LOC_MODE (n : Nat) : Field := ⟨⟨.slotLed, n, 0⟩, 3, 2⟩
def slotLed.FLT_MODE (n : Nat) : Field := ⟨⟨.slotLed, n, 0⟩, 5, 2⟩
def slotLed.FLT_OVR (n : Nat) : Field := ⟨⟨.slotLed, n, 0⟩, 7, 1⟩
def slotLed.ACT_MODE (n : Nat) : Field := ⟨⟨.slotLed, n, 0⟩, 8, 2⟩
def slotLed.ACT_OVR (n : Nat) : Field := ⟨⟨.slotLed, n, 0⟩, 10, 1⟩
def glbReset.CHIP : Field := ⟨⟨.glbReset, 0, 0⟩, 0, 1⟩
def glbReset.CONFIRM : Field := ⟨⟨.glbReset, 0, 0⟩, 8, 8⟩
def glbReset.CAUSE : Field := ⟨⟨.glbReset, 0, 0⟩, 16, 4⟩
def glbReset.COUNT : Field := ⟨⟨.glbReset, 0, 0⟩, 20, 8⟩
def cfsPart.MAP : Field := ⟨⟨.cfsPart, 0, 0⟩, 0, 64⟩
def kstActive.VALID (n : Nat) : Field := ⟨⟨.kstActive, n, 0⟩, 0, 1⟩
def kstActive.FUNC_EN (n : Nat) : Field := ⟨⟨.kstActive, n, 0⟩, 1, 1⟩
def kstActive.FUNC (n : Nat) : Field := ⟨⟨.kstActive, n, 0⟩, 2, 10⟩
def kstActive.IN_USE (n : Nat) : Field := ⟨⟨.kstActive, n, 0⟩, 12, 1⟩
def gebOwn.RESTRICT (n : Nat) : Field := ⟨⟨.gebOwn, n, 0⟩, 0, 1⟩
def gebOwn.PDOM (n : Nat) : Field := ⟨⟨.gebOwn, n, 0⟩, 1, 12⟩
def gebOwn.RO_OTHERS (n : Nat) : Field := ⟨⟨.gebOwn, n, 0⟩, 13, 1⟩
def qctxSel.QID : Field := ⟨⟨.qctxSel, 0, 0⟩, 0, 16⟩
def cluW.W0 : Field := ⟨⟨.cluW, 0, 0⟩, 0, 8⟩
def cluW.W1 : Field := ⟨⟨.cluW, 0, 0⟩, 8, 8⟩
def cluW.W2 : Field := ⟨⟨.cluW, 0, 0⟩, 16, 8⟩
def cluW.W3 : Field := ⟨⟨.cluW, 0, 0⟩, 24, 8⟩
def cluW.W4 : Field := ⟨⟨.cluW, 0, 0⟩, 32, 8⟩
def cluW.W5 : Field := ⟨⟨.cluW, 0, 0⟩, 40, 8⟩
def cluW.W6 : Field := ⟨⟨.cluW, 0, 0⟩, 48, 8⟩
def cluW.W7 : Field := ⟨⟨.cluW, 0, 0⟩, 56, 8⟩
def kstCtl.SWAP : Field := ⟨⟨.kstCtl, 0, 0⟩, 0, 1⟩
def qwSel.GROUP : Field := ⟨⟨.qwSel, 0, 0⟩, 0, 12⟩
def qwData.W0 (n k : Nat) : Field := ⟨⟨.qwData, n, k⟩, 0, 8⟩
def qwData.W1 (n k : Nat) : Field := ⟨⟨.qwData, n, k⟩, 8, 8⟩
def qwData.W2 (n k : Nat) : Field := ⟨⟨.qwData, n, k⟩, 16, 8⟩
def qwData.W3 (n k : Nat) : Field := ⟨⟨.qwData, n, k⟩, 24, 8⟩
def qwData.W4 (n k : Nat) : Field := ⟨⟨.qwData, n, k⟩, 32, 8⟩
def qwData.W5 (n k : Nat) : Field := ⟨⟨.qwData, n, k⟩, 40, 8⟩
def qwData.W6 (n k : Nat) : Field := ⟨⟨.qwData, n, k⟩, 48, 8⟩
def qwData.W7 (n k : Nat) : Field := ⟨⟨.qwData, n, k⟩, 56, 8⟩
def grpW.W0 (n : Nat) : Field := ⟨⟨.grpW, n, 0⟩, 0, 8⟩
def grpW.W1 (n : Nat) : Field := ⟨⟨.grpW, n, 0⟩, 8, 8⟩
def grpW.W2 (n : Nat) : Field := ⟨⟨.grpW, n, 0⟩, 16, 8⟩
def grpW.W3 (n : Nat) : Field := ⟨⟨.grpW, n, 0⟩, 24, 8⟩
def grpW.W4 (n : Nat) : Field := ⟨⟨.grpW, n, 0⟩, 32, 8⟩
def grpW.W5 (n : Nat) : Field := ⟨⟨.grpW, n, 0⟩, 40, 8⟩
def grpW.W6 (n : Nat) : Field := ⟨⟨.grpW, n, 0⟩, 48, 8⟩
def grpW.W7 (n : Nat) : Field := ⟨⟨.grpW, n, 0⟩, 56, 8⟩
def pdSel.PDOM : Field := ⟨⟨.pdSel, 0, 0⟩, 0, 12⟩
def poolSel.POOL : Field := ⟨⟨.poolSel, 0, 0⟩, 0, 12⟩
def bpmHfree.HANDLE : Field := ⟨⟨.bpmHfree, 0, 0⟩, 0, 64⟩
def nodeRt.P0 (n : Nat) : Field := ⟨⟨.nodeRt, n, 0⟩, 0, 8⟩
def nodeRt.P1 (n : Nat) : Field := ⟨⟨.nodeRt, n, 0⟩, 8, 8⟩
def nodeRt.P2 (n : Nat) : Field := ⟨⟨.nodeRt, n, 0⟩, 16, 8⟩
def nodeRt.P3 (n : Nat) : Field := ⟨⟨.nodeRt, n, 0⟩, 24, 8⟩
def nodeRt.P4 (n : Nat) : Field := ⟨⟨.nodeRt, n, 0⟩, 32, 8⟩
def nodeRt.P5 (n : Nat) : Field := ⟨⟨.nodeRt, n, 0⟩, 40, 8⟩
def nodeRt.P6 (n : Nat) : Field := ⟨⟨.nodeRt, n, 0⟩, 48, 8⟩
def nodeRt.P7 (n : Nat) : Field := ⟨⟨.nodeRt, n, 0⟩, 56, 8⟩
def domRt.P0 (n : Nat) : Field := ⟨⟨.domRt, n, 0⟩, 0, 8⟩
def domRt.P1 (n : Nat) : Field := ⟨⟨.domRt, n, 0⟩, 8, 8⟩
def domRt.P2 (n : Nat) : Field := ⟨⟨.domRt, n, 0⟩, 16, 8⟩
def domRt.P3 (n : Nat) : Field := ⟨⟨.domRt, n, 0⟩, 24, 8⟩
def domRt.P4 (n : Nat) : Field := ⟨⟨.domRt, n, 0⟩, 32, 8⟩
def domRt.P5 (n : Nat) : Field := ⟨⟨.domRt, n, 0⟩, 40, 8⟩
def domRt.P6 (n : Nat) : Field := ⟨⟨.domRt, n, 0⟩, 48, 8⟩
def domRt.P7 (n : Nat) : Field := ⟨⟨.domRt, n, 0⟩, 56, 8⟩
def nodeRtA.P0 (n : Nat) : Field := ⟨⟨.nodeRtA, n, 0⟩, 0, 8⟩
def nodeRtA.P1 (n : Nat) : Field := ⟨⟨.nodeRtA, n, 0⟩, 8, 8⟩
def nodeRtA.P2 (n : Nat) : Field := ⟨⟨.nodeRtA, n, 0⟩, 16, 8⟩
def nodeRtA.P3 (n : Nat) : Field := ⟨⟨.nodeRtA, n, 0⟩, 24, 8⟩
def nodeRtA.P4 (n : Nat) : Field := ⟨⟨.nodeRtA, n, 0⟩, 32, 8⟩
def nodeRtA.P5 (n : Nat) : Field := ⟨⟨.nodeRtA, n, 0⟩, 40, 8⟩
def nodeRtA.P6 (n : Nat) : Field := ⟨⟨.nodeRtA, n, 0⟩, 48, 8⟩
def nodeRtA.P7 (n : Nat) : Field := ⟨⟨.nodeRtA, n, 0⟩, 56, 8⟩
def domRtA.P0 (n : Nat) : Field := ⟨⟨.domRtA, n, 0⟩, 0, 8⟩
def domRtA.P1 (n : Nat) : Field := ⟨⟨.domRtA, n, 0⟩, 8, 8⟩
def domRtA.P2 (n : Nat) : Field := ⟨⟨.domRtA, n, 0⟩, 16, 8⟩
def domRtA.P3 (n : Nat) : Field := ⟨⟨.domRtA, n, 0⟩, 24, 8⟩
def domRtA.P4 (n : Nat) : Field := ⟨⟨.domRtA, n, 0⟩, 32, 8⟩
def domRtA.P5 (n : Nat) : Field := ⟨⟨.domRtA, n, 0⟩, 40, 8⟩
def domRtA.P6 (n : Nat) : Field := ⟨⟨.domRtA, n, 0⟩, 48, 8⟩
def domRtA.P7 (n : Nat) : Field := ⟨⟨.domRtA, n, 0⟩, 56, 8⟩
def dpSel.PORT : Field := ⟨⟨.dpSel, 0, 0⟩, 0, 12⟩
def dpImage.WORDS (n k : Nat) : Field := ⟨⟨.dpImage, n, k⟩, 0, 64⟩
def fifoSel.FIFO : Field := ⟨⟨.fifoSel, 0, 0⟩, 0, 6⟩
def fifoPtr.WR (n : Nat) : Field := ⟨⟨.fifoPtr, n, 0⟩, 0, 13⟩
def fifoPtr.RD (n : Nat) : Field := ⟨⟨.fifoPtr, n, 0⟩, 16, 13⟩
def fifoPtr.REL (n : Nat) : Field := ⟨⟨.fifoPtr, n, 0⟩, 32, 13⟩
def fifoPtr.MARK (n : Nat) : Field := ⟨⟨.fifoPtr, n, 0⟩, 48, 13⟩
def fifoPtrB.WR (n : Nat) : Field := ⟨⟨.fifoPtrB, n, 0⟩, 0, 13⟩
def fifoPtrB.RD (n : Nat) : Field := ⟨⟨.fifoPtrB, n, 0⟩, 16, 13⟩
def fifoPtrB.REL (n : Nat) : Field := ⟨⟨.fifoPtrB, n, 0⟩, 32, 13⟩
def fifoPtrB.MARK (n : Nat) : Field := ⟨⟨.fifoPtrB, n, 0⟩, 48, 13⟩
def fifoCmd.CMD : Field := ⟨⟨.fifoCmd, 0, 0⟩, 0, 3⟩
def ptrLog.VALID : Field := ⟨⟨.ptrLog, 0, 0⟩, 0, 1⟩
def ptrLog.OVF : Field := ⟨⟨.ptrLog, 0, 0⟩, 1, 1⟩
def ptrLog.FIFO : Field := ⟨⟨.ptrLog, 0, 0⟩, 2, 6⟩
def eicCommit.COMMIT : Field := ⟨⟨.eicCommit, 0, 0⟩, 0, 1⟩
def eqSel.EQ : Field := ⟨⟨.eqSel, 0, 0⟩, 0, 12⟩
def srcSel.SRC : Field := ⟨⟨.srcSel, 0, 0⟩, 0, 17⟩
def fclFsw.FSW : Field := ⟨⟨.fclFsw, 0, 0⟩, 0, 64⟩
def mbReq.WORD (n k : Nat) : Field := ⟨⟨.mbReq, n, k⟩, 0, 64⟩
def mbRsp.WORD (n k : Nat) : Field := ⟨⟨.mbRsp, n, k⟩, 0, 64⟩
def eqDb.EQ (n : Nat) : Field := ⟨⟨.eqDb, n, 0⟩, 0, 12⟩
def eqDb.HEAD (n : Nat) : Field := ⟨⟨.eqDb, n, 0⟩, 32, 20⟩
def pcmPlan.GB_MV : Field := ⟨⟨.pcmPlan, 0, 0⟩, 0, 8⟩
def eclkCeil.STEP0 : Field := ⟨⟨.eclkCeil, 0, 0⟩, 0, 8⟩
def eclkCeil.STEP1 : Field := ⟨⟨.eclkCeil, 0, 0⟩, 8, 8⟩
def eclkCeil.STEP2 : Field := ⟨⟨.eclkCeil, 0, 0⟩, 16, 8⟩
def eclkCeil.STEP3 : Field := ⟨⟨.eclkCeil, 0, 0⟩, 24, 8⟩
def eclkCeil.STEP4 : Field := ⟨⟨.eclkCeil, 0, 0⟩, 32, 8⟩
def eclkCeil.STEP5 : Field := ⟨⟨.eclkCeil, 0, 0⟩, 40, 8⟩
def eclkCeil.STEP6 : Field := ⟨⟨.eclkCeil, 0, 0⟩, 48, 8⟩
def eclkCeil.STEP7 : Field := ⟨⟨.eclkCeil, 0, 0⟩, 56, 8⟩
def pcmEff.STEP0 : Field := ⟨⟨.pcmEff, 0, 0⟩, 0, 8⟩
def pcmEff.STEP1 : Field := ⟨⟨.pcmEff, 0, 0⟩, 8, 8⟩
def pcmEff.STEP2 : Field := ⟨⟨.pcmEff, 0, 0⟩, 16, 8⟩
def pcmEff.STEP3 : Field := ⟨⟨.pcmEff, 0, 0⟩, 24, 8⟩
def pcmEff.STEP4 : Field := ⟨⟨.pcmEff, 0, 0⟩, 32, 8⟩
def pcmEff.STEP5 : Field := ⟨⟨.pcmEff, 0, 0⟩, 40, 8⟩
def pcmEff.STEP6 : Field := ⟨⟨.pcmEff, 0, 0⟩, 48, 8⟩
def pcmEff.STEP7 : Field := ⟨⟨.pcmEff, 0, 0⟩, 56, 8⟩
def pcmRet.RET : Field := ⟨⟨.pcmRet, 0, 0⟩, 0, 64⟩
def wakeLog.VALID : Field := ⟨⟨.wakeLog, 0, 0⟩, 0, 1⟩
def wakeLog.SOURCE : Field := ⟨⟨.wakeLog, 0, 0⟩, 1, 3⟩
def wakeLog.PERIODS : Field := ⟨⟨.wakeLog, 0, 0⟩, 32, 32⟩
def engState.E0 (n : Nat) : Field := ⟨⟨.engState, n, 0⟩, 0, 2⟩
def engState.E1 (n : Nat) : Field := ⟨⟨.engState, n, 0⟩, 2, 2⟩
def engState.E2 (n : Nat) : Field := ⟨⟨.engState, n, 0⟩, 4, 2⟩
def engState.E3 (n : Nat) : Field := ⟨⟨.engState, n, 0⟩, 6, 2⟩
def engState.E4 (n : Nat) : Field := ⟨⟨.engState, n, 0⟩, 8, 2⟩
def engState.E5 (n : Nat) : Field := ⟨⟨.engState, n, 0⟩, 10, 2⟩
def engState.E6 (n : Nat) : Field := ⟨⟨.engState, n, 0⟩, 12, 2⟩
def engState.E7 (n : Nat) : Field := ⟨⟨.engState, n, 0⟩, 14, 2⟩
def engState.E8 (n : Nat) : Field := ⟨⟨.engState, n, 0⟩, 16, 2⟩
def engState.E9 (n : Nat) : Field := ⟨⟨.engState, n, 0⟩, 18, 2⟩
def engState.E10 (n : Nat) : Field := ⟨⟨.engState, n, 0⟩, 20, 2⟩
def engState.E11 (n : Nat) : Field := ⟨⟨.engState, n, 0⟩, 22, 2⟩
def engState.E12 (n : Nat) : Field := ⟨⟨.engState, n, 0⟩, 24, 2⟩
def engState.E13 (n : Nat) : Field := ⟨⟨.engState, n, 0⟩, 26, 2⟩
def engState.E14 (n : Nat) : Field := ⟨⟨.engState, n, 0⟩, 28, 2⟩
def engState.E15 (n : Nat) : Field := ⟨⟨.engState, n, 0⟩, 30, 2⟩
def pcmVtab.MV (n : Nat) : Field := ⟨⟨.pcmVtab, n, 0⟩, 0, 10⟩
def agmTgt.STEP0 : Field := ⟨⟨.agmTgt, 0, 0⟩, 0, 8⟩
def agmTgt.STEP1 : Field := ⟨⟨.agmTgt, 0, 0⟩, 8, 8⟩
def agmTgt.STEP2 : Field := ⟨⟨.agmTgt, 0, 0⟩, 16, 8⟩
def agmTgt.STEP3 : Field := ⟨⟨.agmTgt, 0, 0⟩, 24, 8⟩
def agmTgt.STEP4 : Field := ⟨⟨.agmTgt, 0, 0⟩, 32, 8⟩
def agmTgt.STEP5 : Field := ⟨⟨.agmTgt, 0, 0⟩, 40, 8⟩
def agmTgt.STEP6 : Field := ⟨⟨.agmTgt, 0, 0⟩, 48, 8⟩
def agmTgt.STEP7 : Field := ⟨⟨.agmTgt, 0, 0⟩, 56, 8⟩
def agmLife.STRESS_H : Field := ⟨⟨.agmLife, 0, 0⟩, 0, 32⟩
def agmLife.REMAIN_H : Field := ⟨⟨.agmLife, 0, 0⟩, 32, 32⟩
def agmDeg.DEG_MV (n : Nat) : Field := ⟨⟨.agmDeg, n, 0⟩, 0, 12⟩
def agmDeg.HEAD_MV (n : Nat) : Field := ⟨⟨.agmDeg, n, 0⟩, 12, 12⟩
def agmDeg.NOISY (n : Nat) : Field := ⟨⟨.agmDeg, n, 0⟩, 24, 1⟩
def agmDeg.SAMPLES (n : Nat) : Field := ⟨⟨.agmDeg, n, 0⟩, 32, 32⟩
def agmSram.VMIN_MV (n : Nat) : Field := ⟨⟨.agmSram, n, 0⟩, 0, 12⟩
def agmSram.MARGIN_MV (n : Nat) : Field := ⟨⟨.agmSram, n, 0⟩, 12, 12⟩
def agmLrep.LANES (n : Nat) : Field := ⟨⟨.agmLrep, n, 0⟩, 0, 64⟩
def agmLeye.MIN_EYE (n : Nat) : Field := ⟨⟨.agmLeye, n, 0⟩, 0, 8⟩
def agmLeye.WORST (n : Nat) : Field := ⟨⟨.agmLeye, n, 0⟩, 8, 6⟩
def agmLeye.SPARES_OUT (n : Nat) : Field := ⟨⟨.agmLeye, n, 0⟩, 14, 1⟩
def agmLeye.SPARES (n : Nat) : Field := ⟨⟨.agmLeye, n, 0⟩, 15, 5⟩

end Sys2Proof.Machine.Fld
end

