-- ==== Sys2Proof/Syntax.lean ====
section
/-!
DEFINITION. The commands the block takes: one constructor for every row of the spec's table, with the operands the
row's rule gives it. An instruction of a channel program is a command that carries its decoded fields.
-/

namespace Sys2Proof

/-- Operand width by the WID field of the prefix byte (R143). -/
inductive Width where
  | w64 | w32 | w16 | w8 | w4
deriving DecidableEq, Repr

/-- Speculation control by the lead byte (R143). -/
inductive Spec where
  | plain | nospec | spec
deriving DecidableEq, Repr

/-- The repeat prefix (R143). -/
inductive Rpt where
  | once | rep | repz
deriving DecidableEq, Repr

/-- What an instruction carries beside its operands: the context that executes it, its length in bytes (R135),
and its prefixes (R143); `blk` says that a prefix block is present. -/
structure Hdr where
  ctx : Fin 1024
  len : Nat := 1
  blk : Bool := false
  width : Width := .w64
  rpt : Rpt := .once
  spec : Spec := .plain
  lock : Bool := false
  king : Bool := false
deriving DecidableEq, Repr

/-- The second operand: Dy, or the sign-extended immediate (R141, R161). -/
inductive Src where
  | reg (d : Fin 16)
  | imm (v : BitVec 64)
deriving DecidableEq, Repr

/-- The second operand of CMPA (R163). -/
inductive ASrc where
  | areg (a : Fin 16)
  | dreg (d : Fin 16)
deriving DecidableEq, Repr

/-- A 16-bit operand, written in the instruction or taken from a D register. -/
inductive SelSrc where
  | imm (v : BitVec 16)
  | reg (d : Fin 16)
deriving DecidableEq, Repr

/-- A bit address (R155). -/
inductive BitSrc where
  | imm (b : BitVec 16)
  | reg (d : Fin 16)
deriving DecidableEq, Repr

/-- A jump target in the program segment: relative to the next instruction, or an offset in a D register (R176). -/
inductive JmpTo where
  | rel (r : BitVec 32)
  | reg (d : Fin 16)
deriving DecidableEq, Repr

/-- A target in CPC format (R125). -/
inductive FarTo where
  | imm (t : BitVec 64)
  | reg (d : Fin 16)
deriving DecidableEq, Repr

/-- A memory operand (R140, R145): address register, segment override, displacement, nibble selection. -/
structure Mem where
  a : Fin 16
  seg : Option (Fin 16) := none
  disp : BitVec 64 := 0
  nsel : Bool := false
deriving DecidableEq, Repr

/-- The operands and flags of a transfer (R142): destination (none under SK), source, count register. -/
structure XOpnd where
  dst : Option (Fin 16)
  src : Fin 16
  cnt : Fin 16
  dc : Bool := false
  dseg : Option (Fin 16) := none
  sseg : Option (Fin 16) := none
deriving DecidableEq, Repr

/-- A submission entry's eight 64-bit words (R44). -/
structure Entry where
  w0 : BitVec 64
  w1 : BitVec 64
  p0 : BitVec 64
  p1 : BitVec 64
  p2 : BitVec 64
  p3 : BitVec 64
  p4 : BitVec 64
  p5 : BitVec 64
deriving DecidableEq, Repr

/-- A segment table entry's words at 0x00, 0x08 and 0x10 (R193). -/
structure SegEntry where
  w0 : BitVec 64
  base : BitVec 64
  limit : BitVec 64
deriving DecidableEq, Repr

/-- What a read of host memory returns: its bytes, an error response, or poisoned data with the number of leading
bytes that are good. -/
inductive ReadResult where
  | data (bytes : List Byte)
  | error
  | poison (good : List Byte)
deriving DecidableEq, Repr

/-- Who accesses a register: the PF driver, a VF's driver, or ACP firmware. -/
inductive Accessor where
  | pf
  | vf (f : Fin 1024)
  | firmware
deriving DecidableEq, Repr

/-- An arbiter of R76, R77 or of another chapter: its kind and which of its copies. -/
structure ArbId where
  kind : Nat
  i : Nat := 0
  j : Nat := 0
deriving DecidableEq, Repr

/-- The windows of R70 and R77: which arbiters start one together. -/
inductive WinId where
  | qsc | fxb | eic
  | dmg (g : Fin 4)
  | engine (e : Fin 128)
  | semaphore (c : Fin 8)
  | eventBit
  | devicePort (p : Fin 8)
  | extension (n : Fin 8)
  | tags
  | mailbox
deriving DecidableEq, Repr

/-- A Roloa packet as the fields of its header give it (R271, R273, R298, R300), and its payload: `locked` is bit 0 of ATTR and
`attr` its bits [2:1], `aux` header bits 127 to 82 as far as no other field holds them, `resv` the reserved bits [31:30] with
[81:80] above them. -/
structure Pkt where
  type : Nat
  vc : Nat
  locked : Bool := false
  attr : Nat := 0
  resv : Nat := 0
  poison : Bool := false
  hops : Nat := 15
  dst : Nat
  src : Nat
  tag : Nat := 0
  addr : Nat := 0
  len : Nat := 0
  fbe : Nat := 15
  lbe : Nat := 15
  cst : Nat := 0
  woff : Nat := 0
  last : Bool := true
  flags : Option Nat := none
  aux : Nat := 0
  data : List Byte := []
deriving DecidableEq, Repr

/-- What an ageing measurement finds (R473, R474, R484): a cluster's extra voltage, and whether it was taken under load; a
replica array's lowest supply; or a module's smallest eye, the lane that has it, and the spares left. -/
inductive Meas where
  | cluster (c : Fin 8) (mv : BitVec 12) (noisy : Bool)
  | sram (g : Fin 6) (vmin : BitVec 12)
  | lane (m : Fin 12) (eye : BitVec 8) (lane : BitVec 6) (spares : BitVec 5)
deriving DecidableEq, Repr


/-- The commands of spec/opcode_table.json, one constructor per row. -/
inductive Instr where
  /-- R50. The HPU accepts a 64-bit doorbell write to a queue's slot, and the QMU applies SQ_TAIL and CQ_HEAD to the queue context, which may make the queue Runnable. -/
  | doorbell (func : Fin 1024) (qid : BitVec 16) (val : BitVec 64)
  /-- R78. The King pipe picks a group, a queue and the lowest free eligible slot, then dispatches the queue to that slot's context. -/
  | kingPipeDecision
  /-- R78. The general pipe picks a class, a group, a queue and a cluster, then dispatches the queue to the cluster's lowest free context. -/
  | generalPipeDecision
  /-- R96. The submission-entry read returns, P0 to P5 are loaded into D0 to D5, and the program's PSEL and POFF are checked. -/
  | entryReturn (ctx : Fin 1024) (e : Entry)
  /-- R27. Data for a CXL.cache or CXL.io read of host memory returns to the requesting context, mover or block. -/
  | hostReadCompletion (req : Nat) (r : ReadResult)
  /-- R64. An entry read or completion write fails, or its translation fails, and the queue enters Error and stops its programs. -/
  | ringAccessFailure (qid : BitVec 16) (cause : Fin 16) (addr : BitVec 57) (ctx : Option (Fin 1024))
  /-- R53. The QMU claims the completion slot, writes the 32 B entry with the current phase, advances CQ_TAIL and raises the EIC source if IOC is set. -/
  | completionWrite (qid : BitVec 16)
  /-- R62. The QCTL command ENABLE zeroes the indices and counters of a Disabled queue and makes it Idle, subject to the group and King checks. -/
  | enableQ (qid : BitVec 16) (notify : Bool)
  /-- R62. The QCTL command DRAIN stops claims, clears SUSP_REQ and lets programs in flight finish, and the queue becomes Disabled when IN_FLIGHT reaches 0. -/
  | drainQ (qid : BitVec 16) (notify : Bool)
  /-- R62. The QCTL command DRAIN_ABORT stops every program in flight with status 0x70 or 0x60 and AUTO set, and the queue then becomes Disabled. -/
  | drainAbort (qid : BitVec 16) (notify : Bool)
  /-- R62. The QCTL command SUSPEND sets SUSP_REQ so that claims stop and programs park at their next suspend point. -/
  | suspend (qid : BitVec 16) (notify : Bool)
  /-- R62. The QCTL command RESUME clears SUSP_REQ, and parked programs and dispatch resume. -/
  | resume (qid : BitVec 16) (notify : Bool)
  /-- R62. The QCTL command RESET stops every program in flight without completion entries and zeroes the indices, and the queue then becomes Disabled. -/
  | resetQ (qid : BitVec 16) (notify : Bool)
  /-- R37. A write to GRP[n] assigns a queue group to a function, and it is discarded with GRP_BUSY set unless all 16 queues are Disabled. -/
  | grpWrite (n : Fin 4096) (val : BitVec 64)
  /-- R57. Writing 1 to QMU_STAT.CLR_FOREIGN clears the DB_FOREIGN count. -/
  | clrForeign
  /-- R66. A function-level reset applies RESET to every queue of the function's groups, resets their contexts, discards doorbells and acts on domains and EIC state. -/
  | functionLevelReset (func : Fin 1024)
  /-- R345. A function-level reset completes, and Transactions Pending clears in the function's configuration space. -/
  | flrComplete (func : Fin 1024)
  /-- R12. A write to a register field that has no row of its own takes effect according to its field type. -/
  | registerWrite (acc : Accessor) (off : Nat) (bytes : Nat) (val : BitVec 64)
  /-- R71. An arbiter's window count expires, and every counter is reloaded from its weight and the high-priority quota is reset. -/
  | arbiterWindowStart (g : WinId)
  /-- R71. A weighted-credit arbiter grants one requester under its lock, quota, counter and pointer rules. -/
  | arbiterDecision (a : ArbId) (reqs : List Nat) (cost : Nat)
  /-- R75. Writing 1 to QSC_COMMIT.COMMIT copies the shadowed QSC weights, window and quota to active in the next FCLK cycle. -/
  | qscCommit
  /-- R85. Writing 1 to FXB_COMMIT.COMMIT copies WIN_LOG2 and FXB_VC to active. -/
  | fxbCommit
  /-- R265. Writing 1 to DMG_COMMIT.COMMIT copies DMG_CTL and DMG_CW to active. -/
  | dmgCommit (g : Fin 4)
  /-- R392. Writing 1 to EIC_COMMIT.COMMIT copies WIN_LOG2 and HPQ to active. -/
  | eicCommit
  /-- R82. Writing 1 to KST_CTL.SWAP requests that the King slot-table banks be exchanged at a later window start. -/
  | kstSwap
  /-- R84. Writing 1 to KING_STAT.CLR_OVERQ clears the OVERQ count. -/
  | clrOverq
  /-- R128. A program's chess clock reaches 0, and the program ends with 0x40, breaks its lock with 0x80, or stops silently if it has posted. -/
  | chessClockFlagFall (ctx : Fin 1024)
  /-- R130. The cluster's stalemate detector scans its wait-for graph at the end of each scan period. -/
  | stalemateScan (cluster : Fin 8)
  /-- R133. Writing 1 to PGM_STAT.CLR clears the program counters. -/
  | pgmStatClr (cluster : Fin 8)
  /-- R176. The instruction NOP does nothing, and it can end a locked sequence. -/
  | nop (h : Hdr)
  /-- R101. The instruction HALT waits for transfers and chained commands, writes an AUTO entry if the program has not posted, and frees the context. -/
  | halt (h : Hdr)
  /-- R100. The instruction POST waits for transfers and chained commands, then hands the completion entry with the given status and result to the QMU. -/
  | post (h : Hdr) (status : BitVec 8) (d : Fin 16)
  /-- R121. The instruction SPT is a suspend point, where the program parks if SUSP_REQ is set. -/
  | spt (h : Hdr)
  /-- R126. The instruction RET pops the call stack and checks the popped target. -/
  | ret (h : Hdr)
  /-- R126. The instruction CALL pushes the next CPC and jumps within the program segment. -/
  | call (h : Hdr) (rel : BitVec 32)
  /-- R176. The instruction JMP jumps to a relative or register target within the program segment, after a limit check. -/
  | jmp (h : Hdr) (t : JmpTo)
  /-- R152. The instruction Jcc jumps when its condition holds on CF. -/
  | jcc (h : Hdr) (cc : Fin 16) (rel : BitVec 32)
  /-- R125. The instruction TIC checks a CPC-format target in another segment and continues there without pushing. -/
  | tic (h : Hdr) (t : FarTo)
  /-- R126. The instruction CALLF checks a far target, pushes the next CPC and jumps. -/
  | callf (h : Hdr) (t : FarTo)
  /-- R163. The instruction MOV moves a D register or an immediate into Dx at the operand width. -/
  | mov (h : Hdr) (d : Fin 16) (src : Src)
  /-- R163. The instruction LD loads memory through a segment into Dx and sets Z and N. -/
  | ld (h : Hdr) (d : Fin 16) (m : Mem)
  /-- R153. The instruction LDI loads through an indexed address as LD does. -/
  | ldi (h : Hdr) (d : Fin 16) (m : Mem) (k : Fin 16)
  /-- R163. The instruction ST stores Dx to memory through a segment, held in the commit buffer under speculation. -/
  | st (h : Hdr) (m : Mem) (d : Fin 16)
  /-- R153. The instruction STI stores through an indexed address as ST does. -/
  | sti (h : Hdr) (m : Mem) (k : Fin 16) (d : Fin 16)
  /-- R163. The instruction MOVA loads an A register from a D register or an immediate. -/
  | mova (h : Hdr) (a : Fin 16) (src : Src)
  /-- R163. The instruction MOVD copies an A register into a D register. -/
  | movd (h : Hdr) (d : Fin 16) (a : Fin 16)
  /-- R163. The instruction ADDA adds to an A register modulo 2^64. -/
  | adda (h : Hdr) (a : Fin 16) (src : Src)
  /-- R163. The instruction SUBA subtracts from an A register modulo 2^64. -/
  | suba (h : Hdr) (a : Fin 16) (src : Src)
  /-- R163. The instruction CMPA compares an A register and sets Z and C. -/
  | cmpa (h : Hdr) (a : Fin 16) (src : ASrc)
  /-- R194. The instruction LDS loads a segment register with the descriptor of a selector. -/
  | lds (h : Hdr) (sr : Fin 16) (sel : SelSrc)
  /-- R194. The STU's read of a segment-table entry returns, or fails, and the waiting LDS completes. -/
  | segmentTableRead (dom : Fin 4096) (sel : BitVec 16) (r : Option SegEntry)
  /-- R149. The instruction MOVS reads a special register into Dx. -/
  | movs (h : Hdr) (d : Fin 16) (sp : Fin 16)
  /-- R163. The instruction MOVS CF, Dy writes CF from Dy. -/
  | movsCf (h : Hdr) (e : Fin 16)
  /-- R163. The instruction XCHG exchanges two D registers. -/
  | xchg (h : Hdr) (d : Fin 16) (e : Fin 16)
  /-- R165. The instruction ADD adds at width w and sets Z, N, C and V. -/
  | add (h : Hdr) (d : Fin 16) (src : Src)
  /-- R165. The instruction ADC adds with carry at width w. -/
  | adc (h : Hdr) (d : Fin 16) (src : Src)
  /-- R165. The instruction SUB subtracts at width w. -/
  | sub (h : Hdr) (d : Fin 16) (src : Src)
  /-- R165. The instruction SBB subtracts with borrow at width w. -/
  | sbb (h : Hdr) (d : Fin 16) (src : Src)
  /-- R165. The instruction AND computes a bitwise AND at width w. -/
  | andI (h : Hdr) (d : Fin 16) (src : Src)
  /-- R165. The instruction OR computes a bitwise OR at width w. -/
  | orI (h : Hdr) (d : Fin 16) (src : Src)
  /-- R165. The instruction XOR computes a bitwise XOR at width w. -/
  | xorI (h : Hdr) (d : Fin 16) (src : Src)
  /-- R165. The instruction CMP subtracts without writing the result and sets flags. -/
  | cmp (h : Hdr) (d : Fin 16) (src : Src)
  /-- R165. The instruction TEST ANDs without writing the result and sets flags. -/
  | testI (h : Hdr) (d : Fin 16) (src : Src)
  /-- R166. The instruction NEG negates Dx at width w. -/
  | neg (h : Hdr) (d : Fin 16)
  /-- R165. The instruction NOT complements Dx at width w. -/
  | notI (h : Hdr) (d : Fin 16)
  /-- R167. The instruction SHL shifts left by the full 64-bit count. -/
  | shl (h : Hdr) (d : Fin 16) (src : Src)
  /-- R167. The instruction SHR shifts right with zero fill. -/
  | shr (h : Hdr) (d : Fin 16) (src : Src)
  /-- R167. The instruction SAR shifts right arithmetically. -/
  | sar (h : Hdr) (d : Fin 16) (src : Src)
  /-- R167. The instruction ROL rotates left by the count modulo w. -/
  | rol (h : Hdr) (d : Fin 16) (src : Src)
  /-- R167. The instruction ROR rotates right by the count modulo w. -/
  | ror (h : Hdr) (d : Fin 16) (src : Src)
  /-- R168. The instruction MUL starts a signed multiply whose product lands in MH:ML. -/
  | mul (h : Hdr) (d : Fin 16) (e : Fin 16)
  /-- R168. The instruction MULU starts an unsigned multiply. -/
  | mulu (h : Hdr) (d : Fin 16) (e : Fin 16)
  /-- R169. The instruction DIV starts a signed divide, sets DZ and V at issue, and lands its results in DQ and DM. -/
  | div (h : Hdr) (d : Fin 16) (e : Fin 16)
  /-- R169. The instruction DIVU starts an unsigned divide. -/
  | divu (h : Hdr) (d : Fin 16) (e : Fin 16)
  /-- R168. In the 4th ECLK cycle after issue, the product lands in MH:ML and MBUSY clears. -/
  | productLands (ctx : Fin 1024)
  /-- R169. In the 20th ECLK cycle after issue, the quotient and remainder land in DQ and DM and DBUSY clears. -/
  | quotientLands (ctx : Fin 1024)
  /-- R165. The instruction MIN takes the signed minimum. -/
  | minI (h : Hdr) (d : Fin 16) (e : Fin 16)
  /-- R165. The instruction MAX takes the signed maximum. -/
  | maxI (h : Hdr) (d : Fin 16) (e : Fin 16)
  /-- R165. The instruction MINU takes the unsigned minimum. -/
  | minu (h : Hdr) (d : Fin 16) (e : Fin 16)
  /-- R165. The instruction MAXU takes the unsigned maximum. -/
  | maxu (h : Hdr) (d : Fin 16) (e : Fin 16)
  /-- R165. The instruction SEXT sign-extends Dy from width w. -/
  | sext (h : Hdr) (d : Fin 16) (e : Fin 16)
  /-- R165. The instruction ZEXT zero-extends Dy from width w. -/
  | zext (h : Hdr) (d : Fin 16) (e : Fin 16)
  /-- R165. The instruction POPC counts the 1 bits of Dy. -/
  | popc (h : Hdr) (d : Fin 16) (e : Fin 16)
  /-- R165. The instruction CLZ counts leading zeros. -/
  | clz (h : Hdr) (d : Fin 16) (e : Fin 16)
  /-- R165. The instruction CTZ counts trailing zeros. -/
  | ctz (h : Hdr) (d : Fin 16) (e : Fin 16)
  /-- R165. The instruction BSWAP reverses the bytes of Dy at width w. -/
  | bswap (h : Hdr) (d : Fin 16) (e : Fin 16)
  /-- R174. The instruction BTST reads a bit of the bit space and sets Z and C. -/
  | btst (h : Hdr) (b : BitSrc)
  /-- R174. The instruction BSET sets a bit, atomically on semaphore bits. -/
  | bset (h : Hdr) (b : BitSrc)
  /-- R174. The instruction BCLR clears a bit. -/
  | bclr (h : Hdr) (b : BitSrc)
  /-- R174. The instruction BNOT inverts a bit. -/
  | bnot (h : Hdr) (b : BitSrc)
  /-- R174. The instruction BLD loads a bit into Dx. -/
  | bld (h : Hdr) (d : Fin 16) (bit : BitVec 16)
  /-- R174. The instruction BST stores Dx[0] into a bit. -/
  | bst (h : Hdr) (bit : BitVec 16) (d : Fin 16)
  /-- R129. The instruction SEMA acquires a cluster semaphore bit, waiting while it is owned unless inside a locked sequence. -/
  | sema (h : Hdr) (b : BitSrc)
  /-- R174. The instruction SEMR clears a semaphore bit and its owner record, which lets a waiting SEMA acquire the bit. -/
  | semr (h : Hdr) (b : BitSrc)
  /-- R174. The instruction SEMT tries to acquire a semaphore bit without waiting. -/
  | semt (h : Hdr) (b : BitSrc)
  /-- R119. The instruction WAITB waits for a bit to reach a value and ends the program with 0x41 on timeout. -/
  | waitb (h : Hdr) (bit : BitVec 16) (val : Bool) (t : Fin 16)
  /-- R119. The instruction TWAITB waits for a bit and sets CF.Z to 0 on timeout instead of ending the program. -/
  | twaitb (h : Hdr) (bit : BitVec 16) (val : Bool) (t : Fin 16)
  /-- R119. A waited bit is sampled at the awaited value, and the wait completes. -/
  | bitWaitSatisfied (ctx : Fin 1024)
  /-- R119. A WAITB or TWAITB timeout expires with the bit not at the awaited value. -/
  | waitTimeout (ctx : Fin 1024)
  /-- R107. The instruction BIND checks a device port and makes it the context's bound port, loading its status image. -/
  | bind (h : Hdr) (d : Fin 16)
  /-- R108. The instruction UNBIND removes the context's port binding. -/
  | unbind (h : Hdr)
  /-- R109. The instruction DRD reads a 64-bit register of the bound port with an MRD. -/
  | drd (h : Hdr) (d : Fin 16) (ix : SelSrc)
  /-- R109. The instruction DWR writes a 64-bit register of the bound port with a non-posted MWRN. -/
  | dwr (h : Hdr) (ix : SelSrc) (d : Fin 16)
  /-- R110. The instruction DCMD sends a command word to the bound port and waits for its completion status. -/
  | dcmd (h : Hdr) (d : Fin 16) (e : Fin 16)
  /-- R111. The instruction DCMD.C queues a chained command to the bound port and continues. -/
  | dcmdC (h : Hdr) (d : Fin 16)
  /-- R113. The instruction WAITC waits for every chained command and reports the first failure. -/
  | waitc (h : Hdr) (d : Fin 16)
  /-- R114. The instruction XFER checks the ranges and starts a transfer in a free slot, opening, extending or closing a data chain. -/
  | xfer (h : Hdr) (x : XOpnd)
  /-- R236. The instruction XFERT starts a transfer with a transform selector. -/
  | xfert (h : Hdr) (x : XOpnd) (tsel : BitVec 32)
  /-- R118. The instruction WAITX waits until every transfer slot is free, then reports the residual and whether any transfer ended short. -/
  | waitx (h : Hdr) (d : Fin 16)
  /-- R259. The instruction BALLOC allocates a pool buffer, loads its handle and descriptor, or waits for a free buffer. -/
  | balloc (h : Hdr) (sr : Fin 16) (d : Fin 16) (imm : BitVec 16)
  /-- R260. The instruction BFREE checks a handle and returns the buffer to its pool. -/
  | bfree (h : Hdr) (d : Fin 16)
  /-- R252. The instruction STRIPE reads a stripe descriptor and writes a buffer as Reed-Solomon data and parity shards. -/
  | stripe (h : Hdr) (m : Mem) (d : Fin 16)
  /-- R253. The instruction GATHER reads shards, rebuilds missing data into the buffer, and optionally rewrites shards or verifies parity. -/
  | gather (h : Hdr) (m : Mem) (d : Fin 16)
  /-- R172. The instruction ACCCLR clears an accumulator. -/
  | accclr (h : Hdr) (n : Fin 16)
  /-- R172. The instruction ACCADD adds a sign-extended value to an accumulator. -/
  | accadd (h : Hdr) (n e : Fin 16)
  /-- R172. The instruction ACCCNT adds a population count to an accumulator. -/
  | acccnt (h : Hdr) (n e : Fin 16)
  /-- R172. The instruction ACCMIN keeps the signed minimum in an accumulator. -/
  | accmin (h : Hdr) (n e : Fin 16)
  /-- R172. The instruction ACCMAX keeps the signed maximum in an accumulator. -/
  | accmax (h : Hdr) (n e : Fin 16)
  /-- R172. The instruction ACCMINU keeps the unsigned minimum in an accumulator. -/
  | accminu (h : Hdr) (n e : Fin 16)
  /-- R172. The instruction ACCMAXU keeps the unsigned maximum in an accumulator. -/
  | accmaxu (h : Hdr) (n e : Fin 16)
  /-- R173. The instruction CRCSTEP advances a reflected CRC held in an accumulator over bytes of Dy. -/
  | crcstep (h : Hdr) (n e : Fin 16)
  /-- R172. The instruction FOLD forms the ones'-complement sum of an accumulator's pieces in Dx. -/
  | fold (h : Hdr) (d : Fin 16) (n : Fin 16)
  /-- R172. The instruction MOVD Dx, ACCn.k reads one piece of an accumulator. -/
  | movdAcc (h : Hdr) (d : Fin 16) (nk : Fin 16)
  /-- R172. The instruction MOVACC writes one piece of an accumulator. -/
  | movacc (h : Hdr) (nk e : Fin 16)
  /-- R322. The instruction EXTn checks its binding and sends an XREQ to the bound extension unit. -/
  | ext (h : Hdr) (n : Fin 8) (d e : Fin 16) (fn : BitVec 16)
  /-- R221. A confirmed and verified checkpoint whose older checkpoints have retired retires, its watch entries leave, held frees apply and held writes drain. -/
  | checkpointRetire (ctx : Fin 1024)
  /-- R223. Twelve ECLK cycles after a squash begins, the restored context resumes at the predicted instruction. -/
  | squashComplete (ctx : Fin 1024)
  /-- R220. A predicted-satisfied wait is unresolved HORIZON units after its checkpoint opened, and the checkpoint is squashed with cause HORIZON. -/
  | horizonExpiry (ctx : Fin 1024)
  /-- R332. An H2D CXL.cache snoop is answered as for a clean line, and a hit on a watched line squashes with cause CONFLICT. -/
  | snoop (func : Fin 1024) (line : BitVec 51)
  /-- R227. Writing 1 to GBT_CLR.CLR clears GBT_CNT0 to GBT_CNT3. -/
  | gbtClr (cluster : Fin 8)
  /-- R201. INV_CMD GO starts a segment invalidation of the given scope: accept, drop, mark, squash and drain. -/
  | invalidation (scope : Fin 4) (stop notify : Bool) (dom : Fin 4096) (sel : BitVec 16)
  /-- R201. The drain of an invalidation finishes, BUSY clears, DONE sets and STU_INV may be raised. -/
  | invalidationComplete
  /-- R200. A host ATS invalidation request arrives, and the STU waits for requests that used the affected translations. -/
  | atsInvalidation (func : Fin 1024) (page : BitVec 45 × Fin 46)
  /-- R200. The STU completes a host ATS invalidation once the affected requests have completed at the HPU. -/
  | atsInvalidationComplete (func : Fin 1024) (page : BitVec 45)
  /-- R199. An ATS translation response returns or refuses a page, and a refusal stops the transfer with 0x21. -/
  | translationResponse (func : Fin 1024) (page : BitVec 45) (r : Option (BitVec 45 × Fin 46))
  /-- R229. A mover group admits the head transfer of a cluster's queue to a mover entry. -/
  | transferAdmit (g : Fin 4)
  /-- R229. A transfer has waited SPILL cycles at its queue head and is also offered to the other mover groups. -/
  | transferSpill (cluster : Fin 8)
  /-- R246. A mover waiting for a transform lane is granted a free lane in waiting order. -/
  | laneGrant (mover : Fin 16)
  /-- R231. A transfer writes its last beat, writes its transform outputs, and frees its slot and mover entry. -/
  | transferComplete (ctx : Fin 1024) (slot : Fin 4)
  /-- R234. A transfer stops on an error, poison, removal, refusal, invalidation or PI failure, and is logged in XFER_LOG. -/
  | transferFailure (ctx : Fin 1024) (slot : Fin 4) (cause : Fin 16) (shard : Fin 64) (lost : Nat)
  /-- R235. A mover group or lane pair that has been idle for 256 ECLK_DP cycles is clock-gated. -/
  | groupClockGate (g : Fin 8)
  /-- R259. A BALLOC waiting on an empty pool reaches WAIT_LIMIT and ends the program with 0x90. -/
  | ballocWaitExpiry (ctx : Fin 1024)
  /-- R258. A free-ring read returns up to 8 indices that refill the pool's on-die cache. -/
  | freeRingRefill (pool : Fin 4096) (ix : List (BitVec 32))
  /-- R262. A PF write of a handle to BPM_HFREE frees the buffer, or the write is discarded and counted. -/
  | bpmHfree (handle : BitVec 64)
  /-- R264. Setting a pool's EN checks the totals, then zeroes its cache, ring and FRESH and sets FREE to NBUF. -/
  | poolEnable (pool : Fin 4096)
  /-- R264. Clearing a pool's EN ends its waiting BALLOCs with 0x22 and drops its allocation records. -/
  | poolDisable (pool : Fin 4096)
  /-- R277. Setting PLU_CTL.EN starts link bring-up at Training. -/
  | linkEnable (p : Fin 8)
  /-- R295. Clearing PLU_CTL.EN takes the link through Down to Disabled. -/
  | linkDisable (p : Fin 8)
  /-- R281. Setting PLU_CTL.HOLD holds PEER_RESET_N low and takes a joined link Down with cause 11. -/
  | linkHold (p : Fin 8)
  /-- R281. Clearing PLU_CTL.HOLD lets a link held in Down restart. -/
  | linkHoldClear (p : Fin 8)
  /-- R295. Writing PLU_CTL.RETRAIN restarts bring-up, taking a joined link Down with cause 11 and clearing ATTEMPTS. -/
  | linkRetrain (p : Fin 8)
  /-- R295. Writing 1 to PLU_CTL.CLR_CNT clears PLU_CNT. -/
  | pluClrCnt (p : Fin 8)
  /-- R277. A peer module reaches the UCIe active state, the PLU enters Waiting and releases PEER_RESET_N. -/
  | linkTrained (p : Fin 8) (rate : Fin 8)
  /-- R277. The 10 ms training timer expires, and the attempt fails with cause 1. -/
  | trainingTimeout (p : Fin 8)
  /-- R277. No peer LID arrives within 20 ms of release, and the attempt fails with cause 2. -/
  | peerTimeout (p : Fin 9)
  /-- R277. Init does not complete within 100 us of the peer's first LID, and the attempt fails with cause 3. -/
  | initTimeout (p : Fin 9)
  /-- R277. After 1 ms low following a failed attempt or Down, the link starts again at Training. -/
  | retryHoldExpiry (p : Fin 8)
  /-- R277. In Waiting, the PLU sends LID every 10 us until the peer's first LID arrives. -/
  | lidResend (p : Fin 9)
  /-- R277. A received LID word moves the link from Waiting to Init, or completes an endpoint's node assignment. -/
  | lid (p : Fin 9) (hi : BitVec 24)
  /-- R275. A received LCAP word gives the peer's switch flag, MPS and node request. -/
  | lcap (p : Fin 9) (hi : BitVec 24)
  /-- R284. A received LINIT word gives the peer's credits for one VC, which are checked against the minimum. -/
  | linit (p : Fin 9) (hi : BitVec 24)
  /-- R278. A received LASN word grants a block of node IDs. -/
  | lasn (p : Fin 9) (hi : BitVec 24)
  /-- R285. A received LCRD word returns header and data credits for one VC. -/
  | lcrd (p : Fin 9) (hi : BitVec 24)
  /-- R285. A receiver that owes credits sends an LCRD within 64 FCLK cycles of the first credit owed. -/
  | lcrdDue (p : Fin 9) (vc : Fin 4)
  /-- R294. The UCIe module loses the link or replay is exhausted, and the link goes Down. -/
  | linkLoss (p : Fin 8)
  /-- R288. Writing RT_CTL.SWAP makes the shadow route bank active for headers from the next cycle. -/
  | routeSwap
  /-- R280. FABRIC_READY rises once every enabled link has joined or failed and the route bank is loaded. -/
  | fabricReady
  /-- R302. A received memory read request is routed, or answered by the device's own node with CPLD pieces or a CPL. -/
  | mrd (link : Fin 10) (p : Pkt)
  /-- R298. A received posted memory write is routed or applied at the target. -/
  | mwr (link : Fin 10) (p : Pkt)
  /-- R298. A received non-posted memory write is routed or applied, and is answered with a CPL. -/
  | mwrn (link : Fin 10) (p : Pkt)
  /-- R298. A received device-command packet is routed to its target node. -/
  | dcmdPacket (link : Fin 10) (p : Pkt)
  /-- R317. A status update from an endpoint replaces words of a port's status image, which the cluster copies then follow. -/
  | supd (link : Fin 10) (p : Pkt)
  /-- R322. An extension request packet is routed to its unit. -/
  | xreq (link : Fin 10) (p : Pkt)
  /-- R301. A completion without data arrives, ends its transaction with its CST, and carries DSTAT for a DCMD. -/
  | cpl (link : Fin 10) (p : Pkt)
  /-- R302. A completion-with-data piece arrives and delivers read data, and its last piece ends the transaction. -/
  | cpld (link : Fin 10) (p : Pkt)
  /-- R323. An extension response arrives and writes Dx and flags, or ends the program with 0x50. -/
  | xrsp (link : Fin 10) (p : Pkt)
  /-- R309. A non-posted request's timer expires, and the transaction ends as DEVERR, or 0x51 for XREQ. -/
  | transactionTimeout (tag : Fin 4096)
  /-- R310. Writing 1 to TXN_STAT.CLR clears the transaction counts. -/
  | txnStatClr
  /-- R325. Writing 1 to EXT_CNT.CLR clears the extension counts. -/
  | extCntClr
  /-- R315. A write to DP_DATA is checked against the VALID and REMOVED rules, and setting VALID removes the port at once if its node is unreachable. -/
  | dpDataWrite (word : Fin 4) (val : BitVec 64)
  /-- R318. DP_CMD REMOVE removes a port: GEN rises, the image clears, waits end with 0x31, transfers stop and locks break. -/
  | portRemove (port : Fin 4096)
  /-- R319. DP_CMD RESTORE clears REMOVED on a port whose node is reachable. -/
  | portRestore (port : Fin 4096)
  /-- R328. The host modules finish training, and the host link comes up on the largest contiguous set of modules. -/
  | hostLinkUp (mods : BitVec 4) (rate : Fin 8)
  /-- R329. The host link goes down: host requests fail inside the device, affected queues enter Error and the HPU error line rises. -/
  | hostLinkDown
  /-- R347. Writing HPU_CTL.RETRAIN takes the host link down and retrains it. -/
  | hostRetrain
  /-- R347. Writing 1 to HPU_STAT.CLR clears the HPU counts. -/
  | hpuStatClr
  /-- R333. A write to Cache_Enable is ignored while any queue is enabled, and otherwise takes effect. -/
  | cacheEnableWrite (val : Bool)
  /-- R334. A function's Bus Master Enable changes, which stops or resumes its dispatch, host requests and event delivery. -/
  | busMasterEnableChange (func : Fin 1024) (val : Bool)
  /-- R340. Clearing VF Enable applies a function-level reset to every VF. -/
  | vfEnableClear
  /-- R342. Clearing a function's ATS Enable drops its cached translations. -/
  | atsEnableClear (func : Fin 1024)
  /-- R346. A function moves between D0 and D3hot, and in D3hot it acts as with Bus Master Enable 0. -/
  | dStateChange (func : Fin 1024) (d3 : Bool)
  /-- R343. A CXL IDE integrity failure takes the stream out of the secure state and brings the host link down. -/
  | ideFailure
  /-- R384. An MSI-X entry or function mask is cleared, and a message pending in the PBA is sent. -/
  | msixUnmask (func : Fin 1024) (vec : Option (Fin 2048))
  /-- R354. A PF access through the scratchpad host aperture reaches a bank if the bank is owned by the host window. -/
  | apertureAccess (off : BitVec 24) (n : Fin 65) (w : Option (List Byte))
  /-- R355. BANK_CMD GRANT gives a Free bank to a new owner. -/
  | bankGrant (bank : BitVec 10) (owner : BitVec 16) (testOk notify : Bool)
  /-- R355. BANK_CMD RELEASE refuses new accesses to a bank, completes accepted ones and optionally clears the bank. -/
  | bankRelease (bank : BitVec 10) (clear notify : Bool)
  /-- R355. BANK_CMD HANDOVER releases a bank and grants it to a new owner with no gap in between. -/
  | bankHandover (bank : BitVec 10) (owner : BitVec 16) (clear testOk notify : Bool)
  /-- R355. A releasing bank finishes draining and clearing, reaches its final state, BUSY clears and SPM_BANK may be raised. -/
  | bankReleaseComplete
  /-- R357. After the test gap, the background test borrows a bank and saves, marches and restores one 4 KiB chunk. -/
  | testStep (bad : Option (BitVec 18)) (urgent : Bool)
  /-- R360. Writing 1 to SPM_STAT.CLR clears the SPM counts. -/
  | spmStatClr
  /-- R364. A write to a FIFO window pushes one or more words, or drops them when the FIFO is full and writes a gap marker later. -/
  | fifoPush (f : Fin 64) (req src : BitVec 16) (off : BitVec 12) (data : List Byte)
  /-- R364. A read of a FIFO window pops words, or returns EMPTY words. -/
  | fifoPop (f : Fin 64) (req : BitVec 16) (off : BitVec 12) (n : Fin 513)
  /-- R362. A read at window offset 0x418 returns the upper half of the head word without popping it. -/
  | fifoPeek (f : Fin 64) (req : BitVec 16)
  /-- R368. A pop through a group window takes each word from the FIFO of the group with the best priority. -/
  | groupPop (g : Fin 8) (req : BitVec 16) (off : BitVec 12) (n : Fin 513)
  /-- R365. The consumer command MARK releases up to RD and activates a mark at RD. -/
  | fifoMark (f : Fin 64) (req : Option (BitVec 16))
  /-- R365. The consumer command REWIND returns RD to the mark. -/
  | fifoRewind (f : Fin 64) (req : Option (BitVec 16))
  /-- R365. The consumer command RELEASE frees the slots up to RD and deactivates the mark. -/
  | fifoRelease (f : Fin 64) (req : Option (BitVec 16))
  /-- R371. FIFO_CMD RESET zeroes both pointer copies and clears the mark, gap, drop, BROKEN and XSTATE state. -/
  | fifoReset (f : Fin 64)
  /-- R371. Setting FIFO_CFG.EN resets the FIFO and clears its sticky bits and counters. -/
  | fifoEnable (f : Fin 64)
  /-- R372. Writing 1 to FIFO_CNT.CLR clears the FIFO counters. -/
  | fifoCntClr (f : Fin 64)
  /-- R370. An XOFF line's 8-cycle minimum high time passes, and the line falls if no FIFO drives it. -/
  | xoffHoldExpiry (l : Fin 4)
  /-- R394. A block detects an internal uncorrectable error, disagreement, lost lock or monitor fault, logs it and raises its error line. -/
  | hardwareFault (blk : Fin 64) (kind : Fin 16) (unit : Fin 1024) (loc : BitVec 32) (ctx : Option (Fin 1024))
  /-- R381. The EIC selects the best eligible pending source for a target without a delivery, re-evaluating during entry. -/
  | eicSelect (tgt : Fin 4100)
  /-- R382. Once granted by the delivery arbiter, the event record write issues and the source's PEND and CNT clear. -/
  | recordIssue (tgt : Fin 4100) (maskRace : Bool)
  /-- R385. A due interrupt's bypass, count or moderation time is met, and its MSI-X message is sent. -/
  | moderationExpiry (eq : Fin 4096)
  /-- R389. A record write gets an error response or a translation failure, the queue's ERR sets and the source becomes pending again. -/
  | recordWriteError (eq : Fin 4096) (src : Fin 68608) (cnt : BitVec 8) (addr : BitVec 57)
  /-- R392. SRC_CMD RAISE raises a software or private source. -/
  | srcRaise (src : Fin 68608)
  /-- R392. SRC_CMD ACK clears ACT of a level source. -/
  | srcAck (src : Fin 68608)
  /-- R392. SRC_CMD CLEAR clears PEND and CNT and ends an entry that holds the source. -/
  | srcClear (src : Fin 68608)
  /-- R386. A write to SRC_CFG changes mask, priority or target, and setting MASK raises MEPOCH and suppresses a record still in entry. -/
  | srcCfgWrite (src : Fin 68608) (val : BitVec 64)
  /-- R388. A write to EQ_DB returns event-queue slots by setting HEAD, or is discarded as foreign. -/
  | eqDb (func : Fin 1024) (val : BitVec 64)
  /-- R392. Setting EQ_DATA.EN zeroes TAIL, HEAD and SPURIOUS, sets the phase and clears ERR. -/
  | eventQueueEnable (eq : Fin 4096)
  /-- R393. Clearing EQ_DATA.EN drops due messages and ends an entry to the queue. -/
  | eventQueueDisable (eq : Fin 4096)
  /-- R392. Setting CORE_EQ.EN zeroes TAIL and HEAD of a management core ring. -/
  | coreEqEnable (core : Fin 4)
  /-- R392. Writing 1 to EIC_STAT.CLR clears the EIC counts. -/
  | eicStatClr
  /-- R397. Writing 1 to FSW bits clears them, and a line still high rises again as a new rise. -/
  | fswClear (mask : BitVec 64)
  /-- R401. The PCM removes a reset block's mask, or holds the block when the escalation limit has been reached. -/
  | blockResetComplete (blk : Fin 64)
  /-- R400. FAULT_N's 1 us minimum low time passes, and the pin is released if no PIN bit is set. -/
  | faultPinHoldExpiry
  /-- R403. Writing 1 to FCL_REACT.RELEASE completes a held block's reset and clears HELD and RST_CNT. -/
  | heldRelease (blk : Fin 64)
  /-- R405. Writing 1 to FCL_REACT.CLR_CNT clears RST_CNT. -/
  | reactClrCnt (blk : Fin 64)
  /-- R412. Writing GO submits the request in a mailbox window, sets BUSY and clears DONE, or is discarded with OVERRUN set. -/
  | mailboxGo (m : Fin 1024)
  /-- R413. Writing ABORT stops an abortable command in progress, which answers ABORTED. -/
  | mailboxAbort (m : Fin 1024)
  /-- R413. The MGP arbiter selects a window with GO pending, and firmware copies its request and runs the command. -/
  | mailboxSelect
  /-- R414. ACP firmware restarts, busy windows complete with INTERNAL and N_FWRST sets. -/
  | firmwareRestart
  /-- R419. The ACP command INFO returns firmware, function, epoch and ownership information. -/
  | info (m : Fin 1024)
  /-- R419. The ACP command ECHO returns its payload. -/
  | echo (m : Fin 1024)
  /-- R419. The ACP command GRP_LIST lists the caller's groups. -/
  | grpList (m : Fin 1024)
  /-- R419. The ACP command QUEUE_SET writes the context of an own Disabled queue. -/
  | queueSet (m : Fin 1024)
  /-- R419. The ACP command QUEUE_GET returns a queue context. -/
  | queueGet (m : Fin 1024)
  /-- R419. The ACP command QUEUE_CMD applies a QCTL command to an own queue, optionally waiting for the final state. -/
  | queueCmd (m : Fin 1024) (late : Bool)
  /-- R419. The ACP command DOM_GET returns a domain entry. -/
  | domGet (m : Fin 1024)
  /-- R419. The ACP command SEG_SET checks and writes a segment entry, then runs a selector invalidation. -/
  | segSet (m : Fin 1024)
  /-- R419. The ACP command SEG_GET returns a segment entry. -/
  | segGet (m : Fin 1024) (data : Option (List Byte))
  /-- R419. The ACP command EVQ_SET configures an own event queue. -/
  | evqSet (m : Fin 1024)
  /-- R419. The ACP command SRC_SET configures an own EIC source and applies a source command. -/
  | srcSet (m : Fin 1024)
  /-- R419. The ACP command KEY_LOAD loads a cipher key into a free or own key slot. -/
  | keyLoad (m : Fin 1024)
  /-- R419. The ACP command KEY_CLEAR frees an own key slot. -/
  | keyClear (m : Fin 1024)
  /-- R419. The ACP command BUF_FREE frees a buffer of an own pool. -/
  | bufFree (m : Fin 1024)
  /-- R419. The ACP command POOL_GET returns a pool descriptor. -/
  | poolGet (m : Fin 1024)
  /-- R419. The ACP command PORT_GET returns a device-port entry. -/
  | portGet (m : Fin 1024)
  /-- R419. The ACP command LIB_INFO reports the installed library. -/
  | libInfo (m : Fin 1024)
  /-- R422. The ACP command EXPERT_UNLOCK opens the expert window to the PF if allowed. -/
  | expertUnlock (m : Fin 1024)
  /-- R422. The ACP command EXPERT_LOCK closes the expert window to the PF. -/
  | expertLock (m : Fin 1024)
  /-- R420. The ACP command GRP_ASSIGN writes a group's assignment and notifies the old and new owners. -/
  | grpAssign (m : Fin 1024)
  /-- R420. The ACP command DOM_SET writes a domain entry with a domain invalidation and the library entry. -/
  | domSet (m : Fin 1024)
  /-- R420. The ACP command EVQ_ASSIGN assigns a disabled event queue to a function. -/
  | evqAssign (m : Fin 1024)
  /-- R421. The ACP command PORT_PROPOSE rereads a node's descriptor and returns proposed port entries; `first`
  names its first step, which asks for the descriptor, and not its second, which answers. -/
  | portPropose (m : Fin 1024) (first : Bool)
  /-- R420. The ACP command PORT_SET writes, removes or restores a device port. -/
  | portSet (m : Fin 1024)
  /-- R420. The ACP command POOL_SET writes a pool descriptor. -/
  | poolSet (m : Fin 1024)
  /-- R420. The ACP command EXT_SET rebinds an extension opcode after its outstanding requests complete. -/
  | extSet (m : Fin 1024)
  /-- R420. The ACP command BANK_SET issues a bank ownership command. -/
  | bankSet (m : Fin 1024) (late : Bool)
  /-- R420. The ACP command FIFO_SET configures or commands a FIFO. -/
  | fifoSet (m : Fin 1024)
  /-- R420. The ACP command LINK_SET enables, disables, retrains, holds or releases a peer link. -/
  | linkSet (m : Fin 1024)
  /-- R424. The ACP command LIB_INSTALL copies the library into PF memory and writes its segment entry in every valid domain. -/
  | libInstall (m : Fin 1024)
  /-- R434. The ACP command CFG_STAGE reads, checks and stages a configuration image in the Spare slot. -/
  | cfgStage (m : Fin 1024) (img : Option (List Byte))
  /-- R435. The ACP command CFG_CASTLE starts castling the staged version by handing participating blocks their new configuration. -/
  | cfgCastle (m : Fin 1024)
  /-- R439. The ACP command CFG_ROLLBACK castles the Previous version and exchanges the roles. -/
  | cfgRollback (m : Fin 1024)
  /-- R420. The ACP command CFG_STATUS returns slot versions, the epoch and the castling state. -/
  | cfgStatus (m : Fin 1024)
  /-- R452. The ACP command FW_UPDATE checks a firmware image and writes it to the slot that is not running. -/
  | fwUpdate (m : Fin 1024) (img : Option (List Byte))
  /-- R480. The ACP command MARGIN with SUB 0 returns the plan status. -/
  | marginStatus (m : Fin 1024)
  /-- R480. The ACP command MARGIN with SUB 1 defers the staged plan. -/
  | marginDefer (m : Fin 1024)
  /-- R480. The ACP command MARGIN with SUB 2 castles the staged plan. -/
  | marginAccept (m : Fin 1024)
  /-- R480. The ACP command MARGIN with SUB 3 castles the Previous version when the Active one is a plan. -/
  | marginRollBack (m : Fin 1024)
  /-- R482. The ACP command LIFE_REPORT writes the service-life report to host memory. -/
  | lifeReport (m : Fin 1024)
  /-- R500. The ACP command SLOT_SET with SUB 0 returns SLOT_STAT. -/
  | slotRead (m : Fin 1024)
  /-- R493. The ACP command SLOT_SET ON moves a slot to Powering. -/
  | slotOn (m : Fin 1024)
  /-- R495. The ACP command SLOT_SET OFF powers a slot off after removing its ports. -/
  | slotOff (m : Fin 1024)
  /-- R493. The ACP command SLOT_SET CANCEL cancels a pending slot transition. -/
  | slotCancel (m : Fin 1024)
  /-- R493. The ACP command SLOT_SET CLEAR moves a Fault slot to Off or Empty. -/
  | slotClear (m : Fin 1024)
  /-- R500. The ACP command SLOT_SET LED writes the slot's light controls. -/
  | slotLed (m : Fin 1024)
  /-- R457. The recovery command RCV_INFO returns SEC_STAT and the valid slots. -/
  | rcvInfo
  /-- R457. The recovery command RCV_LOAD checks an image and runs it from SRAM. -/
  | rcvLoad (img : Option (List Byte))
  /-- R457. The recovery command RCV_FLASH checks an image and writes it to a firmware slot. -/
  | rcvFlash (img : Option (List Byte))
  /-- R457. The recovery command RCV_OWNER_KEY programs an owner key hash and policy fuses. -/
  | rcvOwnerKey
  /-- R457. The recovery command RCV_RESET answers and starts a chip reset 10 us later. -/
  | rcvReset
  /-- R436. A participating block reaches its safe point and switches versions, or switches back at rollback, and sets its CFS_SWMAP bit. -/
  | blockSwitch (blk : Fin 64)
  /-- R435. With every other block switched, the QMU switches contexts and epoch, the roles rotate, and N_CFG and CFS_EVENT are raised. -/
  | castlingCommit
  /-- R438. Flag fall before the commit rolls the castling back and records FAIL_LOG. -/
  | castlingFlagFall
  /-- R438. A second flag fall with blocks not yet switched back enters Rollback failed and raises the CFS error line. -/
  | rollbackFlagFall
  /-- R450. After the fuse check, the ROM chooses, checks and loads a firmware slot, derives identity and jumps to ENTRY, or enters Recovery. -/
  | romBoot (fuseOk : Bool)
  /-- R451. FW_READY is not set 2 s after the jump, so the running slot's FAIL bit sets and a chip reset starts. -/
  | bootWatchdogExpiry
  /-- R408. ACP firmware becomes ready, FW_READY sets, and the SEC may raise FW_SVN and apply revocations. -/
  | fwReady
  /-- R455. The SPDM request GET_VERSION is answered over DOE. -/
  | getVersion
  /-- R455. The SPDM request GET_CAPABILITIES is answered. -/
  | getCapabilities
  /-- R455. The SPDM request NEGOTIATE_ALGORITHMS fixes the supported algorithms. -/
  | negotiateAlgorithms
  /-- R455. The SPDM request GET_DIGESTS returns the certificate chain digest. -/
  | getDigests
  /-- R455. The SPDM request GET_CERTIFICATE returns the slot 0 chain. -/
  | getCertificate (slot : BitVec 8)
  /-- R455. The SPDM request CHALLENGE is signed with the Attestation key. -/
  | challenge (slot : BitVec 8)
  /-- R456. The SPDM request GET_MEASUREMENTS reports the measurement blocks as they stand. -/
  | getMeasurements (index : BitVec 8)
  /-- R455. The SPDM request KEY_EXCHANGE starts the single secured session. -/
  | keyExchange (slot : BitVec 8)
  /-- R455. The SPDM request FINISH completes session setup. -/
  | finish
  /-- R455. The SPDM request HEARTBEAT keeps the session alive. -/
  | heartbeat
  /-- R455. The SPDM request KEY_UPDATE updates the session keys. -/
  | keyUpdate
  /-- R455. The SPDM request END_SESSION ends the secured session. -/
  | endSession
  /-- R462. An engine that issued no instruction for 256 ECLK cycles enters W1. -/
  | engineClockGate (eng : Fin 128)
  /-- R462. An engine that has been W2_US in W1 with no context enters W2. -/
  | enginePowerGate (eng : Fin 128)
  /-- R462. An engine that has been W3_MS in W2 enters W3. -/
  | engineOff (eng : Fin 128)
  /-- R462. A waking engine reaches W0 and is unmasked at its cluster's arbiters. -/
  | engineWakeComplete (eng : Fin 128)
  /-- R466. After DOZE_US of idleness the device enters Doze and raises PCM_EVENT. -/
  | dozeEntry
  /-- R467. A write of SLEEP_REQ is checked, and if accepted the bound is withdrawn and UCIe L2 is requested. -/
  | sleepReq
  /-- R467. Every module reaches L2, and the PCM stops the clocks and removes power. -/
  | sleepEntry
  /-- R467. A module does not complete L2 entry within 1 ms, so the request is refused with SLEEP_REJ 5. -/
  | sleepL2Timeout
  /-- R468. An enabled wake source in Sleep starts the wake, drives WAKE_N low and logs the source. -/
  | wakeEvent (src : Fin 6)
  /-- R468. The device reaches Active, King engines reach W1 and BOUND_VALID is recomputed. -/
  | wakeComplete (periods : Nat)
  /-- R471. An AVSBus voltage step of at most 10 mV settles after 10 us. -/
  | vddStep
  /-- R471. A cluster's ECLK moves one 25 MHz step every 100 ns toward its target. -/
  | eclkStep (cluster : Fin 8)
  /-- R506. An AVSBus transaction has no valid response or reports a fault, so the LSI line rises and ECLK rises stop. -/
  | avsbusFailure
  /-- R472. Every 100 us above T_THROT, the PCM lowers one more cluster ceiling step. -/
  | throttleStep (tj : BitVec 8)
  /-- R507. The junction reaches 115 C and THERM_TRIP_N goes low until cold reset. -/
  | thermalTrip
  /-- R474. An ageing measurement completes, DEG_MV or the margins update, and headroom is recomputed. -/
  | measurement (x : Meas)
  /-- R477. REPLAN_H hours pass since the last plan was made active, and a plan is built. -/
  | replanTimer
  /-- R487. An SGPIO frame completes, slot inputs are sampled and debounced, and outputs are driven. -/
  | sgpioFrame (chain : Fin 2) (t : Nat) (frame : List Byte)
  /-- R488. An expander's in-band interrupt makes the HPC read that expander's slot inputs. -/
  | i3cIbi (bus : Fin 2) (addr : Fin 128) (t : Nat) (r : Option (List Byte))
  /-- R488. Every POLL_MS the HPC reads the slot inputs of each expander. -/
  | i3cPoll (bus : Fin 2) (addr : Fin 128) (t : Nat) (r : Option (List Byte))
  /-- R488. Every 100 ms the HPC rewrites slot outputs on I3C. -/
  | i3cOutputRefresh (bus : Fin 2) (addr : Fin 128) (t : Nat) (ok : Bool)
  /-- R493. The WIN_S window ends, and PendOn becomes Powering or PendOff becomes OffReq. -/
  | windowExpiry (slot : Fin 256)
  /-- R493. OFF_GRACE passes in OffReq with AUTO_OFF set, and the slot is powered off. -/
  | offGraceExpiry (slot : Fin 256)
  /-- R493. PWR_T passes in Powering without a fault, and the slot becomes On. -/
  | poweringTimer (slot : Fin 256)
  /-- R509. PKG_RESET_N falls, and the whole device enters cold reset with outputs at their reset levels. -/
  | coldReset
  /-- R509. PWR_GOOD falls, which acts as PKG_RESET_N low and forces cold reset. -/
  | pwrGoodFall
  /-- R515. PKG_RESET_N rises and the device starts its power-up sequence. -/
  | resetRelease
  /-- R515. The PLLs lock, MCLK, FCLK and LCLK start, and the fuse check begins. -/
  | pllLock
  /-- R513. A PF write of GLB_RESET.CHIP with CONFIRM 0xC5 schedules a chip reset 10 us later. -/
  | glbResetChip (confirm : BitVec 8)
  /-- R512. A chip reset drives outputs to reset levels, disables the PLUs, drops the host link and clears everything outside R511. -/
  | chipReset
  /-- R512. Twenty microseconds after a chip reset begins, the boot stages run from the fuse check. -/
  | bootStart
  /-- R514. TRST_N low, or five TCK cycles with TMS high, returns the TAP to Test-Logic-Reset. -/
  | tapReset
  /-- R138. The engine decodes bytes that form no defined instruction, such as opcode 0x00, a lead byte 0xE3 to 0xEF, an undefined escape, an unbound EXT opcode or a second prefix block, and the program ends with 0x10 or 0x11. -/
  | undefinedOpcode (ctx : Fin 1024) (bytes : List Byte)
  /-- R293. A flit arrives on a peer module with a CRC error, the UCIe adapter replays it and PLU_CNT.REPLAY counts it. -/
  | flitCrcError (p : Fin 8)
  /-- R293. A word arrives that is a reserved link control code, a packet header with an unassigned TYPE, or an IDLE word with a non-zero byte, and the link goes Down with cause 5. -/
  | malformedWordArrival (p : Fin 9) (w : BitVec 32)
  /-- R508. PWR_GOOD rises while the supplies are in range, which starts the 1 ms that must pass before reset release and before any PEER_RESET_N rise. -/
  | pwrGoodRise
  /-- R518. When PKG_RESET_N rose less than 1 ms after PWR_GOOD, the 1 ms from PWR_GOOD expires and the device starts the sequence of R515. -/
  | pwrGoodHoldExpiry
  /-- R343. An IDE_KM message inside the secured SPDM session programs or activates CXL IDE keys, and the stream enters the secure state. -/
  | ideKm (key : Option (List Byte))
  /-- R344. A DOE data object longer than 1,024 DW is written to the PF's DOE mailbox, so DOE Error sets and the object is discarded. -/
  | doeError (dwords : Nat)
  /-- R514. The TAP takes the EXTEST instruction, and boundary-scan cells drive PEER_RESET_N, FABRIC_READY, XOFF and the other bumps in place of their functional levels. -/
  | extest (cells : BitVec 16)
  /-- R422. A PF read of the expert register window while it is locked returns 0 and increments GLB_EXPERT.DENIED. -/
  | expertWindowRead (acc : Accessor) (off : Nat) (bytes : Nat)
deriving DecidableEq, Repr

end Sys2Proof
end

