-- ==== Sys2Proof/Machine/State.lean ====
section
/-!
DEFINITION. The state of the device as plain data: the memory-mapped registers, and beside them every piece of
state the spec gives the blocks that no register shows. The waiting commands stand in `pending`.
-/

namespace Sys2Proof.Machine

/-- The condition flags CF (R149). -/
structure Flags where
  z : Bool := false
  n : Bool := false
  c : Bool := false
  v : Bool := false
  dz : Bool := false
deriving DecidableEq, Repr

/-- A segment descriptor as a segment register holds it (R193, R194, R195): its tag is the domain with the
selector, or the buffer handle. -/
structure Desc where
  live : Bool := false
  inval : Bool := false
  kind : Nat := 0
  r : Bool := false
  w : Bool := false
  x : Bool := false
  idem : Bool := false
  node : Nat := 0
  pool : Nat := 0
  base : Nat := 0
  limit : Nat := 0
  dom : Nat := 0
  sel : Nat := 0
  handle : Option Nat := none
deriving DecidableEq, Repr

/-- A code address: the program's segment selector, the offset, and the descriptor it was reached by (R96). -/
structure Cpc where
  sel : Nat := 0
  off : Nat := 0
  seg : Desc := {}
deriving DecidableEq, Repr

/-- The part of a context that a squash restores (R211, first row). -/
structure CtxRegs where
  d : SMap Word := []
  a : SMap Word := []
  acc : SMap Word := []
  seg : SMap Desc := []
  cpc : Cpc := {}
  cf : Flags := {}
  mh : Word := 0
  ml : Word := 0
  dq : Word := 0
  dm : Word := 0
  mul : Option (Word × Word) := none
  div : Option (Word × Word) := none
  repc : Word := 0
  repOn : Bool := false
  stack : List Cpc := []
  bits : List Nat := []
  bound : Option (Nat × Nat) := none
  chainOpen : Option Nat := none
  chainPos : Nat := 0
  allocs : List Nat := []
  freesHeld : List (Nat × Nat) := []
deriving DecidableEq, Repr

/-- A lockable resource (R184): kind 1 a semaphore block by its first bit, 2 a device port, 3 an extension unit;
and the block that keeps its arbiter, by fault-source index. -/
structure Resource where
  kind : Nat
  blk : Nat
  num : Nat
deriving DecidableEq, Repr

/-- One part of a load that is outstanding (R148, R164); `cover` holds the bytes that held stores cover (R219). -/
structure LoadPart where
  req : Nat
  dev : Bool
  off : Nat
  n : Nat
  data : Option (List Byte)
  cover : List (Nat × Byte)
deriving DecidableEq, Repr

/-- A load that has issued and whose data has not yet all returned, with the selector of its segment register (R204):
`dst` the D register it will still write, `fz` and `fn` that it will still write Z, and N; `nib` for NIB the half. -/
structure Load where
  dst : Option Nat
  nib : Option Bool
  fz : Bool
  fn : Bool
  w : Nat
  ck : Nat
  parts : List LoadPart
  sel : Nat := 0
deriving DecidableEq, Repr

/-- A chained command (R111): its port, its word, its place in the chain, and what has become of it. -/
structure Chained where
  port : Nat
  gen : Nat
  word : Word
  pos : Nat
  sent : Option Nat
  king : Bool
deriving DecidableEq, Repr

/-- A failed chained command (R112, R113). -/
structure ChainFail where
  port : Nat
  pos : Nat
  status : Nat
  dropped : Nat
  examined : Bool
deriving DecidableEq, Repr

/-- What an instruction that has issued waits for. -/
inductive Wait where
  /-- nothing: the context may issue -/
  | none
  /-- the submission entry's read (R42) -/
  | entry
  /-- the program segment's table read (R47) -/
  | prog (sel off : Nat)
  /-- POST, with its status and result (R100) -/
  | post (len status : Nat) (result : Word)
  /-- HALT (R101) -/
  | halt
  /-- a bit wait: address, awaited value, WAITB or TWAITB, the timeout's remaining cycles (R119, R120) -/
  | bit (len addr : Nat) (val : Bool) (strict : Bool) (tmo : Option Nat)
  /-- SEMA on a semaphore bit (R129) -/
  | sema (len bit : Nat)
  /-- LDS whose table read is outstanding (R194) -/
  | lds (len reg sel : Nat)
  /-- TIC, CALLF or RET whose table read is outstanding (R125, R126): kind 0, 1, 2 -/
  | far (len kind sel off : Nat)
  /-- DRD for the value (R109) -/
  | drd (len d port idx tag : Nat)
  /-- DWR for the acknowledge (R177) -/
  | dwr (len tag : Nat)
  /-- DCMD: the word still to be sent, or sent under a tag (R110, R111) -/
  | dcmd (len d port : Nat) (word : Word) (king : Bool) (tag : Option Nat)
  /-- EXTn for its response (R323) -/
  | ext (len d n tag : Nat)
  /-- WAITC (R113) -/
  | waitc (len d : Nat)
  /-- WAITX (R118) -/
  | waitx (len d : Nat)
  /-- BALLOC in its pool's waiting list (R259) -/
  | balloc (len s d pool : Nat)
  /-- a REPZ load's data, which decides whether the next iteration runs (R181) -/
  | ld (h : Hdr) (m : Mem)
  /-- a store whose page's translation is outstanding (R199): what it writes, as address and bytes -/
  | xlate (h : Hdr) (m : Mem) (func page : Nat) (w : List (Nat × List Byte))
  /-- a stripe descriptor's read (R249): its segment, its offset, the shard length, and its first 32 bytes once they
  have come -/
  | stripe (h : Hdr) (gather : Bool) (g : Desc) (off size : Nat) (hdr : List Byte)
deriving DecidableEq, Repr

/-- A held store's line image (R216): its target line, the bytes it covers, the checkpoint it lies under, and the selector
of its segment register (R204). -/
structure Held where
  func : Nat
  line : Nat
  bytes : List (Nat × Byte)
  vc : Nat
  ctx : Nat
  ckpt : Nat
  sel : Nat := 0
deriving DecidableEq, Repr

/-- How an instruction of R207 has resolved. -/
inductive Resolved where
  /-- a bit wait: the bit had the awaited value, or the timeout expired -/
  | bit (sat : Bool)
  /-- a device command's completion status -/
  | dcmd (status : Nat)
  /-- a register read's value -/
  | drd (v : Word)
  /-- the chain is done, with or without a failure -/
  | waitc (ok : Bool)
deriving DecidableEq, Repr

/-- A Roloa read recorded for verification (R214): the key of the read, where it went, what it returned, and what the
read made again has returned; `host` for a read of host memory in Roloa-native mode (R338), with its function. -/
structure VRead where
  key : Nat
  host : Option Nat
  node : Nat
  addr : Nat
  n : Nat
  vc : Nat
  data : Option (List Byte)
  again : Option (List Byte)
  sent : Bool
  seg : Desc := {}
deriving DecidableEq, Repr

/-- A Gambit checkpoint (R210, R211): the saved state, the predicted instruction's wait, the predicted outcome, the
actual one once it has resolved, and what lies under it. `late` says that its wait has outlasted HORIZON (R208). -/
structure Ckpt where
  saved : CtxRegs
  loads : List Load
  fails : List ChainFail
  wait : Wait
  lock : Bool
  predicted : Resolved
  outcome : Option Resolved
  site : Nat
  horizon : Nat
  quota : Nat
  margin : Nat
  verify : List VRead
  segs : List (Nat × Nat)
  allocs : List Nat
  shortAny : Bool := false
  late : Bool := false
deriving DecidableEq, Repr

/-- One hardware context (R96): `fresh` until its first instruction issues (R76), `gambit` the queue's GAMBIT_EN as it was at the
dispatch (R59, R436), `due` the stop that waits for the next instruction boundary (R188): 1 flag fall, 2 DRAIN_ABORT, 3 RESET. Of
its wait: `elig` that it counts in the history, `waitSpec` its Gambit prefix, `outlast` that it has outlasted HORIZON (R207, R208).
`watchStop`: the path pauses for room in the watch set (R213). `missed`: the squash in progress has cause MISS; `owed` the outcome
that a parked wait already has (R121, R224). -/
structure Ctx where
  live : Bool := false
  started : Bool := false
  fresh : Bool := false
  gambit : Bool := false
  qid : Nat := 0
  epoch : Nat := 0
  func : Nat := 0
  pdom : Nat := 0
  cls : Nat := 0
  kingSlot : Option Nat := none
  tag : Nat := 0
  ioc : Bool := false
  ga : Bool := false
  order : Nat := 0
  sqIdx : Nat := 0
  regs : CtxRegs := {}
  clock : Option Nat := none
  posted : Bool := false
  parked : Bool := false
  paused : Bool := false
  wait : Wait := .none
  loads : List Load := []
  seqCount : Option Nat := none
  lock : Option Resource := none
  chain : List Chained := []
  fails : List ChainFail := []
  waitLock : Bool := false
  slots : List Nat := []
  shortAny : Bool := false
  lastShort : Bool := false
  residual : Nat := 0
  lastXfer : Option Nat := none
  ckpts : List Ckpt := []
  vbuf : List (Nat × Nat × Word) := []
  squash : Option (Option Resolved) := none
  due : Nat := 0
  elig : Bool := false
  waitSpec : Spec := .plain
  outlast : Bool := false
  watchStop : Bool := false
  missed : Bool := false
  owed : Option Resolved := none
deriving DecidableEq, Repr

/-- A cluster semaphore bit that is set, with its owner record (R129). -/
structure SemBit where
  set : Bool := false
  owner : Option Nat := none
deriving DecidableEq, Repr

/-- A weighted-credit arbiter's own state (R71): the credit each requester has used since the window began, the
pointer, the quota used, and the pointer among high-priority requesters where several share the quota. -/
structure Arb where
  spent : SMap Nat := []
  ptr : Nat := 0
  hpUsed : Nat := 0
  quotaMask : Bool := false
  hpPtr : Nat := 0
deriving DecidableEq, Repr

/-- The part of a queue's state that no register shows (R54, R61, R62): the command whose final state is still to be
reached, whether NOTIFY is due, how its programs are being stopped, the entry reads outstanding by ring index, and the
pending King entries outside the quota (R89). -/
structure QDyn where
  target : Option Nat := none
  notify : Bool := false
  stopping : Nat := 0
  reads : List Nat := []
  overQ : List Nat := []
deriving DecidableEq, Repr

/-- What an outstanding read of host memory or an outstanding Roloa request is for. -/
inductive Purpose where
  | entry (c : Nat)
  | load (c req : Nat)
  | table (dom sel : Nat)
  | desc (c : Nat)
  | ring (pool : Nat)
  | mover (x : Nat)
  | drd (c : Nat)
  | dwr (c : Nat)
  | dcmd (c : Nat)
  | chain (c pos : Nat)
  | ext (c n : Nat)
  | verify (c k i : Nat)
  | peer (src tag vc addr len : Nat)
  | firmware
  | gone
  | goneEntry (q ix : Nat)
  | goneExt (n : Nat)
  | late
  | host (req : Nat)
  | disc (key : Nat)
deriving DecidableEq, Repr

/-- Nobody waits for the data any more: the response is discarded when it arrives. -/
def Purpose.isGone : Purpose → Bool
  | .gone | .goneEntry .. | .goneExt _ | .late => true
  | _ => false

/-- The protocol of a read of host memory (R27, R332): a CXL.io memory read, or a CXL.cache read that keeps no copy or keeps the
line in the Shared state. In Roloa-native mode all three are Roloa reads. -/
inductive HostOp where
  | io | rdCurr | rdShared
deriving DecidableEq, Repr

/-- An outstanding read of host memory; `dead` when it never reached the host and gets an error response (R329,
R333, R334); `held` while it waits for the translation of its page and is not yet issued (R199); `seg`
the descriptor it was issued under, if any (R201). -/
structure HReq where
  purp : Purpose
  func : Nat
  addr : Nat
  n : Nat
  dead : Bool := false
  op : HostOp := .io
  vc : Nat := 1
  held : Bool := false
  seg : Desc := {}
deriving DecidableEq, Repr

/-- An outstanding non-posted Roloa request of SELF (R308, R309). -/
structure Txn where
  purp : Purpose
  type : Nat
  node : Nat
  addr : Nat
  n : Nat
  vc : Nat
  port : Option (Nat × Nat)
  tmo : Nat
  link : Option Nat
  lo : Nat := 0
  got : List Byte
  seg : Desc := {}
deriving DecidableEq, Repr

/-- One link of a transfer (R114, R115, R116). -/
structure Link where
  skip : Bool
  src : Desc
  sOff : Nat
  dst : Desc
  dOff : Nat
  n : Nat
deriving DecidableEq, Repr

/-- A transfer in its slot, in a cluster's queue or in a mover (R228 to R231): its links; what the lane sampled; the
mover and the lane that hold it; how far it has read and written; and for STRIPE and GATHER the descriptor and the
shards. `raw` holds the source bytes not yet written, or for a transformed stream all of them; `order` and `adm` count the issues
and the admissions; `stuck` while output waits for the translation of its page; `gw` the bytes of each data shard that a GATHER has
written. -/
structure Xfer where
  ctx : Nat := 0
  slot : Nat := 0
  dom : Nat := 0
  func : Nat := 0
  links : List Link := []
  closed : Bool := false
  tsel : Nat := 0
  a1 : Nat := 0
  a2 : Nat := 0
  a3 : Nat := 0
  key : List Byte := []
  vc0 : Bool := false
  mover : Option (Nat × Nat) := none
  entry : Nat := 0
  spill : Bool := false
  lane : Option Nat := none
  linkIx : Nat := 0
  rd : Nat := 0
  req : Bool := false
  rdN : Nat := 0
  raw : List Byte := []
  written : Nat := 0
  outPos : Nat := 0
  eod : Bool := false
  results : Bool := false
  stripe : Option (Bool × List Byte) := none
  rdShard : Nat := 0
  failed : List Nat := []
  mismatch : Nat := 0
  shards : SMap (List Byte) := []
  firstFail : Nat := 0
  order : Nat := 0
  adm : Nat := 0
  stuck : Bool := false
  gw : SMap Nat := []
deriving DecidableEq, Repr

/-- The part of a buffer pool that its registers do not show (R258, R259). -/
structure Pool where
  cache : List Nat := []
  ringHead : Nat := 0
  ringTail : Nat := 0
  ring : List Nat := []
  refill : Bool := false
  waiters : List Nat := []
deriving DecidableEq, Repr

/-- A key slot of the SEC (R245). -/
structure KeySlot where
  valid : Bool := false
  dom : Nat := 0
  gcm : Bool := false
  key : List Byte := []
deriving DecidableEq, Repr

/-- An invalidation in progress (R201). -/
structure Inv where
  scope : Nat
  stop : Bool
  notify : Bool
  dom : Nat
  sel : Nat
deriving DecidableEq, Repr

/-- The order in which arbiters are listed. -/
def ArbId.lt (a b : ArbId) : Bool :=
  decide (a.kind < b.kind) ||
    (a.kind == b.kind && (decide (a.i < b.i) || (a.i == b.i && decide (a.j < b.j))))

/-- A delivery target of the EIC, an event queue or (from 4096 on) a management core: the source held in an entry
with the priority sampled at its selection, the rotating pointer, and the moderation of R385. -/
structure EicTgt where
  held : Option (Nat × Nat) := none
  ptr : Nat := 0
  due : Bool := false
  dueAt : Nat := 0
  n : Nat := 0
  bypass : Bool := false
  last : Option Nat := none
deriving DecidableEq, Repr

/-- What the device sends out. Newest first in `State.out`. -/
inductive Out where
  /-- a read of host memory: request number, function, protocol, whether the address is a translated one, address, bytes,
  virtual channel -/
  | hostRead (req func : Nat) (op : HostOp) (at_ : Bool) (addr n vc : Nat)
  /-- a posted write of host memory by a function: whether the address is a translated one, address, data -/
  | hostWrite (func : Nat) (at_ : Bool) (addr : Nat) (data : List Byte)
  /-- an MSI-X message: function, vector, address, data -/
  | msix (func vec addr data : Nat)
  /-- an ATS translation request: function, page address -/
  | atsReq (func page : Nat)
  /-- the completion of a host's ATS invalidation -/
  | atsDone (func page : Nat)
  /-- a Roloa packet issued at egress port `port`: 0 to 7 a peer link, 8 the host link, 9 the device itself -/
  | pkt (port : Nat) (p : Pkt)
  /-- a link word on peer link p: word type and the header's value -/
  | word (link type val : Nat)
  /-- a device command word sent -/
  | reply (what : Nat) (vals : List Nat)
  /-- an answer to a read of a register or of the aperture -/
  | rdata (addr : Nat) (val : Nat)
  /-- an SPDM response or error: code, values -/
  | spdm (code : Nat) (vals : List Nat)
  /-- a grant of an arbiter: which arbiter, which requester -/
  | grant (a : ArbId) (r : Nat)
  /-- a slot's output byte (R498) -/
  | slotOut (slot val : Nat)
  /-- an AVSBus command: target voltage in millivolts (R471) -/
  | avs (mv : Nat)
deriving DecidableEq, Repr

/-- A completion entry handed to the QMU and not yet written (R53, R100). -/
structure Cpl where
  qid : Nat
  tag : Nat
  status : Nat
  epoch : Nat
  residual : Nat
  auto : Bool
  ioc : Bool
  result : Word
  order : Nat
deriving DecidableEq, Repr
/-- The part of a peer link that no register shows (R277 to R285): the base of the block granted to the peer, the
peer's name of itself, which words of the join have come, credits owed to the peer per virtual channel (header and
data), whether the link waits to train again, whether it has reached Joined or Failed since it was enabled, its place in the order
in which links reached Init, whether PEER_RESET_N fell less than 1 ms ago, and the rate of a module that is active while that 1 ms
runs; the packets that wait for credits, oldest first, by virtual channel, the responses under 4 and up; and the non-posted packets
forwarded here whose responses have not come: requester, tag, virtual channel, type. -/
structure LinkDyn where
  granted : Option (Nat × Nat) := none
  gotLid : Bool := false
  gotLcap : Bool := false
  gotLinit : List Nat := []
  nodeDone : Bool := false
  owedHdr : SMap Nat := []
  owedData : SMap Nat := []
  retryHold : Bool := false
  reached : Bool := false
  initOrd : Nat := 0
  lowHold : Bool := false
  trained : Option Nat := none
  txq : SMap (List Pkt) := []
  fwd : List (Nat × Nat × Nat × Nat) := []
deriving DecidableEq, Repr
/-- The part of a FIFO that no register shows (R367): the words dropped since GAP_PEND set, and the source of the
dropped word recorded; and the pushes accepted modulo 64 (R361, SEQ). -/
structure FifoDyn where
  dropped : Nat := 0
  dropSrc : Nat := 0
  seq : Nat := 0
deriving DecidableEq, Repr

/-- The BANK_CMD in progress (R355): bank, HANDOVER or not, CLEAR, the new owner, TEST_OK, NOTIFY, and whether the
clearing has begun. -/
structure BankOp where
  bank : Nat
  handover : Bool
  clear : Bool
  owner : Nat
  testOk : Bool
  notify : Bool
  waiting : Bool
deriving DecidableEq, Repr

/-- An ACP command that firmware has selected (R412, R413): the window it came from, the copied header and payload, how
far it has come, and whether ABORT has been written. -/
structure AcpCmd where
  win : Nat
  hdr : Nat
  pay : Nat
  phase : Nat := 0
  aborted : Bool := false
deriving DecidableEq, Repr

/-- Where the device stands on its way from reset to operation (R428, R450, R515): held in reset, waiting for the 1 ms
after PWR_GOOD, waiting for the PLLs, in the ROM, running firmware that is not ready, ready, in Recovery, and halted in
Recovery by the fuse check. -/
inductive BootStage where
  | inReset | powerWait | pllWait | rom | firmware | ready | recovery | halted
deriving DecidableEq, Repr

/-- The fuses that are programmed in the field (R443): revoked vendor keys, the owner key hashes, which of them are
programmed and revoked, the two policy bits, and the counters as the number of bits set. -/
structure Fuses where
  vkRev : Nat := 0
  okh : SMap (List Byte) := []
  okProg : Nat := 0
  okRev : Nat := 0
  ownFw : Bool := false
  ownCfg : Bool := false
  fwSvn : Nat := 0
  cfgSvn : Nat := 0
deriving DecidableEq, Repr

/-- One copy of the role table in flash (R431): its sequence number, whether its digest is valid, and the slots with the
roles; a slot without a role here is Spare. -/
structure Roles where
  seq : Nat := 0
  ok : Bool := true
  active : Option Nat := none
  prev : Option Nat := none
  staged : Option Nat := none
deriving DecidableEq, Repr

/-- The castling in progress (R435): the slot it makes active, whether CFG_ROLLBACK asked for it, the timestamp of its
start, and the mailbox window whose command it answers. -/
structure Castle where
  slot : Nat
  byRollback : Bool
  startTs : Nat
  win : Option Nat
deriving DecidableEq, Repr

/-- A register write that waits for a castling to end (R437). -/
structure Deferred where
  acc : Accessor
  off : Nat
  n : Nat
  val : Nat
deriving DecidableEq, Repr

/-- The SPDM responder (R455): which steps of the negotiation have been taken, and the session: 0 none, 1 in its
handshake, 2 established. -/
structure Spdm where
  ver : Bool := false
  caps : Bool := false
  algs : Bool := false
  sess : Nat := 0
deriving DecidableEq, Repr

/-- A domain entry as it was before writes made while it was valid, until a domain-scope invalidation that began after the
last of them completes (R203); `covered` says that one in progress began after it. -/
structure OldDom where
  dom : Nat
  w0 : Word
  w1 : Word
  covered : Bool := false
deriving DecidableEq, Repr

/-- A translation that the host has returned (R199): the 2^log2 pages of 4 KiB around page `page` of a function's address space,
and the page that `page` translates to. -/
structure Atc where
  func : Nat
  page : Nat
  log2 : Nat
  phys : Nat
deriving DecidableEq, Repr

/-- Firmware's reading of a node's discovery descriptor (R312, R421): the node, the bytes that have come, and the stage: 0 none, 1 a
read is to be issued, 2 one is outstanding, 3 all of it is there, 4 a read has failed. -/
structure Disc where
  node : Nat := 0
  got : List Byte := []
  stage : Nat := 0
deriving DecidableEq, Repr

/-- The host link in Roloa-native mode (R276, R283, R337): its state as PLU_STAT numbers it, 0 while it is down; the host's name of
itself, its minor version and its MPS code; and by virtual channel the credits held and those the host advertised, header and
data. -/
structure HostLink where
  st : Nat := 0
  node : Nat := 0
  minor : Nat := 0
  mps : Nat := 0
  tx : SMap (Nat × Nat) := []
  adv : SMap (Nat × Nat) := []
deriving DecidableEq, Repr

/-- The whole state of the device (INVENTORY.md, State). -/
structure State where
  /-- the commands waiting, first in, first out -/
  pending : List Instr := []
  /-- every memory-mapped register word that differs from its cold-reset value -/
  regs : AMap Reg Word := []
  /-- the active copies of the shadowed (RWC) registers -/
  act : AMap Reg Word := []
  /-- FCLK cycles since cold reset (R52, R149) -/
  fclk : Nat := 0
  /-- the cycle at which QCTL.BUSY next reads 0 (R61) -/
  qctlUntil : Nat := 0
  /-- the model's own counter: how many free values have been drawn -/
  freeCnt : Nat := 0
  /-- the model's own record of what the device has sent, newest first -/
  out : List Out := []
  /-- the contexts, by CTX number -/
  ctx : SMap Ctx := []
  /-- dispatch counter, for the order of dispatches (R131) -/
  order : Nat := 0
  /-- cluster semaphore bits, by cluster * 4096 + bit address -/
  sem : SMap SemBit := []
  /-- device-global event bits that are 1 -/
  evb : List Nat := []
  /-- each cluster's copy of the event bits: cluster * 8192 + bit address -/
  evbCopy : List Nat := []
  /-- each cluster's copy of a bound port's image word: (cluster * 4096 + port) * 8 + word -/
  imgCopy : SMap Word := []
  /-- the arbiters' counters, pointers and quotas -/
  arb : AMap ArbId Arb := []
  /-- blocks the PCM masks at every arbiter, by fault-source index (R74) -/
  masked : List Nat := []
  /-- shadow-slot exchange waiting for a window start, with the cycle of the SWAP write (R82) -/
  swapAt : Option Nat := none
  qdyn : SMap QDyn := []
  /-- stalemate cycles found by each cluster's last scan (R130): member and bit -/
  staleSeen : SMap (List (Nat × Nat)) := []
  /-- outstanding reads of host memory -/
  hreq : SMap HReq := []
  hreqNext : Nat := 0
  /-- outstanding non-posted Roloa requests of SELF, by tag -/
  txn : AMap Nat Txn := []
  /-- transfers, by context * 4 + slot -/
  xfer : SMap Xfer := []
  xferNext : Nat := 0
  /-- each cluster's transfer queue, oldest first -/
  xq : SMap (List Nat) := []
  /-- lanes held: lane, mover -/
  lanes : List (Nat × Nat) := []
  /-- movers, 4g + i, waiting for a lane, in the order in which they began to wait (R246) -/
  laneWait : List Nat := []
  /-- clock-gated mover groups 0 to 3 and lane pairs 4 to 7 -/
  gatedGrp : List Nat := []
  /-- those of them that are power-gated (R465) -/
  pwrGrp : List Nat := []
  pool : SMap Pool := []
  /-- the STU's segment cache: domain * 65536 + selector -/
  segCache : SMap Desc := []
  /-- segment table reads outstanding: domain * 65536 + selector, true when the value must be read again -/
  segRead : SMap Nat := []
  /-- the STU's translation cache, newest first -/
  atc : List Atc := []
  /-- translation requests outstanding -/
  atsPend : List Nat := []
  /-- host ATS invalidations in progress: function, first page, log2 of the pages -/
  atsInv : List (Nat × Nat × Nat) := []
  inv : Option Inv := none
  /-- each cluster's commit buffer, oldest first -/
  held : SMap (List Held) := []
  /-- each cluster's watch set: function, line, context, checkpoint -/
  watch : SMap (List (Nat × Nat × Nat × Nat)) := []
  keys : SMap KeySlot := []
  eic : SMap EicTgt := []
  /-- completion entries handed to the QMU, oldest first -/
  cpl : List Cpl := []
  /-- lines written by the device that some checkpoint watches: context, checkpoint (R213) -/
  hits : List (Nat × Nat) := []
  link : SMap LinkDyn := []
  hostLink : HostLink := {}
  /-- status updates that wait for earlier posted writes of their source, with how many of these each link still holds (R307) -/
  supdQ : List (Pkt × List (Nat × Nat)) := []
  /-- firmware's readings of discovery descriptors: after the join of node n under n, of a PORT_PROPOSE of window m under
  65536 + m -/
  disc : SMap Disc := []
  /-- the FIFOs' words: FIFO * 4096 + slot -/
  fifoMem : SMap (BitVec 128) := []
  fifo : SMap FifoDyn := []
  /-- XOFF lines driven high (R370) -/
  xoff : List Nat := []
  /-- XOFF lines whose 8 cycles have not passed -/
  xoffHold : List Nat := []
  /-- scratchpad bytes, by scratchpad offset (R349) -/
  spm : Memory := []
  bankOp : Option BankOp := none
  /-- banks the background test may not borrow again yet (R358), and the chunk at which it resumes -/
  testHold : SMap Nat := []
  /-- functions whose ATS is enabled (R342) -/
  atsEn : List Nat := []
  /-- functions whose Bus Master Enable is 1 (R334) -/
  bme : List Nat := []
  /-- functions in D3hot (R346) -/
  d3hot : List Nat := []
  /-- the host link has gone down from the up state and has not come up again (R394) -/
  hostFault : Bool := false
  /-- the IDE stream has left the secure state (R343) -/
  ideFault : Bool := false
  /-- the IDE stream is secure -/
  ideSecure : Bool := false
  /-- the active configuration enables IDE (R343) -/
  ideEn : Bool := false
  /-- VF Enable (R340) -/
  vfEn : Bool := false
  /-- functions whose function-level reset runs (R66, R345) -/
  flr : List Nat := []
  /-- FABRIC_READY (R280) -/
  fabricReady : Bool := false
  /-- the active route bank has been loaded from the active configuration (R280) -/
  routesLoaded : Bool := false
  /-- PEER_RESET_N levels that are high -/
  peerReset : List Nat := []
  /-- blocks whose block reset is in progress, by fault-source index -/
  inReset : List Nat := []
  /-- FAULT_N is low, and whether its 1 microsecond is still running (R400) -/
  faultLow : Bool := false
  faultHold : Bool := false
  /-- a chip reset is in progress, and one that was asked for and has not begun: its CAUSE (R512, R513) -/
  chipReset : Bool := false
  chipPend : Option Nat := none
  /-- engines that wake (R462, R464): cluster * 16 + engine -/
  waking : List Nat := []
  /-- first samples at a new level that is being debounced (R491): slot * 4 + input, the sample's time plus one -/
  slotDeb : SMap Nat := []
  /-- consecutive all-ones frames of a chain, and NACKs of an expander: bus * 128 + address (R489) -/
  sgOnes : SMap Nat := []
  i3cNack : SMap Nat := []
  /-- slots whose power goes off at their next output update (R495) -/
  slotOffPend : List Nat := []
  /-- slots whose ports have had a request since the last output update, and the end of the activity light (R498) -/
  slotAct : List Nat := []
  slotActEnd : SMap Nat := []
  /-- sources whose pending episode has been counted as misrouted (R378) -/
  misEp : List Nat := []
  /-- management SRAM -/
  msram : Memory := []
  /-- the MSI-X tables' 32-bit words: (function * 2048 + vector) * 4 + word, the vector control word inverted in bit 0 -/
  msix : SMap Nat := []
  /-- functions whose MSI-X Enable, and whose Function Mask, is 1; pending bits: function * 2048 + vector (R384) -/
  msixEn : List Nat := []
  msixFmask : List Nat := []
  pba : List Nat := []
  /-- the ACP commands that firmware runs, in selection order (R413) -/
  acp : List AcpCmd := []
  /-- windows whose command was aborted before its selection (R413) -/
  mbAbort : List Nat := []
  /-- where the device stands between reset and operation (R428, R515) -/
  boot : BootStage := .inReset
  /-- the boot load took the Previous slot, so CFS_EVENT waits for firmware (R433) -/
  bootPrev : Bool := false
  /-- levels of PKG_RESET_N and PWR_GOOD, and PWR_GOOD's 1 ms still running (R505, R518) -/
  pkgReset : Bool := false
  pwrGood : Bool := true
  pwrHold : Bool := false
  /-- THERM_TRIP_N is low (R507), WAKE_N is low (R468), and the boundary-scan cells drive the bumps (R514) -/
  thermTrip : Bool := false
  wakeLow : Bool := false
  extest : Bool := false
  /-- the fuses that the field programs (R443) -/
  fuses : Fuses := {}
  /-- firmware slots 0 and 1 of the boot flash, and 2 the image that RCV_LOAD put into SRAM (R445, R457) -/
  fwSlot : SMap (List Byte) := []
  /-- firmware slots that count as invalid while they are written (R452) -/
  fwWriting : List Nat := []
  /-- configuration slots 0 to 3 (R431), and the two copies of the role table -/
  cfgSlot : SMap (List Byte) := []
  roleA : Roles := {}
  roleB : Roles := { seq := 1 }
  /-- the castling in progress (R435) -/
  castle : Option Castle := none
  /-- domains whose segment lookups wait for the STU's switch (R436) -/
  stuHold : List Nat := []
  /-- the PF's register writes that wait for the castling, or a command of firmware, to end, oldest first (R423, R437) -/
  deferred : List Deferred := []
  /-- the compound device identifier of the running firmware (R454), and the hash of the owner key that signed it -/
  cdi : List Byte := []
  fwOwner : List Byte := []
  /-- each cluster's ECLK step now, less than its reset step 16 or more (R470): the step plus one, 0 for 16 -/
  eclk : SMap Nat := []
  /-- each cluster's safety cap (R476) and throttle ceiling (R472): the step plus one, 0 for none -/
  cap : SMap Nat := []
  throttle : SMap Nat := []
  /-- the last AVSBus write failed (R506) -/
  avsFail : Bool := false
  /-- each cluster's DEG_MV that the active plan was built with, a plan that waits for the Staged slot, plans wait for
  MARGIN accept (R480), and the cause of a plan that waits for castling to be Idle (R442, R477) -/
  planDeg : SMap Nat := []
  planWait : List Byte := []
  planDefer : Bool := false
  planWant : Option Nat := none
  /-- the lanes of each module that its last training mapped onto spares (R479) -/
  laneRep : SMap Nat := []
  /-- the installed library's selector, 0 for none, and its area (R424) -/
  libSel : Nat := 0
  libBase : Nat := 0
  /-- the SPDM responder (R455), DOE Error (R344), and the programmed IDE keys that are not yet in force (R343) -/
  spdm : Spdm := {}
  doeErr : Bool := false
  ideKey : List Byte := []
  /-- how far the PCM's change to a version has come (R476, R481): 1 VDD moves, 2 the caps have been set anew -/
  pcmSw : Nat := 0
  /-- what the boundary-scan cells hold (R514): bits 7 to 0 PEER_RESET_N, 8 FABRIC_READY, 12 to 9 XOFF, 13 FAULT_N,
  14 WAKE_N, 15 THERM_TRIP_N -/
  bsCells : Nat := 0
  /-- some configuration version is active: one has been loaded at boot or castled since (R433) -/
  cfgOn : Bool := false
  /-- bindings whose EXT instructions wait for the EXG's switch (R321), and blocks whose block reset has completed during
  the castling (R442) -/
  extHold : List Nat := []
  rstSw : List Nat := []
  /-- domain entries of which an LDS or a dispatch may still see the old values (R203) -/
  pdOld : List OldDom := []
deriving DecidableEq, Repr

/-- Why the machine stops with a fault. -/
inductive Fault where
  /-- The spec calls the command's result unpredictable (R4) and names no effect among the choices; raised by the
  meaning of the command that meets it, with the rule that says so. Safe: the machine stops where the hardware would
  go on with some contained result. -/
  | unpredictable (rule : Nat)
deriving DecidableEq, Repr

/-- Why the machine refuses a command. -/
inductive Refusal where
  /-- The command has no meaning yet; raised by its arm of `exec`. Safe: nothing is claimed of it. -/
  | notModelled (mnemonic : String)
deriving DecidableEq, Repr

/-- What a command answers. -/
abbrev Res := Host.Outcome State Fault Refusal

/-- The machine right after a cold reset: every register at its table's reset value, no queue enabled, no context
live, every memory at what an unlisted address reads as, no command waiting (R510). -/
def State.reset : State := {}


end Sys2Proof.Machine
end

