-- ==== Sys2Proof/Machine/Ops.lean ====
section
/-!
DEFINITION. The named operations over the registers and the outbound record: everything that reads or writes a
register of the device goes through these.
-/

namespace Sys2Proof.Machine

/-- The value of a register word. -/
def State.reg (s : State) (r : Reg) : Word := AMap.get s.regs r.reset r

/-- A register word written whole. -/
def State.setReg (s : State) (r : Reg) (v : Word) : State :=
  { s with regs := AMap.set Reg.lt s.regs r.reset r v }

/-- The value of a field. -/
def State.get (s : State) (f : Field) : Nat := bitsOf (s.reg f.reg).toNat f.lo f.w

/-- A field written; the other bits of its word keep their values. -/
def State.put (s : State) (f : Field) (v : Nat) : State :=
  s.setReg f.reg (BitVec.ofNat 64 (putBits (s.reg f.reg).toNat f.lo f.w v))

/-- Several fields written in turn. -/
def State.putAll (s : State) : List (Field × Nat) → State
  | [] => s
  | (f, v) :: r => (s.put f v).putAll r

/-- A one-bit field reads 1. -/
def State.on (s : State) (f : Field) : Bool := s.get f != 0

/-- The active copy of a shadowed field (R12, RWC). -/
def State.getA (s : State) (f : Field) : Nat := bitsOf (AMap.get s.act f.reg.reset f.reg).toNat f.lo f.w

/-- A shadowed register word made active (R75). -/
def State.commit (s : State) (r : Reg) : State :=
  { s with act := AMap.set Reg.lt s.act r.reset r (s.reg r) }

/-- The device is held in reset: while PKG_RESET_N or PWR_GOOD is low, and from the start of a chip reset until the boot
stages run (R509, R512, R518). Its outputs take their levels of R502 for reset, and there is no host-visible function (R2,
R517). -/
def State.outReset (s : State) : Bool := s.chipReset || s.boot == .inReset || s.boot == .powerWait

/-- The accessor's memory space answers: not while the device is held in reset, not in D3hot, not in a function-level reset,
and a VF's only under VF Enable (R2, R66, R340, R346). -/
def State.reaches (s : State) (acc : Accessor) : Bool :=
  !s.outReset && match acc with
    | .firmware => true
    | .pf => (s.on Fld.hpuStat.MODE || !NSet.has s.d3hot 0) && !NSet.has s.flr 0
    | .vf f => f.val != 0 && s.vfEn && !NSet.has s.d3hot f.val && !NSet.has s.flr f.val

/-- The accessor that stands for a function's own accesses. -/
def ownAcc (f : Fin 1024) : Accessor := if f.val = 0 then .pf else .vf f

/-- A number as a bit. -/
def b2n (b : Bool) : Nat := if b then 1 else 0

/-- A count that stops at its field's largest value. -/
def State.incSat (s : State) (f : Field) : State :=
  s.put f (if s.get f + 1 < 2 ^ f.w then s.get f + 1 else s.get f)

/-- A count that wraps at its field's width. -/
def State.inc (s : State) (f : Field) : State := s.put f (s.get f + 1)

/-- Something sent out of the device. -/
def State.emit (s : State) (o : Out) : State := { s with out := o :: s.out }

/-- A free value: one the spec does not state (log entry 1). -/
def State.freeVal (s : State) : Word := Config.freeWord s.freeCnt

/-- The state after a free value has been taken. -/
def State.takeFree (s : State) : State := { s with freeCnt := s.freeCnt + 1 }

/-- Bytes whose values the spec does not state. -/
def freeBytes (draw n : Nat) : List Byte := (List.range n).map (Config.freeMem draw)

/-- A record in a log that holds the first since VALID was last cleared, and OVF for further ones. -/
def State.logFirst (s : State) (valid ovf : Field) (fs : List (Field × Nat)) : State :=
  if s.on valid then s.put ovf 1 else (s.putAll fs).put valid 1

/-- TMR timestamp in units of 64 FCLK cycles (R52, R149). -/
def State.time (s : State) : Nat := s.fclk / 64

/-- A context number in the form the logs use: [11:9] cluster, [8:5] engine, [4:2] context is CTX itself in the
ten-bit field from bit 2 (R87, R133). -/
def ctxField (c : Nat) : Nat := c

/-- The cluster of a context (R96). -/
def clusterOf (c : Nat) : Nat := c / 128

/-- The engine of a context within its cluster (R96). -/
def engineOf (c : Nat) : Nat := c / 8 % 16

/-- A list with its element `i` replaced. -/
def setAt {α : Type} : List α → Nat → α → List α
  | [], _, _ => []
  | _ :: r, 0, v => v :: r
  | a :: r, i + 1, v => a :: setAt r i v

/-- The numbers below `n` that satisfy `p`, rising. -/
def below (n : Nat) (p : Nat → Bool) : List Nat := (List.range n).filter p

/-- Applies a state change for every element of a list, first to last. -/
def forAll {α : Type} (l : List α) (f : State → α → State) (s : State) : State := l.foldl f s

/-! ### Event sources (R374 to R376): the part other blocks use -/

/-- The level sources (R375). -/
def isLevel (src : Nat) : Bool := src == 0x10406 || src == 0x10407

/-- A source becomes pending; a rise from 0 begins a new pending episode (R376, R378). -/
def State.setPend (s : State) (src : Nat) : State :=
  if s.on (Fld.srcStat.PEND src) then s
  else { s.put (Fld.srcStat.PEND src) 1 with misEp := s.misEp.filter (· != src) }

/-- An edge source is raised: PEND sets and CNT rises, saturating (R376). -/
def State.raise (s : State) (src : Nat) : State := (s.setPend src).incSat (Fld.srcStat.CNT src)

/-- A level source's input takes a value: PEND is the input and not ACT, a rising PEND counts, and a low input
clears ACT (R376). -/
def State.level (s : State) (src : Nat) (input : Bool) : State :=
  if input then
    if s.on (Fld.srcStat.ACT src) || s.on (Fld.srcStat.PEND src) then s else s.raise src
  else (s.put (Fld.srcStat.ACT src) 0).put (Fld.srcStat.PEND src) 0

/-- A block without a log of its own records an error in its ERR_LOG, which holds its line high (R520). -/
def State.logErr (s : State) (blk kind unit loc : Nat) : State :=
  s.logFirst (Fld.errLog.VALID blk) (Fld.errLog.OVF blk)
    [(Fld.errLog.KIND blk, kind), (Fld.errLog.UNIT blk, unit), (Fld.errLog.LOC blk, loc)]

/-- The lines of 64 B that `n` bytes from `addr` touch. -/
def linesOf (addr n : Nat) : List Nat :=
  if n = 0 then [] else (List.range ((addr + n - 1) / 64 - addr / 64 + 1)).map (· + addr / 64)

/-- The watch entries, over all clusters, that a write of some lines by another source than `by_` hits (R213). -/
def State.watchHits (s : State) (by_ : Option Nat) (func : Nat) (ls : List Nat) : List (Nat × Nat) :=
  (s.watch.flatMap (·.2)).filterMap fun w =>
    if w.1 = func ∧ w.2.1 ∈ ls ∧ some w.2.2.1 ≠ by_ then some (w.2.2.1, w.2.2.2) else none

/-- A function may use the host link: in CXL mode its Bus Master Enable is 1 and it is not in D3hot (R334, R346). In Roloa-native mode
the host reaches no configuration space, and these fields hold nothing back (R337, log entry 80). -/
def State.master (s : State) (func : Nat) : Bool :=
  s.on Fld.hpuStat.MODE || (NSet.has s.bme func && !NSet.has s.d3hot func)

/-- A request of a function can reach the host: the link is up and the function may use it (R329, R334, R346). -/
def State.hostOk (s : State) (func : Nat) : Bool := s.on Fld.hpuStat.LINK_UP && s.master func

/-! ### Lane repair -/

/-- The lanes that AGM_LREP names for repair are mapped onto spares in a module's training (R479). -/
def State.applyRepair (s : State) (m : Nat) : State :=
  { s with laneRep := SMap.set s.laneRep 0 m (s.reg ⟨.agmLrep, m, 0⟩).toNat }

end Sys2Proof.Machine
end

