-- ==== Sys2Proof/Machine/CtxOps.lean ====
section
/-!
DEFINITION. The named operations over a hardware context: its registers, flags, program counter, loads in flight,
and how an instruction leaves it (R96, R146 to R149, R161, R178 to R186).
-/

namespace Sys2Proof.Machine

/-- A context's state. -/
def State.cx (s : State) (c : Nat) : Ctx := SMap.get s.ctx {} c

/-- A context's state replaced. -/
def State.setCx (s : State) (c : Nat) (x : Ctx) : State := { s with ctx := SMap.set s.ctx {} c x }

/-- A change of a context's state. -/
def State.updCx (s : State) (c : Nat) (f : Ctx → Ctx) : State := s.setCx c (f (s.cx c))

/-- The numbers of the live contexts, rising. -/
def State.liveCtx (s : State) : List Nat := (s.ctx.filter (fun e => e.2.live)).map (·.1)

/-- A D register. -/
def Ctx.dreg (x : Ctx) (n : Nat) : Word := SMap.get x.regs.d 0 n

/-- An A register. -/
def Ctx.areg (x : Ctx) (n : Nat) : Word := SMap.get x.regs.a 0 n

/-- A 64-bit piece of an accumulator: ACCn.k (R146). -/
def Ctx.piece (x : Ctx) (n k : Nat) : Word := SMap.get x.regs.acc 0 (4 * n + k)

/-- An accumulator as a 256-bit number. -/
def Ctx.accVal (x : Ctx) (n : Nat) : Nat :=
  (x.piece n 0).toNat + 2 ^ 64 * ((x.piece n 1).toNat + 2 ^ 64 * ((x.piece n 2).toNat + 2 ^ 64 * (x.piece n 3).toNat))

/-- A segment register. -/
def Ctx.sreg (x : Ctx) (n : Nat) : Desc := SMap.get x.regs.seg {} n

/-- The restorable part changed. -/
def Ctx.upd (x : Ctx) (f : CtxRegs → CtxRegs) : Ctx := { x with regs := f x.regs }

/-- A D register written as a load result is, with no effect on loads in flight. -/
def Ctx.putD (x : Ctx) (n : Nat) (v : Word) : Ctx := x.upd fun r => { r with d := SMap.set r.d 0 n v }

/-- A load's destination taken over by a later write of the same register. -/
def Load.supersede (n : Nat) (l : Load) : Load :=
  match l.dst with
  | some d => if d = n then { l with dst := none } else l
  | none => l

/-- A D register written by an instruction: a load in flight to it no longer lands there (R161). -/
def Ctx.setD (x : Ctx) (n : Nat) (v : Word) : Ctx :=
  { x.putD n v with loads := x.loads.map (Load.supersede n) }

/-- An A register written. -/
def Ctx.setA (x : Ctx) (n : Nat) (v : Word) : Ctx := x.upd fun r => { r with a := SMap.set r.a 0 n v }

/-- A piece of an accumulator written. -/
def Ctx.setPiece (x : Ctx) (n k : Nat) (v : Word) : Ctx :=
  x.upd fun r => { r with acc := SMap.set r.acc 0 (4 * n + k) v }

/-- An accumulator written as a 256-bit number. -/
def Ctx.setAcc (x : Ctx) (n v : Nat) : Ctx :=
  (((x.setPiece n 0 (BitVec.ofNat 64 v)).setPiece n 1 (BitVec.ofNat 64 (v / 2 ^ 64))).setPiece n 2
    (BitVec.ofNat 64 (v / 2 ^ 128))).setPiece n 3 (BitVec.ofNat 64 (v / 2 ^ 192))

/-- A segment register written. -/
def Ctx.setS (x : Ctx) (n : Nat) (v : Desc) : Ctx := x.upd fun r => { r with seg := SMap.set r.seg {} n v }

/-- The flags written by an instruction: a load in flight no longer sets them. -/
def Ctx.setCF (x : Ctx) (f : Flags) : Ctx :=
  { x.upd (fun r => { r with cf := f }) with loads := x.loads.map fun l => { l with fz := false, fn := false } }

/-- The flags Z and C written alone: a load in flight still sets N (R161). -/
def Ctx.setZC (x : Ctx) (z c : Bool) : Ctx :=
  { x.upd (fun r => { r with cf := { r.cf with z := z, c := c } }) with
    loads := x.loads.map fun l => { l with fz := false } }

/-- The flag Z written alone. -/
def Ctx.setZ (x : Ctx) (z : Bool) : Ctx := x.setZC z x.regs.cf.c

/-- A D register some load in flight will still write. -/
def Ctx.pendD (x : Ctx) (n : Nat) : Bool :=
  x.loads.any fun l => l.dst == some n

/-- Some load in flight will still write Z or N. -/
def Ctx.pendCF (x : Ctx) : Bool := x.loads.any fun l => l.fz || l.fn

/-- A mirror bit of Z or N that some load in flight will still write (R156, R161). -/
def Ctx.pendBit (x : Ctx) (a : Nat) : Bool :=
  (a == 0x100 && x.loads.any (·.fz)) || (a == 0x101 && x.loads.any (·.fn))

/-- An accumulator that a transfer in progress reads or writes (R239): a STRIPE or GATHER writes its outcome into one whatever its
selector names (R254). -/
def State.pendAcc (s : State) (c n : Nat) : Bool :=
  (s.cx c).slots.any fun sl =>
    match s.xfer.find? (fun e => e.1 == 4 * c + sl) with
    | some (_, x) => (x.tsel != 0 || x.stripe.isSome) && bitsOf x.tsel 27 2 == n
    | none => false

/-- The context is speculating: it holds a checkpoint (chapter 8). -/
def Ctx.speculating (x : Ctx) : Bool := !x.ckpts.isEmpty

/-- CF as MOVS reads it (R149). -/
def Flags.word (f : Flags) : Word :=
  BitVec.ofNat 64 (b2n f.z + 2 * b2n f.n + 4 * b2n f.c + 8 * b2n f.v + 16 * b2n f.dz)

/-- CF from the low five bits of a word (R149). -/
def Flags.ofWord (w : Word) : Flags :=
  { z := w.getLsbD 0, n := w.getLsbD 1, c := w.getLsbD 2, v := w.getLsbD 3, dz := w.getLsbD 4 }

/-- MST (R149): BUSY, MBUSY, DBUSY. -/
def CtxRegs.mst (r : CtxRegs) : Nat :=
  let m := b2n r.mul.isSome
  let d := b2n r.div.isSome
  (if m + d = 0 then 0 else 1) + 2 * m + 4 * d

/-- Width in bits (R148). -/
def widthBits : Width → Nat
  | .w64 => 64 | .w32 => 32 | .w16 => 16 | .w8 => 8 | .w4 => 4

/-- Bytes that a memory operand moves, and by which a repeat advances its A register (R148, R178). -/
def widthBytes : Width → Nat
  | .w64 => 8 | .w32 => 4 | .w16 => 2 | .w8 => 1 | .w4 => 1

/-- The operand src of the instruction tables (R161). -/
def Ctx.src (x : Ctx) : Src → Word
  | .reg d => x.dreg d.val
  | .imm v => v

/-- The D registers that src reads. -/
def usesSrc : Src → List Nat
  | .reg d => [d.val]
  | .imm _ => []

/-- A 16-bit operand's value; a register gives its bits [15:0]. -/
def Ctx.sel (x : Ctx) : SelSrc → Nat
  | .imm v => v.toNat
  | .reg d => (x.dreg d.val).toNat % 2 ^ 16

/-- The D registers a 16-bit operand reads. -/
def usesSel : SelSrc → List Nat
  | .imm _ => []
  | .reg d => [d.val]

/-- A bit address (R155). -/
def Ctx.bitAddr (x : Ctx) : BitSrc → Nat
  | .imm b => b.toNat
  | .reg d => (x.dreg d.val).toNat % 2 ^ 16

/-- The D registers a bit operand reads. -/
def usesBit : BitSrc → List Nat
  | .imm _ => []
  | .reg d => [d.val]

/-- The offset of a memory operand (R136): the A register plus the displacement, modulo 2^64. -/
def Ctx.offset (x : Ctx) (m : Mem) : Word := x.areg m.a.val + m.disp

/-- The segment register of a memory operand: the override, or the default pair (R140). -/
def memSreg (m : Mem) : Nat := (m.seg.getD m.a).val

/-- Two resources are kept by one arbiter (R77, R86): the semaphore arbiter of a cluster, the device-port arbiter of a PLU, the
arbiter of one extension binding. -/
def Resource.sameArb (a b : Resource) : Bool := a.kind == b.kind && a.blk == b.blk && (a.kind != 3 || a.num == b.num)

/-- The arbiter of a resource holds a lock of another context, so that it grants only that one (R86). -/
def State.lockedByOther (s : State) (c : Nat) (r : Resource) : Bool :=
  s.ctx.any fun e => e.1 != c && (match e.2.lock with | some o => o.sameArb r | none => false)

/-- The locked sequence loses its lock and ends (R183, R186). -/
def Ctx.endSeq (x : Ctx) : Ctx := { x with seqCount := none, lock := none }

/-- A member of a locked sequence has retired: the 8th ends it, and so does a later member that carries LOCK (R183). -/
def Ctx.countSeq (x : Ctx) (lock : Bool) : Ctx :=
  match x.seqCount with
  | none => x
  | some k => if k + 1 ≥ 8 || (lock && k ≥ 1) then x.endSeq else { x with seqCount := some (k + 1) }

/-- An instruction retires: CPC moves past it, its wait ends, the locked sequence counts it. Its own repeat has
ended. -/
def Ctx.retireAt (x : Ctx) (len : Nat) (lock : Bool) : Ctx :=
  ({ x with wait := .none
            regs := { x.regs with cpc := { x.regs.cpc with off := (x.regs.cpc.off + len) % 2 ^ 48 }
                                  repOn := false } }).countSeq lock

/-- An instruction that is not repeated retires. -/
def Ctx.retire (x : Ctx) (h : Hdr) : Ctx := x.retireAt h.len h.lock

/-- One iteration of a repeated instruction ends (R178): REPC counts down, and the instruction retires at 0, or
under REPZ when Z is 0. -/
def Ctx.iterate (x : Ctx) (h : Hdr) : Ctx :=
  match h.rpt with
  | .once => x.retire h
  | r =>
    let x1 := x.upd fun g => { g with repc := g.repc - 1, repOn := true }
    if x1.regs.repc = 0 || (r == .repz && !x1.regs.cf.z) then x1.retire h else x1

/-- As `iterate` for a memory operand: the A register of its address advances under a repeat (R178). -/
def Ctx.iterateMem (x : Ctx) (h : Hdr) (m : Mem) : Ctx :=
  match h.rpt with
  | .once => x.retire h
  | _ => (x.setA m.a.val (x.areg m.a.val + BitVec.ofNat 64 (widthBytes h.width))).iterate h

end Sys2Proof.Machine
end

