-- ==== Sys2Proof/Machine/KingOps.lean ====
section
/-!
DEFINITION. What the scheduler and the PCM know of engines, King slots and queues: engine power states (R462), the slots of the
King slot table (R81), and the wake of King engines (R92, R463).
-/

namespace Sys2Proof.Machine

/-- The class of a queue (R58). -/
def State.qClass (s : State) (q : Nat) : Nat := s.get (Fld.qctx.CLASS q)

/-- The function that owns a queue's group (R36). -/
def State.qFunc (s : State) (q : Nat) : Nat := s.get (Fld.grp.FUNC (q / 16))

/-- An engine's power state W0 to W3 (R462). -/
def State.engW (s : State) (cl e : Nat) : Nat := bitsOf (s.reg ⟨.engState, cl, 0⟩).toNat (2 * e) 2

/-- An engine's power state written. -/
def State.setEngW (s : State) (cl e w : Nat) : State :=
  s.setReg ⟨.engState, cl, 0⟩ (BitVec.ofNat 64 (putBits (s.reg ⟨.engState, cl, 0⟩).toNat (2 * e) 2 w))

/-- A context may take a program: it is free, its engine runs or is only clock-gated, its cluster is not masked. -/
def State.ctxFree (s : State) (c : Nat) : Bool :=
  !(s.cx c).live && decide (s.engW (clusterOf c) (engineOf c) ≤ 1) && !NSet.has s.masked (12 + clusterOf c)

/-- The context that a King slot reserves (R81). -/
def slotCtx (s : Nat) : Nat := s / 16 * 128 + (14 + s / 8 % 2) * 8 + s % 8

/-- A King slot is in use until its program ends (R81). -/
def State.slotUsed (s : State) (k : Nat) : Bool := s.ctx.any fun e => e.2.live && e.2.kingSlot == some k

/-- An active slot is eligible for a function and free (R81). -/
def State.slotFree (s : State) (k f : Nat) : Bool :=
  s.on (Fld.kstActive.VALID k) && (!s.on (Fld.kstActive.FUNC_EN k) || s.get (Fld.kstActive.FUNC k) == f) &&
    !s.slotUsed k && s.ctxFree (slotCtx k)

/-- The free eligible slots for a function, rising. -/
def State.freeSlots (s : State) (f : Nat) : List Nat := below 128 fun k => s.slotFree k f

/-- A King engine that holds a valid active slot (R463). -/
def State.kingEngine (s : State) (e : Nat) : Bool :=
  decide (e % 16 ≥ 14) && (List.range 8).any fun x => s.on (Fld.kstActive.VALID (e / 16 * 16 + (e % 16 - 14) * 8 + x))

/-- An engine's power state by its number over the device (R462). -/
def State.w (s : State) (e : Nat) : Nat := s.engW (e / 16) (e % 16)
/-- That state written. -/
def State.setW (s : State) (e v : Nat) : State := s.setEngW (e / 16) (e % 16) v

/-- The clock and the power of a mover group 0 to 3, or of a lane pair 4 to 7, start (R235, R465). -/
def State.clockGrp (s : State) (g : Nat) : State :=
  { s with gatedGrp := NSet.del s.gatedGrp g, pwrGrp := NSet.del s.pwrGrp g }

/-- A King queue that has become runnable makes the PCM wake every W1 King engine that holds a free eligible slot (R92). -/
def State.kingWake (s : State) (q : Nat) : State :=
  let st := s.get (Fld.qctx.STATE q)
  if s.qClass q = 0 ∧ s.on Fld.qscCtl.KING_EN ∧ (st = 2 ∨ st = 3) then
    let es := (s.freeSlots (s.qFunc q)).map fun k => k / 16 * 16 + 14 + k / 8 % 2
    { s with waking := (es.filter fun e => s.w e == 1).foldl NSet.add s.waking }
  else s

/-- The PCM keeps every King engine that holds a valid active slot at W0 or W1 (R92, R463): one that has gained such a slot in
W2 or W3 starts to wake, but not in Sleep. -/
def State.kingKeep (s : State) : State :=
  if s.get Fld.pcmStat.DSTATE = 2 then s
  else { s with waking := (below 128 fun e => s.kingEngine e && decide (s.w e ≥ 2)).foldl NSet.add s.waking }

end Sys2Proof.Machine
end

