-- ==== Sys2Proof/Machine/Wire.lean ====
section
/-!
DEFINITION. The words of a peer link: their kinds, the packet types, the header's layout, and what is malformed (R271 to R275, R298
to R300).
-/

namespace Sys2Proof.Machine

/-! ### Words (R271, R275) -/

/-- What byte 0 of a word that begins a packet or stands between packets says. -/
inductive WordKind where
  | idle
  | header (type : Nat)
  | control (code : Nat)
deriving DecidableEq, Repr

/-- The kind of a word (R271). -/
def wordKind (w : Nat) : WordKind :=
  if w % 256 = 0 then .idle else if w % 256 < 0xF0 then .header (w % 256) else .control (w % 256)

/-- The types that are assigned (R298). -/
def assignedTy (ty : Nat) : Bool := [0x20, 0x60, 0x61, 0x62, 0x68, 0x70, 0x80, 0xC0, 0xC4].contains ty

/-- A type whose packets carry a payload (R272). -/
def hasPayload (ty : Nat) : Bool := ty / 64 % 2 == 1

/-- A non-posted request (R298). -/
def nonPostedTy (ty : Nat) : Bool := ty == 0x20 || ty == 0x61 || ty == 0x62 || ty == 0x70

/-- A response (R298). -/
def responseTy (ty : Nat) : Bool := ty ≥ 0x80

/-- LEN is out of its range: above 128, which is also the device's MPS in words, or 0 on a payload-carrying type (R274). The table
of R298 gives an extension response with an error LEN 0. -/
def lenBad (ty len : Nat) : Bool := decide (len > 128) || (hasPayload ty && len == 0 && ty != 0xC4)

/-- A control word with a reserved code or with a bit that is given as 0, or an LCAP with a reserved MPS (R275). -/
def controlBad (w : Nat) : Bool :=
  match w % 256 with
  | 0xF0 => bitsOf w 10 6 != 0
  | 0xF1 => bitsOf w 10 1 != 0
  | 0xF5 => false
  | 0xF6 => bitsOf w 15 17 != 0 || decide (bitsOf w 9 3 > 3)
  | 0xF7 => bitsOf w 11 5 != 0
  | _ => true

/-- The first word of a header by itself is malformed (R272, R274). -/
def headBad (w : Nat) : Bool :=
  !assignedTy (w % 256) || bitsOf w 30 2 != 0 || lenBad (w % 256) (bitsOf w 18 8)

/-- A word that begins a packet or stands between packets is malformed (R271, R293). -/
def wordBad (w : Nat) : Bool :=
  match wordKind w with
  | .idle => w != 0
  | .header _ => headBad w
  | .control _ => controlBad w

/-! ### The header (R273, R300) -/

/-- The bits of `aux` that the packets of a type hold in it; `flagsV` is FLAGS_V. -/
def auxMask (ty : Nat) (flagsV : Bool) : Nat :=
  match ty with
  | 0x70 => 2 ^ 46 - 1
  | 0x80 => 2 ^ 46 - 2 ^ 8
  | 0xC0 => 2 ^ 46 - 2 ^ 22 + (2 ^ 14 - 2 ^ 8)
  | 0xC4 => 2 ^ 46 - 2 ^ 13 + if flagsV then 0 else 2 ^ 12 - 2 ^ 8
  | _ => 0

/-- Header bits [127:82]: ADDR, or what the type puts in its place. -/
def upperBits (p : Pkt) : Nat :=
  let x := p.aux &&& auxMask p.type p.flags.isSome
  match p.type with
  | 0x70 => x
  | 0x80 => p.cst + x
  | 0xC0 => p.cst + p.woff * 2 ^ 14 + b2n p.last * 2 ^ 21 + x
  | 0xC4 => p.cst + (match p.flags with | some f => f * 2 ^ 8 + 2 ^ 12 | none => 0) + x
  | _ => p.addr

/-- The 128-bit header of a packet (R273). -/
def packHeader (p : Pkt) : Nat :=
  p.type + p.vc * 2 ^ 8 + b2n p.locked * 2 ^ 10 + p.attr * 2 ^ 11 + b2n p.poison * 2 ^ 13 + p.hops * 2 ^ 14 + p.len * 2 ^ 18 +
    p.fbe * 2 ^ 26 + p.resv % 4 * 2 ^ 30 + p.dst * 2 ^ 32 + p.src * 2 ^ 48 + p.tag * 2 ^ 64 + p.lbe * 2 ^ 76 +
    p.resv / 4 * 2 ^ 80 + upperBits p * 2 ^ 82

/-- A word of a header. -/
def headerWord (p : Pkt) (i : Nat) : Nat := bitsOf (packHeader p) (32 * i) 32

/-- The packet that a header and its payload spell (R273, R300). -/
def readPacket (h : Nat) (data : List Byte) : Pkt :=
  let ty := bitsOf h 0 8
  let u := bitsOf h 82 46
  { type := ty, vc := bitsOf h 8 2, locked := bitsOf h 10 1 == 1, attr := bitsOf h 11 2, resv := bitsOf h 30 2 + 4 * bitsOf h 80 2,
    poison := bitsOf h 13 1 == 1, hops := bitsOf h 14 4, dst := bitsOf h 32 16, src := bitsOf h 48 16, tag := bitsOf h 64 12,
    addr := if ty = 0x70 ∨ responseTy ty then 0 else u, len := bitsOf h 18 8, fbe := bitsOf h 26 4, lbe := bitsOf h 76 4,
    cst := if responseTy ty then bitsOf u 0 8 else 0
    woff := if ty = 0xC0 then bitsOf u 14 7 else 0
    last := if ty = 0xC0 then bitsOf u 21 1 == 1 else true
    flags := if ty = 0xC4 ∧ bitsOf u 12 1 = 1 then some (bitsOf u 8 4) else none
    aux := u &&& auxMask ty (bitsOf u 12 1 == 1), data := data }

/-- The fields fit their bits and the payload has LEN words: what the words of a packet can spell (R272, R273). -/
def pktShape (p : Pkt) : Bool :=
  decide (p.vc < 4 ∧ p.attr < 4 ∧ p.resv < 16 ∧ p.hops < 16 ∧ p.dst < 2 ^ 16 ∧ p.src < 2 ^ 16 ∧ p.tag < 2 ^ 12 ∧ p.addr < 2 ^ 46 ∧
    p.len < 2 ^ 8 ∧ p.fbe < 16 ∧ p.lbe < 16 ∧ p.cst < 2 ^ 8 ∧ p.woff < 2 ^ 7 ∧ p.aux < 2 ^ 46 ∧ p.flags.getD 0 < 16) &&
    (p.data.length == if hasPayload p.type then 4 * p.len else 0)

/-- The header word that makes a packet malformed (R274, R300), if one does: the first in the order of the words. Bits [127:96] of
a CPL, which are reserved where it answers no DCMD, are not tested: the link does not know what it answers (log entry 61). -/
def malformedWord (p : Pkt) : Option Nat :=
  let cpl := p.type = 0x80 ∨ p.type = 0xC0
  if p.resv % 4 ≠ 0 ∨ lenBad p.type p.len then some (headerWord p 0)
  else if p.resv / 4 ≠ 0 ∨ (p.lbe ≠ 0 ∧ p.len ≤ 1) ∨ (cpl ∧ bitsOf p.aux 8 6 ≠ 0) then some (headerWord p 2)
  else if p.type = 0xC0 ∧ bitsOf p.aux 22 24 ≠ 0 then some (headerWord p 3)
  else none

end Sys2Proof.Machine
end

