-- ==== Sys2Proof/Machine/TxnOps.lean ====
section
/-!
DEFINITION. Routing (R286, R287), tags and the requests the device issues into the Roloa fabric (R298, R299, R308,
R309), and the credits a packet uses (R283).
-/

namespace Sys2Proof.Machine

/-- The part of a link that no register shows. -/
def State.lk (s : State) (p : Nat) : LinkDyn := SMap.get s.link {} p

/-- That part replaced. -/
def State.setLk (s : State) (p : Nat) (x : LinkDyn) : State := { s with link := SMap.set s.link {} p x }

/-- Where a packet goes (R287). -/
inductive Route where
  | self | host
  | link (p hops : Nat)
  | unroutable
  | hopExhausted
deriving DecidableEq, Repr

/-- PLU_STAT.STATE of a joined link (R276). -/
def linkJoined : Nat := 4

/-- A node lies in the block granted on a link (R278). -/
def State.inGrant (s : State) (p d : Nat) : Bool :=
  match (s.lk p).granted with
  | some (base, lg) => decide (base ≤ d ∧ d < base + 2 ^ lg)
  | none => false

/-- An entry of an active route table: bits [3:0] of byte `b` of its 256 (R296). -/
def State.rtEntry (s : State) (id : RegId) (b : Nat) : Nat :=
  bitsOf (s.reg ⟨id, b / 8, 0⟩).toNat (8 * (b % 8)) 4

/-- The route of a packet for node `d` with a hop count, entering at `ingress`: 0 to 7 a link, 8 the host, 9 the
device itself (R287). -/
def State.route (s : State) (d hops ingress : Nat) : Route :=
  if d = 0 ∨ d = 0xFFFF then .unroutable
  else
    let dom := d / 256
    let nd := d % 256
    let own := dom == s.get Fld.rtCtl.DOMAIN
    if own && nd == s.get Fld.rtCtl.SELF then .self
    else if own && nd == s.get Fld.rtCtl.HOST then .host
    else
      let port := if own then s.rtEntry .nodeRtA nd else s.rtEntry .domRtA dom
      if port ≥ 8 then .unroutable
      else
        let sw := s.on (Fld.pluStat.PEER_SW port)
        if own && (sw || !s.inGrant port d) then .unroutable
        else if !own && !sw then .unroutable
        else if s.get (Fld.pluStat.STATE port) ≠ linkJoined then .unroutable
        else if port = ingress then .unroutable
        else if sw then (if hops = 0 then .hopExhausted else .link port (hops - 1))
        else .link port hops

/-- The device's own node (R286). -/
def State.selfNode (s : State) : Nat := s.get Fld.rtCtl.DOMAIN * 256 + s.get Fld.rtCtl.SELF

/-- The host's node (R286). -/
def State.hostNode (s : State) : Nat := s.get Fld.rtCtl.DOMAIN * 256 + s.get Fld.rtCtl.HOST

/-- In Roloa-native mode the host's link is down, and no packet leaves for it (R329, R337). -/
def State.hostCut (s : State) : Bool := s.on Fld.hpuStat.MODE && !s.on Fld.hpuStat.LINK_UP

/-- The node can be reached now (R287). -/
def State.reachable (s : State) (d : Nat) : Bool :=
  match s.route d 15 9 with
  | .unroutable => false
  | .hopExhausted => false
  | .host => !s.hostCut
  | _ => true

/-- The lock resource of a port: it is kept at the PLU that serves the port (R184). -/
def State.portRes (s : State) (p : Nat) : Option Resource :=
  match s.route (s.get (Fld.dpData.NODE p)) 15 9 with
  | .link l _ => some { kind := 2, blk := 1 + l, num := p }
  | _ => none

/-- A tag for a request (R77, R308): the lowest not outstanding; a request that is not on VC0 leaves 256 tags to those on VC0. -/
def State.freeTag (s : State) (vc : Nat) : Option Nat :=
  if vc ≠ 0 ∧ (s.txn.filter fun e => e.2.vc != 0).length ≥ 4096 - 256 then none
  else (List.range 4096).find? fun t => s.txn.all fun e => e.1 != t

/-- Data credits that a packet takes: one for each 64 B of payload, rounded up (R283). -/
def dataCredits (p : Pkt) : Nat := (p.data.length + 63) / 64

/-- The header and data credits held at a peer link, or at the host link (8), for a virtual channel (R283, R337). -/
def State.txCred (s : State) (port vc : Nat) : Nat × Nat :=
  if port = 8 then SMap.get s.hostLink.tx (0, 0) vc else (s.get (Fld.pluCred.TX_HDR port vc), s.get (Fld.pluCred.TX_DATA port vc))

/-- Those credits replaced. -/
def State.setTxCred (s : State) (port vc h d : Nat) : State :=
  if port = 8 then { s with hostLink := { s.hostLink with tx := SMap.set s.hostLink.tx (0, 0) vc (h, d) } }
  else (s.put (Fld.pluCred.TX_HDR port vc) h).put (Fld.pluCred.TX_DATA port vc) d

/-- Both credits for a packet are there (R283). -/
def State.hasCredit (s : State) (port : Nat) (p : Pkt) : Bool :=
  decide ((s.txCred port p.vc).1 ≥ 1) && decide ((s.txCred port p.vc).2 ≥ dataCredits p)

/-- A packet leaves by a link and spends its credits (R283). -/
def State.putOnLink (s : State) (port : Nat) (p : Pkt) : State :=
  (s.setTxCred port p.vc ((s.txCred port p.vc).1 - 1) ((s.txCred port p.vc).2 - dataCredits p)).emit (.pkt port p)

/-- The queue of a link in which a packet waits: responses never wait behind requests (R306). -/
def txKey (p : Pkt) : Nat := p.vc + if responseTy p.type then 4 else 0

/-- A posted write on VC1 has left a link's queue, or been discarded from it: the status updates of its source that wait for it wait
for one fewer there (R307). -/
def State.supdStep (s : State) (port : Nat) (p : Pkt) : State :=
  if p.type = 0x60 ∧ p.vc = 1 then
    { s with supdQ := s.supdQ.map fun w => if w.1.src = p.src then
        (w.1, w.2.map fun e => if e.1 = port then (e.1, e.2 - 1) else e) else w }
  else s

/-- The packets of one of a link's queues that wait for credits leave in order while credits last; `n` bounds them. -/
def State.drainTx (s : State) (port key : Nat) : Nat → State
  | 0 => s
  | n + 1 =>
    match SMap.get (s.lk port).txq [] key with
    | [] => s
    | p :: r =>
      if s.hasCredit port p then
        (((s.setLk port { s.lk port with txq := SMap.set (s.lk port).txq [] key r }).putOnLink port p).supdStep port p).drainTx
          port key n
      else s

/-- A packet for egress `port`: a link sends it when it holds the credits, behind the packets already waiting; in Roloa-native mode
the host (8) is reached by such a link (R337). The HPU in CXL mode and the device itself (9) take it at once. -/
def State.sendPkt (s : State) (port : Nat) (p : Pkt) : State :=
  if port ≥ 9 ∨ (port = 8 ∧ !s.on Fld.hpuStat.MODE) then s.emit (.pkt port p)
  else
    let q := SMap.get (s.lk port).txq [] (txKey p)
    (s.setLk port { s.lk port with txq := SMap.set (s.lk port).txq [] (txKey p) (q ++ [p]) }).drainTx port (txKey p)
      (q.length + 1)

/-- Unsent packets of a link with a property are discarded. -/
def State.dropTx (s : State) (port : Nat) (p : Pkt → Bool) : State :=
  let l := s.lk port
  let gone := (l.txq.flatMap (·.2)).filter p
  forAll gone (fun t q => t.supdStep port q)
    (s.setLk port { l with txq := l.txq.map fun e => (e.1, e.2.filter fun q => !p q) })

/-- A request to a port lights the activity light of its slot (R498). -/
def State.markSlot (s : State) (port : Option Nat) : State :=
  match port with
  | some p => if s.on (Fld.dpData.SLOT_EN p) then { s with slotAct := NSet.add s.slotAct (s.get (Fld.dpData.SLOT p)) } else s
  | none => s

/-- No transaction. -/
def noTxn : Txn :=
  { purp := .gone, type := 0, node := 0, addr := 0, n := 0, vc := 0, port := none, tmo := 0, link := none, got := [] }

/-- The first enabled byte of a byte-enable mask. -/
def lowBit (m : Nat) : Nat := ((List.range 4).find? fun i => m / 2 ^ i % 2 == 1).getD 0

/-- The last enabled byte of a byte-enable mask. -/
def highBit (m : Nat) : Nat := ((List.range 4).reverse.find? fun i => m / 2 ^ i % 2 == 1).getD 0

/-- A request of SELF: it takes a tag if it is non-posted, and leaves by its route. An unreachable target is told by
the answer `false`; so is a lack of tags. -/
def State.request (s0 : State) (purp : Purpose) (p : Pkt) (n : Nat) (port : Option (Nat × Nat)) (nonPosted : Bool)
    (tmo : Nat) (seg : Desc := {}) : Option (State × Nat) :=
  let s := s0.markSlot (port.map fun q => q.1)
  match (if nonPosted then s.freeTag p.vc else some 0) with
  | none => none
  | some tag =>
    let q := { p with src := s.selfNode, tag := tag }
    let rec_ (l : Option Nat) : Txn :=
      { purp := purp, type := p.type, node := p.dst, addr := p.addr, n := n, vc := p.vc, port := port, tmo := tmo,
        link := l, lo := lowBit p.fbe, got := [], seg := seg }
    let keep (s1 : State) (l : Option Nat) : State :=
      if nonPosted then { s1 with txn := AMap.set natLt s1.txn noTxn tag (rec_ l) }
      else s1
    match s.route p.dst p.hops 9 with
    | .link l hops => some (keep (s.sendPkt l { q with hops := hops }) (some l), tag)
    | .host => some (keep (s.sendPkt 8 q) none, tag)
    | .self => some (keep (s.emit (.pkt 9 q)) none, tag)
    | _ => none

/-- A packet of the device's own leaves by its route; one with no route is discarded (R291). -/
def State.sendRouted (s : State) (p : Pkt) : State :=
  match s.route p.dst p.hops 9 with
  | .link l h => s.sendPkt l { p with hops := h }
  | .host => if s.hostCut then s else s.sendPkt 8 p
  | .self => s.emit (.pkt 9 p)
  | _ => s

/-- The virtual channel of a response (R282, R298). -/
def rspVc (vc : Nat) : Nat := if vc = 1 then 2 else vc

/-- A response without data to a request of a type, for the requester of a tag: an XRSP for an extension request, else a CPL
(R298, R300). -/
def State.cplPkt (s : State) (ty src tag vc cst : Nat) : Pkt :=
  { type := if ty = 0x70 then 0xC4 else 0x80, vc := rspVc vc, dst := src, src := s.selfNode, tag := tag, fbe := 0, lbe := 0,
    cst := cst }

/-- The non-posted packets forwarded on a link whose responses have not come are answered UNREACH (R294). -/
def State.answerFwd (s : State) (p : Nat) : State :=
  forAll (s.lk p).fwd (fun t f => t.sendRouted (t.cplPkt f.2.2.2 f.1 f.2.1 f.2.2.1 0x12)) (s.setLk p { s.lk p with fwd := [] })

/-- A transaction is no longer outstanding. -/
def State.dropTxn (s : State) (tag : Nat) : State := { s with txn := s.txn.filter fun e => e.1 != tag }

/-- The transaction with a tag. -/
def State.txnOf (s : State) (tag : Nat) : Option Txn := (s.txn.find? (fun e => e.1 == tag)).map (·.2)

/-- The transaction timeout of a request issued now (R309, R310). -/
def State.tmoNow (s : State) : Nat := s.get Fld.txnCtl.TMO_US

/-- The byte enables and word count of a read or write of `n` bytes at byte address `a` within its words (R299). -/
def byteSpan (a n : Nat) : Nat × Nat × Nat × Nat :=
  let first := a / 4
  let lastB := a + n - 1
  let len := lastB / 4 - first + 1
  let lo := a % 4
  let hi := lastB % 4
  if len = 1 then (first, 1, (2 ^ (hi + 1) - 2 ^ lo), 0) else (first, len, 16 - 2 ^ lo, 2 ^ (hi + 1) - 1)

/-- A memory read request for `n` bytes at a byte address of a node (R298, R299). -/
def mrdPkt (node a n vc : Nat) (locked : Bool) : Pkt :=
  let b := byteSpan a n
  { type := 0x20, vc := vc, locked := locked, dst := node, src := 0, addr := b.1, len := b.2.1, fbe := b.2.2.1,
    lbe := b.2.2.2 }

/-- A memory write request, posted (0x60) or non-posted (0x61). -/
def mwrPkt (type node a : Nat) (data : List Byte) (vc : Nat) (locked : Bool) : Pkt :=
  let b := byteSpan a data.length
  { type := type, vc := vc, locked := locked, dst := node, src := 0, addr := b.1, len := b.2.1, fbe := b.2.2.1,
    lbe := b.2.2.2, data := data }

/-- The largest payload for a node: 512 bytes, or the MPS of the peer whose link leads there (R284). -/
def State.mpsOf (s : State) (node : Nat) : Nat :=
  match s.route node 15 9 with
  | .link p _ => Nat.min 512 (64 * 2 ^ s.get (Fld.pluStat.PEER_MPS p))
  | .host => if s.on Fld.hpuStat.MODE then Nat.min 512 (64 * 2 ^ s.hostLink.mps) else 512
  | _ => 512

/-! ### Discovery (R282, R312, R421) -/

/-- A reading of a descriptor. -/
def State.discOf (s : State) (key : Nat) : Disc := SMap.get s.disc {} key

/-- That reading replaced. -/
def State.setDisc (s : State) (key : Nat) (d : Disc) : State := { s with disc := SMap.set s.disc {} key d }

/-- Firmware begins to read a node's descriptor; a read of an earlier reading is abandoned. -/
def State.discStart (s : State) (key node : Nat) : State :=
  let late (e : Nat × Txn) : Nat × Txn := if e.2.purp == .disc key then (e.1, { e.2 with purp := .gone }) else e
  { s with txn := s.txn.map late }.setDisc key { node := node, stage := 1 }

/-- The readings whose next read can be issued, or cannot be made at all. -/
def State.discReady (s : State) : List Nat :=
  (s.disc.filter fun e => e.2.stage == 1 && ((s.freeTag 3).isSome || !s.reachable e.2.node)).map (·.1)

/-- The next 64 bytes of a descriptor are asked for on VC3 (R311, R312). -/
def State.discGo (s : State) (key : Nat) : State :=
  let d := s.discOf key
  if !s.reachable d.node then s.setDisc key { d with stage := 4 }
  else match s.request (.disc key) (mrdPkt d.node (0xFFFFFFFFF000 + d.got.length) 64 3 false) 64 none true s.tmoNow with
    | some (s1, _) => s1.setDisc key { d with stage := 2 }
    | none => s

/-- Bytes of a descriptor have come. -/
def State.discData (s : State) (key : Nat) (bs : List Byte) : State :=
  let d := s.discOf key
  let got := d.got ++ bs
  if d.stage = 2 then s.setDisc key { d with got := got, stage := if got.length ≥ 4096 then 3 else 1 } else s

/-- Requests of an extension unit's binding that are outstanding (R322). -/
def State.extOut (s : State) (n : Nat) : Nat :=
  (s.txn.filter fun e => e.2.type == 0x70 && (match e.2.purp with | .ext _ m | .goneExt m => m == n | _ => false)).length

/-- A read of a descriptor has failed. -/
def State.discFail (s : State) (key : Nat) : State := s.setDisc key { s.discOf key with stage := 4 }

end Sys2Proof.Machine
end

