-- ==== Sys2Proof/Machine/HostPath.lean ====
section
/-!
DEFINITION. The path to host memory (R27, R28, R199, R329, R332 to R337): the posted writes, address translation, and the reads
with the requests that they become in either host mode.
-/

namespace Sys2Proof.Machine

/-! ### Address translation (R199) -/

/-- A page of a function's address space, as a key. -/
def atcKey (func page : Nat) : Nat := func * 2 ^ 45 + page

/-- Two ranges of 2^a and 2^b aligned pages have a page in common. -/
def pagesMeet (p a q b : Nat) : Bool := p / 2 ^ Nat.max a b == q / 2 ^ Nat.max a b

/-- ATS is enabled for the function (R342); Roloa-native mode has none (R337). -/
def State.atsOn (s : State) (func : Nat) : Bool := NSet.has s.atsEn func && !s.on Fld.hpuStat.MODE

/-- The translation that the device holds of a page. -/
def State.atcHit (s : State) (func page : Nat) : Option Atc :=
  s.atc.find? fun e => e.func == func && pagesMeet e.page e.log2 page 0

/-- The translation of an address is known, or not needed. -/
def State.translated (s : State) (func addr : Nat) : Bool := !s.atsOn func || (s.atcHit func (addr / 4096)).isSome

/-- The address under which a request leaves (R199): the translated one where ATS is enabled and its page is known, else the
IOVA. -/
def State.hostAddr (s : State) (func addr : Nat) : Bool × Nat :=
  match (if s.atsOn func then s.atcHit func (addr / 4096) else none) with
  | some e => (true, (e.phys / 2 ^ e.log2 * 2 ^ e.log2 + addr / 4096 % 2 ^ e.log2) * 4096 + addr % 4096)
  | none => (false, addr)

/-- A translation is asked for, unless it is known or already asked for. -/
def State.askAts (s : State) (func addr : Nat) : State :=
  if s.translated func addr ∨ NSet.has s.atsPend (atcKey func (addr / 4096)) then s
  else { s.emit (.atsReq func (addr / 4096)) with atsPend := NSet.add s.atsPend (atcKey func (addr / 4096)) }

/-! ### Posted writes -/

/-- Writes to the host in Roloa-native mode (R27, R337): MWR packets, none across a boundary of the largest payload; `n` bounds
them. They keep one order, all on VC1 (R28, R336; log entry 57). -/
def State.hostMwr (s : State) (addr : Nat) (data : List Byte) : Nat → State
  | 0 => s
  | n + 1 =>
    if data.isEmpty then s
    else
      let k := s.mpsOf s.hostNode - addr % s.mpsOf s.hostNode
      (s.sendRouted { mwrPkt 0x60 s.hostNode addr (data.take k) 1 false with src := s.selfNode }).hostMwr (addr + k) (data.drop k) n

/-- A write of host memory is issued on the posted-write path (R27, R28, R336) on behalf of a context, or of none; the
watched lines it hits are recorded. A write that cannot reach the host does not leave. -/
def State.hostWriteBy (s : State) (by_ : Option Nat) (func addr : Nat) (data : List Byte) : State :=
  if s.hostOk func then
    let s1 := { s with hits := s.watchHits by_ func (linesOf addr data.length) ++ s.hits }
    if s.on Fld.hpuStat.MODE then s1.hostMwr addr data data.length
    else
      let a := s.hostAddr func addr
      s1.emit (.hostWrite func a.1 a.2 data)
  else s

/-- A write of host memory by no context. -/
def State.hostWrite (s : State) (func addr : Nat) (data : List Byte) : State :=
  s.hostWriteBy none func addr data

/-! ### Reads -/

/-- No request. -/
def noReq : HReq := { purp := .gone, func := 0, addr := 0, n := 0 }

/-- Every page of a request is translated, or needs no translation. -/
def State.readable (s : State) (r : HReq) : Bool :=
  r.n == 0 || (s.translated r.func r.addr && s.translated r.func (r.addr + r.n - 1))

/-- The translations that a request needs are asked for. -/
def State.askRead (s : State) (r : HReq) : State :=
  if r.n = 0 then s else (s.askAts r.func r.addr).askAts r.func (r.addr + r.n - 1)

/-- A read's record replaced. -/
def State.setHreq (s : State) (id : Nat) (r : HReq) : State := { s with hreq := SMap.set s.hreq noReq id r }

/-- A read leaves for the host; one that cannot reach it stays outstanding for its error response. A CXL.cache read needs
Cache_Enable (R333). In Roloa-native mode the read is an MRD to HOST (R27), which waits while there is no tag for it (R308). -/
def State.readOut (s : State) (id : Nat) (r : HReq) : State :=
  let native := s.on Fld.hpuStat.MODE
  if !s.hostOk r.func || (r.op != .io && !native && !s.on Fld.hpuStat.CACHE_EN) then s.setHreq id { r with dead := true, held := false }
  else if native then
    match s.request (.host id) (mrdPkt s.hostNode r.addr r.n r.vc false) r.n none true s.tmoNow with
    | some (s1, _) => s1.setHreq id { r with held := false }
    | none => s.setHreq id { r with held := true }
  else
    let a := s.hostAddr r.func r.addr
    (s.setHreq id { r with held := false }).emit (.hostRead id r.func r.op a.1 a.2 r.n r.vc)

/-- A peer's packet for the host, which keeps its own address (R335). -/
def Purpose.ofPeer : Purpose → Bool
  | .peer .. => true
  | _ => false

/-- A read of host memory is made under a new request number. It is issued once its pages are translated (R199). -/
def State.hostRead (s : State) (p : Purpose) (func : Nat) (op : HostOp) (addr n vc : Nat)
    (seg : Desc := {}) : State :=
  let id := s.hreqNext
  let r : HReq := { purp := p, func := func, addr := addr, n := n, op := op, vc := vc, seg := seg }
  let s1 := { s with hreqNext := id + 1 }
  if p.ofPeer || s.readable r then s1.readOut id r
  else (s1.setHreq id { r with held := true }).askRead r

/-- An outstanding read of host memory is no longer awaited. -/
def State.dropHreq (s : State) (id : Nat) : State := s.setHreq id noReq

/-- The reads that waited for a translation or a tag and have it are issued; one that nothing awaits any more is forgotten. -/
def State.sendHeld (s : State) : State :=
  (s.hreq.filter fun e => e.2.held).foldl (fun t e =>
    if e.2.purp.isGone then t.dropHreq e.1
    else if e.2.purp.ofPeer || t.readable e.2 then t.readOut e.1 e.2
    else t) s

/-- The outstanding read with a request number. -/
def State.hreqOf (s : State) (id : Nat) : HReq := SMap.get s.hreq noReq id

end Sys2Proof.Machine
end

