-- ==== Sys2Proof/Machine/PoolOps.lean ====
section
/-!
DEFINITION. Buffer pools (R255 to R264): taking and freeing buffers, the low notice, and serving the waiting
allocations.
-/

namespace Sys2Proof.Machine

/-! ### The pauses of a speculative path -/

/-- A speculative path stands still at its next instruction until the context holds no checkpoint (R212, R218). -/
def State.holdPath (s : State) (c : Nat) : State := s.updCx c fun x => { x with wait := .none, paused := true }

/-- A pause that PAUSES counts (R212, R216, R217, R227). -/
def State.pause (s : State) (c : Nat) : State := (s.holdPath c).inc (Fld.gbtCnt3.PAUSES (clusterOf c))

/-- An allocation on a speculative path would leave the pool too few buffers (R217). -/
def State.marginBars (s : State) (c p : Nat) : Bool :=
  match (s.cx c).ckpts.getLast? with
  | none => false
  | some k => decide (s.get (Fld.poolData.FREE p) < k.margin + 1)

/-! ### Pools -/

/-- The part of a pool that no register shows. -/
def State.pl (s : State) (p : Nat) : Pool := SMap.get s.pool {} p

/-- That part replaced. -/
def State.setPl (s : State) (p : Nat) (x : Pool) : State := { s with pool := SMap.set s.pool {} p x }

/-- The size of a pool's buffers in bytes (R255). -/
def State.bufSize (s : State) (p : Nat) : Nat := 2 ^ (12 + s.get (Fld.poolData.BUF_LOG2 p))

/-- A buffer handle (R256). -/
def handleOf (p ix : Nat) : Nat := ix + p * 2 ^ 32

/-- The pool that a handle names. -/
def handlePool (h : Nat) : Nat := bitsOf h 32 12

/-- The buffer index that a handle names. -/
def handleIndex (h : Nat) : Nat := bitsOf h 0 30

/-- The descriptor that BALLOC loads (R195). -/
def State.bufDesc (s : State) (p ix : Nat) : Desc :=
  { live := true, kind := 2, r := true, w := true, pool := p, base := ix * s.bufSize p,
    limit := s.bufSize p, dom := s.get (Fld.poolData.PDOM p), sel := 0, handle := some (handleOf p ix) }

/-- The low state of a pool follows FREE (R263): LOW sets when FREE is below LOW_WM and clears at LOW_WM + 16;
LO_SEEN sets with LOW, and BPM_LOW is raised when LO_SEEN sets. -/
def State.poolLow (s : State) (p : Nat) : State :=
  let free := s.get (Fld.poolData.FREE p)
  let wm := s.get (Fld.poolData.LOW_WM p)
  if free < wm && !s.on (Fld.poolData.LOW p) then
    let s1 := s.put (Fld.poolData.LOW p) 1
    if s1.on (Fld.poolData.LO_SEEN p) then s1 else (s1.put (Fld.poolData.LO_SEEN p) 1).raise 0x10404
  else if free ≥ wm + 16 then s.put (Fld.poolData.LOW p) 0
  else s

/-- Entries in a pool's free ring. -/
def State.ringCount (s : State) (p : Nat) : Nat := (s.pl p).ringTail - (s.pl p).ringHead

/-- The next free index in the order of R258: the cache, last in first out; then the ring, which needs a refill;
then FRESH. -/
def State.takeIndex (s : State) (p : Nat) : Option (Nat × State) :=
  match (s.pl p).cache with
  | ix :: r => some (ix, (s.setPl p { s.pl p with cache := r }).put (Fld.poolData.CACHED p) r.length)
  | [] =>
    if s.ringCount p > 0 then none
    else
      let f := s.get (Fld.poolData.FRESH p)
      if f < s.get (Fld.poolData.NBUF p) then some (f, s.put (Fld.poolData.FRESH p) (f + 1)) else none

/-- A refill of the cache from the free ring: one host read of up to 8 indices (R258). -/
def State.startRefill (s : State) (p : Nat) : State :=
  if s.ringCount p > 0 && (s.pl p).cache.isEmpty && !(s.pl p).refill then
    let nbuf := s.get (Fld.poolData.NBUF p)
    let at_ := (s.pl p).ringHead % nbuf
    let n := Nat.min 8 (Nat.min (s.ringCount p) (nbuf - at_))
    (s.setPl p { s.pl p with refill := true }).hostRead (.ring p) 0 .io
      (s.get (Fld.poolData.FREE_BASE p) * 4096 + 4 * at_) (4 * n) 1
  else s

/-- A buffer allocated on a speculative path goes back with its checkpoint (R223). -/
def Ctx.noteAlloc (x : Ctx) (h : Nat) : Ctx :=
  match x.ckpts.getLast? with
  | none => x
  | some k => { x with ckpts := x.ckpts.dropLast ++ [{ k with allocs := k.allocs ++ [h] }] }

/-- A buffer is granted to a context that waits in BALLOC: Dy, Sx and the record of allocations (R195, R259,
R261). -/
def State.grantBuf (s : State) (p ix c : Nat) : State :=
  let s1 := (s.put (Fld.poolData.FREE p) (s.get (Fld.poolData.FREE p) - 1)).poolLow p
  match (s1.cx c).wait with
  | .balloc len sr d _ =>
    s1.updCx c fun x =>
      let x1 := ((x.setD d (BitVec.ofNat 64 (handleOf p ix))).setS sr (s1.bufDesc p ix)).upd
        fun r => { r with allocs := NSet.add r.allocs (handleOf p ix) }
      (x1.noteAlloc (handleOf p ix)).retireAt len false
  | _ => s1

/-- The oldest waiting allocations take what is free, in arrival order (R259, R269); one on a speculative path that would leave
too few buffers leaves the list and its path pauses (R217). `n` bounds the rounds. -/
def State.serveRounds (s : State) (p : Nat) : Nat → State
  | 0 => s
  | n + 1 =>
    match (s.pl p).waiters with
    | [] => s
    | c :: r =>
      if s.marginBars c p then ((s.setPl p { s.pl p with waiters := r }).pause c).serveRounds p n
      else if s.get (Fld.poolData.FREE p) = 0 then s
      else match s.takeIndex p with
        | some (ix, s1) => ((s1.setPl p { s1.pl p with waiters := r }).grantBuf p ix c).serveRounds p n
        | none => s.startRefill p

/-- The waiting allocations of a pool are served. -/
def State.servePool (s : State) (p : Nat) : State := s.serveRounds p (s.pl p).waiters.length

/-- The indices of a refill come into the cache (R258). -/
def State.ringData (s : State) (p : Nat) (got : List Nat) : State :=
  let l := s.pl p
  let cache := got.reverse ++ l.cache
  ((s.setPl p { l with cache := cache, ring := l.ring.drop got.length, ringHead := l.ringHead + got.length, refill := false }).put
    (Fld.poolData.CACHED p) cache.length).servePool p

/-- A free of a buffer that the pool can see is free already: its result is unpredictable (R260). -/
def State.alreadyFree (s : State) (p ix : Nat) : Bool :=
  decide (ix ≥ s.get (Fld.poolData.FRESH p)) || (s.pl p).cache.contains ix || (s.pl p).ring.contains ix

/-- A freed index goes into the cache if it has room, else to the ring's tail (R258); FREE rises; waiting
allocations are served. While a refill is on its way its 8 places are not room. -/
def State.freeBuf (s : State) (p ix : Nat) : State :=
  let q := s.pl p
  let s1 :=
    if q.cache.length + (if q.refill then 8 else 0) < 16 then
      (s.setPl p { q with cache := ix :: q.cache }).put (Fld.poolData.CACHED p) (q.cache.length + 1)
    else
      (s.hostWrite 0 (s.get (Fld.poolData.FREE_BASE p) * 4096 + 4 * (q.ringTail % s.get (Fld.poolData.NBUF p)))
        (toBytes 4 ix)).setPl p { q with ringTail := q.ringTail + 1, ring := q.ring ++ [ix] }
  ((s1.put (Fld.poolData.FREE p) (s.get (Fld.poolData.FREE p) + 1)).poolLow p).servePool p

/-- A buffer by its handle returns to its pool, while the pool is enabled (R261, R264). -/
def State.freeHandle (s : State) (h : Nat) : State :=
  if s.on (Fld.poolData.EN (handlePool h)) then s.freeBuf (handlePool h) (handleIndex h) else s

/-- Several buffers return. -/
def State.freeHandles (s : State) (l : List Nat) : State := forAll l State.freeHandle s

end Sys2Proof.Machine
end

