-- ==== Sys2Proof/Machine/EndOps.lean ====
section
/-!
DEFINITION. How a program stops (R63, R99 to R104), how a lock breaks (R87), how a queue's state follows (R60), and the
squash of a Gambit checkpoint (R223).
-/

namespace Sys2Proof.Machine

/-- The part of a queue that no register shows. -/
def State.qd (s : State) (q : Nat) : QDyn := SMap.get s.qdyn {} q

/-- That part replaced. -/
def State.setQd (s : State) (q : Nat) (x : QDyn) : State := { s with qdyn := SMap.set s.qdyn {} q x }

/-- Pending entries of a submission ring (R40). -/
def State.sqPending (s : State) (q : Nat) : Nat :=
  let n := 2 ^ s.get (Fld.qctx.SQ_LOG2 q)
  (s.get (Fld.qctx.SQ_TAIL q) + n - s.get (Fld.qctx.SQ_HEAD q) % n) % n

/-- Some program in flight of the queue neither waits parked nor has completed. -/
def State.qBusy (s : State) (q : Nat) : Bool :=
  s.ctx.any (fun e => e.2.live && e.2.qid == q && !e.2.parked) || s.cpl.any (·.qid == q)

/-- The final state of a queue command is reached (R61): with NOTIFY, QMU_QSTATE is raised. -/
def State.qReached (s : State) (q st : Nat) : State :=
  if (s.qd q).target == some st then
    let s1 := s.setQd q { s.qd q with target := none, notify := false }
    if (s.qd q).notify then s1.raise 0x10400 else s1
  else s

/-- STATE follows what is pending, in flight, suspended or stopping (R60, R62). A Suspended queue stays so while SUSP_REQ
is 1. A queue that becomes Runnable signals the PCM (R92). -/
def State.qUpdate (s : State) (q : Nat) : State :=
  let st := s.get (Fld.qctx.STATE q)
  if st = 0 ∨ st = 6 then s
  else if st = 5 then
    if s.get (Fld.qctx.IN_FLIGHT q) = 0 then
      ((s.put (Fld.qctx.STATE q) 0).setQd q { s.qd q with stopping := 0 }).qReached q 0
    else s
  else if s.on (Fld.qctx.SUSP_REQ q) then
    if st = 4 then s
    else if s.qBusy q then s.put (Fld.qctx.STATE q) 3 else (s.put (Fld.qctx.STATE q) 4).qReached q 4
  else
    let st' := if s.get (Fld.qctx.IN_FLIGHT q) > 0 then 3 else if s.sqPending q > 0 then 2 else 1
    let s0 := s.put (Fld.qctx.STATE q) st'
    let s1 := if st' = 2 ∧ st ≠ 2 then s0.kingWake q else s0
    match (s.qd q).target with
    | some t => if t = 0 ∨ t = 4 then s1 else (s1.setQd q { s1.qd q with target := some st' }).qReached q st'
    | none => s1

/-- A program of the queue no longer counts as in flight. -/
def State.qLeave (s : State) (q : Nat) : State :=
  (s.put (Fld.qctx.IN_FLIGHT q) (s.get (Fld.qctx.IN_FLIGHT q) - 1)).qUpdate q

/-- A program has ended: it leaves its queue at once, or once the QMU has written the entry that it handed in. It is in flight
from its dispatch until it has ended and its entry is written (R43, R60). -/
def State.endLeave (s : State) (x : Ctx) : State :=
  if s.cpl.any (·.order == x.order) then s.qUpdate x.qid else s.qLeave x.qid

/-- A table of requests with those of a kind turned into abandoned ones (R63). -/
def abandonH (p : Purpose → Bool) (m : SMap HReq) : SMap HReq :=
  m.map fun e => if p e.2.purp then (e.1, { e.2 with purp := .gone }) else e

/-- As `abandonH` for Roloa requests: their responses are discarded when they arrive, and an extension request stays outstanding at its
unit until then (R322). -/
def abandonT (p : Purpose → Bool) (m : AMap Nat Txn) : AMap Nat Txn :=
  m.map fun e => if p e.2.purp then
    (e.1, { e.2 with purp := match e.2.purp with | .ext _ n => .goneExt n | _ => .gone }) else e

/-- The request is one of context `c`. -/
def Purpose.ofCtx (c : Nat) : Purpose → Bool
  | .entry c' | .load c' _ | .desc c' | .drd c' | .dwr c' | .dcmd c' | .chain c' _ | .ext c' _ | .verify c' _ _ => c' == c
  | .mover x => x / 4 == c
  | _ => false

/-- All requests of a context are abandoned. The read of its entry keeps the entry's index: until it returns, the slot is
not free (R54); one that has not been issued yet is withdrawn. -/
def State.abandon (s : State) (c : Nat) : State :=
  let x := s.cx c
  let isHeld := fun (e : Nat × HReq) => e.2.held && e.2.purp == .entry c
  let mark := fun (e : Nat × HReq) =>
    if e.2.purp == .entry c then (e.1, { e.2 with purp := .goneEntry x.qid x.sqIdx }) else e
  let s1 := { s with hreq := (s.hreq.filter fun e => !isHeld e).map mark }
  let s2 := if s.hreq.any isHeld then
      s1.setQd x.qid { s1.qd x.qid with reads := (s1.qd x.qid).reads.filter (· != x.sqIdx) }
    else s1
  { s2 with hreq := abandonH (Purpose.ofCtx c) s2.hreq, txn := abandonT (Purpose.ofCtx c) s2.txn }

/-- What a queue holds beside its registers is forgotten, the entries whose reads are still out among it. -/
def State.clearQd (s : State) (q : Nat) : State :=
  ({ s with hreq := abandonH (fun p => match p with | .goneEntry q' _ => q' == q | _ => false) s.hreq }).setQd q {}

/-- The response to an abandoned read has arrived: the slot of an entry counts as read (R54). -/
def State.lateRead (s : State) (id : Nat) : State :=
  match (s.hreqOf id).purp with
  | .goneEntry q ix => (s.setQd q { s.qd q with reads := (s.qd q).reads.filter (· != ix) }).dropHreq id
  | _ => s.dropHreq id

/-- A transfer's record. -/
def State.xf (s : State) (k : Nat) : Option Xfer := (s.xfer.find? (fun e => e.1 == k)).map (·.2)

/-- The bytes of all issued links (R115). -/
def Xfer.total (x : Xfer) : Nat := x.links.foldl (fun a l => a + l.n) 0

/-- The residual of a transfer (R231): its count less the source bytes whose output has been written. -/
def Xfer.residual (x : Xfer) : Nat := x.total - x.written

/-- The residual that a program's completion entry carries now (R104): of the transfer issued last. -/
def State.residualOf (s : State) (c : Nat) : Nat :=
  match (s.cx c).lastXfer with
  | some sl => match s.xf (4 * c + sl) with | some x => x.residual | none => (s.cx c).residual
  | none => (s.cx c).residual

/-- The mover of a transfer, 4g + i (R228). -/
def Xfer.moverNo (x : Xfer) : Nat := match x.mover with | some m => 4 * m.1 + m.2 | none => 16

/-- A mover has a transformed transfer that has no lane, and holds none (R246). -/
def State.needsLane (s : State) (m : Nat) : Bool :=
  s.xfer.any (fun e => e.2.moverNo == m && e.2.tsel != 0 && e.2.lane.isNone) && s.lanes.all fun e => e.2 != m

/-- A mover begins to wait for a lane when it needs one, and waits no more once it does not (R246). -/
def State.laneQueue (s : State) (m : Nat) : State :=
  { s with laneWait := if s.needsLane m then (if s.laneWait.contains m then s.laneWait else s.laneWait ++ [m])
                       else s.laneWait.filter (· != m) }

/-- A transfer leaves its queue, its mover and its lane; its record is gone (R63, R234). -/
def State.dropXfer (s : State) (k : Nat) : State :=
  let x := SMap.get s.xfer {} k
  let s1 := { s with
    xfer := s.xfer.filter fun (e : Nat × Xfer) => e.1 != k
    xq := s.xq.map fun (e : Nat × List Nat) => (e.1, e.2.filter (· != k))
    lanes := match x.lane with
      | some l => s.lanes.filter fun (e : Nat × Nat) => e.1 != l
      | none => s.lanes
    hreq := abandonH (fun p => p == Purpose.mover k) s.hreq
    txn := abandonT (fun p => p == Purpose.mover k) s.txn }
  s1.laneQueue x.moverNo

/-- A cluster's watch set replaced. When entries leave it, the paths that pause for room in it go on (R213). -/
def State.setWatch (s : State) (cl : Nat) (ws : List (Nat × Nat × Nat × Nat)) : State :=
  let s1 := { s with watch := SMap.set s.watch [] cl ws }
  let wakes (e : Nat × Ctx) : Bool := clusterOf e.1 == cl && e.2.watchStop
  if ws.length < (SMap.get s.watch [] cl).length then
    { s1 with ctx := s1.ctx.map fun (e : Nat × Ctx) => if wakes e then (e.1, { e.2 with paused := false, watchStop := false }) else e }
  else s1

/-- The held stores and watched lines of a context from a checkpoint number on are discarded (R223). -/
def State.dropHeld (s : State) (c k : Nat) : State :=
  { s with held := s.held.map fun (e : Nat × List Held) => (e.1, e.2.filter fun h => !(h.ctx == c && h.ckpt ≥ k)) }.setWatch (clusterOf c)
    ((SMap.get s.watch [] (clusterOf c)).filter fun w => !(w.2.2.1 == c && w.2.2.2 ≥ k))

/-- A lock is force-released and recorded (R87). -/
def State.breakLock (s : State) (c cause : Nat) : State :=
  match (s.cx c).lock with
  | none => s
  | some r =>
    (s.logFirst (Fld.lockbrk.VALID r.blk) (Fld.lockbrk.OVF r.blk)
      [(Fld.lockbrk.OWNER r.blk, c), (Fld.lockbrk.KIND r.blk, r.kind), (Fld.lockbrk.RESOURCE r.blk, r.num),
       (Fld.lockbrk.CAUSE r.blk, cause)]).updCx c fun x => x.endSeq

/-- The context stops: requests abandoned, held stores discarded, transfers stopped, waiting allocation withdrawn,
its buffers returned, the context freed (R63). -/
def State.freeCtx (s : State) (c : Nat) (returnBufs : Bool) : State :=
  let x := s.cx c
  let s1 := ((s.abandon c).dropHeld c 0)
  let s2 := forAll x.slots (fun t sl => t.dropXfer (4 * c + sl)) s1
  let s3 := match x.wait with
    | .balloc _ _ _ p => s2.setPl p { s2.pl p with waiters := (s2.pl p).waiters.filter (· != c) }
    | _ => s2
  let s4 := s3.setCx c {}
  if returnBufs then s4.freeHandles (x.regs.allocs ++ x.regs.freesHeld.map (·.1)) else s4

/-! ### Gambit: squash and history (R208, R223, R224) -/

/-- Causes of a squash (R223). -/
inductive SqCause where
  | miss | horizon | conflict | other
deriving DecidableEq, Repr

/-- The Gambit counter of a squash cause (R227). -/
def SqCause.cnt (cl : Nat) : SqCause → Field
  | .miss => Fld.gbtCnt1.SQ_MISS cl
  | .horizon => Fld.gbtCnt1.SQ_HORIZON cl
  | .conflict => Fld.gbtCnt2.SQ_CONFLICT cl
  | .other => Fld.gbtCnt2.SQ_OTHER cl

/-- A request made on the path under checkpoint `k` of a context, counted from 0, or a younger one (R223): a load, a verification
read, or a register read that is not the one of an instruction of a checkpoint up to `k`. -/
def Ctx.underCkpt (x : Ctx) (c k key : Nat) : Purpose → Bool
  | .load c' r => c' == c && x.loads.any (fun l => decide (l.ck > k) && l.parts.any (·.req == r))
  | .verify c' i _ => c' == c && decide (i ≥ k)
  | .drd c' => c' == c && !(x.ckpts.take (k + 1)).any fun e => match e.wait with | .drd _ _ _ _ t => t == key | _ => false
  | _ => false

/-- A squash to checkpoint `k` of a context, counted from 0 the oldest (R223): it and every younger one go, with
their held stores, watches, reads and allocations; the saved state returns; the context issues nothing until the
squash completes. -/
def State.squash (s : State) (c k : Nat) (cause : SqCause) : State :=
  let x := s.cx c
  match x.ckpts[k]? with
  | none => s
  | some ck =>
    let back := (x.ckpts.drop k).flatMap (·.allocs)
    let s1 := (s.inc (cause.cnt (clusterOf c))).dropHeld c (k + 1)
    let s2 := { s1 with
      hreq := abandonH (x.underCkpt c k 0) s1.hreq
      txn := s1.txn.map fun (e : Nat × Txn) => if x.underCkpt c k e.1 e.2.purp then (e.1, { e.2 with purp := .gone }) else e }
    let s3 := match x.wait with
      | .balloc _ _ _ p => s2.setPl p { s2.pl p with waiters := (s2.pl p).waiters.filter (· != c) }
      | _ => s2
    let s4 := s3.setCx c { x with
      regs := ck.saved
      wait := ck.wait
      loads := ck.loads
      fails := ck.fails
      shortAny := ck.shortAny
      ckpts := x.ckpts.take k
      waitLock := ck.lock
      elig := true
      outlast := ck.late || cause == SqCause.horizon
      missed := cause == SqCause.miss
      paused := false
      watchStop := false
      squash := some ck.outcome }
    s4.freeHandles back

/-- Every checkpoint of a context is squashed. -/
def State.squashAll (s : State) (c : Nat) (cause : SqCause) : State := s.squash c 0 cause

/-- A program that ends while it speculates ends in the state of its oldest checkpoint (R226). -/
def State.unspec (s : State) (c : Nat) : State :=
  if (s.cx c).speculating then s.squashAll c .other else s

/-! ### Program ends -/

/-- The stops that wait for a context's next instruction boundary (`Ctx.due`): flag fall, DRAIN_ABORT, RESET. -/
abbrev dueFlag : Nat := 1
abbrev dueAbort : Nat := 2
abbrev dueReset : Nat := 3

/-- A context is in the middle of an instruction, or of an iteration of a repeated one: its store waits for a translation, or
its load for the data (R181). On a speculative path a stop throws the iteration away with the path (R226). -/
def Ctx.midway (x : Ctx) : Bool :=
  match x.wait with
  | .xlate .. | .ld .. => !x.speculating
  | _ => false

/-- A program is stopped without a further completion entry (R63). -/
def State.stopSilent (s0 : State) (c lockCause : Nat) : State :=
  let s := s0.unspec c
  let x := s.cx c
  let s1 := (s.breakLock c lockCause).freeCtx c true
  s1.endLeave x

/-- A completion entry is handed to the QMU (R100). -/
def State.handCpl (s : State) (e : Cpl) : State := { s with cpl := s.cpl ++ [e] }

/-- The completion entry that the program of a context hands in. Before its submission entry has returned the device knows neither TAG
nor IOC, and the spec gives no value for them; the model's are 0 (log entry 65). -/
def State.cplOf (s : State) (c status : Nat) (auto : Bool) (result : Word) (residual : Nat) : Cpl :=
  let x := s.cx c
  { qid := x.qid, tag := x.tag, status := status, epoch := x.epoch, residual := residual, auto := auto,
    ioc := x.ioc, result := result, order := x.order }

/-- A program end with a status from 0x20 to 0x23 is recorded (R204): selector of the segment register concerned, or
the device port. -/
def State.segv (s : State) (c status sel : Nat) (port : Bool) : State :=
  if 0x20 ≤ status ∧ status ≤ 0x23 then
    s.logFirst Fld.segvLog.VALID Fld.segvLog.OVF
      [(Fld.segvLog.CTX, c), (Fld.segvLog.STATUS, status), (Fld.segvLog.SEL, sel),
       (Fld.segvLog.PDOM, (s.cx c).pdom), (Fld.segvLog.PORT, b2n port)]
  else s

/-- What an end with a status is about: the selector or the port for SEGV_LOG. -/
structure EndInfo where
  sel : Nat := 0
  port : Bool := false
  residual : Option Nat := none
  lockCause : Nat := 2
deriving DecidableEq, Repr

/-- An automatic end (R103): while the program holds a lock the status is 0x80 and the break is recorded (R87); an
entry is handed in if the program has not posted; its buffers return. -/
def State.autoEnd (s0 : State) (c status : Nat) (i : EndInfo := {}) : State :=
  if (s0.cx c).due = dueReset then s0.stopSilent c 1 else
  let s := s0.unspec c
  let x := s.cx c
  let locked := x.lock.isSome
  let st := if locked then 0x80 else status
  let res := i.residual.getD (s.residualOf c)
  let s1 := (s.segv c st i.sel i.port).breakLock c i.lockCause
  let s2 := if x.posted then s1 else s1.handCpl (s.cplOf c st false 0 res)
  (s2.freeCtx c true).endLeave x

/-- DRAIN_ABORT ends a program with 0x70, or 0x60 when it is parked, and AUTO = 1 (R62). -/
def State.abortEnd (s0 : State) (c : Nat) : State :=
  let s := s0.unspec c
  let x := s.cx c
  let s1 := s.breakLock c 3
  let s2 := if x.posted then s1
    else s1.handCpl (s.cplOf c (if x.parked then 0x60 else 0x70) true 0 (s.residualOf c))
  (s2.freeCtx c true).endLeave x

/-- Flag fall ends a program (R128). -/
def State.flagEnd (s : State) (c : Nat) : State :=
  let x := s.cx c
  if x.posted then (s.incSat (Fld.pgmStat.SILENT_FALLS (clusterOf c))).stopSilent c 4
  else if x.lock.isSome then s.autoEnd c 0x40 { lockCause := 4 }
  else (s.incSat (Fld.pgmStat.FLAG_FALLS (clusterOf c))).autoEnd c 0x40 { lockCause := 4 }

/-- A stop meets a context: one in the middle of an instruction stops at the next boundary (R63, R181, R188). -/
def State.stopAt (s : State) (c what : Nat) : State :=
  if (s.cx c).midway then s.updCx c fun x => { x with due := what }
  else if what = dueFlag then s.flagEnd c
  else if what = dueAbort then s.abortEnd c
  else s.stopSilent c 1

/-- An instruction that a context was in the middle of is complete: a stop that waited for it takes effect. -/
def State.dueEnd (s : State) (c : Nat) : State :=
  if (s.cx c).due = 0 ∨ (s.cx c).midway then s else s.stopAt c (s.cx c).due

/-- The site counter's index of an offset (R208). -/
def siteOf (off : Nat) : Nat := (bitsOf off 0 3) ^^^ (bitsOf off 3 3) ^^^ (bitsOf off 6 3)

/-- A site counter (R208). -/
def State.site (s : State) (cl q i : Nat) : Nat := bitsOf (s.get (Fld.gbtHist.HIST cl q)) (2 * i) 2

/-- A site counter moves up or down by one, saturating (R208). -/
def State.histMove (s : State) (cl q i : Nat) (up : Bool) : State :=
  let v := s.site cl q i
  let v' := if up then Nat.min 3 (v + 1) else v - 1
  s.put (Fld.gbtHist.HIST cl q) (putBits (s.get (Fld.gbtHist.HIST cl q)) (2 * i) 2 v')

/-- A program is eligible for Gambit: GA, the GAMBIT_EN that its dispatch found, and the cluster's EN (R46, R59, R206). -/
def State.eligible (s : State) (c : Nat) : Bool :=
  (s.cx c).ga && (s.cx c).gambit && s.on (Fld.gbtCtl.EN (clusterOf c))

/-- The resolution is a rise of the site counter (R208). -/
def Resolved.up (r pred : Option Resolved) : Bool :=
  match r with
  | some (.bit sat) => sat
  | some (.dcmd st) => st == 0
  | some (.drd _) => r == pred
  | some (.waitc ok) => ok
  | none => false

end Sys2Proof.Machine
end

