-- ==== Sys2Proof/Machine/FifoOps.lean ====
section
/-!
DEFINITION. Event bits (R175), the event FIFOs (R361 to R371) and the scratchpad banks (R351 to R354) as operations
that any requester's access goes through.
-/

namespace Sys2Proof.Machine

/-- A device-global event bit is written: once granted it reaches every cluster's copy (R175, R366). -/
def State.setEvb (s : State) (bit : Nat) (v : Bool) : State :=
  let f := fun l b => if v then NSet.add l b else NSet.del l b
  { s with evb := f s.evb bit, evbCopy := (List.range 8).foldl (fun l c => f l (c * 8192 + bit)) s.evbCopy }

/-! ### Owner codes (R352) -/

/-- The owner code of a program's accesses. -/
def ownProgram (dom : Nat) : Nat := 0x2000 + dom
/-- The owner code of requests on peer link p. -/
def ownLink (p : Nat) : Nat := 0x3000 + p
/-- The owner code of the BPM. -/
def ownBpm : Nat := 0x4000
/-- The owner code of the host window. -/
def ownHost : Nat := 0x1000
/-- The owner code of the management processor. -/
def ownMgp : Nat := 0x6000

/-- An owner code that may be written (R352): a known type, ID 0 where the table gives 0; type 7 for FIFOs alone. -/
def ownerOk (fifo : Bool) (o : Nat) : Bool :=
  let ty := o / 4096
  let id := o % 4096
  match ty with
  | 2 => true
  | 3 => decide (id < 8)
  | 7 => fifo && id == 0
  | 0 | 1 | 4 | 5 | 6 => id == 0
  | _ => false

/-- A requester matches an owner code (R352). -/
def ownMatch (owner req : Nat) : Bool := owner / 4096 == 7 || (owner != 0 && owner == req)

/-! ### FIFOs -/

/-- LEVEL (R364). -/
def State.fLevel (s : State) (f : Nat) : Nat := (s.get (Fld.fifoPtr.WR f) + 8192 - s.get (Fld.fifoPtr.REL f)) % 8192
/-- UNREAD (R364). -/
def State.fUnread (s : State) (f : Nat) : Nat := (s.get (Fld.fifoPtr.WR f) + 8192 - s.get (Fld.fifoPtr.RD f)) % 8192

/-- Both copies of a pointer are written (R371). -/
def State.setPtr (s : State) (a b : Nat → Field) (f v : Nat) : State := (s.put (a f) v).put (b f) v

/-- The word in a slot. -/
def State.fWord (s : State) (f p : Nat) : BitVec 128 := SMap.get s.fifoMem 0 (f * 4096 + p % 4096)

/-- FIFOs whose XSTATE drives line l (R370). -/
def State.xDriven (s : State) (l : Nat) : Bool :=
  (List.range 64).any fun f =>
    s.on (Fld.fifoCfg.XEN f) && s.get (Fld.fifoCfg.XLINE f) == l && s.on (Fld.fifoStat.XSTATE f)

/-- The XOFF pins follow: a driven line goes high with its 8-cycle hold; an undriven line falls once no hold is left
(R370). -/
def State.xoffUpdate (s : State) : State :=
  forAll [0, 1, 2, 3] (fun t l =>
    if t.xDriven l then
      if NSet.has t.xoff l then t else { t with xoff := NSet.add t.xoff l, xoffHold := NSet.add t.xoffHold l }
    else if NSet.has t.xoffHold l then t else { t with xoff := NSet.del t.xoff l }) s

/-- WM_SEEN of some FIFO (R369). -/
def State.wmSeen (s : State) : Bool :=
  (List.range 64).any fun f => s.on (Fld.fifoStat.HI_SEEN f) || s.on (Fld.fifoStat.LO_SEEN f)

/-- Watermarks, XSTATE, the XOFF pins and the level source follow a change of LEVEL from `old` (R369, R370). -/
def State.fLevelUpdate (s : State) (f old : Nat) : State :=
  let lv := s.fLevel f
  let hi := s.get (Fld.fifoWm.HI_WM f)
  let lo := s.get (Fld.fifoWm.LO_WM f)
  let s1 := if old < hi ∧ lv ≥ hi then s.put (Fld.fifoStat.HI_SEEN f) 1 else s
  let s2 := if old > lo ∧ lv ≤ lo then s1.put (Fld.fifoStat.LO_SEEN f) 1 else s1
  let s3 := if lv ≥ hi ∨ s2.on (Fld.fifoStat.BROKEN f) then s2.put (Fld.fifoStat.XSTATE f) 1
    else if lv ≤ lo then s2.put (Fld.fifoStat.XSTATE f) 0 else s2
  (s3.xoffUpdate).level 0x10406 s3.wmSeen

/-- PKT_CNT is written, and with EVB_EN the event bit follows whether it is 0 (R366). -/
def State.setPktCnt (s : State) (f v : Nat) : State :=
  let old := s.get (Fld.fifoStat.PKT_CNT f)
  let s1 := s.put (Fld.fifoStat.PKT_CNT f) v
  if s.on (Fld.fifoCfg.EVB_EN f) && ((old == 0) != (v == 0)) then
    s1.setEvb (0x1000 + s.get (Fld.fifoCfg.EVB f)) (v != 0) else s1

/-- The part of a FIFO that no register shows. -/
def State.fd (s : State) (f : Nat) : FifoDyn := SMap.get s.fifo {} f

/-- That part replaced. -/
def State.setFd (s : State) (f : Nat) (x : FifoDyn) : State := { s with fifo := SMap.set s.fifo {} f x }

/-- A word is stored at WR and counted (R361). -/
def State.fStore (s : State) (f data info src : Nat) (endW gap : Bool) : State :=
  let w := data % 2 ^ 64 + info % 2 ^ 32 * 2 ^ 64 + src % 2 ^ 16 * 2 ^ 96 + b2n endW * 2 ^ 112 + b2n gap * 2 ^ 113
    + (s.fd f).seq * 2 ^ 122
  let wr := s.get (Fld.fifoPtr.WR f)
  let s1 := { s with fifoMem := SMap.set s.fifoMem 0 (f * 4096 + wr % 4096) (BitVec.ofNat 128 w)
                     fifo := SMap.set s.fifo {} f { s.fd f with seq := ((s.fd f).seq + 1) % 64 } }
  let s2 := s1.setPtr Fld.fifoPtr.WR Fld.fifoPtrB.WR f ((wr + 1) % 8192)
  if endW then s2.setPktCnt f (s2.get (Fld.fifoStat.PKT_CNT f) + 1) else s2

/-- One push (R364, R367): dropped when the FIFO is full, while DROP_PKT lasts, or while a gap marker finds no room (log entry 81);
a pending marker is written first. -/
def State.fPush (s : State) (f data info src : Nat) (endW : Bool) : State :=
  let old := s.fLevel f
  let d := s.fd f
  let drop (full : Bool) : State :=
    let pend := s.on (Fld.fifoStat.GAP_PEND f)
    let d1 : FifoDyn := { d with
      dropped := if pend then Nat.min (d.dropped + 1) (2 ^ 32 - 1) else 1
      dropSrc := if full || !pend then src else d.dropSrc }
    (((s.incSat (Fld.fifoCnt.DROPS f)).put (Fld.fifoStat.GAP_PEND f) 1).setFd f d1).put
      (Fld.fifoStat.DROP_PKT f) (b2n (!endW))
  if s.on (Fld.fifoStat.DROP_PKT f) then drop (decide (old ≥ 4096))
  else if old ≥ 4096 then drop true
  else if s.on (Fld.fifoStat.GAP_PEND f) then
    if old ≤ 4094 then
      let s1 := (s.fStore f d.dropped 0 d.dropSrc true true).put (Fld.fifoStat.GAP_PEND f) 0
      ((s1.setFd f { s1.fd f with dropped := 0, dropSrc := 0 }).fStore f data info src endW false).fLevelUpdate f old
    else drop false
  else (s.fStore f data info src endW false).fLevelUpdate f old

/-- The word a pop of an empty FIFO returns (R361). -/
def emptyWord (f : Nat) : BitVec 128 := BitVec.ofNat 128 (2 ^ 114 + f * 2 ^ 116)

/-- One pop (R364, R365, R371): the word with its FIFO number; EMPTY when there is none or the FIFO is broken. -/
def State.fPop (s : State) (f : Nat) : BitVec 128 × State :=
  if s.fUnread f = 0 ∨ s.on (Fld.fifoStat.BROKEN f) then (emptyWord f, s.incSat (Fld.fifoCnt.EMPTY_RD f))
  else
    let rd := s.get (Fld.fifoPtr.RD f)
    let w := s.fWord f rd
    let old := s.fLevel f
    let s1 := s.setPtr Fld.fifoPtr.RD Fld.fifoPtrB.RD f ((rd + 1) % 8192)
    let s2 := if s.on (Fld.fifoStat.MARK_ACT f) then s1
      else s1.setPtr Fld.fifoPtr.REL Fld.fifoPtrB.REL f ((rd + 1) % 8192)
    let s3 := if w.getLsbD 112 then s2.setPktCnt f (s2.get (Fld.fifoStat.PKT_CNT f) - 1) else s2
    (w ||| BitVec.ofNat 128 (f * 2 ^ 116), s3.fLevelUpdate f old)

/-- The head word as a peek shows it (R362). -/
def State.fPeek (s : State) (f : Nat) : BitVec 128 :=
  if s.fUnread f = 0 ∨ s.on (Fld.fifoStat.BROKEN f) then emptyWord f
  else s.fWord f (s.get (Fld.fifoPtr.RD f)) ||| BitVec.ofNat 128 (f * 2 ^ 116)

/-- MARK (R365). -/
def State.fMark (s : State) (f : Nat) : State :=
  let rd := s.get (Fld.fifoPtr.RD f)
  let old := s.fLevel f
  (((s.setPtr Fld.fifoPtr.REL Fld.fifoPtrB.REL f rd).setPtr Fld.fifoPtr.MARK Fld.fifoPtrB.MARK f rd).put
    (Fld.fifoStat.MARK_ACT f) 1).fLevelUpdate f old

/-- Words with END between two pointers. -/
def State.fEnds (s : State) (f a : Nat) (n : Nat) : Nat :=
  ((List.range n).filter fun i => (s.fWord f ((a + i) % 8192)).getLsbD 112).length

/-- REWIND (R365, R366): the words since the mark are read again. -/
def State.fRewind (s : State) (f : Nat) : State :=
  if s.on (Fld.fifoStat.MARK_ACT f) then
    let m := s.get (Fld.fifoPtr.MARK f)
    let s1 := s.setPtr Fld.fifoPtr.RD Fld.fifoPtrB.RD f m
    s1.setPktCnt f (s1.fEnds f m (s1.fUnread f))
  else s

/-- RELEASE (R365). -/
def State.fRelease (s : State) (f : Nat) : State :=
  let old := s.fLevel f
  ((s.setPtr Fld.fifoPtr.REL Fld.fifoPtrB.REL f (s.get (Fld.fifoPtr.RD f))).put (Fld.fifoStat.MARK_ACT f) 0).fLevelUpdate
    f old

/-- RESET (R371): every pointer 0, marks and pending drops gone; HI_SEEN, LO_SEEN and the counters stay. -/
def State.fReset (s : State) (f : Nat) : State :=
  let s1 := (((s.setReg ⟨.fifoPtr, f, 0⟩ 0).setReg ⟨.fifoPtrB, f, 0⟩ 0).putAll
    [(Fld.fifoStat.MARK_ACT f, 0), (Fld.fifoStat.GAP_PEND f, 0), (Fld.fifoStat.DROP_PKT f, 0),
     (Fld.fifoStat.BROKEN f, 0), (Fld.fifoStat.XSTATE f, 0)]).setPktCnt f 0
  (s1.setFd f { s1.fd f with dropped := 0, dropSrc := 0 }).xoffUpdate

/-- An access a FIFO refuses is counted (R363). -/
def State.fBad (s : State) (f : Nat) : State := s.incSat (Fld.fifoCnt.BAD_ACC f)

/-- A requester may push. -/
def State.fMayPush (s : State) (f req : Nat) : Bool :=
  s.on (Fld.fifoCfg.EN f) && ownMatch (s.get (Fld.fifoCfg.PROD f)) req && !s.on (Fld.fifoStat.BROKEN f)

/-- A requester may pop, peek, read or command. -/
def State.fMayPop (s : State) (f req : Nat) : Bool :=
  s.on (Fld.fifoCfg.EN f) && ownMatch (s.get (Fld.fifoCfg.CONS f)) req

/-- The FIFO of a group that a pop takes from (R368): lowest FPRI, then lowest index, among those with a word and a
matching consumer. -/
def State.groupPick (s : State) (g req : Nat) : Option Nat :=
  (List.range 64).foldl (fun b f =>
    if s.get (Fld.fifoCfg.GROUP f) = g ∧ s.fMayPop f req ∧ s.fUnread f > 0 then
      match b with
      | some m => if s.get (Fld.fifoCfg.FPRI f) < s.get (Fld.fifoCfg.FPRI m) then some f else b
      | none => some f
    else b) none

/-- One pop through a group window; EMPTY, counted nowhere, when none qualifies (R368). -/
def State.groupPop (s : State) (g req : Nat) : BitVec 128 × State :=
  match s.groupPick g req with
  | some f => s.fPop f
  | none => (BitVec.ofNat 128 (2 ^ 114), s)

/-- `n` pops. -/
def popN (pop : State → BitVec 128 × State) : Nat → State → List Byte × State
  | 0, s => ([], s)
  | n + 1, s =>
    let r := pop s
    let t := popN pop n r.2
    (toBytes 16 r.1.toNat ++ t.1, t.2)

/-- Whole words pushed in ascending order (R362). -/
def State.pushWords (s : State) (f src : Nat) (bs : List Byte) : Nat → State
  | 0 => s
  | n + 1 =>
    let v := ofBytes (bs.take 16)
    (s.fPush f (v % 2 ^ 64) (bitsOf v 64 32) src (decide (bitsOf v 112 1 = 1))).pushWords f src (bs.drop 16) n

/-! ### Banks -/

/-- What a bank or a window answers. -/
inductive Acc where
  | ok (data : List Byte) (s : State)
  | refused (s : State)
  | devErr (s : State)
  | outside
  
/-- The base of the scratchpad at SELF (R349). -/
def spmBase : Nat := 0x010000000000
/-- The base of the FIFO windows at SELF. -/
def fifoBase : Nat := 0x020000000000
/-- The base of the group windows at SELF. -/
def groupBase : Nat := 0x020000080000

/-- A refused bank access is counted and the first is recorded (R353). -/
def State.ownViol (s : State) (req bank : Nat) (write : Bool) : State :=
  (s.incSat Fld.spmStat.OWN_VIOL).logFirst Fld.ownLog.VALID Fld.ownLog.OVF
    [(Fld.ownLog.REQ, req), (Fld.ownLog.BANK, bank), (Fld.ownLog.WRITE, b2n write)]

/-- BANK_OWN.STATE values (R355, R359). -/
def bankFree : Nat := 0
/-- A bank that is owned. -/
def bankOwned : Nat := 1
/-- A bank being released. -/
def bankReleasing : Nat := 2
/-- A bank being cleared. -/
def bankClearing : Nat := 3
/-- A failed bank. -/
def bankFailed : Nat := 4

/-- A bank serves an access of a requester (R353, R359): refused unless the owner matches; a failed bank answers
DEVERR. -/
def State.bankAcc (s : State) (req off n : Nat) (w : Option (List Byte)) : Acc :=
  let b := off / 0x40000
  if b ≥ 528 then .outside
  else if s.get (Fld.bankOwn.STATE b) = bankFailed then .devErr s
  else if s.get (Fld.bankOwn.STATE b) = bankOwned && ownMatch (s.get (Fld.bankOwn.OWNER b)) req then
    match w with
    | none => .ok (Memory.readN s.spm off n) s
    | some d => .ok [] { s with spm := Memory.writeL s.spm off d }
  else .refused (s.ownViol req b w.isSome)

/-- FIFO_STAT as a read returns it, LEVEL and UNREAD computed (R372). -/
def State.fStatWord (s : State) (f : Nat) : Word :=
  BitVec.ofNat 64 (putBits (putBits (s.reg ⟨.fifoStat, f, 0⟩).toNat 0 13 (s.fLevel f)) 16 13 (s.fUnread f))

/-- A read of a FIFO window (R362, R363). -/
def State.fifoRead (s : State) (req f o n : Nat) : Acc :=
  if !s.fMayPop f req then .refused (s.fBad f)
  else if 0x200 ≤ o ∧ o + n ≤ 0x400 ∧ o % 16 = 0 ∧ n % 16 = 0 ∧ n > 0 then
    let r := popN (fun t => t.fPop f) (n / 16) s
    .ok r.1 r.2
  else if o = 0x410 ∧ n = 8 then let r := s.fPop f; .ok (toBytes 8 r.1.toNat) r.2
  else if o = 0x418 ∧ n = 8 then .ok (toBytes 8 ((s.fPeek f).toNat / 2 ^ 64)) s
  else if o = 0x428 ∧ n = 8 then .ok (toBytes 8 (s.fStatWord f).toNat) s
  else .refused (s.fBad f)

/-- A write of a FIFO window; `src` is the pusher's node (R362, R363). -/
def State.fifoWrite (s : State) (req src f o : Nat) (d : List Byte) : Acc :=
  let n := d.length
  if o = 0x420 ∧ n = 8 then
    if s.fMayPop f req then
      match ofBytes d with
      | 1 => .ok [] (s.fMark f)
      | 2 => .ok [] (s.fRewind f)
      | 3 => .ok [] (s.fRelease f)
      | _ => .ok [] s
    else .refused (s.fBad f)
  else if !s.fMayPush f req then .refused (s.fBad f)
  else if o + n ≤ 0x200 ∧ o % 16 = 0 ∧ n % 16 = 0 ∧ n > 0 then .ok [] (s.pushWords f src d (n / 16))
  else if (o = 0x400 ∨ o = 0x408) ∧ n = 8 then .ok [] (s.fPush f (ofBytes d) 0 src (decide (o = 0x408)))
  else .refused (s.fBad f)

/-- An access to an address of the device's own node by a requester on the fabric (R349): a bank, a FIFO window, a
group window; any other address is outside. -/
def State.selfAcc (s : State) (req src a n : Nat) (w : Option (List Byte)) : Acc :=
  if spmBase ≤ a ∧ a < spmBase + 528 * 0x40000 then s.bankAcc req (a - spmBase) n w
  else if fifoBase ≤ a ∧ a < fifoBase + 64 * 0x1000 then
    let f := (a - fifoBase) / 0x1000
    let o := (a - fifoBase) % 0x1000
    match w with
    | none => s.fifoRead req f o n
    | some d => s.fifoWrite req src f o d
  else if groupBase ≤ a ∧ a < groupBase + 8 * 0x1000 then
    let g := (a - groupBase) / 0x1000
    let o := (a - groupBase) % 0x1000
    match w with
    | some _ => .refused s
    | none =>
      if 0x200 ≤ o ∧ o + n ≤ 0x400 ∧ o % 16 = 0 ∧ n % 16 = 0 ∧ n > 0 then
        let r := popN (fun t => t.groupPop g req) (n / 16) s
        .ok r.1 r.2
      else if o = 0x410 ∧ n = 8 then let r := s.groupPop g req; .ok (toBytes 8 r.1.toNat) r.2
      else .refused s
  else .outside

/-- A range at SELF that overlaps a FIFO or group window (R350). -/
def inFifoWindow (a n : Nat) : Bool := decide (a < groupBase + 8 * 0x1000 ∧ a + n > fifoBase)

end Sys2Proof.Machine
end

