-- ==== Sys2Proof/Machine/MemOps.lean ====
section
/-!
DEFINITION. Segments and targets (R196 to R199), selector lookups (R190 to R194), and the reads and writes of memory
that a program's loads and stores become (R148, R163, R164, R213, R216, R219).
-/

namespace Sys2Proof.Machine

/-- Segment rights an access needs (R196). -/
inductive Right where
  | r | w | x
deriving DecidableEq, Repr

/-- The checks of R196 on an access of `n` bytes at offset `o`, in order: the status of the first that fails. -/
def segCheck (g : Desc) (need : Right) (o n : Nat) : Option Nat :=
  if !g.live then some 0x22
  else if g.inval then some 0x23
  else if !(match need with | .r => g.r | .w => g.w | .x => g.x) then some 0x21
  else if o + n - 1 ≥ 2 ^ 64 ∨ o + n - 1 ≥ g.limit then some 0x20
  else none

/-- Where a checked offset lies (R198, R257): host memory of a function, an address at another node, an address of the
device's own node under an owner code, or a pool check that fails with a status. -/
inductive Tgt where
  | host (func addr : Nat)
  | dev (node addr : Nat)
  | self (req addr : Nat)
  | bad (status : Nat)
deriving DecidableEq, Repr

/-- The function that owns a protection domain (R189). -/
def State.domFunc (s : State) (dom : Nat) : Nat := s.get (Fld.pdData.FUNC dom)

/-- The translation of a checked offset for a program of domain `dom` (R198, R257). -/
def State.target (s : State) (dom : Nat) (g : Desc) (off : Nat) (write : Bool) : Tgt :=
  let atNode (node req a : Nat) : Tgt := if node = s.selfNode then .self req a else .dev node a
  match g.kind with
  | 0 => .host (s.domFunc dom) (g.base + off)
  | 1 => atNode g.node (ownProgram dom) (g.base + off)
  | _ =>
    let p := g.pool
    let own := s.get (Fld.poolData.PDOM p)
    let a := s.get (Fld.poolData.BACK_BASE p) * 4096 + g.base + off
    if !s.on (Fld.poolData.EN p) then .bad 0x22
    else if own ≠ dom ∧ (write ∨ !s.on (Fld.poolData.SHARE p) ∨ s.domFunc own ≠ s.domFunc dom) then .bad 0x21
    else match s.get (Fld.poolData.BACKING p) with
      | 0 => .host (s.domFunc own) a
      | 1 => .self ownBpm (spmBase + a)
      | _ => atNode (s.get (Fld.poolData.NODE p)) ownBpm a

/-! ### Selectors -/

/-- The selector check's domain part (R190): the entry is valid and belongs to the function that owns the queue. -/
def State.domainOk (s : State) (c : Nat) : Bool :=
  let x := s.cx c
  s.on (Fld.pdData.VALID x.pdom) && s.get (Fld.pdData.FUNC x.pdom) == x.func

/-- A selector is an index of the domain's table (R192). -/
def State.selOk (s : State) (c sel : Nat) : Bool :=
  s.domainOk c && decide (sel ≠ 0 ∧ sel < 2 ^ s.get (Fld.pdData.ST_LOG2 (s.cx c).pdom))

/-- While a change of a valid domain entry has not been followed by an invalidation, an LDS or a dispatch sees the old
entry or the new one, and which is a free value (R203): `k` runs on what it sees, `f` takes from its result what it changed. -/
def State.seePd {α : Type} (s : State) (dom : Nat) (k : State → α) (f : α → (State → State) → α) : α :=
  match s.pdOld.find? fun o => o.dom == dom with
  | none => k s
  | some o =>
    let t := s.takeFree
    if s.freeVal.getLsbD 0 then k t
    else f (k ((t.setReg ⟨.pdData, dom, 0⟩ o.w0).setReg ⟨.pdData, dom, 1⟩ o.w1)) fun u =>
      (u.setReg ⟨.pdData, dom, 0⟩ (s.reg ⟨.pdData, dom, 0⟩)).setReg ⟨.pdData, dom, 1⟩ (s.reg ⟨.pdData, dom, 1⟩)

/-- A change of the state that a command ends in. -/
def onNext (r : Res) (g : State → State) : Res :=
  match r with
  | .next u => .next (g u)
  | .fault e => .fault e
  | .refused e => .refused e

/-- A descriptor from a table entry (R193, R194): none where VALID is 0 or KIND is 3. -/
def descOf (dom sel : Nat) (e : SegEntry) : Option Desc :=
  let w := e.w0.toNat
  let kind := bitsOf w 1 2
  if bitsOf w 0 1 = 0 ∨ kind = 3 then none
  else some
    { live := true, kind := kind, r := bitsOf w 3 1 == 1, w := bitsOf w 4 1 == 1,
      x := bitsOf w 5 1 == 1 && kind == 0, idem := bitsOf w 6 1 == 1, node := bitsOf w 16 16,
      pool := bitsOf w 32 12, base := bitsOf e.base.toNat 0 57, limit := bitsOf e.limit.toNat 0 57, dom := dom,
      sel := sel, handle := none }

/-- The key of a table entry in the segment cache. -/
def segKey (dom sel : Nat) : Nat := dom * 65536 + sel

/-- A table read is issued (R191, R192): 32 bytes under the PF's requester ID, not snooped. -/
def State.readTable (s : State) (dom sel : Nat) : State :=
  (s.hostRead (.table dom sel) 0 .io (s.get (Fld.pdData.ST_BASE dom) * 4096 + sel * 32) 32 1)

/-- A lookup of a valid selector: the cached descriptor, or the state in which its table read is outstanding. -/
def State.lookup (s : State) (dom sel : Nat) : Option Desc × State :=
  match s.segCache.find? (fun e => e.1 == segKey dom sel) with
  | some (_, g) => (some g, s)
  | none =>
    if SMap.get s.segRead 0 (segKey dom sel) ≠ 0 then (none, s)
    else if NSet.has s.stuHold dom then (none, { s with segRead := SMap.set s.segRead 0 (segKey dom sel) 3 })
    else (none, { s.readTable dom sel with segRead := SMap.set s.segRead 0 (segKey dom sel) 1 })

/-! ### Loads -/

/-- A context's virtual channel for memory requests: VC0 for a King program with King reservation (R69, R143). -/
def State.memVc (s : State) (c : Nat) : Nat :=
  if (s.cx c).cls = 0 ∧ s.on Fld.qscCtl.KING_EN then 0 else 1

/-- A context's virtual channel for device accesses and transfers: VC0 only with KING in a King program (R143). -/
def State.devVc (s : State) (c : Nat) (king : Bool) : Nat := if king then s.memVc c else 1

/-- The one or two aligned parts of an access of `n` bytes whose target address is `a` (R148): offset and size. -/
def alignedParts (a n : Nat) : List (Nat × Nat) :=
  if a % n = 0 then [(0, n)] else [(0, n - a % n), (n - a % n, a % n)]

/-- The port whose data window holds a range at a node (R232, R316). -/
def State.portOf (s : State) (node a n : Nat) : Option Nat :=
  (s.regs.find? fun e => e.1.id == .dpData && e.1.j == 0 &&
    (let p := e.1.i
     s.on (Fld.dpData.VALID p) && s.get (Fld.dpData.NODE p) == node &&
       decide (s.get (Fld.dpData.DATA_BASE p) ≤ a ∧
         a + n ≤ s.get (Fld.dpData.DATA_BASE p) + s.get (Fld.dpData.DATA_LIMIT p)))).map (·.1.i)

/-- The status of an access to a target at a node that cannot be made: its port is removed, or the node cannot be
reached (R301, R318). -/
def State.devDead (s : State) (node a n : Nat) : Option Nat :=
  match s.portOf node a n with
  | some p => if s.on (Fld.dpData.REMOVED p) || !s.reachable node then some 0x31 else none
  | none => if s.reachable node then none else some 0x30

/-- The port of a range, with its generation, for a request's record. -/
def State.portRef (s : State) (node a n : Nat) : Option (Nat × Nat) :=
  (s.portOf node a n).map fun p => (p, s.get (Fld.dpData.GEN p))

/-- Bytes that the context's own held stores cover, the youngest entry first (R219). -/
def State.overlay (s : State) (c func a n : Nat) : List (Nat × Byte) :=
  let es := (SMap.get s.held [] (clusterOf c)).filter fun h => h.ctx == c && h.func == func
  (List.range n).filterMap fun i =>
    (es.reverse.findSome? fun h =>
      if h.line = (a + i) / 64 then (h.bytes.find? fun b => b.1 == (a + i) % 64).map (·.2) else none).map fun b => (i, b)

/-- The watch set of a cluster has room for some lines (R213): a line that two contexts watch takes two of its 512 places (log entry
70). -/
def State.watchRoom (s : State) (c n : Nat) : Bool :=
  decide ((SMap.get s.watch [] (clusterOf c)).length + n ≤ 512)

/-- Lines enter the watch set under the context's youngest checkpoint, unless an older one already watches them. -/
def State.addWatch (s : State) (c func a n : Nat) : State :=
  let cl := clusterOf c
  let k := (s.cx c).ckpts.length
  if k = 0 then s
  else forAll (linesOf a n) (fun t l =>
    let ws := SMap.get t.watch [] cl
    if ws.any fun w => w.1 == func && w.2.1 == l && w.2.2.1 == c then t
    else { t with watch := SMap.set t.watch [] cl (ws ++ [(func, l, c, k)]) }) s

/-- A load's value from its bytes (R163): NIB takes the nibble that NSEL selects. -/
def loadValue (l : Load) (bs : List Byte) : Word :=
  let v := ofBytes bs
  match l.nib with
  | some hi => BitVec.ofNat 64 (if hi then bitsOf v 4 4 else bitsOf v 0 4)
  | none => BitVec.ofNat 64 (v % 2 ^ l.w)

/-- A load's bytes are all there. -/
def Load.bytes (l : Load) : Option (List Byte) :=
  l.parts.foldl (fun a p => match a, p.data with | some x, some d => some (x ++ d) | _, _ => none) (some [])

/-- A completed load lands in some registers: Dx, and Z and N of the loaded value (R163). -/
def CtxRegs.land (x : CtxRegs) (l : Load) (bs : List Byte) : CtxRegs :=
  let v := loadValue l bs
  let x1 := match l.dst with | some d => { x with d := SMap.set x.d 0 d v } | none => x
  { x1 with cf := { x1.cf with
      z := if l.fz then decide (v.toNat % 2 ^ l.w = 0) else x1.cf.z
      n := if l.fn then decide (v.toNat / 2 ^ (l.w - 1) % 2 = 1) else x1.cf.n } }

/-- The loads whose bytes are all there land, oldest first. -/
def CtxRegs.landAll (r : CtxRegs) (ls : List Load) : CtxRegs :=
  ls.foldl (fun a l => match l.bytes with | some bs => a.land l bs | none => a) r

/-- The loads still outstanding. -/
def stillOut (ls : List Load) : List Load := ls.filter fun l => l.bytes.isNone

/-- All loads of a context whose bytes are there land and leave the list; they land in the registers that checkpoints
hold as well, where the load was outstanding when the checkpoint opened (R211). -/
def Ctx.landAll (x : Ctx) : Ctx :=
  { x with regs := x.regs.landAll x.loads
           loads := stillOut x.loads
           ckpts := x.ckpts.map fun k => { k with saved := k.saved.landAll k.loads, loads := stillOut k.loads } }

/-- A change of every load of a context, those that its checkpoints hold included. -/
def Ctx.mapLoads (x : Ctx) (f : Load → Load) : Ctx :=
  { x with loads := x.loads.map f, ckpts := x.ckpts.map fun k => { k with loads := k.loads.map f } }

/-- A read's bytes with the held ones laid over them. -/
def applyOver (bs : List Byte) (cover : List (Nat × Byte)) : List Byte :=
  cover.foldl (fun a e => setAt a e.1 e.2) bs

/-- The data of one part arrives. -/
def Load.fill (dev : Bool) (req : Nat) (bs : List Byte) (l : Load) : Load :=
  { l with parts := l.parts.map fun p =>
      if p.dev == dev && p.req == req then { p with data := some (applyOver (bs.take p.n) p.cover) } else p }

/-! ### Stores -/

/-- Bytes written into a held line image, later ones over earlier. -/
def mergeBytes (old new : List (Nat × Byte)) : List (Nat × Byte) :=
  new.foldl (fun m e => SMap.set (m.filter fun b => b.1 != e.1) 0 e.1 e.2 |> fun r =>
    if e.2 = 0 then AMap.ins natLt r e.1 e.2 else r) old

/-- Entries of a context in its cluster's commit buffer. -/
def State.heldCount (s : State) (c : Nat) : Nat :=
  ((SMap.get s.held [] (clusterOf c)).filter (·.ctx == c)).length

/-- A store on a speculative path goes into the commit buffer (R216): merged into the context's youngest entry when
line and checkpoint are the same, else a new entry; none where the quota or the buffer is full. -/
def State.holdStore (s : State) (c func a vc sel : Nat) (data : List Byte) : Option State :=
  let cl := clusterOf c
  let es := SMap.get s.held [] cl
  let k := (s.cx c).ckpts.length
  let quota := match (s.cx c).ckpts.getLast? with | some ck => ck.quota | none => 0
  let bytes := (List.range data.length).filterMap fun i => (data[i]?).map fun b => ((a + i) % 64, b)
  let young := (es.filter (·.ctx == c)).getLast?
  match young with
  | some h =>
    if h.line = a / 64 ∧ h.func = func ∧ h.ckpt = k then
      some { s with held := SMap.set s.held [] cl (es.map fun e => if e == h then { h with bytes := mergeBytes h.bytes bytes } else e) }
    else if s.heldCount c < quota ∧ es.length < 1024 then
      some { s with held := SMap.set s.held [] cl (es ++ [⟨func, a / 64, mergeBytes [] bytes, vc, c, k, sel⟩]) }
    else none
  | none =>
    if s.heldCount c < quota ∧ es.length < 1024 then
      some { s with held := SMap.set s.held [] cl (es ++ [⟨func, a / 64, mergeBytes [] bytes, vc, c, k, sel⟩]) }
    else none

/-- An outstanding host read of the context overlaps the bytes (R519). -/
def State.readOverlaps (s : State) (c func a n : Nat) : Bool :=
  s.hreq.any fun e => (match e.2.purp with | .load c' _ => c' == c | _ => false) && e.2.func == func &&
    decide (e.2.addr < a + n ∧ a < e.2.addr + e.2.n)

end Sys2Proof.Machine
end

