-- ==== Sys2Proof/Machine/Cipher.lean ====
section
/-!
DEFINITION. The ciphers of R243 and R244: AES-256 with XTS of IEEE 1619 and GCM of NIST SP 800-38D. Bytes are
numbers below 256.
-/

namespace Sys2Proof.Machine

/-- Bitwise exclusive or of two byte lists, as long as the first. -/
def xorL : List Nat → List Nat → List Nat
  | [], _ => []
  | a :: r, [] => a :: r
  | a :: r, b :: t => (a ^^^ b) :: xorL r t

/-- A byte times x in a field of 256 elements with a reduction polynomial. -/
def xtime (poly a : Nat) : Nat := if a ≥ 128 then (2 * a) ^^^ poly else 2 * a

/-- The product of two bytes in the field of a polynomial; `n` counts the bits of `b` still to be used. -/
def fmul (poly a b : Nat) : Nat → Nat
  | 0 => 0
  | n + 1 => (if b % 2 = 1 then a else 0) ^^^ fmul poly (xtime poly a) (b / 2) n

/-- Powers in the field of a polynomial. -/
def fpow (poly a : Nat) : Nat → Nat
  | 0 => 1
  | n + 1 => fmul poly a (fpow poly a n) 8

/-- A product in the cipher's field. -/
def aesMul (a b : Nat) : Nat := fmul 0x11B a b 8

/-- A byte's inverse in the cipher's field, 0 for 0. -/
def aesInv (a : Nat) : Nat := fpow 0x11B a 254

/-- A byte rotated left. -/
def rotB (a k : Nat) : Nat := (a * 2 ^ k ||| a / 2 ^ (8 - k)) % 256

/-- The substitution of one byte. -/
def subB (a : Nat) : Nat :=
  let b := aesInv a
  b ^^^ rotB b 1 ^^^ rotB b 2 ^^^ rotB b 3 ^^^ rotB b 4 ^^^ 0x63

/-- The inverse substitution. -/
def invSubB (a : Nat) : Nat := aesInv (rotB a 1 ^^^ rotB a 3 ^^^ rotB a 6 ^^^ 0x05)

/-- The key schedule of 60 words, newest first; `n` words are still to be made. -/
def expandKey (w : List (List Nat)) (rcon : Nat) : Nat → List (List Nat)
  | 0 => w
  | n + 1 =>
    let i := w.length
    let prev := w.getD 0 []
    let t := if i % 8 = 0 then xorL ((prev.drop 1 ++ prev.take 1).map subB) [rcon]
      else if i % 8 = 4 then prev.map subB else prev
    expandKey (xorL (w.getD 7 []) t :: w) (if i % 8 = 0 then xtime 0x11B rcon else rcon) n

/-- The words of a 32-byte key, last first. -/
def keyWords (k : List Nat) : List (List Nat) := ((List.range 8).map fun i => (k.drop (4 * i)).take 4).reverse

/-- The fifteen round keys. -/
def roundKeys (k : List Nat) : List (List Nat) :=
  let w := (expandKey (keyWords k) 1 52).reverse
  (List.range 15).map fun r => ((w.drop (4 * r)).take 4).flatten

/-- ShiftRows on a column-major block. -/
def shiftRows (b : List Nat) : List Nat := (List.range 16).map fun i => b.getD ((i + 4 * (i % 4)) % 16) 0

/-- Its inverse. -/
def invShiftRows (b : List Nat) : List Nat := (List.range 16).map fun i => b.getD ((i + 16 - 4 * (i % 4)) % 16) 0

/-- One column times a circulant matrix. -/
def mixCol (m c : List Nat) : List Nat :=
  (List.range 4).map fun i => (List.range 4).foldl (fun a j => a ^^^ aesMul (m.getD ((j + 4 - i) % 4) 0) (c.getD j 0)) 0

/-- All columns. -/
def mixCols (m b : List Nat) : List Nat := ((List.range 4).map fun i => mixCol m ((b.drop (4 * i)).take 4)).flatten

/-- One block encrypted. -/
def aesEnc (rk : List (List Nat)) (b : List Nat) : List Nat :=
  let s0 := xorL b (rk.getD 0 [])
  let s1 := (List.range 13).foldl (fun s r => xorL (mixCols [2, 3, 1, 1] (shiftRows (s.map subB))) (rk.getD (r + 1) [])) s0
  xorL (shiftRows (s1.map subB)) (rk.getD 14 [])

/-- One block decrypted. -/
def aesDec (rk : List (List Nat)) (b : List Nat) : List Nat :=
  let s0 := (invShiftRows (xorL b (rk.getD 14 []))).map invSubB
  let s1 := (List.range 13).foldl (fun s r =>
    (invShiftRows (mixCols [14, 11, 13, 9] (xorL s (rk.getD (13 - r) [])))).map invSubB) s0
  xorL s1 (rk.getD 0 [])

/-- Little-endian bytes of a number. -/
def leB (n v : Nat) : List Nat := (List.range n).map fun i => v / 256 ^ i % 256

/-- The number that little-endian bytes spell. -/
def leN (l : List Nat) : Nat := l.foldr (fun b a => b + 256 * a) 0

/-- The number that big-endian bytes spell. -/
def beN (l : List Nat) : Nat := l.foldl (fun a b => 256 * a + b) 0

/-- Big-endian bytes of a number. -/
def beB (n v : Nat) : List Nat := (leB n v).reverse

/-- The next block's tweak (IEEE 1619). -/
def nextTweak (t : List Nat) : List Nat :=
  let v := leN t
  leB 16 ((2 * v % 2 ^ 128) ^^^ (if v ≥ 2 ^ 127 then 0x87 else 0))

/-- One block under a tweak. -/
def xtsBlock (f : List Nat → List Nat) (t b : List Nat) : List Nat := xorL (f (xorL b t)) t

/-- One data unit of at least 16 bytes, with ciphertext stealing where it is no multiple of 16 (R243); `n` bounds the
blocks. -/
def xtsUnit (f : List Nat → List Nat) (dec : Bool) (t b : List Nat) : Nat → List Nat
  | 0 => []
  | n + 1 =>
    if b.length < 16 then []
    else if b.length < 32 ∧ b.length ≠ 16 then
      let head := b.take 16
      let tail := b.drop 16
      let t1 := if dec then nextTweak t else t
      let t2 := if dec then t else nextTweak t
      let cc := xtsBlock f t1 head
      let last := xtsBlock f t2 (tail ++ cc.drop tail.length)
      last ++ cc.take tail.length
    else xtsBlock f t (b.take 16) ++ xtsUnit f dec (nextTweak t) (b.drop 16) n

/-- The stream as whole data units of `u` bytes, the first numbered `first`; a short last unit only at the end of
the stream (`final`). -/
def xts (key : List Nat) (dec : Bool) (u first : Nat) (final : Bool) (bs : List Nat) : Nat → List Nat
  | 0 => []
  | n + 1 =>
    if bs.length < u ∧ (!final ∨ bs.isEmpty) then []
    else
      let rk1 := roundKeys (key.take 32)
      let t := aesEnc (roundKeys (key.drop 32)) (leB 16 first)
      xtsUnit (if dec then aesDec rk1 else aesEnc rk1) dec t (bs.take u) (u + 1)
        ++ xts key dec u (first + 1) final (bs.drop u) n

/-- The product in the field of GHASH, blocks as big-endian numbers; `n` bits of `x` are still to be used. -/
def gmulN (x v : Nat) : Nat → Nat
  | 0 => 0
  | n + 1 =>
    (if x / 2 ^ n % 2 = 1 then v else 0) ^^^ gmulN x (if v % 2 = 1 then (v / 2) ^^^ (0xE1 * 2 ^ 120) else v / 2) n

/-- Blocks of 16 bytes, the last filled up with zeros. -/
def pad16 (l : List Nat) : List (List Nat) :=
  (List.range ((l.length + 15) / 16)).map fun i =>
    let b := (l.drop (16 * i)).take 16
    b ++ List.replicate (16 - b.length) 0

/-- GHASH of a list of blocks. -/
def ghash (h : Nat) (bl : List (List Nat)) : Nat := bl.foldl (fun y b => gmulN (y ^^^ beN b) h 128) 0

/-- The keystream's block `i` (R244): a 96-bit IV and a 32-bit counter that starts at 2 for the data. -/
def gcmKs (rk : List (List Nat)) (iv : List Nat) (i : Nat) : List Nat := aesEnc rk (iv ++ beB 4 ((i + 2) % 2 ^ 32))

/-- The stream with its first `aad` bytes unchanged and the rest under the keystream. -/
def gcmOut (key iv : List Nat) (aad : Nat) (bs : List Nat) : List Nat :=
  let rk := roundKeys (key.take 32)
  let d := bs.drop aad
  bs.take aad ++ ((List.range ((d.length + 15) / 16)).map fun i =>
    xorL ((d.drop (16 * i)).take 16) (gcmKs rk iv i)).flatten

/-- The tag over the authenticated bytes and the ciphertext. -/
def gcmTag (key iv : List Nat) (aad : Nat) (dec : Bool) (bs : List Nat) : List Nat :=
  let rk := roundKeys (key.take 32)
  let h := beN (aesEnc rk (List.replicate 16 0))
  let a := bs.take aad
  let c := if dec then bs.drop aad else (gcmOut key iv aad bs).drop aad
  let y := ghash h (pad16 a ++ pad16 c ++ [beB 8 (8 * a.length) ++ beB 8 (8 * c.length)])
  xorL (aesEnc rk (iv ++ beB 4 1)) (beB 16 y)

end Sys2Proof.Machine
end

