-- ==== Sys2Proof/Machine/Stream.lean ====
section
/-!
DEFINITION. What a lane does to a stream (R236 to R244, R247) and the Reed–Solomon code of STRIPE and GATHER (R248,
R250). All of it is arithmetic on byte lists; bytes are numbers below 256.
-/

namespace Sys2Proof.Machine

/-! ### The transform selector (R236) -/

/-- CRC. -/
def tCrc (t : Nat) : Nat := bitsOf t 0 4
/-- PI. -/
def tPi (t : Nat) : Nat := bitsOf t 4 3
/-- PIF. -/
def tPif (t : Nat) : Nat := bitsOf t 7 2
/-- PIT. -/
def tPit (t : Nat) : Nat := bitsOf t 9 2
/-- CIPH. -/
def tCiph (t : Nat) : Nat := bitsOf t 11 3
/-- DU4K. -/
def tDu (t : Nat) : Nat := bitsOf t 14 1
/-- KEY. -/
def tKey (t : Nat) : Nat := bitsOf t 15 12
/-- ACC. -/
def tAcc (t : Nat) : Nat := bitsOf t 27 2
/-- RDST. -/
def tRdst (t : Nat) : Nat := bitsOf t 29 2
/-- CRCO. -/
def tCrco (t : Nat) : Nat := bitsOf t 31 1

/-- A selector that R237 leaves defined. -/
def tselOk (t : Nat) : Bool :=
  !(decide (tCrc t > 4) || decide (tPi t > 4) || tPif t == 3 || tPit t == 3 || decide (tCiph t > 4) || tRdst t == 3
    || (tPi t == 0 && (tPif t != 0 || tPit t != 0)) || (tCiph t == 0 && (tKey t != 0 || tDu t != 0))
    || (tRdst t != 0 && tCrc t == 0 && decide (tCiph t < 3)))

/-- The block size of the PI format. -/
def piBlk (t : Nat) : Nat := if tPif t = 0 then 512 else 4096

/-- The size of the PI. -/
def piSz (t : Nat) : Nat := if tPif t = 2 then 16 else 8

/-- Source bytes of one block as the PI stage takes them (R242). -/
def piIn (t : Nat) : Nat := if tPi t = 0 then 1 else if tPi t = 1 then piBlk t else piBlk t + piSz t

/-- Bytes of one block after the PI stage. -/
def piOut (t : Nat) : Nat :=
  match tPi t with
  | 0 => 1
  | 1 => piBlk t + piSz t
  | 3 => piBlk t + piSz t
  | _ => piBlk t

/-- The output bytes of `n` source bytes in whole blocks. -/
def outLen (t n : Nat) : Nat := n / piIn t * piOut t

/-- The output bytes that `n` source bytes can span, a part of a block counted as it stands. -/
def outSpan (t n : Nat) : Nat := outLen t n + Nat.min (n % piIn t) (piOut t)

/-- The source bytes behind `n` output bytes, in whole blocks. -/
def inLen (t n : Nat) : Nat := n / piOut t * piIn t

/-- The XTS data unit. -/
def duSz (t : Nat) : Nat := if tDu t = 1 then 4096 else 512

/-! ### CRC (R241) -/

/-- A reflected CRC over one byte. -/
def crcByte (poly crc b : Nat) : Nat :=
  (List.range 8).foldl (fun c _ => if c % 2 = 1 then (c / 2) ^^^ poly else c / 2) (crc ^^^ b)

/-- A reflected CRC with all-ones initial value and final exclusive or. -/
def crcRefl (poly w : Nat) (bs : List Nat) : Nat := (bs.foldl (crcByte poly) (2 ^ w - 1)) ^^^ (2 ^ w - 1)

/-- CRC-16/T10-DIF, not reflected. -/
def crcDif (bs : List Nat) : Nat :=
  bs.foldl (fun c b => (List.range 8).foldl (fun x _ =>
    if x ≥ 2 ^ 15 then (2 * x % 2 ^ 16) ^^^ 0x8BB7 else 2 * x) (c ^^^ (b * 256))) 0

/-- The CRC a selector names. -/
def crcOf (t : Nat) (bs : List Nat) : Nat :=
  match tCrc t with
  | 1 => crcRefl 0x82F63B78 32 bs
  | 2 => crcRefl 0xEDB88320 32 bs
  | 3 => crcRefl 0x9A6C9329AC4BC9B5 64 bs
  | 4 => crcDif bs
  | _ => 0

/-- Its bytes in a result (R240). -/
def crcSz (t : Nat) : Nat :=
  match tCrc t with
  | 1 | 2 => 4
  | 3 => 8
  | 4 => 2
  | _ => 0

/-! ### Protection information (R242) -/

/-- The inputs of ACCn.3: initial reference tag, application tag, mask. -/
structure PiIn where
  ref : Nat
  app : Nat
  mask : Nat

/-- The guard over a block. -/
def piGuard (t : Nat) (b : List Nat) : Nat := if tPif t = 2 then crcRefl 0x9A6C9329AC4BC9B5 64 b else crcDif b

/-- Width of the guard and of the reference tag in bytes. -/
def piW (t : Nat) : Nat × Nat := if tPif t = 2 then (8, 6) else (2, 4)

/-- The running reference tag of block `i`. -/
def piRef (t : Nat) (p : PiIn) (i : Nat) : Nat :=
  (if tPit t = 2 then p.ref else p.ref + i) % 256 ^ (piW t).2

/-- The PI that insert appends to block `i`. -/
def piMake (t : Nat) (p : PiIn) (i : Nat) (b : List Nat) : List Nat :=
  beB (piW t).1 (piGuard t b) ++ beB 2 p.app ++ beB (piW t).2 (piRef t p i)

/-- The XFER_LOG cause of a block's first failing check: 7 guard, 8 application tag, 9 reference tag. -/
def piCheck (t : Nat) (p : PiIn) (i : Nat) (b pi : List Nat) : Option Nat :=
  let app := beN ((pi.drop (piW t).1).take 2)
  let ref := beN (pi.drop ((piW t).1 + 2))
  if app = 0xFFFF ∧ (tPit t ≠ 2 ∨ ref = 256 ^ (piW t).2 - 1) then none
  else if beN (pi.take (piW t).1) ≠ piGuard t b then some 7
  else if (app ^^^ p.app) &&& p.mask ≠ 0 then some 8
  else if tPit t ≠ 2 ∧ ref ≠ piRef t p i then some 9
  else none

/-- The PI stage over whole blocks from block `i` on; it stops before a block that fails a check. -/
def piStage (t : Nat) (p : PiIn) (i : Nat) (bs : List Nat) : Nat → List Nat × Option Nat
  | 0 => ([], none)
  | n + 1 =>
    if bs.length < piIn t then ([], none)
    else
      let b := bs.take (piBlk t)
      let pi := (bs.take (piIn t)).drop (piBlk t)
      let go (o : List Nat) := let r := piStage t p (i + 1) (bs.drop (piIn t)) n; (o ++ r.1, r.2)
      match tPi t with
      | 1 => go (b ++ piMake t p i b)
      | 4 => go b
      | m =>
        match piCheck t p i b pi with
        | some c => ([], some c)
        | none => go (if m = 3 then b ++ pi else b)

/-! ### The whole stream (R238) -/

/-- What a lane samples at the start of a stream: selector, pieces of the accumulator, key; and how far the reference tag of its
first block lies above the initial one (R250). -/
structure Lane where
  t : Nat
  a1 : Nat
  a2 : Nat
  a3 : Nat
  key : List Nat
  ref0 : Nat := 0

/-- The PI inputs. -/
def Lane.pi (l : Lane) : PiIn := { ref := bitsOf l.a3 0 32 + l.ref0, app := bitsOf l.a3 32 16, mask := bitsOf l.a3 48 16 }

/-- The IV (R239, R244). -/
def Lane.iv (l : Lane) : List Nat := leB 8 l.a1 ++ leB 4 l.a2

/-- The AAD length. -/
def Lane.aad (l : Lane) : Nat := bitsOf l.a2 32 16

/-- A cipher stage: XTS in whole units, or GCM. -/
def Lane.cipher (l : Lane) (final : Bool) (bs : List Nat) : List Nat :=
  match tCiph l.t with
  | 1 => xts l.key false (duSz l.t) l.a1 final bs (bs.length + 1)
  | 2 => xts l.key true (duSz l.t) l.a1 final bs (bs.length + 1)
  | _ => gcmOut l.key l.iv l.aad bs

/-- The output of the stream's first bytes, as far as it is fixed, and the cause of a failed PI check. `final` says
that the stream has ended in full. -/
def Lane.out (l : Lane) (final : Bool) (raw : List Nat) : List Nat × Option Nat :=
  let x1 := if tCiph l.t = 2 ∨ tCiph l.t = 4 then l.cipher final raw else raw
  let r := if tPi l.t = 0 then (x1, none) else piStage l.t l.pi 0 x1 (x1.length + 1)
  (if tCiph l.t = 1 ∨ tCiph l.t = 3 then l.cipher final r.1 else r.1, r.2)

/-- The CRC of the stream: at stage 1 over the source bytes, at stage 5 over the output. -/
def Lane.crc (l : Lane) (final : Bool) (raw : List Nat) : Nat :=
  crcOf l.t (if tCrco l.t = 1 then (l.out final raw).1 else raw)

/-- The GCM tag over what passed the stage. -/
def Lane.tag (l : Lane) (raw : List Nat) : List Nat :=
  match tCiph l.t with
  | 3 => gcmTag l.key l.iv l.aad false (if tPi l.t = 0 then raw else (piStage l.t l.pi 0 raw (raw.length + 1)).1)
  | 4 => gcmTag l.key l.iv l.aad true raw
  | _ => []

/-- The result bytes of R240: the tag, then the CRC. -/
def Lane.results (l : Lane) (final : Bool) (raw : List Nat) : List Nat :=
  l.tag raw ++ leB (crcSz l.t) (l.crc final raw)

/-- How many result bytes a selector appends. -/
def resultLen (t : Nat) : Nat := if tRdst t = 0 then 0 else (if tCiph t ≥ 3 then 16 else 0) + crcSz t

/-! ### Reed–Solomon (R248) -/

/-- A product in the code's field. -/
def rsMul (a b : Nat) : Nat := fmul 0x11D a b 8

/-- An inverse in the code's field. -/
def rsInv (a : Nat) : Nat := fpow 0x11D a 254

/-- The coefficient of data shard `j` in parity shard `i`. -/
def rsCoef (i j : Nat) : Nat := rsInv ((0x20 + i) ^^^ j)

/-- The generator row of stored shard `s` among `k` data shards. -/
def rsRow (k s : Nat) : List Nat :=
  (List.range k).map fun j => if s < k then (if s = j then 1 else 0) else rsCoef (s - k) j

/-- A linear combination of equally long byte lists. -/
def rsComb (cs : List Nat) (ds : List (List Nat)) (n : Nat) : List Nat :=
  (cs.zip ds).foldl (fun a e => xorL a (e.2.map (rsMul e.1))) (List.replicate n 0)

/-- One elimination step on column `c`: rows are coefficients with their right-hand bytes; the pivot row is taken out
of the rows below and cleared from all others. -/
def rsStep (c : Nat) (done rest : List (List Nat × List Nat)) : List (List Nat × List Nat) × List (List Nat × List Nat) :=
  match rest.find? (fun r => r.1.getD c 0 != 0) with
  | none => (done, rest)
  | some p =>
    let iv := rsInv (p.1.getD c 0)
    let q := (p.1.map (rsMul iv), p.2.map (rsMul iv))
    let clear (r : List Nat × List Nat) :=
      let f := r.1.getD c 0
      (xorL r.1 (q.1.map (rsMul f)), xorL r.2 (q.2.map (rsMul f)))
    (done.map clear ++ [q], (rest.erase p).map clear)

/-- The data shards' bytes from any `k` stored shards: pairs of shard number and bytes (R248). -/
def rsSolve (k : Nat) (got : List (Nat × List Nat)) : List (List Nat) :=
  ((List.range k).foldl (fun st c => rsStep c st.1 st.2) ([], got.map fun g => (rsRow k g.1, g.2))).1.map (·.2)

/-- A stored shard from the data shards. -/
def rsShard (k s : Nat) (ds : List (List Nat)) : List Nat := rsComb (rsRow k s) ds (ds.headD []).length

/-- The lane of data shard `j` of length `n` under a selector: first data unit and first reference tag (R250). -/
def Lane.shard (l : Lane) (j n : Nat) : Lane :=
  { l with a1 := l.a1 + j * n / duSz l.t
           ref0 := l.ref0 + (if tPi l.t = 0 then 0 else j * n / piBlk l.t) }

/-- The output of a shard's first bytes as far as it follows from them, whole blocks of a cipher at a time: unlike `Lane.out` it
does not wait for the end of a data unit or of a block that gets its PI (R252). -/
def Lane.head (l : Lane) (bs : List Nat) : List Nat × Option Nat :=
  let cut (x : List Nat) : List Nat := x.take (x.length / 16 * 16)
  let x1 := if tCiph l.t = 2 then l.cipher true (cut bs) else bs
  let r := if tPi l.t = 0 then (x1, none) else piStage l.t l.pi 0 x1 (x1.length + 1)
  let x2 := if tPi l.t = 1 then r.1 ++ x1.drop (x1.length / piBlk l.t * piBlk l.t) else r.1
  (if tCiph l.t = 1 then l.cipher true (cut x2) else x2, r.2)

end Sys2Proof.Machine
end

