-- ==== Sys2Proof/Machine/XferOps.lean ====
section
/-!
DEFINITION. Transfers in the movers (R228 to R254): writing to a target, the next read, the lane, plain and
transformed streams, STRIPE and GATHER, a transfer's end and its failure.
-/

namespace Sys2Proof.Machine

/-- The record of a transfer, empty where there is none. -/
def State.xg (s : State) (k : Nat) : Xfer := SMap.get s.xfer {} k

/-- A transfer's record replaced. -/
def State.setXf (s : State) (k : Nat) (x : Xfer) : State := { s with xfer := SMap.set s.xfer {} k x }

/-- The first byte of a request and its length (R299). -/
def pktSpan (p : Pkt) : Nat × Nat :=
  let a := p.addr * 4 + lowBit p.fbe
  let e := if p.len ≤ 1 then p.addr * 4 + highBit p.fbe else (p.addr + p.len - 1) * 4 + highBit p.lbe
  (a, e + 1 - a)

/-- Data words cut into pieces that end at boundaries of the largest payload: offset in words, bytes, last (R302). `n`
bounds the pieces. -/
def pieces (mps a woff : Nat) (bs : List Byte) : Nat → List (Nat × List Byte × Bool)
  | 0 => []
  | n + 1 =>
    let k := mps - a % mps
    if bs.length ≤ k then [(woff, bs, true)]
    else (woff, bs.take k, false) :: pieces mps (a + k) (woff + k / 4) (bs.drop k) n

/-- The bytes of a read as whole words: the bytes around those enabled are free values, which the requester ignores
(R302). -/
def State.wholeWords (s : State) (addr len a : Nat) (bs : List Byte) : List Byte :=
  let front := (List.range (a - 4 * addr)).map fun i => Config.freeByte (8 * s.freeCnt + i)
  let back := (List.range (4 * len - (front.length + bs.length))).map fun i => Config.freeByte (8 * s.freeCnt + 4 + i)
  front ++ bs ++ back

/-- The free values that the words of a read use are taken. -/
def State.dataTaken (s : State) (len : Nat) (bs : List Byte) : State := if 4 * len = bs.length then s else s.takeFree

/-- The data of a read of `len` words from word `addr` as packets for its requester (R302): `bs` are the enabled bytes,
from byte address `a` on. -/
def State.dataPkts (s : State) (src tag vc addr len a : Nat) (bs : List Byte) : List Pkt :=
  (pieces (s.mpsOf src) (4 * addr) 0 (s.wholeWords addr len a bs) (len + 1)).map fun e =>
    { type := 0xC0, vc := rspVc vc, dst := src, src := s.selfNode, tag := tag, len := e.2.1.length / 4, fbe := 0,
      lbe := 0, woff := e.1, last := e.2.2, data := e.2.1 }

/-- One write piece at a target, or the status of its failure (R198, R231, R353). A posted write to an address of the
device's own node that nothing serves is discarded (R349). -/
def State.putPiece (s : State) (c vc : Nat) (tg : Tgt) (bs : List Byte) : State × Option Nat :=
  match tg with
  | .host f a => if s.hostOk f then (s.hostWriteBy (some c) f a bs, none) else (s, some 0x30)
  | .dev node a =>
    match s.devDead node a bs.length with
    | some st => (s, some st)
    | none =>
      match s.request .gone (mwrPkt 0x60 node a bs vc false) bs.length none false 0 with
      | some (s1, _) => (s1.markSlot (s.portOf node a bs.length), none)
      | none => (s, some 0x30)
  | .self req a =>
    match s.selfAcc req s.selfNode a bs.length (some bs) with
    | .ok _ s1 => (s1, none)
    | .refused s1 => (s1, some 0x21)
    | .devErr s1 => (s1, some 0x30)
    | .outside => (s, none)
  | .bad st => (s, some st)

/-- A target moved on by some bytes. -/
def Tgt.plus (n : Nat) : Tgt → Tgt
  | .host f a => .host f (a + n)
  | .dev node a => .dev node (a + n)
  | .self r a => .self r (a + n)
  | .bad st => .bad st

/-- A target's address. -/
def Tgt.addr : Tgt → Nat
  | .host _ a | .dev _ a | .self _ a => a
  | .bad _ => 0

/-- How a write of several pieces comes out: all of it written, stopped at a page whose translation is not there (R197), or failed
with a status. -/
inductive PutEnd where
  | all | page
  | fails (status : Nat)
deriving DecidableEq, Repr

/-- Bytes written at a target in ascending pieces that cross no boundary of the largest payload (R231): the bytes written, and how
it ends. A page that has no translation is asked for (R199); `n` bounds the pieces. -/
def State.putBytes (s : State) (c vc : Nat) (tg : Tgt) (bs : List Byte) : Nat → State × Nat × PutEnd
  | 0 => (s, 0, .all)
  | n + 1 =>
    if bs.isEmpty then (s, 0, .all)
    else
      let lim := match tg with | .dev node _ => s.mpsOf node | _ => 512
      let k := Nat.min bs.length (lim - tg.addr % lim)
      match (match tg with | .host f a => if s.hostOk f && !s.translated f a then some (f, a) else none | _ => none) with
      | some (f, a) => (s.askAts f a, 0, .page)
      | none => match s.putPiece c vc tg (bs.take k) with
        | (s1, some st) => (s1, 0, .fails st)
        | (s1, none) => let r := s1.putBytes c vc (tg.plus k) (bs.drop k) n; (r.1, k + r.2.1, r.2.2)

/-! ### Failure and end -/

/-- The group of a transfer: the one that admitted it, or its cluster's home group (R229, R234). -/
def Xfer.group (x : Xfer) : Nat := match x.mover with | some m => m.1 | none => x.ctx / 128 / 2

/-- A transfer's failure is recorded (R234, R265); `off` is the source offset of the failure where it is not that of the first byte
whose output has not been written. -/
def State.xferRecord (s : State) (k cause : Nat) (off : Option Nat := none) : State :=
  let x := s.xg k
  let g := x.group
  s.logFirst (Fld.xferLog.VALID g) (Fld.xferLog.OVF g)
    [(Fld.xferLog.CTX g, x.ctx), (Fld.xferLog.MOVER g, (x.mover.getD (0, 0)).2), (Fld.xferLog.CAUSE g, cause),
     (Fld.xferLog.OFFSET g, off.getD x.written), (Fld.xferLog.QUEUED g, b2n x.mover.isNone)]

/-- A transfer stops and its program ends (R234); `sel` is the selector of the range concerned (R204). -/
def State.xferFail (s : State) (k cause st : Nat) (sel : Nat := 0) (off : Option Nat := none) : State :=
  let x := s.xg k
  (s.xferRecord k cause off).autoEnd x.ctx st { sel := sel, residual := some x.residual }

/-- The descriptor of the range that a transfer reads now. -/
def Xfer.srcDesc (x : Xfer) : Desc := match x.links[x.linkIx]? with | some l => l.src | none => {}

/-- Its selector. -/
def Xfer.srcSel (x : Xfer) : Nat := x.srcDesc.sel

/-- An element put into a list before the first with a greater key. -/
def insBy {α : Type} (key : α → Nat) (a : α) : List α → List α
  | [] => [a]
  | b :: r => if key a < key b then a :: b :: r else b :: insBy key a r

/-- A list by rising keys. -/
def sortBy {α : Type} (key : α → Nat) (l : List α) : List α := l.foldr (insBy key) []

/-- One event stops several transfers (R234): each failure is recorded, and then their programs end, each with the status and the
residual of the transfer it issued first (R134). -/
def State.stopAll (s : State) (ks0 : List Nat) (cause st : Nat) (sel : Xfer → Nat) : State :=
  let ks := sortBy (fun k => (s.xg k).order) ks0
  forAll ks (fun t k =>
      let x := t.xg k
      if x.links.isEmpty then t else t.autoEnd x.ctx st { sel := sel x, residual := some x.residual })
    (forAll ks (fun t k => if (t.xg k).links.isEmpty then t else t.xferRecord k cause) s)

/-- The transfers with a property. -/
def State.xfersBy (s : State) (p : Xfer → Bool) : List Nat := (s.xfer.filter fun e => p e.2).map (·.1)

/-- The status that a cause of R234 gives. -/
def causeStatus (cause : Nat) : Nat :=
  match cause with | 4 => 0x31 | 5 => 0x21 | 6 => 0x23 | 10 => 0x22 | _ => 0x30

/-! ### Streams -/

/-- What the lane sampled. -/
def Xfer.laneIn (x : Xfer) : Lane :=
  { t := x.tsel, a1 := x.a1, a2 := x.a2, a3 := x.a3, key := x.key.map (·.toNat) }

/-- Numbers below 256 as bytes. -/
def nb (l : List Nat) : List Byte := l.map (BitVec.ofNat 8)
/-- Bytes as numbers. -/
def bn (l : List Byte) : List Nat := l.map (·.toNat)

/-- The bytes of all links received so far. -/
def Xfer.received (x : Xfer) : Nat := (x.links.take x.linkIx).foldl (fun a l => a + l.n) 0 + x.rd

/-- Every byte of every link is there, and no further link will come. -/
def Xfer.full (x : Xfer) : Bool := x.closed && x.received == x.total

/-- The link that holds an output position, with the position in it. -/
def findLink (t : Nat) : List Link → Nat → Option (Link × Nat)
  | [], _ => none
  | l :: r, p => if p < outLen t l.n then some (l, p) else findLink t r (p - outLen t l.n)

/-- The selector of the range that a transfer writes now. -/
def Xfer.dstSel (x : Xfer) : Nat :=
  match findLink x.tsel x.links x.outPos with | some (l, _) => l.dst.sel | none => 0

/-- Two ranges have a byte of the same memory in common. -/
def Tgt.meets (a : Tgt) (n : Nat) (b : Tgt) (m : Nat) : Bool :=
  let common (x y : Nat) : Bool := decide (x < y + m ∧ y < x + n)
  match a, b with
  | .host f x, .host g y => f == g && common x y
  | .dev p x, .dev q y => p == q && common x y
  | .self _ x, .self _ y => common x y
  | _, _ => false

/-- A source range and a destination range of a transfer overlap (R233). -/
def State.clash (s : State) (x : Xfer) : Bool :=
  x.links.any fun a => x.links.any fun b => !b.skip &&
    (s.target x.dom a.src a.sOff false).meets a.n (s.target x.dom b.dst b.dOff true) (outLen x.tsel b.n)

/-- Bytes that a write of a transfer puts at its destination: with overlapping ranges, free values (R233). -/
def State.putOut (s : State) (wild : Bool) (bs : List Byte) : List Byte :=
  if wild then (List.range bs.length).map (Config.freeMem s.freeCnt) else bs

/-- The free values of such a write are taken. -/
def State.putTaken (s : State) (wild : Bool) : State := if wild then s.takeFree else s

/-- Output bytes go to their places, link by link; skipped ones are discarded (R116, R231). `n` bounds the pieces. -/
def State.writeOut (s : State) (k : Nat) (bs : List Byte) : Nat → State × PutEnd
  | 0 => (s, .all)
  | n + 1 =>
    let x := s.xg k
    match bs, findLink x.tsel x.links x.outPos with
    | [], _ => (s, .all)
    | _, none => (s, .all)
    | _, some (l, p) =>
      let piece := bs.take (outLen x.tsel l.n - p)
      let moved (t : State) (m : Nat) : State :=
        t.setXf k { t.xg k with outPos := x.outPos + m, written := inLen x.tsel (x.outPos + m) }
      if l.skip then (moved s piece.length).writeOut k (bs.drop piece.length) n
      else
        let wild := s.clash x
        match (s.putTaken wild).putBytes x.ctx (if x.vc0 then 0 else 1) (s.target x.dom l.dst (l.dOff + p) true)
          (s.putOut wild piece) piece.length with
        | (s1, m, .all) => (moved s1 m).writeOut k (bs.drop piece.length) n
        | (s1, m, e) => (moved s1 m, e)

/-- The cause that XFER_LOG shows for a failed write (R234). -/
def putCause (st : Nat) : Nat := if st = 0x31 then 4 else 3

/-- What is fixed of the output is written; a failed PI check stops the transfer before its block (R234). Output whose page has no
translation waits (R197, R200). -/
def State.flush (s : State) (k : Nat) : State :=
  let x := s.xg k
  let plain := x.tsel == 0
  let r := if plain then (bn x.raw, none) else x.laneIn.out (x.full && !x.eod) (bn x.raw)
  let todo := if plain then x.raw else (nb r.1).drop x.outPos
  let w := s.writeOut k todo (todo.length + x.links.length)
  let y := w.1.xg k
  let s1 := w.1.setXf k { y with raw := if plain then x.raw.drop (y.outPos - x.outPos) else x.raw, stuck := w.2 == .page }
  match w.2 with
  | .fails st => s1.xferFail k (putCause st) st y.dstSel
  | .page => s1
  | .all => match r.2 with | some c => s1.xferFail k c 0x30 | none => s1

/-! ### STRIPE and GATHER: the descriptor (R249) -/

/-- A number in the descriptor. -/
def dfield (d : List Byte) (at_ lo w : Nat) : Nat := bitsOf (ofBytes ((d.drop at_).take 8)) lo w
/-- K. -/
def sK (d : List Byte) : Nat := dfield d 0 0 6
/-- M. -/
def sM (d : List Byte) : Nat := dfield d 0 8 4
/-- BSREG. -/
def sBsreg (d : List Byte) : Nat := dfield d 0 12 4
/-- TOL. -/
def sTol (d : List Byte) : Nat := dfield d 0 16 4
/-- VERIFY. -/
def sVerify (d : List Byte) : Bool := dfield d 0 20 1 == 1
/-- TSEL. -/
def sTsel (d : List Byte) : Nat := dfield d 0 32 32
/-- BOFF. -/
def sBoff (d : List Byte) : Nat := dfield d 8 0 64
/-- PORT of shard `i`. -/
def sPort (d : List Byte) (i : Nat) : Nat := dfield d (0x20 + 16 * i) 0 12
/-- PRESENT. -/
def sPresent (d : List Byte) (i : Nat) : Bool := dfield d (0x20 + 16 * i) 12 1 == 1
/-- REWRITE. -/
def sRewrite (d : List Byte) (i : Nat) : Bool := dfield d (0x20 + 16 * i) 13 1 == 1
/-- OFFSET. -/
def sOffset (d : List Byte) (i : Nat) : Nat := dfield d (0x28 + 16 * i) 0 48

/-- The length of a stored shard, S' (R250). A GATHER that takes the PI out of the shards finds it in them. -/
def storedLen (gather : Bool) (t n : Nat) : Nat :=
  if tPi t = 1 ∨ (gather ∧ (tPi t = 2 ∨ tPi t = 4)) then n / piBlk t * (piBlk t + piSz t) else n

/-- The bytes of each stored shard that a STRIPE writes. -/
def Xfer.shardLen (x : Xfer) : Nat := outLen x.tsel x.total

/-- The shards whose bytes a transfer reads: the data shards for STRIPE; for GATHER the `k` lowest present ones that
have not failed, or all of them under VERIFY (R253). -/
def Xfer.inUse (x : Xfer) (gather : Bool) (d : List Byte) : List Nat :=
  if gather then
    let av := (List.range (sK d + sM d)).filter fun i => sPresent d i && !x.failed.contains i
    if sVerify d then av else av.take (sK d)
  else List.range (sK d)

/-- The length of what is read of each shard. -/
def Xfer.readLen (x : Xfer) (gather : Bool) : Nat := if gather then storedLen true x.tsel x.total else x.total

/-- The bytes read of a shard. -/
def Xfer.got (x : Xfer) (i : Nat) : List Byte := SMap.get x.shards [] i

/-- The stored form of a data shard's first bytes (R250): PI inserted, then encrypted; and the cause of a failed PI check. -/
def Xfer.stored (x : Xfer) (j : Nat) (final : Bool) (bs : List Byte) : List Nat × Option Nat :=
  let l := x.laneIn.shard j x.total
  if final then l.out true (bn bs) else l.head (bn bs)

/-- The place of byte `p` of shard `i`: its node and address (R316). -/
def State.shardAt (s : State) (x : Xfer) (d : List Byte) (i p : Nat) : Tgt :=
  let port := sPort d i
  let a := s.get (Fld.dpData.DATA_BASE port) + sOffset d i + p
  let node := s.get (Fld.dpData.NODE port)
  if node = s.selfNode then .self (ownProgram x.dom) a else .dev node a

/-- The data buffer of a STRIPE or GATHER overlaps a stored shard (R233, R250). -/
def State.stripeClash (s : State) (x : Xfer) (gather : Bool) (d : List Byte) : Bool :=
  x.links.any fun l => (if gather then x.inUse true d else List.range (sK d + sM d)).any fun i =>
    (s.shardAt x d i 0).meets (storedLen gather x.tsel x.total) (s.target x.dom l.src l.sOff gather) (sK d * x.total)

/-- A shard fails (R252, R253): STRIPE goes on while TOL allows it; GATHER restarts with another present shard, or
ends with the status of the first failure; a rewrite target does not stop it. -/
def State.shardFail (s : State) (k i cause : Nat) (rewriteOnly : Bool) : State :=
  let x := s.xg k
  match x.stripe with
  | none => s
  | some (gather, d) =>
    if x.failed.contains i then s
    else
      let st := causeStatus cause
      let x1 := { x with failed := NSet.add x.failed i, firstFail := if x.firstFail = 0 then st else x.firstFail }
      let s1 := (s.xferRecord k cause (some (x.got i).length)).setXf k x1
      if rewriteOnly then s1
      else if gather then
        if (x1.inUse true d).length < sK d then s1.autoEnd x.ctx x1.firstFail { residual := some x.residual }
        else
          { s1.setXf k { x1 with
              shards := [], rdShard := 0, req := false, outPos := 0, mismatch := 0, written := 0, gw := [], stuck := false }
            with hreq := abandonH (fun p => p == .mover k) s1.hreq, txn := abandonT (fun p => p == .mover k) s1.txn }
      else if x1.failed.length > sTol d then s1.autoEnd x.ctx x1.firstFail { residual := some x.residual }
      else s1

/-- One row of a shard written; a failure marks the shard failed. -/
def State.putShard (s : State) (k i : Nat) (rewriteOnly : Bool) (p : Nat) (bs : List Byte) : State :=
  let x := s.xg k
  match x.stripe with
  | none => s
  | some (gather, d) =>
    let wild := s.stripeClash x gather d
    if x.failed.contains i then s
    else match (s.putTaken wild).putBytes x.ctx (if x.vc0 then 0 else 1) (s.shardAt x d i p) (s.putOut wild bs) bs.length with
      | (s1, _, .fails st) => s1.shardFail k i (putCause st) rewriteOnly
      | (s1, _, _) => s1

/-- The transfer is still the one that `x` was: it has neither ended nor, as a GATHER, started again. -/
def State.sameXf (s : State) (k : Nat) (x : Xfer) : Bool :=
  (s.xg k).links == x.links && (s.xg k).order == x.order && (s.xg k).outPos == x.outPos

/-- Row `p` to `p + n` of every shard of a STRIPE from the data shards' stored forms (R252). -/
def State.putRow (s : State) (k kk m p n : Nat) (st : List (List Nat)) : State :=
  let x := s.xg k
  let row := st.map fun l => (l.drop p).take n
  let s1 := forAll (List.range (kk + m)) (fun t i =>
    if t.sameXf k x then t.putShard k i false p (nb (if i < kk then row.getD i [] else rsShard kk i row)) else t) s
  if s1.sameXf k x then
    s1.setXf k { s1.xg k with outPos := p + n, written := Nat.min x.total (inLen x.tsel (p + n)) }
  else s1

/-- The rows of a STRIPE that are there are written one after the other, parity with each (R252); a failed PI check stops it before
its block. `n` bounds the rows. -/
def State.flushStripe (s : State) (k : Nat) : Nat → State
  | 0 => s
  | n + 1 =>
    let x := s.xg k
    match x.stripe with
    | none => s
    | some (_, d) =>
      let kk := sK d
      let fin := (List.range kk).all fun j => (x.got j).length == x.total
      let st := (List.range kk).map fun j => x.stored j fin (x.got j)
      let ready := st.foldl (fun m l => Nat.min m l.1.length) x.shardLen
      let upto := Nat.min ready (x.outPos + 64)
      if upto > x.outPos ∧ (upto = x.outPos + 64 ∨ fin) then
        let s1 := s.putRow k kk (sM d) x.outPos (upto - x.outPos) (st.map (·.1))
        if (s1.xg k).outPos = upto then s1.flushStripe k n else s1
      else match st.findSome? (·.2) with
        | some c => s.xferFail k c 0x30
        | none => s

/-- The first bytes of a GATHER's data shards in their stored form, rebuilt from what is in use. -/
def Xfer.rebuilt (x : Xfer) (d : List Byte) (n : Nat) : List (List Nat) :=
  rsSolve (sK d) (((x.inUse true d).take (sK d)).map fun i => (i, (bn (x.got i)).take n))

/-- What follows of data shard `j` from the rows rebuilt so far goes to the buffer (R253). -/
def State.gatherShard (s : State) (k j : Nat) (fin : Bool) (whole : List (List Nat)) : State :=
  let x := s.xg k
  match x.stripe with
  | none => s
  | some (_, d) =>
    let lane := x.laneIn.shard j x.total
    let o := if fin then lane.out true (whole.getD j []) else lane.head (whole.getD j [])
    let done := SMap.get x.gw 0 j
    let l := x.links.headD { skip := true, src := {}, sOff := 0, dst := {}, dOff := 0, n := 0 }
    let bs := nb (o.1.drop done)
    let wild := s.stripeClash x true d
    let r := (s.putTaken wild).putBytes x.ctx (if x.vc0 then 0 else 1)
      (s.target x.dom l.dst (l.dOff + j * x.total + done) true) (s.putOut wild bs) bs.length
    let y := r.1.xg k
    let gw := SMap.set y.gw 0 j (done + r.2.1)
    let s1 := r.1.setXf k { y with
      gw := gw, stuck := y.stuck || r.2.2 == .page
      written := (List.range (sK d)).foldl (fun m i => Nat.min m (SMap.get gw 0 i)) x.total }
    match r.2.2 with
    | .fails st => s1.xferFail k (putCause st) st l.dst.sel
    | .page => s1
    | .all => match o.2 with | some c => s1.xferFail k c 0x30 | none => s1

/-- The rows of a shard in which a present parity shard differs from the data: row `p` to `p + n` (R253). -/
def Xfer.rowBad (x : Xfer) (d : List Byte) (p n : Nat) (whole : List (List Nat)) : Bool :=
  let row := whole.map fun l => (l.drop p).take n
  sVerify d && (x.inUse true d).any fun i => decide (i ≥ sK d) && rsShard (sK d) i row != ((bn (x.got i)).drop p).take n

/-- The rows of a GATHER that are there are rebuilt one after the other: shards to be rewritten are written, and the buffer as far
as it follows from the rows (R253). `n` bounds the rows. -/
def State.flushGather (s : State) (k : Nat) : Nat → State
  | 0 => s
  | n + 1 =>
    let x := s.xg k
    match x.stripe with
    | none => s
    | some (_, d) =>
      let kk := sK d
      let len := x.readLen true
      let ready := (x.inUse true d).foldl (fun m i => Nat.min m (x.got i).length) len
      let upto := Nat.min ready (x.outPos + 64)
      let step := decide (upto > x.outPos) && (upto == x.outPos + 64 || ready == len) && !x.stuck
      if !step && !x.stuck then s
      else
        let upto := if step then upto else x.outPos
        let whole := x.rebuilt d upto
        let row := whole.map fun l => l.drop x.outPos
        let s1 := if step then forAll ((List.range (kk + sM d)).filter fun i => sRewrite d i) (fun t i =>
          t.putShard k i true x.outPos (nb (if i < kk then row.getD i [] else rsShard kk i row))) s else s
        let s2 := s1.setXf k { s1.xg k with
          outPos := upto, stuck := false
          mismatch := Nat.min 65535 (x.mismatch + b2n (step && x.rowBad d x.outPos (upto - x.outPos) whole)) }
        let y := s2.xg k
        let s3 := forAll (List.range kk) (fun t j => if t.sameXf k y then t.gatherShard k j (upto == len) whole else t) s2
        if step && s3.sameXf k y && !(s3.xg k).stuck then s3.flushGather k n else s3

/-- The output of a transfer that is there is written. -/
def State.flushOut (s : State) (k : Nat) : State :=
  let x := s.xg k
  match x.stripe with
  | none => s.flush k
  | some (true, _) => s.flushGather k (x.readLen true / 64 + 2)
  | some (false, _) => s.flushStripe k (x.shardLen / 64 + 2)

/-! ### Reading -/

/-- The next read of a transfer: where from, how many bytes, and the shard it belongs to. A request crosses no boundary of 512
bytes (R230), and one to a node none of its largest payload either. -/
def State.nextRead (s : State) (x : Xfer) : Option (Tgt × Nat × Nat) :=
  let cut (tg : Tgt) (n : Nat) : Nat := Nat.min n (512 - tg.addr % 512)
  if x.eod then none
  else match x.stripe with
  | none =>
    match x.links[x.linkIx]? with
    | none => none
    | some l =>
      if x.rd ≥ l.n then none
      else
        let tg := s.target x.dom l.src (l.sOff + x.rd) false
        some (tg, cut tg (l.n - x.rd), 0)
  | some (gather, d) =>
    let len := x.readLen gather
    let use := x.inUse gather d
    let m := use.foldl (fun m i => Nat.min m (x.got i).length) len
    match use.find? (fun i => (x.got i).length == m && decide (m < len)) with
    | none => none
    | some i =>
      let tg := if gather then s.shardAt x d i m
        else
          let l := x.links.headD { skip := true, src := {}, sOff := 0, dst := {}, dOff := 0, n := 0 }
          s.target x.dom l.src (l.sOff + i * x.total + m) false
      some (tg, cut tg (Nat.min (64 - m % 64) (len - m)), i)

/-- A link whose bytes have all been read gives way to the next one, if it has been issued (R115); `n` bounds the
links. -/
def Xfer.advance (x : Xfer) : Nat → Xfer
  | 0 => x
  | n + 1 =>
    match x.links[x.linkIx]? with
    | some l => if x.rd ≥ l.n ∧ x.linkIx + 1 < x.links.length then { x with rd := 0, linkIx := x.linkIx + 1 }.advance n else x
    | none => x

/-- A transfer's record with some more source bytes. -/
def Xfer.take (x : Xfer) (bs : List Byte) : Xfer :=
  match x.stripe with
  | none => { x with raw := x.raw ++ bs, rd := x.rd + bs.length, req := false }.advance x.links.length
  | some _ => { x with shards := SMap.set x.shards [] x.rdShard (x.got x.rdShard ++ bs), req := false }

/-- Bytes come in for a transfer: they are taken up and what is complete is written. -/
def State.feed (s : State) (k : Nat) (bs : List Byte) : State := (s.setXf k ((s.xg k).take bs)).flushOut k

/-- A source read fails: STRIPE and plain transfers stop before the first byte of the failed request, GATHER replaces the shard. -/
def State.readFail (s : State) (k cause st : Nat) : State :=
  let x := s.xg k
  match x.stripe with
  | some (true, _) => s.shardFail k x.rdShard cause false
  | some (false, _) => s.xferFail k cause st x.srcSel (some (x.got x.rdShard).length)
  | none => s.xferFail k cause st x.srcSel (some x.received)

/-- A transfer has a read to issue, now or once the one that is outstanding has returned. -/
def State.wantsRead (s : State) (x : Xfer) : Bool :=
  let y := if x.req then x.take (List.replicate x.rdN 0) else x
  (s.nextRead y).isSome && !(x.tsel != 0 && x.lane.isNone)

/-- A transfer that the same mover admitted earlier has a read to issue: a mover issues reads in admission order (R230). -/
def State.readsBehind (s : State) (x : Xfer) : Bool :=
  s.xfer.any fun e => e.2.mover == x.mover && decide (e.2.adm < x.adm) && s.wantsRead e.2

/-- The page of a read of host memory that has no translation yet (R197, R199). -/
def State.pageLacks (s : State) : Tgt → Bool
  | .host f a => s.hostOk f && !s.translated f a
  | _ => false

/-- A transfer goes on as far as it can without waiting: output that waited for a page is written, the next read is issued, and
what the device's own node answers is taken up at once; `n` bounds the reads. -/
def State.pump (s0 : State) (k : Nat) : Nat → State
  | 0 => s0
  | n + 1 =>
    let s := if (s0.xg k).stuck then s0.flushOut k else s0
    let x := s.xg k
    if x.links.isEmpty || x.req || x.stuck || x.mover.isNone || (x.tsel != 0 && x.lane.isNone) || s.readsBehind x then s
    else match s.nextRead x with
      | none => s
      | some (tg, len, sh) =>
        if s.pageLacks tg then (match tg with | .host f a => s.askAts f a | _ => s)
        else
          let s1 := s.setXf k { x with rdN := len, rdShard := sh, req := true }
          let vc := if x.vc0 then 0 else 1
          match tg with
          | .host f a => s1.hostRead (.mover k) f .io a len vc (x.srcDesc)
          | .dev node a =>
            match s.devDead node a len with
            | some st => s1.readFail k (if st = 0x31 then 4 else 1) st
            | none =>
              match s1.request (.mover k) (mrdPkt node a len vc false) len (s.portRef node a len) true s.tmoNow x.srcDesc with
              | some (s2, _) => s2
              | none => s
          | .self req a =>
            match s1.selfAcc req s.selfNode a len none with
            | .ok bs s2 => (s2.feed k bs).pump k n
            | .refused s2 => s2.readFail k 1 0x21
            | .devErr s2 => s2.readFail k 1 0x30
            | .outside => s1.readFail k 1 0x30
          | .bad st => s1.readFail k 1 st

/-- The bound on the reads that `pump` may take up at once. -/
def Xfer.bound (x : Xfer) : Nat := 64 * (x.total + 2)

/-- The transfers in a mover, in admission order. -/
def State.inMover (s : State) (m : Option (Nat × Nat)) : List Nat :=
  (sortBy (fun e => e.2.adm) (s.xfer.filter fun e => e.2.mover == m)).map (·.1)

/-- A transfer goes on, and after it the others of its mover, whose reads may have waited for its own. -/
def State.goXf (s : State) (k : Nat) : State :=
  let m := (s.xg k).mover
  let s1 := s.pump k (s.xg k).bound
  if m.isNone then s1 else forAll (s1.inMover m) (fun t j => t.pump j (t.xg j).bound) s1

/-- Every admitted transfer that waits goes on. -/
def State.goAll (s : State) : State := forAll (s.xfer.map (·.1)) State.goXf s

/-- The transfers that have something to do now: output whose page has its translation, or a read. -/
def State.canGo (s : State) : List Nat :=
  (s.xfer.filter fun e =>
    let x := e.2
    !x.links.isEmpty && x.mover.isSome && (x.stuck ||
      (!x.req && !(x.tsel != 0 && x.lane.isNone) && !s.readsBehind x &&
        (match s.nextRead x with | some (tg, _, _) => !s.pageLacks tg | none => false)))).map (·.1)

/-- The source port signals the end of its data: the bytes before it are taken up, nothing more is read (R303). -/
def State.endOfData (s : State) (k : Nat) (bs : List Byte) : State :=
  let s1 := s.setXf k { s.xg k with eod := true }
  s1.feed k bs

/-- A transfer has nothing left to read or write (R231). -/
def Xfer.finished (x : Xfer) : Bool :=
  x.closed && !x.req && !x.stuck && x.mover.isSome &&
    match x.stripe with
    | none => x.eod || x.received == x.total
    | some (g, _) => x.eod || x.outPos == (if g then x.readLen true else x.shardLen)

/-! ### The checks at the end of a stream (R240, R243, R244) -/

/-- The bytes that reach the cipher stage of a stream of `n` source bytes. -/
def cipherIn (t n : Nat) : Nat := if tCiph t = 1 ∨ tCiph t = 3 then outLen t n else n

/-- The length checks of R243 and R244 on a stream that ends after `n` source bytes. -/
def endLenBad (t a2 n : Nat) : Bool :=
  let m := cipherIn t n
  let aad := bitsOf a2 32 16
  match tCiph t with
  | 0 => false
  | 1 | 2 => decide (m % duSz t ≠ 0 ∧ m % duSz t < 16)
  | _ => decide (m < aad ∨ m - aad > 2 ^ 36 - 32)

/-- The check of the result bytes behind the last link (R240). -/
def resultCheck (t : Nat) (l : Link) : Option Nat :=
  let n := resultLen t
  if n = 0 then none
  else if tRdst t = 1 then (if l.skip then some 0x13 else segCheck l.dst .w l.dOff (outSpan t l.n + n))
  else segCheck l.src .w l.sOff (l.n + n)

/-- The checks made when POST, HALT or WAITX closes an open chain. -/
def Xfer.closeCheck (x : Xfer) : Option Nat :=
  match x.links.getLast? with
  | none => none
  | some l =>
    match resultCheck x.tsel l with
    | some st => some st
    | none => if endLenBad x.tsel x.a2 x.total then some 0x12 else none

/-- The chain that a context has open, by its slot: its transfer is there and not closed. -/
def State.openChain (s : State) (c : Nat) : Option (Nat × Xfer) :=
  match (s.cx c).regs.chainOpen with
  | none => none
  | some sl => match s.xf (4 * c + sl) with
    | some x => if x.closed then none else some (sl, x)
    | none => none

/-- POST, HALT and WAITX close an open data chain after the last link issued (R115). -/
def State.closeChain (s : State) (c : Nat) : State :=
  let s1 := s.updCx c fun x => x.upd fun r => { r with chainOpen := none }
  match s.openChain c with
  | none => s1
  | some (sl, x) => ((s1.setXf (4 * c + sl) { x with closed := true }).flush (4 * c + sl)).goXf (4 * c + sl)

/-- The status with which such a close fails. -/
def State.closeStatus (s : State) (c : Nat) : Option Nat := (s.openChain c).bind fun e => e.2.closeCheck

/-! ### The end of a transfer (R104, R118, R239, R240, R254) -/

/-- Writes of a transfer into its accumulator reach the copies in checkpoints too: its outcome is kept by a squash
(R211). -/
def Ctx.keepPiece (x : Ctx) (n k : Nat) (v : Word) : Ctx :=
  { x.setPiece n k v with
    ckpts := x.ckpts.map fun ck => { ck with saved := { ck.saved with acc := SMap.set ck.saved.acc 0 (4 * n + k) v } } }

/-- The outputs in the accumulator (R239, R254). -/
def Xfer.outputs (x : Xfer) (c : Ctx) : Ctx :=
  let n := tAcc x.tsel
  let l := x.laneIn
  match x.stripe with
  | none =>
    let fin := x.full && !x.eod
    let c1 := if tCrc x.tsel = 0 then c else c.keepPiece n 0 (BitVec.ofNat 64 (l.crc fin (bn x.raw)))
    if tCiph x.tsel < 3 then c1
    else
      let tag := l.tag (bn x.raw)
      (c1.keepPiece n 2 (BitVec.ofNat 64 (leN (tag.take 8)))).keepPiece n 3 (BitVec.ofNat 64 (leN (tag.drop 8)))
  | some (gather, d) =>
    let kk := sK d
    let buf := if gather then
        let whole := x.rebuilt d x.outPos
        ((List.range kk).map fun j => ((l.shard j x.total).out (x.outPos == x.readLen true) (whole.getD j [])).1).flatten
      else ((List.range kk).map fun j => bn ((x.got j).take (if x.eod then x.written else x.total))).flatten
    let c1 := if tCrc x.tsel = 0 then c else c.keepPiece n 0 (BitVec.ofNat 64 (crcOf x.tsel buf))
    c1.keepPiece n 3 (BitVec.ofNat 64 (x.failed.foldl (fun a i => a + 2 ^ i) 0 + x.mismatch * 2 ^ 48))

/-- Where the results of RDST go (R240): after the last link's destination or source range. -/
def State.resultAt (s : State) (x : Xfer) : Option Tgt :=
  match x.links.getLast? with
  | none => none
  | some l =>
    if tRdst x.tsel = 1 then some (s.target x.dom l.dst (l.dOff + outLen x.tsel l.n) true)
    else if tRdst x.tsel = 2 then some (s.target x.dom l.src (l.sOff + l.n) true)
    else none

/-- The selector of the range that the results go behind. -/
def Xfer.resultSel (x : Xfer) : Nat :=
  match x.links.getLast? with
  | none => 0
  | some l => if tRdst x.tsel = 1 then l.dst.sel else l.src.sel

/-- An address of host memory whose page has no translation: function, address, with a source offset and a selector. -/
def State.lacks (s : State) (t : Tgt) (off sel : Nat) : List (Nat × Nat × Nat × Nat) :=
  match t with
  | .host f a => if s.translated f a then [] else [(f, a, off, sel)]
  | _ => []

/-- The places in host memory that a transfer's output waits to write. -/
def State.outNeeds (s : State) (x : Xfer) : List (Nat × Nat × Nat × Nat) :=
  match x.stripe with
  | none => match findLink x.tsel x.links x.outPos with
    | some (l, p) => s.lacks (s.target x.dom l.dst (l.dOff + p) true) x.written l.dst.sel
    | none => []
  | some (_, d) =>
    let l := x.links.headD { skip := true, src := {}, sOff := 0, dst := {}, dOff := 0, n := 0 }
    (List.range (sK d)).flatMap fun j =>
      let o := SMap.get x.gw 0 j
      s.lacks (s.target x.dom l.dst (l.dOff + j * x.total + o) true) o l.dst.sel

/-- The pages that a transfer waits for, each as an address in it: of its output, of its next read, or of the results behind its
last link (R197). -/
def State.xferNeeds (s : State) (k : Nat) : List (Nat × Nat × Nat × Nat) :=
  let x := s.xg k
  if x.links.isEmpty || x.mover.isNone then []
  else if x.stuck then s.outNeeds x
  else if x.finished then match s.resultAt x with
    | some t => s.lacks (t.plus (SMap.get x.gw 0 0)) x.written x.resultSel
    | none => []
  else if x.req then []
  else match s.nextRead x with
    | some (t, _, _) => s.lacks t x.received x.srcSel
    | none => []

/-- A transfer ends: its results and outputs are written, its slot and lane are free, its residual and whether it
was short are kept for WAITX, HALT and the completion entry. Results whose page has no translation wait for it (R197). -/
def State.endXfer (s0 : State) (k : Nat) : State :=
  let x := s0.xg k
  let r := match s0.resultAt x with
    | none => (s0, PutEnd.all)
    | some tg =>
      let bs := (nb (x.laneIn.results (x.full && !x.eod) (bn x.raw))).drop (SMap.get x.gw 0 0)
      let r := s0.putBytes x.ctx (if x.vc0 then 0 else 1) (tg.plus (SMap.get x.gw 0 0)) bs bs.length
      (r.1.setXf k { r.1.xg k with gw := SMap.set x.gw 0 0 (SMap.get x.gw 0 0 + r.2.1) }, r.2.2)
  match r with
  | (s, .fails st) => s.xferFail k (putCause st) st (x.resultSel)
  | (s, .page) => s
  | (s, .all) =>
    let short := x.residual != 0 || !x.failed.isEmpty || x.mismatch != 0
    (s.dropXfer k).updCx x.ctx fun c =>
      let c1 := if x.tsel = 0 && x.stripe.isNone then c else x.outputs c
      let c2 := { c1 with
        slots := NSet.del c1.slots x.slot
        shortAny := c1.shortAny || short
        ckpts := c1.ckpts.map fun ck => { ck with shortAny := ck.shortAny || short } }
      if c2.lastXfer == some x.slot then
        { c2 with lastXfer := none, residual := x.residual, lastShort := short }
      else c2

end Sys2Proof.Machine
end

