-- ==== Sys2Proof/Machine/StripeOps.lean ====
section
/-!
DEFINITION. How a transfer starts: its key, its slot and its place in the queue (R114, R229, R235, R245); and how STRIPE and GATHER
read their descriptor and check it (R249 to R251).
-/

namespace Sys2Proof.Machine

/-- The key check at the start of a stream (R245). -/
def State.keyCheck (s : State) (dom t : Nat) : Option Nat :=
  if tCiph t = 0 then none
  else
    let k := SMap.get s.keys {} (tKey t)
    if !k.valid || k.gcm != decide (tCiph t ≥ 3) then some 0x22
    else if k.dom ≠ dom then some 0x21
    else none

/-- The key that a lane copies. -/
def State.keyBytes (s : State) (t : Nat) : List Byte :=
  if tCiph t = 0 then [] else (SMap.get s.keys {} (tKey t)).key

/-- The lowest free transfer slot of a context (R114). -/
def Ctx.freeSlot (x : Ctx) : Option Nat := (List.range 4).find? fun i => !x.slots.contains i

/-- A transfer takes its place in its cluster's queue (R229); the group's clock starts (R235). -/
def State.enqueue (s : State) (k : Nat) (x : Xfer) : State :=
  let cl := x.ctx / 128
  { s.setXf k { x with order := s.xferNext } with
    xferNext := s.xferNext + 1
    xq := SMap.set s.xq [] cl (SMap.get s.xq [] cl ++ [k]) }.clockGrp (cl / 2)

/-- The first link of a stream issues in a free slot. -/
def State.startXfer (s : State) (c t : Nat) (king dc : Bool) (l : Link) (sl : Nat) : State :=
  let x := s.cx c
  let a := tAcc t
  let e : Xfer :=
    { ctx := c, slot := sl, dom := x.pdom, func := s.domFunc x.pdom, links := [l], closed := !dc, tsel := t
      a1 := (x.piece a 1).toNat, a2 := (x.piece a 2).toNat, a3 := (x.piece a 3).toNat, key := s.keyBytes t
      vc0 := s.devVc c king == 0 }
  (s.enqueue (4 * c + sl) e).updCx c fun y =>
    { y with slots := NSet.add y.slots sl, lastXfer := some sl
             regs := { y.regs with chainOpen := if dc then some sl else none } }

/-- The reserved bits of a stripe descriptor of `n` shards are 0 (R249). -/
def stripeReserved (d : List Byte) (n : Nat) : Bool :=
  dfield d 0 6 2 == 0 && dfield d 0 21 11 == 0 && dfield d 0x10 0 64 == 0 && dfield d 0x18 0 64 == 0 &&
    (List.range n).all fun i => dfield d (0x20 + 16 * i) 14 50 == 0 && dfield d (0x28 + 16 * i) 48 16 == 0

/-- Step 2 of R251, with the present shards that R253 asks for. A selector that R237 leaves undefined is among the bad fields
(log entry 60). -/
def stripeFields (gather : Bool) (d : List Byte) : Bool :=
  let k := sK d
  let m := sM d
  let t := sTsel d
  decide (1 ≤ k ∧ k ≤ 32 ∧ m ≤ 8 ∧ k + m ≤ 40 ∧ sTol d ≤ m) && stripeReserved d (k + m) && (gather || !sVerify d) &&
    tselOk t && decide (tCiph t < 3) && tRdst t == 0 && tCrco t == 0 &&
    (!gather || decide (((List.range (k + m)).filter (sPresent d)).length ≥ k))

/-- The buffer check of step 3; a buffer of no bytes has no byte outside its segment. -/
def bufCheck (g : Desc) (need : Right) (o n : Nat) : Option Nat :=
  if n = 0 then segCheck { g with limit := o + 1 } need o 1 else segCheck g need o n

/-- Step 4 of R251: the status and the port of the first shard that fails. -/
def State.shardPorts (s : State) (dom : Nat) (gather : Bool) (d : List Byte) (size : Nat) : Option (Nat × Nat) :=
  (List.range (sK d + sM d)).findSome? fun i =>
    if gather && !sPresent d i && !sRewrite d i then none
    else
      let p := sPort d i
      if !s.on (Fld.dpData.VALID p) then some (0x22, p)
      else if s.get (Fld.dpData.PDOM p) ≠ dom then some (0x21, p)
      else if s.on (Fld.dpData.REMOVED p) then some (0x31, p)
      else if sOffset d i + storedLen gather (sTsel d) size > s.get (Fld.dpData.DATA_LIMIT p) then some (0x20, p)
      else none

/-- Step 6 of R251: the shard length is out of range or not a multiple. -/
def stripeSizeBad (t size : Nat) : Bool :=
  decide (size ≥ 2 ^ 40 ∨ size % 64 ≠ 0 ∨ (tPi t ≠ 0 ∧ size % piBlk t ≠ 0) ∨ (tCiph t ≠ 0 ∧ size % duSz t ≠ 0))

/-- The whole descriptor is there: the checks of R251 from step 2 on, and the start of the transfer. -/
def State.stripeStart (s : State) (c : Nat) (h : Hdr) (gather : Bool) (size : Nat) (d : List Byte) : State :=
  let x := s.cx c
  let t := sTsel d
  let g := x.sreg (sBsreg d)
  let l : Link := { skip := false, src := g, sOff := sBoff d, dst := g, dOff := sBoff d, n := size }
  if !stripeFields gather d then s.autoEnd c 0x13
  else match bufCheck g (if gather then .w else .r) (sBoff d) (sK d * size) with
  | some st => s.autoEnd c st { sel := g.sel }
  | none => match s.shardPorts x.pdom gather d size with
    | some (st, p) => s.autoEnd c st { sel := p, port := true }
    | none => match s.keyCheck x.pdom t with
      | some st => s.autoEnd c st
      | none =>
        if size = 0 then s.updCx c fun y => y.retire h
        else if stripeSizeBad t size then s.autoEnd c 0x12
        else match x.freeSlot with
          | none => s
          | some sl =>
            let open_ := x.regs.chainOpen
            let s1 := s.startXfer c t h.king false l sl
            ((s1.setXf (4 * c + sl) { s1.xg (4 * c + sl) with stripe := some (gather, d) }).updCx c fun y =>
              y.upd fun r => { r with chainOpen := open_ }).updCx c fun y => y.retire h

/-- A part of a descriptor is read: now, later, or with the status of its failure. -/
inductive DescRead where
  | now (bs : List Byte) (s : State)
  | later (s : State)
  | busy
  | fails (status : Nat) (s : State)

/-- The engine reads up to `most` bytes of a descriptor at an offset, none across a boundary of 512 bytes (R249, R299). -/
def State.descRead (s : State) (c : Nat) (g : Desc) (off most : Nat) : DescRead :=
  let tg := s.target (s.cx c).pdom g off false
  let n := Nat.min most (512 - tg.addr % 512)
  match tg with
  | .bad st => .fails st s
  | .host f a => .later (s.hostRead (.desc c) f .io a n (s.memVc c) g)
  | .self req a => match s.selfAcc req s.selfNode a n none with
    | .ok bs s1 => .now bs s1
    | .refused s1 => .fails 0x21 s1
    | .devErr s1 => .fails 0x30 s1
    | .outside => .fails 0x30 s
  | .dev node a => match s.devDead node a n with
    | some st => .fails st s
    | none => match s.request (.desc c) (mrdPkt node a n (s.memVc c) false) n (s.portRef node a n) true s.tmoNow g with
      | some (s1, _) => .later s1
      | none => .busy

/-- The bytes of a descriptor after its first 32. -/
def restLen (hdr : List Byte) : Nat := 16 * (sK hdr + sM hdr)

/-- The length of a descriptor as far as the bytes that are there tell it. -/
def descLen (d : List Byte) : Nat := if d.length < 32 then 32 else 32 + restLen d

/-- A read of a context's descriptor is outstanding. -/
def State.descOut (s : State) (c : Nat) : Bool :=
  s.hreq.any (fun e => e.2.purp == .desc c) || s.txn.any fun e => e.2.purp == .desc c

/-- The status and the selector with which a descriptor's header ends the instruction (R251, steps 1 and 2). -/
def descBad (g : Desc) (off : Nat) (d : List Byte) : Option (Nat × Nat) :=
  if d.length < 32 then none
  else match segCheck g .r off (descLen d) with
    | some st => some (st, g.sel)
    | none => if sK d = 0 ∨ sK d > 32 ∨ sK d + sM d > 40 then some (0x13, 0) else none

/-- A STRIPE or GATHER that reads its descriptor goes on: the header first, whose K and M give the length, then the rest; once all
of it is there the transfer starts, after an earlier one that owns the accumulator has ended (R239, R249, R251). `n` bounds the
reads that are answered at once. -/
def State.descGo (s : State) (c : Nat) : Nat → State
  | 0 => s
  | n + 1 =>
    match (s.cx c).wait with
    | .stripe h gather g off size d =>
      if s.descOut c then s
      else match descBad g off d with
        | some (st, sel) => s.autoEnd c st { sel := sel }
        | none =>
          if d.length ≥ descLen d then (if s.pendAcc c (tAcc (sTsel d)) then s else s.stripeStart c h gather size d)
          else match s.descRead c g (off + d.length) (descLen d - d.length) with
            | .fails st s1 => s1.autoEnd c st { sel := g.sel }
            | .later s1 => s1
            | .now bs s1 => (s1.updCx c fun x => { x with wait := .stripe h gather g off size (d ++ bs) }).descGo c n
            | .busy => s
    | _ => s

/-- Bytes of a descriptor have come to a context that waits for them. -/
def State.descData (s : State) (c : Nat) (bs : List Byte) : State :=
  (s.updCx c fun x => match x.wait with
    | .stripe h gather g off size d => { x with wait := .stripe h gather g off size (d ++ bs) }
    | _ => x).descGo c 8

end Sys2Proof.Machine
end

