-- ==== Sys2Proof/Machine/RunOps.lean ====
section
/-!
DEFINITION. How a context that waits goes on: parking (R121), the waits of POST, HALT, WAITX, WAITC and DCMD (R100,
R101, R110 to R113, R118), the chain, the resolution of predictions (R208, R220) and the removal of a device port (R318).
-/

namespace Sys2Proof.Machine

/-! ### Waits and predictions (R206 to R211) -/

/-- A wait of an instruction of R207. -/
def Wait.counted : Wait → Bool
  | .bit _ a .. => decide (0x200 ≤ a ∧ a < 0x400 ∨ 0x1000 ≤ a ∧ a < 0x2000)
  | .dcmd .. | .waitc .. | .drd .. => true
  | _ => false

/-- A WAITB, TWAITB, DCMD, WAITC or DRD waits: an instruction of R207 counts in the history when its program is eligible (R206,
R208). -/
def State.beginWait (s : State) (c : Nat) (w : Wait) (lock : Bool) (sp : Spec) : State :=
  s.updCx c fun y => { y with wait := w, waitLock := lock, waitSpec := sp, elig := w.counted && s.eligible c, outlast := false }

/-- A site counter's half: at least 2 predicts the satisfied outcome (R207). -/
def State.siteHigh (s : State) (c : Nat) : Bool :=
  let x := s.cx c
  decide (s.site (clusterOf c) x.qid (siteOf x.regs.cpc.off) ≥ 2)

/-- A prediction may be made at this instruction (R206, R207, R210, R186). -/
def State.mayPredict (s : State) (c : Nat) (sp : Spec) : Bool :=
  let x := s.cx c
  s.eligible c && sp != .nospec && x.seqCount.isNone &&
    decide (x.ckpts.length < s.get (Fld.gbtCtl.MAX_CKPT (clusterOf c)) + 1)

/-- The satisfied outcome, success or the known value is predicted (R207). -/
def State.predicts (s : State) (c : Nat) (sp : Spec) : Bool := s.mayPredict c sp && (s.siteHigh c || sp == .spec)

/-- The instruction that waits opens a checkpoint with a predicted outcome, and the path goes on after it. `go` is what
the context is like once the instruction has completed with that outcome. -/
def State.openCkpt (s : State) (c : Nat) (w : Wait) (lock : Bool) (pred : Resolved) (go : Ctx → Ctx) : State :=
  let x := s.cx c
  let cl := clusterOf c
  let k : Ckpt :=
    { saved := x.regs, loads := x.loads, fails := x.fails, wait := w, lock := lock, predicted := pred, outcome := none
      site := x.regs.cpc.off, horizon := s.get (Fld.gbtCtl.HORIZON cl), quota := s.get (Fld.gbtCtl.CB_QUOTA cl)
      margin := s.get (Fld.gbtCtl.ALLOC_MARGIN cl), verify := [], segs := [], allocs := [], shortAny := x.shortAny }
  (s.updCx c fun y => go { y with ckpts := y.ckpts ++ [k], waitLock := lock }).inc (Fld.gbtCnt0.OPENED cl)

/-- A device command has been sent: its success is predicted, or it is awaited (R110, R207). -/
def State.dcmdSent (s : State) (c len d port : Nat) (word : Word) (king : Bool) (tag : Nat) (lock : Bool) (sp : Spec) : State :=
  let w : Wait := .dcmd len d port word king (some tag)
  if s.predicts c sp then s.openCkpt c w lock (.dcmd 0) fun y => ((y.setD d 0).setZ true).retireAt len lock
  else s.beginWait c w lock sp

/-! ### Parking -/

/-- A context that waits at a suspend point parks while SUSP_REQ is 1, outside a locked sequence and outside
speculation (R121). -/
def State.parks (s : State) (c : Nat) : Bool :=
  let x := s.cx c
  (match x.wait with | .bit .. => true | _ => false) &&
    s.on (Fld.qctx.SUSP_REQ x.qid) && x.seqCount.isNone && x.ckpts.isEmpty && x.squash.isNone && x.live

/-- A context parks (R121). -/
def State.park (s : State) (c : Nat) : State := (s.updCx c fun x => { x with parked := true }).qUpdate (s.cx c).qid

/-- A context parks where it is to. -/
def State.parkCheck (s : State) (c : Nat) : State := if s.parks c then s.park c else s

/-! ### The chain -/

/-- A port serves a binding: it is valid, not removed, and of the recorded generation (R313). -/
def State.portLive (s : State) (p gen : Nat) : Bool :=
  s.on (Fld.dpData.VALID p) && !s.on (Fld.dpData.REMOVED p) && s.get (Fld.dpData.GEN p) == gen

/-- The register window's base of a port. -/
def State.regBase (s : State) (p : Nat) : Nat := s.get (Fld.dpData.REG_BASE p)

/-- The device command packet (R299, R316). -/
def State.dcmdPkt (s : State) (p : Nat) (word : Word) (king locked : Bool) : Pkt :=
  { type := 0x62, vc := if king then 0 else 1, locked := locked, dst := s.get (Fld.dpData.NODE p), src := 0,
    addr := s.regBase p / 4, len := 2, fbe := 15, lbe := 15, data := toBytes 8 word.toNat }

/-- A device command is issued for a purpose; the answer is the state in which it is on its way and its tag, or the
status that ends the program, or nothing while no tag is free. -/
inductive Sent where
  | sent (s : State) (tag : Nat)
  | dead (status : Nat)
  | later

/-- A request to a port's node (R316). -/
def State.portReq (s : State) (p gen : Nat) (purp : Purpose) (pk : Pkt) (n : Nat) : Sent :=
  if !s.portLive p gen then .dead 0x31
  else if !s.reachable pk.dst then .dead 0x31
  else match s.request purp pk n (some (p, gen)) true s.tmoNow with
    | some (s1, tag) => .sent s1 tag
    | none => .later

/-- The arbiter of a port's PLU grants another context alone now (R86). -/
def State.portHeld (s : State) (c p : Nat) : Bool :=
  match s.portRes p with | some r => s.lockedByOther c r | none => false

/-- Each port's first unsent chained command goes out once no earlier one of that port is outstanding (R111). -/
def State.sendChain (s : State) (c : Nat) : State :=
  let x := s.cx c
  let step (t : State) (e : Chained) : State :=
    let now := (t.cx c).chain
    if !(t.cx c).live ∨ e.sent.isSome ∨ now.any (fun o => o.port == e.port && decide (o.pos < e.pos)) ∨ t.portHeld c e.port then t
    else match t.portReq e.port e.gen (.chain c e.pos) (t.dcmdPkt e.port e.word e.king false) 0 with
      | .sent t1 tag => t1.updCx c fun y =>
          { y with chain := y.chain.map fun o => if o.pos == e.pos then { o with sent := some tag } else o }
      | .dead st => t.autoEnd c st { sel := e.port, port := true }
      | .later => t
  forAll x.chain step s

/-! ### Waits that end by what the context itself has outstanding -/

/-- POST hands in its entry and retires (R100); a failure no WAITC has examined ends the program with 0x30 (R105). -/
def State.postNow (s : State) (c len status : Nat) (result : Word) : State :=
  let x := s.cx c
  if !x.fails.isEmpty then s.autoEnd c 0x30
  else (s.handCpl (s.cplOf c status false result (s.residualOf c))).updCx c fun y =>
    { y with posted := true }.retireAt len false

/-- HALT writes an entry if the program has not posted, and frees the context (R101). -/
def State.haltNow (s : State) (c : Nat) : State :=
  let x := s.cx c
  if !x.fails.isEmpty then s.autoEnd c 0x30
  else
    let s1 := if x.posted then s
      else s.handCpl { s.cplOf c (if x.lastShort then 1 else 0) true 0 (s.residualOf c) with auto := true }
    (s1.freeCtx c false).endLeave x

/-- WAITX ends: the residual, and Z (R118). -/
def State.waitxNow (s : State) (c len d : Nat) : State :=
  s.updCx c fun y =>
    let z := !y.shortAny
    (({ y with shortAny := false }.setD d (BitVec.ofNat 64 y.residual)).setZ z).retireAt len false

/-- The word WAITC writes after a failure (R113). -/
def failWord (fs : List ChainFail) : Word :=
  match fs.foldl (fun b f => match b with | some g => if f.pos < g.pos then some f else b | none => some f)
      (none : Option ChainFail) with
  | none => 0
  | some f => BitVec.ofNat 64 (f.status % 2 ^ 32 + f.port % 2 ^ 12 * 2 ^ 32 + f.pos % 16 * 2 ^ 48
      + fs.foldl (fun a g => a + g.dropped) 0 % 2 ^ 12 * 2 ^ 52)

/-- WAITC ends: Z, and after a failure the D register; the chain starts anew (R112, R113). -/
def State.waitcNow (s : State) (c len d : Nat) : State :=
  s.updCx c fun y =>
    let y1 := { y with fails := [] }.upd fun r => { r with chainPos := 0 }
    let y2 := if y.fails.isEmpty then y1.setZ true else (y1.setD d (failWord y.fails)).setZ false
    y2.retireAt len false

/-- A history counter moves by a resolution of a wait, in an eligible program (R208). -/
def State.hist (s : State) (c off : Nat) (up : Bool) : State :=
  if (s.cx c).elig then s.histMove (clusterOf c) (s.cx c).qid (siteOf off) up else s

/-- Nothing is outstanding that POST and HALT wait for (R100). -/
def Ctx.quiet (x : Ctx) : Bool := x.slots.isEmpty && x.chain.isEmpty && x.loads.isEmpty

/-- WAITX outside speculation closes an open chain (R115) and ends once every slot is free (R118). On a speculative path, where
the data-chain state is to come back with a squash (R211), a chain stays open, and its slot is not free. -/
def State.waitxGo (s : State) (c len d : Nat) : State :=
  let s1 := if (s.cx c).speculating then s else s.closeChain c
  match (s1.cx c).wait with
  | .waitx .. => if (s1.cx c).slots.isEmpty then s1.waitxNow c len d else s1
  | _ => s1

/-- A context goes on with a wait that is over. A failure that no WAITC has examined ends the program at once at POST or HALT
(R105). -/
def State.kick (s0 : State) (c : Nat) : State :=
  let s := s0.sendChain c
  let x := s.cx c
  if !x.live || x.squash.isSome then s
  else match x.wait with
    | .post len st r => if !x.fails.isEmpty then s.autoEnd c 0x30 else if x.quiet then s.postNow c len st r else s
    | .halt => if !x.fails.isEmpty then s.autoEnd c 0x30 else if x.quiet then s.haltNow c else s
    | .waitx len d => s.waitxGo c len d
    | .waitc len d =>
      if x.chain.isEmpty then (s.hist c x.regs.cpc.off x.fails.isEmpty).waitcNow c len d else s
    | .dcmd len d port word king none =>
      if x.chain.any (·.port == port) ∨ s.portHeld c port then s
      else
        let gen := match x.regs.bound with | some b => b.2 | none => 0
        match s.portReq port gen (.dcmd c) (s.dcmdPkt port word king x.seqCount.isSome) 0 with
        | .sent s1 tag => s1.dcmdSent c len d port word king tag x.waitLock x.waitSpec
        | .dead st => s.autoEnd c st { sel := port, port := true }
        | .later => s
    | .stripe .. => s.descGo c 8
    | _ => s

/-- Every live context goes on where it can, and every transfer. -/
def State.kickAll (s : State) : State := (forAll s.liveCtx State.kick s).goAll

/-! ### Resolution of waits and predictions -/

/-- The value buffer takes a DRD response (R209): four entries, least recently used out. -/
def Ctx.remember (x : Ctx) (port ix : Nat) (v : Word) : Ctx :=
  { x with vbuf := (port, ix, v) :: (x.vbuf.filter fun e => !(e.1 == port && e.2.1 == ix)).take 3 }

/-- The wait of a context ends with an outcome, and its instruction completes (R110, R119, R109, R224). -/
def State.finishWait (s : State) (c : Nat) (r : Resolved) : State :=
  let x := s.cx c
  match x.wait, r with
  | .bit len _ _ strict _, .bit sat =>
    if strict then
      if sat then s.updCx c fun y => y.retireAt len y.waitLock else s.autoEnd c 0x41
    else s.updCx c fun y => (y.setZ sat).retireAt len y.waitLock
  | .dcmd len d .., .dcmd st =>
    s.updCx c fun y => ((y.setD d (BitVec.ofNat 64 (st % 2 ^ 32))).setZ (decide (st = 0))).retireAt len y.waitLock
  | .drd len d _ _ _, .drd v => s.updCx c fun y => (y.setD d v).retireAt len y.waitLock
  | .waitc len d, .waitc _ => s.waitcNow c len d
  | _, _ => s

/-- A wait that is not predicted resolves: the history moves and the instruction completes, or waits for the end of the
squash in progress (R208, R224). One that a squash ends with an outcome has resolved already. -/
def State.resolveLive (s : State) (c : Nat) (r : Resolved) (up : Bool) : State :=
  let s1 := s.hist c (s.cx c).regs.cpc.off up
  match (s.cx c).squash with
  | none => s1.finishWait c r
  | some none => s1.updCx c fun y => { y with squash := some (some r) }
  | some (some _) => s

/-- A recorded read replaced. -/
def State.setVRead (s : State) (c k i : Nat) (f : VRead → VRead) : State :=
  s.updCx c fun x => match x.ckpts[k]? with
    | none => x
    | some ck => match ck.verify[i]? with
      | none => x
      | some v => { x with ckpts := setAt x.ckpts k { ck with verify := setAt ck.verify i (f v) } }

/-- Both answers of a recorded read are there: a difference squashes its checkpoint (R214). -/
def State.compareRead (s : State) (c k i : Nat) : State :=
  match (s.cx c).ckpts[k]? with
  | none => s
  | some ck => match ck.verify[i]? with
    | some { data := some a, again := some b, .. } => if a == b then s else s.squash c k .conflict
    | _ => s

/-- The data of a recorded read arrives, for the first time or again. -/
def State.gotRead (s : State) (c k i : Nat) (again : Bool) (bs : List Byte) : State :=
  (s.setVRead c k i fun v => if again then { v with again := some bs } else { v with data := some bs }).compareRead c k i

/-- A read that was recorded under some checkpoint returns its data for the first time. -/
def State.gotFirst (s : State) (c key : Nat) (bs : List Byte) : State :=
  let ks := (s.cx c).ckpts
  forAll (List.range ks.length) (fun t k => match ks[k]? with
    | none => t
    | some ck => match (List.range ck.verify.length).find? fun i =>
        (match ck.verify[i]? with | some v => v.key == key | none => false) with
      | some i => t.gotRead c k i false bs
      | none => t) s

/-- A read recorded for verification is issued again when its checkpoint is confirmed (R214). The device's own node
answers at once. -/
def State.verifyRead (s : State) (c k i : Nat) (v : VRead) : State :=
  if v.sent then s
  else
    let s1 := s.setVRead c k i fun w => { w with sent := true }
    match v.host with
    | some f => s1.hostRead (.verify c k i) f .rdCurr v.addr v.n v.vc v.seg
    | none =>
      if v.node = s.selfNode then
        match s1.selfAcc (ownProgram (s.cx c).pdom) s.selfNode v.addr v.n none with
        | .ok bs s2 => s2.gotRead c k i true bs
        | .refused s2 | .devErr s2 => s2.squash c k .conflict
        | .outside => s1.squash c k .conflict
      else match s1.devDead v.node v.addr v.n with
        | some _ => s1.squash c k .conflict
        | none => match s1.request (.verify c k i) (mrdPkt v.node v.addr v.n v.vc false) v.n
              (s.portRef v.node v.addr v.n) true s.tmoNow v.seg with
          | some (s2, _) => s2
          | none => s

/-- The instruction of checkpoint `k` (from 0, the oldest) resolves: as predicted, the checkpoint is confirmed and its
reads are verified; otherwise it is squashed with cause MISS (R220). -/
def State.resolveCk (s : State) (c k : Nat) (r : Resolved) : State :=
  match (s.cx c).ckpts[k]? with
  | none => s
  | some ck =>
    if ck.outcome.isSome then s
    else
      let s0 := s.histMove (clusterOf c) (s.cx c).qid (siteOf ck.site) (Resolved.up (some r) (some ck.predicted))
      let s1 := s0.updCx c fun y =>
        { y with ckpts := setAt y.ckpts k { ck with outcome := some r } }
      if r == ck.predicted then
        forAll (List.range ck.verify.length) (fun t i =>
          if (t.cx c).ckpts.length ≤ k then t
          else match ck.verify[i]? with | some v => t.verifyRead c k i v | none => t) s1
      else s1.squash c k .miss

/-- The checkpoint whose instruction waits with a property. -/
def Ctx.ckOf (x : Ctx) (p : Wait → Bool) : Option Nat :=
  (List.range x.ckpts.length).find? fun k =>
    match x.ckpts[k]? with | some ck => ck.outcome.isNone && p ck.wait | none => false

/-- Checkpoint `k` of a context, where it is an unresolved WAITC, resolves by the failures that this WAITC examines (R113, R220). -/
def State.settleWaitc (s : State) (c k : Nat) : State :=
  match (s.cx c).ckpts[k]? with
  | some ck => match ck.wait with
    | .waitc .. => s.resolveCk c k (.waitc ck.fails.isEmpty)
    | _ => s
  | none => s

/-- Chained commands of a context that are all done resolve every predicted WAITC, oldest first, and end a waiting one. -/
def State.chainSettled (s : State) (c : Nat) : State :=
  let ks := if (s.cx c).chain.isEmpty then List.range (s.cx c).ckpts.length else []
  (forAll ks (fun t k => t.settleWaitc c k) s).kick c

/-- A chained command has completed with a status (R111, R112): a failure is recorded, here and in every checkpoint,
and the later commands of its port are dropped. -/
def State.chainDone (s : State) (c pos status : Nat) : State :=
  let x := s.cx c
  match x.chain.find? (·.pos == pos) with
  | none => s
  | some e =>
    let rest := x.chain.filter (·.pos != pos)
    if status = 0 then (s.setCx c { x with chain := rest }).chainSettled c
    else
      let dropped := (rest.filter (·.port == e.port)).length
      let f : ChainFail := { port := e.port, pos := pos, status := status, dropped := dropped, examined := false }
      (s.setCx c { x with
        chain := rest.filter (·.port != e.port)
        fails := x.fails ++ [f]
        ckpts := x.ckpts.map fun ck => { ck with fails := ck.fails ++ [f] } }).chainSettled c

/-! ### Device ports -/

/-- A notice bit sets in a function's mailbox window, with its event when asked for (R409). -/
def State.notice (s : State) (f : Nat) (b : Nat → Field) : State :=
  let s1 := s.put (b f) 1
  if s.on (Fld.mbCfg.IRQ_NOTICE f) && !s.on (b f) then s1.raise (0x10000 + f) else s1

/-- A word of a port's status image is written, and every cluster's copy of it (R317). -/
def State.setImage (s : State) (p k : Nat) (v : Word) : State :=
  let s1 := s.put (Fld.dpImage.WORDS p k) v.toNat
  { s1 with imgCopy := (List.range 8).foldl (fun m cl => SMap.set m 0 ((cl * 4096 + p) * 8 + k) v) s1.imgCopy }

/-- A wait on the mirror of a port under a binding (R120). -/
def waitsMirror (p : Nat) (b : Option (Nat × Nat)) : Wait → Bool
  | .bit _ a .. => decide (0x200 ≤ a ∧ a ≤ 0x3FF) && (match b with | some e => e.1 == p | none => false)
  | _ => false

/-- A wait for an answer of a port. -/
def Wait.asksPort (p : Nat) : Wait → Bool
  | .drd _ _ q _ _ | .dcmd _ _ q _ _ _ => q == p
  | _ => false

/-- A load that is no part of a speculative path, by its request. -/
def Ctx.ownLoad (x : Ctx) (r : Nat) : Bool := x.loads.any fun l => l.ck == 0 && l.parts.any (·.req == r)

/-- A context depends on a port now (R318): it waits on its mirror or for an answer of it, a load's and a descriptor's data
included, chains a command to it, or holds its lock. Of a speculating context the wait of its oldest checkpoint counts, and every
open prediction on the mirror; what its path does beyond that is no part of the program yet (R226). -/
def State.dependsOn (s : State) (c p : Nat) : Bool :=
  let x := s.cx c
  x.live &&
    ((match x.ckpts.head? with
        | none => waitsMirror p x.regs.bound x.wait || x.wait.asksPort p
        | some ck => ck.outcome.isNone && ck.wait.asksPort p)
      || x.ckpts.any (fun ck => ck.outcome.isNone && waitsMirror p ck.saved.bound ck.wait)
      || x.chain.any (·.port == p)
      || (match x.lock with | some r => r.kind == 2 && r.num == p | none => false)
      || s.txn.any (fun e => (match e.2.purp with
          | .dwr c' | .dcmd c' | .desc c' => c' == c
          | .load c' r => c' == c && x.ownLoad r
          | _ => false)
          && (match e.2.port with | some q => q.1 == p | none => false)))

/-! ### Failures of reads that a path has made -/

/-- A load's read fails (R164): the program ends with 0x30; a load on a speculative path takes the path back to its
checkpoint instead (R218). -/
def State.loadFail (s : State) (c req : Nat) (st : Nat := 0x30) : State :=
  match (s.cx c).loads.find? (fun l => l.parts.any (·.req == req)) with
  | none => s
  | some l => if l.ck = 0 then s.autoEnd c st { sel := l.sel } else s.squash c (l.ck - 1) .other

/-- A register read fails: the read of the oldest checkpoint or of no checkpoint ends the program; a younger one takes
the path back to where it is read again (R218). -/
def State.drdFail (s : State) (c st tag : Nat) : State :=
  let x := s.cx c
  match x.ckOf (fun w => match w with | .drd _ _ _ _ t => t == tag | _ => false) with
  | some 0 => s.autoEnd c st
  | some k => ((s.squash c k .miss).updCx c fun y => { y with squash := none, missed := false }).holdPath c
  | none => if x.speculating then s.holdPath c else s.autoEnd c st

/-- The reads of a removed port that are no part of a program yet fail, and their responses are discarded (R226, R318). -/
def State.dropPathReads (s : State) (p : Nat) : State :=
  let onPort (e : Nat × Txn) : Bool := match e.2.port with | some q => q.1 == p | none => false
  let fail (t : State) (e : Nat × Txn) : State :=
    if (t.txnOf e.1).map (·.purp) == some e.2.purp then
      let late (o : Nat × Txn) : Nat × Txn := if o.1 == e.1 then (o.1, { o.2 with purp := .gone }) else o
      let t1 := { t with txn := t.txn.map late }
      match e.2.purp with
      | .drd c => t1.drdFail c 0x31 e.1
      | .load c r => t1.loadFail c r 0x31
      | .verify c k _ => t1.squash c k .conflict
      | _ => t
    else t
  forAll (s.txn.filter onPort) fail s

/-- A transfer uses a port: a range of one of its links lies in the port's data window, or a shard of it does. -/
def State.xferOnPort (s : State) (x : Xfer) (p : Nat) : Bool :=
  let on (g : Desc) (o : Nat) := g.kind == 1 && s.portOf g.node (g.base + o) 1 == some p
  x.links.any (fun l => on l.src l.sOff || (!l.skip && on l.dst l.dOff))

/-- A STRIPE or GATHER meets the removal of a port (R252, R253). -/
def State.stripePortGone (s : State) (k p : Nat) : State :=
  let x := s.xg k
  match x.stripe with
    | none => s
    | some (g, d) =>
      forAll ((List.range (sK d + sM d)).filter fun i => sPort d i == p) (fun t i =>
        if (t.xg k).links = x.links then
          if g && !(x.inUse true d).contains i then (if sRewrite d i then t.shardFail k i 4 true else t)
          else t.shardFail k i 4 false
        else t) s

/-- A posted write into a port's data window that a link has not yet sent. -/
def State.beatOf (s : State) (p : Nat) (q : Pkt) : Bool :=
  let b := s.get (Fld.dpData.DATA_BASE p)
  q.type == 0x60 && q.src == s.selfNode && q.dst == s.get (Fld.dpData.NODE p) &&
    decide (b ≤ 4 * q.addr + 3 ∧ 4 * q.addr < b + s.get (Fld.dpData.DATA_LIMIT p))

/-- A port is removed, in one cycle (R318): REMOVED, GEN, the image and its copies; then everything that depends on it
ends with 0x31, or with 0x80 where a lock is held. The links discard the beats to it that they have not sent (R34). A port that
is already removed stays as it is. -/
def State.removePort (s : State) (p : Nat) : State :=
  if !s.on (Fld.dpData.VALID p) || s.on (Fld.dpData.REMOVED p) then s
  else
    let dep := s.liveCtx.filter fun c => s.dependsOn c p
    let s0 := s.stopAll (s.xfersBy fun x => s.xferOnPort x p) 4 0x31 fun _ => 0
    let s1 := forAll (s0.xfer.map (·.1)) (fun t k => t.stripePortGone k p) s0
    let s2 := forAll dep (fun t c =>
      if (t.cx c).live && (t.cx c).order == (s.cx c).order then
        t.autoEnd c 0x31 { lockCause := match (t.cx c).lock with
          | some r => if r.kind = 2 ∧ r.num = p then 5 else 2
          | none => 2 }
      else t) s1
    let s2b := forAll (List.range 8) (fun t l => t.dropTx l (s.beatOf p)) (s2.dropPathReads p)
    let s3 := (s2b.put (Fld.dpData.REMOVED p) 1).put (Fld.dpData.GEN p) (s.get (Fld.dpData.GEN p) + 1)
    let s4 := forAll (List.range 8) (fun t k => t.setImage p k 0) s3
    s4.notice (s.domFunc (s.get (Fld.dpData.PDOM p))) Fld.mbStat.N_PORT

/-- The valid ports of the table, rising. -/
def State.validPorts (s : State) : List Nat :=
  (s.regs.filter fun e => e.1.id == .dpData && e.1.j == 0 && e.2.getLsbD 0).map (·.1.i)

end Sys2Proof.Machine
end

