-- ==== Sys2Proof/Machine/LinkOps.lean ====
section
/-!
DEFINITION. How outstanding requests end in error (R301, R309, R323), and how a peer link fails, goes Down and starts
again (R277, R293, R294).
-/

namespace Sys2Proof.Machine

/-! ### Error ends of requests -/

/-- The status of an error response on a device access or transfer (R301). -/
def devStatus (cst : Nat) (isPort : Bool) : Nat := if cst = 0x12 ∧ isPort then 0x31 else 0x30

/-- An extension request ends in error (R323, R325). -/
def State.extFail (s : State) (c n cst xstat : Nat) (tmo : Bool) : State :=
  let s1 := s.incSat (if tmo then Fld.extCnt.TIMEOUTS else Fld.extCnt.ERRORS)
  let s2 := s1.logFirst Fld.extLog.VALID Fld.extLog.OVF
    [(Fld.extLog.TMO, b2n tmo), (Fld.extLog.OPC, n), (Fld.extLog.CTX, c), (Fld.extLog.CST, if tmo then 0 else cst),
     (Fld.extLog.XSTAT, xstat)]
  s2.autoEnd c (if tmo then 0x51 else 0x50)

/-- An outstanding request ends with an error CST (R301). A read of host memory made in Roloa-native mode has its error response
still to come. -/
def State.txnFail (s0 : State) (tag cst : Nat) (tmo : Bool) : State :=
  match s0.txnOf tag with
  | none => s0
  | some t =>
    let s := s0.dropTxn tag
    let st := devStatus cst t.port.isSome
    match t.purp with
    | .drd c => s.drdFail c st tag
    | .dwr c | .dcmd c | .chain c _ | .desc c => s.autoEnd c st
    | .ext c n => s.extFail c n cst 0 tmo
    | .load c r => s.loadFail c r st
    | .mover k => s.readFail k (if st = 0x31 then 4 else 1) st
    | .verify c k _ => s.squash c k .conflict
    | .host id => s.setHreq id { s.hreqOf id with dead := true }
    | .disc key => s.discFail key
    | _ => s

/-- Ends every outstanding request that satisfies a condition, lowest tag first. -/
def State.failTxns (s : State) (p : Txn → Bool) (cst : Nat) : State :=
  forAll ((s.txn.filter fun e => p e.2).map (·.1)) (fun t tag => t.txnFail tag cst false) s

/-! ### The link's own record -/

/-- PLU_STAT.STATE. -/
def State.lState (s : State) (p : Nat) : Nat := s.get (Fld.pluStat.STATE p)

/-- The link's state, and PEER_RESET_N with it (R276): high in Waiting, Init and Joined while HOLD is 0. A line that falls stays
low for at least 1 ms (R281). -/
def State.setLState (s : State) (p st : Nat) : State :=
  let high := (st == 2 || st == 3 || st == 4) && !s.on (Fld.pluCtl.HOLD p)
  let l := s.lk p
  let s1 := ((s.put (Fld.pluStat.STATE p) st).put (Fld.pluStat.RELEASED p) (b2n high)).setLk p
    { l with lowHold := l.lowHold || (!high && NSet.has s.peerReset p), reached := l.reached || st == 4 || st == 6 }
  { s1 with peerReset := if high then NSet.add s1.peerReset p else NSet.del s1.peerReset p }

/-- PLU_ERR takes a cause (R295). -/
def State.linkErr (s : State) (p cause word : Nat) : State :=
  s.logFirst (Fld.pluErr.VALID p) (Fld.pluErr.OVF p)
    [(Fld.pluErr.CAUSE p, cause), (Fld.pluErr.WORD p, if cause = 5 then word else 0)]

/-! ### Status updates (R307, R317) -/

/-- The ports that a status update matches (R317). -/
def State.supdPorts (s : State) (p : Pkt) : List Nat :=
  s.validPorts.filter fun q => !s.on (Fld.dpData.REMOVED q) && s.get (Fld.dpData.NODE q) == p.src &&
    s.get (Fld.dpData.REG_BASE q) / 4096 == p.addr / 1024 && decide (p.addr / 16 % 64 = 0)

/-- One 32-bit word of a status image replaced (R317). -/
def State.setImageWord (s : State) (q i v : Nat) : State :=
  let old := s.get (Fld.dpImage.WORDS q (i / 2))
  s.setImage q (i / 2) (BitVec.ofNat 64 (putBits old (32 * (i % 2)) 32 v))

/-- A status update replaces words of the image of the port that it matches, or is dropped and counted (R317). -/
def State.supdNow (s : State) (p : Pkt) : State :=
  let first := p.addr % 16
  match s.supdPorts p with
  | q :: _ =>
    if first + p.len > 16 then s.incSat Fld.dpStat.SUPD_DROP
    else if p.poison then s
    else forAll (List.range p.len) (fun t i => t.setImageWord q (first + i) (ofBytes ((p.data.drop (4 * i)).take 4))) s
  | [] => s.incSat Fld.dpStat.SUPD_DROP

/-- The earlier posted writes on VC1 of a source that links still hold: how many on each link. -/
def State.postedAhead (s : State) (src : Nat) : List (Nat × Nat) :=
  ((List.range 9).map fun l =>
    (l, ((SMap.get (s.lk l).txq [] 1).filter fun q => q.type == 0x60 && q.src == src).length)).filter fun e => e.2 != 0

/-- The status updates that wait for no packet any more are applied, in arrival order (R307); `n` bounds them. -/
def State.supdFlush (s : State) : Nat → State
  | 0 => s
  | n + 1 =>
    match s.supdQ.find? fun w => w.2.all fun e => e.2 == 0 with
    | none => s
    | some w => ({ s with supdQ := s.supdQ.erase w }.supdNow w.1).supdFlush n

/-- What one attempt to bring the link up holds is forgotten, with the packets that wait; the credits held are zero (R294). -/
def State.clearLink (s : State) (p : Nat) : State :=
  let s1 := forAll [0, 1, 2, 3] (fun t v => t.putAll [(Fld.pluCred.TX_HDR p v, 0), (Fld.pluCred.TX_DATA p v, 0)]) s
  let s2 := s1.dropTx p fun _ => true
  let l := s2.lk p
  (s2.setLk p { lowHold := l.lowHold, reached := l.reached }).supdFlush s2.supdQ.length

/-- The link waits its 1 ms before it trains again (R277, R281). -/
def State.waitRetry (s : State) (p : Nat) : State := s.setLk p { s.lk p with retryHold := true }

/-- A link word is sent: type, bits 31:8. -/
def State.sendWord (s : State) (p ty hi : Nat) : State := s.emit (.word p ty (ty + hi * 256))

/-- FABRIC_READY rises once every enabled link has reached Joined or Failed since it was enabled and the routes are loaded (R280);
RT and DVSEC show it. -/
def State.fabricCheck (s : State) : State :=
  let all := (List.range 8).all fun p => !s.on (Fld.pluCtl.EN p) || (s.lk p).reached
  if all && s.routesLoaded && !s.fabricReady then { s.put Fld.dvsec.FABRIC_READY 1 with fabricReady := true } else s

/-- A bring-up attempt ends without joining (R277): the cause is recorded and the reset line falls; with AUTO_RETRAIN
and fewer than 3 attempts made the link waits and trains again, otherwise it enters Failed. `down` says that the table of R293 has
the link enter Down, which raises its event (R294). -/
def State.attemptFail (s : State) (p cause word : Nat) (down : Bool := false) : State :=
  let n := s.get (Fld.pluStat.ATTEMPTS p) + 1
  let s0 := ((s.linkErr p cause word).clearLink p).put (Fld.pluStat.ATTEMPTS p) n
  let s1 := if down then s0.raise (0x10408 + p) else s0
  if s.on (Fld.pluCtl.AUTO_RETRAIN p) && decide (n < 3) then (s1.setLState p 5).waitRetry p
  else s1.setLState p 6

/-- The device ports at the nodes a link led to are removed (R294). -/
def State.losePorts (s : State) (gone : Nat → Bool) : State :=
  forAll (s.validPorts.filter fun q => gone (s.get (Fld.dpData.NODE q))) State.removePort s

/-- The nodes behind a link: its granted block, or the domains routed to it (R294). -/
def State.behind (s : State) (p n : Nat) : Bool :=
  if s.on (Fld.pluStat.PEER_SW p) then n / 256 != s.get Fld.rtCtl.DOMAIN && s.rtEntry .domRtA (n / 256) == p
  else s.inGrant p n

/-- A Joined link enters Down (R294): queued and outstanding requests are answered UNREACH, the ports behind it are
removed, credits are zero, the error and the event are raised. `restart` says whether it may train again by itself. -/
def State.linkDown (s : State) (p cause word : Nat) (restart : Bool) : State :=
  let gone := fun n => s.behind p n
  let s1 := s.losePorts gone
  let s2 := (s1.failTxns (fun t => t.link == some p) 0x12).answerFwd p
  let s3 := ((s2.clearLink p).linkErr p cause word).raise (0x10408 + p)
  let n := if cause = 11 then s.get (Fld.pluStat.ATTEMPTS p) else s.get (Fld.pluStat.ATTEMPTS p) + 1
  let s4 := s3.put (Fld.pluStat.ATTEMPTS p) n
  if restart || (s.on (Fld.pluCtl.AUTO_RETRAIN p) && decide (n < 3)) then (s4.setLState p 5).waitRetry p
  else s4.setLState p 6

/-- A malformed word or the loss of the module takes a link that receives Down, in Waiting and Init with the attempt (R293); other
states ignore it. -/
def State.linkBad (s : State) (p cause word : Nat) : State :=
  if s.lState p = 4 then s.linkDown p cause word false
  else if s.lState p = 2 ∨ s.lState p = 3 then s.attemptFail p cause word true
  else s

end Sys2Proof.Machine
end

