-- ==== Sys2Proof/Machine/HostOps.lean ====
section
/-!
DEFINITION. How a queue enters Error (R64), what the result of a read of host memory does to the one that waits for it
(R27, R190, R194, R258), and the loss of the host link (R329).
-/

namespace Sys2Proof.Machine

/-! ### Queues -/

/-- `QDyn.stopping`: the command under which a queue drains. -/
def stopDrain : Nat := 1
/-- DRAIN_ABORT. -/
def stopAbort : Nat := 2
/-- RESET, or a function-level reset. -/
def stopReset : Nat := 3

/-- Completion entries of a queue that are not yet written are dropped; each stops counting as in flight. -/
def State.dropCpl (s : State) (q : Nat) : State :=
  let n := (s.cpl.filter (·.qid == q)).length
  { s with cpl := s.cpl.filter (·.qid != q) }.put (Fld.qctx.IN_FLIGHT q) (s.get (Fld.qctx.IN_FLIGHT q) - n)

/-- Every program of a queue stops without an entry (R63). -/
def State.stopQueue (s : State) (q lockCause : Nat) : State :=
  let cs := s.liveCtx.filter fun c => (s.cx c).qid == q
  (forAll cs (fun t c => t.stopSilent c lockCause) s).dropCpl q

/-- A ring access of a queue fails (R64): the first failure of a queue that still records is kept, its programs stop and
QMU_QERR is raised. LOCKBRK's list of causes has none for a queue error; the model records 2 (log entry 56). -/
def State.queueError (s : State) (q cause addr : Nat) : State :=
  let st := s.get (Fld.qctx.STATE q)
  if st = 0 ∨ st = 6 ∨ (st = 5 ∧ (s.qd q).stopping = stopReset) then s
  else
    let s1 := s.putAll [(Fld.qctx.ERR_CAUSE q, cause), (Fld.qctx.ERR_ADDR q, addr), (Fld.qctx.STATE q, 6)]
    ((s1.stopQueue q 2).clearQd q).raise 0x10401

/-- The address of a submission entry (R42). -/
def State.sqAddr (s : State) (q ix : Nat) : Nat := s.get (Fld.qctx.SQ_BASE q) * 4096 + ix * 64

/-- The address of the completion slot that is written next (R53). -/
def State.cqAddr (s : State) (q : Nat) : Nat := s.get (Fld.qctx.CQ_BASE q) * 4096 + s.get (Fld.qctx.CQ_TAIL q) * 32

/-! ### Segment table reads -/

/-- A context's wait ends in a failed check: on a speculative path the path pauses at the instruction (R218),
otherwise the program ends. -/
def State.waitTrap (s : State) (c st sel : Nat) : State :=
  if (s.cx c).speculating then s.holdPath c else s.autoEnd c st { sel := sel }

/-- A path has used a descriptor under its youngest checkpoint (R201, step 4). -/
def Ctx.useSeg (x : Ctx) (dom sel : Nat) : Ctx :=
  match x.ckpts.getLast? with
  | none => x
  | some k =>
    if k.segs.contains (dom, sel) then x
    else { x with ckpts := x.ckpts.dropLast ++ [{ k with segs := (dom, sel) :: k.segs }] }

/-- A program starts in its segment, once the checks of R47 and R190 pass. -/
def State.startProg (s : State) (c sel off : Nat) (g : Desc) : State :=
  if !g.x then s.autoEnd c 0x21 { sel := sel }
  else if off ≥ g.limit then s.autoEnd c 0x20 { sel := sel }
  else s.updCx c fun x =>
    { x with started := true, wait := .none, regs := { x.regs with cpc := { sel := sel, off := off, seg := g } } }

/-- The checks of R125 on a far target with its descriptor, and for CALLF the depth check after them (R126): the
status of the first that fails. -/
def farCheck (g : Desc) (off : Nat) (depth : Option Nat) : Option Nat :=
  if !g.x then some 0x21
  else if off ≥ g.limit then some 0x20
  else match depth with | some d => if d ≥ 16 then some 0x14 else none | none => none

/-- A far jump takes place: kind 1 pushes the CPC of the next instruction. -/
def Ctx.farJump (x : Ctx) (len kind sel off : Nat) (g : Desc) : Ctx :=
  let y := x.retireAt len false
  y.upd fun r => { r with cpc := { sel := sel, off := off, seg := g }
                          stack := if kind = 1 then r.cpc :: r.stack else r.stack }

/-- A waiting context takes the descriptor of its selector, or the failure of the lookup. -/
def State.takeDesc (s : State) (c dom sel : Nat) (r : Option Desc) : State :=
  let x := s.cx c
  if !x.live || x.pdom != dom then s
  else match x.wait with
    | .prog sl off =>
      if sl = sel then
        match r with | none => s.autoEnd c 0x22 { sel := sel } | some g => s.startProg c sel off g
      else s
    | .lds len reg sl =>
      if sl = sel then
        match r with
        | none => s.waitTrap c 0x22 sel
        | some g => s.updCx c fun y => ((y.setS reg g).useSeg dom sel).retireAt len y.waitLock
      else s
    | .far len kind sl off =>
      if sl = sel then
        match r with
        | none => s.waitTrap c 0x22 sel
        | some g =>
          match farCheck g off (if kind = 1 then some x.regs.stack.length else none) with
          | some st => s.waitTrap c st sel
          | none => s.updCx c fun y => (y.farJump len kind sel off g).useSeg dom sel
      else s
    | _ => s

/-- The STU's read of a table entry ends: `none` when it failed (R194). A read that an invalidation has overtaken is
done again (R201, step 1). -/
def State.tableResult (s : State) (dom sel : Nat) (e : Option SegEntry) : State :=
  let k := segKey dom sel
  if SMap.get s.segRead 0 k = 2 then
    if NSet.has s.stuHold dom then { s with segRead := SMap.set s.segRead 0 k 3 }
    else { s.readTable dom sel with segRead := SMap.set s.segRead 0 k 1 }
  else
    let g := e.bind (descOf dom sel)
    let s1 := { s with segRead := SMap.set s.segRead 0 k 0
                       segCache := match g with | some d => SMap.set s.segCache {} k d | none => s.segCache }
    forAll s1.liveCtx (fun t c => t.takeDesc c dom sel g) s1

/-! ### Failures of host reads -/

/-- A read of the free ring fails: what the waiting allocations then meet is not stated; they go on waiting until their
limit (log entry 40). -/
def State.ringFail (s : State) (p : Nat) : State := s.setPl p { s.pl p with refill := false }

/-- An outstanding read of host memory ends in an error response. -/
def State.hostReadFail (s0 : State) (id : Nat) (poison : Bool := false) : State :=
  let r := s0.hreqOf id
  let s := s0.lateRead id
  match r.purp with
  | .entry c => s.queueError (s.cx c).qid (if poison then 4 else 1) r.addr
  | .load c k => s.loadFail c k
  | .table dom sel => s.tableResult dom sel none
  | .desc c => s.autoEnd c 0x30
  | .ring p => s.ringFail p
  | .mover k => s.readFail k (if poison then 2 else 1) 0x30
  | .verify c k _ => s.squash c k .conflict
  | .peer src tag vc .. => s.sendRouted (s.cplPkt 0x20 src tag vc 0x11)
  | _ => s

/-- The requests of a function, or of all, that are outstanding at the host end in error. -/
def State.failHost (s : State) (p : HReq → Bool) : State :=
  forAll ((s.hreq.filter fun e => p e.2).map (·.1)) (fun t id => t.hostReadFail id) s

/-- A context that waits for a translation of some functions gets an error response in its place, and the translations asked for
are forgotten (R329, R334); transfers meet the same at their next access. -/
def State.failXlate (s : State) (p : Nat → Bool) : State :=
  let cs := s.liveCtx.filter fun c => match (s.cx c).wait with | .xlate _ _ f .. => p f | _ => false
  (forAll cs (fun t c => t.autoEnd c 0x30) { s with atsPend := s.atsPend.filter fun k => !p (k / 2 ^ 45) }).goAll

/-- What the Roloa link to the host holds is forgotten, with the packets that wait. -/
def State.clearHostLink (s : State) : State :=
  let s1 := { (s.dropTx 8 fun _ => true).setLk 8 {} with hostLink := {} }
  s1.supdFlush s1.supdQ.length

/-- The host link goes down (R329): every outstanding request to the host gets an error response inside the device, packets not yet
sent to it are discarded, and every queue with a completion entry still to be written enters Error. -/
def State.hostDown (s : State) : State :=
  let s1 := s.putAll [(Fld.hpuStat.LINK_UP, 0), (Fld.hpuStat.MODULES, 0), (Fld.hpuStat.RATE, 0),
    (Fld.dvsec.MODULES, 0), (Fld.dvsec.RATE, 0)]
  let s2 := s1.failHost fun _ => true
  let s3 := (((s2.failTxns (fun t => t.node == s2.hostNode) 0x12).answerFwd 8).clearHostLink).failXlate fun _ => true
  forAll (s3.cpl.map (·.qid)).eraseDups (fun t q => t.queueError q 2 (t.cqAddr q)) s3

/-- The link to the host fails outside a commanded retrain, and its error line rises (R394). -/
def State.hostLost (s : State) : State := { s.hostDown with hostFault := true }

end Sys2Proof.Machine
end

