-- ==== Sys2Proof/Machine/ArbOps.lean ====
section
/-!
DEFINITION. The weighted-credit arbiter (R70 to R77) and the arbiters of the device: their requesters, weights,
high-priority requesters, quotas, locks and masks.
-/

namespace Sys2Proof.Machine

/-! ### Kinds of arbiter (R76, R77, R229, R382, R413): `ArbId.kind`, with the copy in `i` and `j` -/

/-- QSC King admission. -/
def akKing : Nat := 0
/-- QSC class. -/
def akClass : Nat := 1
/-- QSC group; `i` the pipe, 0 King, 1 general. -/
def akGroup : Nat := 2
/-- QSC queue; `i` the pipe, `j` the group. -/
def akQueue : Nat := 3
/-- QSC cluster. -/
def akCluster : Nat := 4
/-- QSC dispatch path of cluster `i`: requester 0 the King pipe, 1 the general pipe. -/
def akPath : Nat := 5
/-- FXB input at output port `i` on virtual channel `j`. -/
def akFxbIn : Nat := 6
/-- FXB virtual-channel select at output port `i`. -/
def akFxbVc : Nat := 7
/-- Issue arbiter of engine `i`. -/
def akEngine : Nat := 8
/-- Semaphore arbiter of cluster `i`. -/
def akSem : Nat := 9
/-- Event-bit arbiter: clusters 0 to 7, 8 the EVF, 9 the MGP. -/
def akEvent : Nat := 10
/-- Device-port arbiter of PLU `i`. -/
def akPort : Nat := 11
/-- Extension-unit arbiter of binding `i`. -/
def akExt : Nat := 12
/-- Tag allocator: clusters 0 to 7, movers 8 to 23, 24 STU, 25 BPM, 26 EXG, 27 MGP. -/
def akTag : Nat := 13
/-- Admission arbiter of DMG `i`. -/
def akDmg : Nat := 14
/-- EIC delivery arbiter. -/
def akEic : Nat := 15
/-- The MGP's mailbox arbiter. -/
def akMail : Nat := 16

/-- An arbiter's own state. -/
def State.ar (s : State) (a : ArbId) : Arb := AMap.get s.arb {} a
/-- That state replaced. -/
def State.setAr (s : State) (a : ArbId) (x : Arb) : State := { s with arb := AMap.set ArbId.lt s.arb {} a x }

/-- Byte `b` of a register word. -/
def State.regByte (s : State) (id : RegId) (i j b : Nat) : Nat := bitsOf (s.reg ⟨id, i, j⟩).toNat (8 * b) 8

/-- Byte `b` of a shadowed word's active copy. -/
def State.actByte (s : State) (id : RegId) (i j b : Nat) : Nat :=
  bitsOf (AMap.get s.act (Reg.reset ⟨id, i, j⟩) ⟨id, i, j⟩).toNat (8 * b) 8

/-- The number of requesters of an arbiter. -/
def arbN (a : ArbId) : Nat :=
  match a.kind with
  | 0 => 1 | 1 => 4 | 2 => 4096 | 3 => 16 | 4 => 8 | 5 => 2 | 6 => 40 | 7 => 4 | 8 => 8 | 9 => 128 | 10 => 10
  | 11 => 1024 | 12 => 1024 | 13 => 28 | 14 => 8 | 15 => 4100 | 16 => 1024 | _ => 0

/-- The active weight of a requester. -/
def State.arbW (s : State) (a : ArbId) (r : Nat) : Nat :=
  match a.kind with
  | 1 => match r with
    | 0 => s.getA Fld.clsW.W_KING | 1 => s.getA Fld.clsW.W_KNIGHT | 2 => s.getA Fld.clsW.W_BISHOP
    | _ => s.getA Fld.clsW.W_PAWN
  | 2 => s.regByte .grpW (r / 8) 0 (r % 8)
  | 3 => s.actByte .qwData a.j (r / 8) (r % 8)
  | 4 => s.actByte .cluW 0 0 r
  | 6 => s.regByte .fxbIw a.j (r / 8) (r % 8)
  | 7 => match r with
    | 1 => s.getA Fld.fxbVc.W_VC1 | 2 => s.getA Fld.fxbVc.W_VC2 | 3 => s.getA Fld.fxbVc.W_VC3 | _ => 0
  | 8 => 8
  | 14 => s.actByte .dmgCw a.i 0 r
  | 16 => if r = 0 then s.get Fld.mbArb.W_PF else s.get Fld.mbArb.W_VF
  | _ => 1

/-- The quota of an arbiter's high-priority requester, where it has one with a quota. -/
def State.arbQuota (s : State) (a : ArbId) : Option Nat :=
  match a.kind with
  | 0 | 5 => some (s.getA Fld.kingQuota.QUOTA)
  | 7 => some (s.getA Fld.fxbVc.VC0_QUOTA)
  | 11 => some 64
  | 13 => some 256
  | 15 => some (s.getA Fld.eicCtl.HPQ)
  | _ => none

/-- The context that holds a lock at an arbiter, as a requester of it (R86, R184). -/
def State.arbOwner (s : State) (a : ArbId) : Option Nat :=
  let held (p : Resource → Bool) (f : Nat → Nat) : Option Nat :=
    (s.ctx.find? fun e => match e.2.lock with | some r => p r | none => false).map fun e => f e.1
  match a.kind with
  | 8 => (s.ctx.find? fun e => e.1 / 8 == a.i && e.2.seqCount.isSome).map (·.1 % 8)
  | 9 => held (fun r => r.kind == 1 && r.blk == 12 + a.i) (· % 128)
  | 11 => held (fun r => r.kind == 2 && r.blk == 1 + a.i) id
  | 12 => held (fun r => r.kind == 3 && r.num == a.i) id
  | _ => none

/-- What the crossbar's ports attach (R24). -/
inductive FxbUnit where
  | hostModule (h : Nat) | plu (p : Nat) | cec (c : Nat) | spmSingle (k : Nat)
  | spmDual | evf | qmu | eic | stu | bpm | exg | mgp | sec | cfs | agm | dbg
deriving DecidableEq, Repr

/-- The ports of a unit (R24). -/
def FxbUnit.ports : FxbUnit → List Nat
  | .hostModule h => [2 * h, 2 * h + 1]
  | .plu p => [8 + 2 * p, 9 + 2 * p]
  | .cec c => [24 + c]
  | .spmSingle k => [32 + k]
  | .spmDual | .evf => [36]
  | .qmu | .eic => [37]
  | .stu | .bpm | .exg => [38]
  | .mgp | .sec | .cfs | .agm | .dbg => [39]

/-- The block of a unit, by fault-source index (R394). -/
def FxbUnit.block : FxbUnit → Nat
  | .hostModule _ => 0
  | .plu p => 1 + p
  | .cec c => 12 + c
  | .spmSingle _ | .spmDual => 31
  | .evf => 32 | .qmu => 10 | .eic => 33 | .stu => 20 | .bpm => 29 | .exg => 30
  | .mgp => 34 | .sec => 35 | .cfs => 36 | .agm => 38 | .dbg => 42

/-- The units of the device (R24). -/
def fxbUnits : List FxbUnit :=
  (List.range 4).map .hostModule ++ (List.range 8).map .plu ++ (List.range 8).map .cec ++ (List.range 4).map .spmSingle ++
    [.spmDual, .evf, .qmu, .eic, .stu, .bpm, .exg, .mgp, .sec, .cfs, .agm, .dbg]

/-- The unit through whose port the crossbar reaches a scratchpad bank: port 32+k serves banks 128k to 128k+127 (R24). -/
def bankUnit (b : Nat) : FxbUnit := if b < 512 then .spmSingle (b / 128) else .spmDual

/-- The blocks that a crossbar port attaches. -/
def portBlocks (port : Nat) : List Nat := ((fxbUnits.filter fun u => u.ports.contains port).map FxbUnit.block).eraseDups

/-- The blocks whose requests a requester carries, by fault-source index, for the sideband mask (R74). -/
def reqBlocks (a : ArbId) (r : Nat) : List Nat :=
  match a.kind with
  | 0 | 5 => [11]
  | 1 | 2 | 3 => [10]
  | 4 | 14 => [12 + r]
  | 6 => portBlocks r
  | 7 => [9]
  | 8 => [12 + a.i / 16]
  | 9 => [12 + a.i]
  | 10 => if r < 8 then [12 + r] else if r = 8 then [32] else [34]
  | 11 | 12 => [12 + r / 128]
  | 13 => if r < 8 then [12 + r] else if r < 24 then [21 + (r - 8) / 4] else if r = 24 then [20]
    else if r = 25 then [29] else if r = 26 then [30] else [34]
  | 15 => [33]
  | 16 => [34]
  | _ => []

/-- A block is in reset, or it is a mover group or a lane pair that is power-gated (R74, R465). -/
def State.blockMasked (s : State) (b : Nat) : Bool :=
  NSet.has s.masked b || (decide (21 ≤ b ∧ b ≤ 28) && NSet.has s.pwrGrp (b - 21))

/-- The engine that a requester of an arbiter of its cluster belongs to (R462). -/
def reqEngine (a : ArbId) (r : Nat) : Option Nat :=
  match a.kind with
  | 8 => some a.i
  | 9 => some (a.i * 16 + r / 8)
  | _ => none

/-- A requester is masked (R74): its block is in reset or power-gated, or its engine is in W2 or W3 (R462). A crossbar port that
several blocks share is masked while all of them are (DEDUCED, log entry 53: the requests of a block that runs still come in by
it). -/
def State.isMasked (s : State) (a : ArbId) (r : Nat) : Bool :=
  let bs := reqBlocks a r
  (!bs.isEmpty && bs.all s.blockMasked) || (match reqEngine a r with | some e => decide (s.w e ≥ 2) | none => false)

/-- The first of some requesters at or after a pointer, wrapping (R71). -/
def fromPtr (l : List Nat) (ptr : Nat) : Option Nat :=
  match l.find? (fun r => decide (r ≥ ptr)) with
  | some r => some r
  | none => l.head?

/-- The decision of R71 over the requesters `reqs`, rising, of which `hp` are high-priority: the winner, and the state
with the decision charged. Of several high-priority requesters at once, which the pseudocode does not have, the first at or after a
pointer of their own wins (log entry 67). -/
def State.arbDecide (s : State) (a : ArbId) (reqs : List Nat) (hp : Nat → Bool) (cost : Nat) : Option (Nat × State) :=
  let x := s.ar a
  let n := arbN a
  let req := reqs.filter fun r => !s.isMasked a r && !(x.quotaMask && hp r)
  let charge (y : Arb) (r : Nat) : Arb :=
    { y with spent := SMap.set y.spent 0 r (Nat.min (s.arbW a r) (SMap.get y.spent 0 r + cost)) }
  match s.arbOwner a with
  | some o => if req.contains o then some (o, s.setAr a (charge x o)) else none
  | none =>
    match fromPtr (req.filter hp) x.hpPtr with
    | some h =>
      let used := x.hpUsed + cost
      let y := { x with hpUsed := used, hpPtr := (h + 1) % n
                        quotaMask := match s.arbQuota a with | some q => decide (used ≥ q) | none => false }
      some (h, s.setAr a y)
    | none =>
      let cnt r := s.arbW a r - SMap.get x.spent 0 r
      let top := req.foldl (fun m r => Nat.max m (cnt r)) 0
      match fromPtr (req.filter fun r => cnt r == top) x.ptr with
      | none => none
      | some w => some (w, s.setAr a { charge x w with ptr := (w + 1) % n })

/-- A window start (R71): counters reloaded, the quota free again; the pointers stay. -/
def Arb.window (x : Arb) : Arb := { x with spent := [], hpUsed := 0, quotaMask := false }

/-- A window start of every arbiter of some kinds. -/
def State.windowStart (s : State) (p : ArbId → Bool) : State :=
  { s with arb := (s.arb.map fun e => if p e.1 then (e.1, e.2.window) else e).filter fun e => e.2 != {} }

/-- The arbiters that start a window together (R70, R77). -/
def WinIdHas (g : WinId) (a : ArbId) : Bool :=
  match g with
  | .qsc => decide (a.kind ≤ akPath)
  | .fxb => a.kind == akFxbIn || a.kind == akFxbVc
  | .eic => a.kind == akEic
  | .dmg i => a.kind == akDmg && a.i == i.val
  | .engine e => a.kind == akEngine && a.i == e.val
  | .semaphore c => a.kind == akSem && a.i == c.val
  | .eventBit => a.kind == akEvent
  | .devicePort p => a.kind == akPort && a.i == p.val
  | .extension n => a.kind == akExt && a.i == n.val
  | .tags => a.kind == akTag
  | .mailbox => a.kind == akMail

/-- The arbiters of a group stand at a window start: nothing has been charged since it (R71). -/
def State.atWindow (s : State) (g : WinId) : Bool :=
  s.arb.all fun e => !WinIdHas g e.1 || (e.2.spent.isEmpty && e.2.hpUsed == 0 && !e.2.quotaMask)

/-- A weight has changed: the counter moves with it, not below 0 (R75). -/
def State.arbClip (s : State) (p : ArbId → Bool) : State :=
  { s with arb := (s.arb.map fun e =>
      if p e.1 then
        (e.1, { e.2 with spent := (e.2.spent.map fun c => (c.1, Nat.min c.2 (s.arbW e.1 c.1))).filter (·.2 != 0) })
      else e).filter fun e => e.2 != {} }

/-- Quotas have changed: the masks follow before the next decision (R75). -/
def State.arbQuotaNew (s : State) (ids : List ArbId) : State :=
  forAll ids (fun t a => match t.arbQuota a with
    | some q => t.setAr a { t.ar a with quotaMask := decide ((t.ar a).hpUsed ≥ q) }
    | none => t) s

end Sys2Proof.Machine
end

