-- ==== Sys2Proof/Machine/QscOps.lean ====
section
/-!
DEFINITION. What dispatch sees (R65, R78 to R81, R464), the King bound's conditions and value (R91), and the return from
Doze (R466).
-/

namespace Sys2Proof.Machine

/-- The queues that are not Disabled, rising. -/
def State.enabledQueues (s : State) : List Nat :=
  (s.regs.filter fun e => e.1.id == .qctx && e.1.j == 5 && bitsOf e.2.toNat 0 3 != 0).map (·.1.i)

/-- KING_COUNT (R56). -/
def State.kingCount (s : State) : Nat := (s.enabledQueues.filter fun q => s.qClass q == 0).length

/-- A function's queues may be dispatched: it may use the host link, and no reset of it runs (R66, R334, R346). -/
def State.funcRuns (s : State) (f : Nat) : Bool := s.master f && !NSet.has s.flr f

/-- Completion slots in use (R43). -/
def State.cqUsed (s : State) (q : Nat) : Nat :=
  let n := 2 ^ s.get (Fld.qctx.CQ_LOG2 q)
  (s.get (Fld.qctx.CQ_TAIL q) + n - s.get (Fld.qctx.CQ_HEAD q) % n) % n

/-- A queue is eligible for dispatch (R65). -/
def State.qEligible (s : State) (q : Nat) : Bool :=
  let st := s.get (Fld.qctx.STATE q)
  (st == 2 || st == 3) && !s.on (Fld.qctx.SUSP_REQ q) && decide (s.sqPending q > 0) &&
    decide (s.get (Fld.qctx.IN_FLIGHT q) ≤ s.get (Fld.qctx.INFLIGHT_MAX q)) &&
    decide (s.cqUsed q + s.get (Fld.qctx.IN_FLIGHT q) + 1 < 2 ^ s.get (Fld.qctx.CQ_LOG2 q)) && s.funcRuns (s.qFunc q)

/-! ### The King bound (R88, R91) -/

/-- A cluster holds a valid active slot. -/
def State.kingCluster (s : State) (cl : Nat) : Bool :=
  (List.range 16).any fun i => s.on (Fld.kstActive.VALID (cl * 16 + i))

/-- A cluster's effective ceiling as a step of R470. -/
def State.effStep (s : State) (cl : Nat) : Nat := bitsOf (s.reg ⟨.pcmEff, 0, 0⟩).toNat (8 * cl) 8

/-- The King clusters. -/
def State.kingClusters (s : State) : List Nat := below 8 s.kingCluster

/-- The lowest effective ceiling among the King clusters. -/
def State.kingStep (s : State) : Nat := s.kingClusters.foldl (fun m c => Nat.min m (s.effStep c)) 24

/-- Some King engine that holds a valid active slot is deeper than W1. -/
def State.kingDeep (s : State) : Bool :=
  (List.range 128).any fun k => s.on (Fld.kstActive.VALID k) && decide (s.engW (k / 16) (14 + k / 8 % 2) > 1)

/-- BOUND_VALID's conditions (R91), and step 1 of R467: it is 0 from the acceptance of SLEEP_REQ. -/
def State.boundNow (s : State) : Bool :=
  s.on Fld.qscCtl.KING_EN && !s.kingClusters.isEmpty && decide (s.kingStep ≥ 8) && s.get Fld.pcmStat.DSTATE != 2 &&
    !s.on Fld.pcmCtl.SLEEP_REQ && !s.kingDeep

/-- BOUND_PS for a ceiling (R91). -/
def boundPs (step : Nat) : Nat :=
  if step ≥ 16 then 40000 else (40000 * 2000 + (1600 + 25 * step) - 1) / (1600 + 25 * step)

/-- The bound follows its conditions; a change raises QSC_KBOUND (R91). -/
def State.boundUpdate (s : State) : State :=
  let v := s.boundNow
  let ps := if v then boundPs s.kingStep else 0
  let s1 := s.put Fld.kingStat.FLOOR_LOW (b2n (!s.kingClusters.isEmpty && decide (s.kingStep < 8)))
  if s.on Fld.kingStat.BOUND_VALID == v && s.get Fld.kingStat.BOUND_PS == ps then s1
  else (s1.putAll [(Fld.kingStat.BOUND_VALID, b2n v), (Fld.kingStat.BOUND_PS, ps)]).raise 0x10402

/-! ### Device states -/

/-- The device changes its state (R466). -/
def State.setDstate (s : State) (d : Nat) : State :=
  if s.get Fld.pcmStat.DSTATE = d then s else (s.put Fld.pcmStat.DSTATE d).raise 0x10412

/-- A doorbell, an ACP GO, a peer packet or a mover request ends Doze (R466). -/
def State.leaveDoze (s : State) : State := if s.get Fld.pcmStat.DSTATE = 1 then s.setDstate 0 else s

end Sys2Proof.Machine
end

