-- ==== Sys2Proof/Machine/SemOps.lean ====
section
/-!
DEFINITION. The cluster semaphores and those that wait for them (R129, R157), and what goes on when a lock or a tag comes free
(R72, R73, R186).
-/

namespace Sys2Proof.Machine

/-- A semaphore bit of a cluster. -/
def State.semBit (s : State) (cl a : Nat) : SemBit := SMap.get s.sem {} (cl * 4096 + a)

/-- A semaphore bit replaced. -/
def State.setSem (s : State) (cl a : Nat) (b : SemBit) : State :=
  { s with sem := SMap.set s.sem {} (cl * 4096 + a) b }

/-- Contexts of a cluster that wait in SEMA on a bit, as requesters of its arbiter, rising. -/
def State.semWaiters (s : State) (cl a : Nat) : List Nat :=
  (s.ctx.filter fun e => e.1 / 128 == cl && e.2.live && (match e.2.wait with | .sema _ b => b == a | _ => false)).map
    (·.1 % 128)

/-- A waiting SEMA acquires a bit that is 0, when the arbiter grants one (R129, R157). -/
def State.semServe (s : State) (cl a : Nat) : State :=
  if (s.semBit cl a).set then s
  else match s.arbDecide { kind := akSem, i := cl } (s.semWaiters cl a) (fun _ => false) 1 with
    | none => s
    | some (r, s1) =>
      let c := cl * 128 + r
      (s1.setSem cl a { set := true, owner := some c }).updCx c fun x =>
        match x.wait with | .sema len _ => (x.setZ true).retireAt len x.waitLock | _ => x

/-- The clear semaphore bits that some context waits for in SEMA, with their clusters. -/
def State.semFree (s : State) : List (Nat × Nat) :=
  (s.ctx.filterMap fun e => match e.2.wait with
    | .sema _ b => if e.2.live && !(s.semBit (clusterOf e.1) b).set then some (clusterOf e.1, b) else none
    | _ => none).eraseDups

/-- The contexts with a device command that is next in turn for its port and has not been sent, or with a descriptor to read: they
wait for a tag or for the lock of another context to end (R73, R77, R308). -/
def State.stalled (s : State) : List Nat :=
  s.liveCtx.filter fun c =>
    let x := s.cx c
    x.squash.isNone && (x.chain.any (fun e => e.sent.isNone && x.chain.all fun o => !(o.port == e.port && decide (o.pos < e.pos))) ||
      (match x.wait with
        | .dcmd _ _ p _ _ none => x.chain.all (fun o => o.port != p)
        | .stripe _ _ _ _ _ d => !s.descOut c && !(decide (d.length ≥ descLen d) && s.pendAcc c (tAcc (sTsel d)))
        | _ => false))

/-- Reads of host memory that wait for a tag (R308): there is one now, and the host can be reached. -/
def State.tagWait (s : State) : Bool :=
  s.on Fld.hpuStat.MODE && (s.freeTag 1).isSome && s.hreq.any fun e => e.2.held && (e.2.purp.ofPeer || s.readable e.2)

/-- The requests that stay raised are decided again: the semaphore arbiters grant the bits that are clear, device commands, host
reads and firmware's reads of descriptors that waited are sent, and movers go on (R72, R73). -/
def State.retry (s : State) : State :=
  let s1 := forAll s.semFree (fun t e => t.semServe e.1 e.2) s
  let s2 := forAll s1.stalled State.kick s1
  let s3 := if s2.tagWait then s2.sendHeld else s2
  let s4 := forAll s3.discReady State.discGo s3
  forAll s4.canGo State.goXf s4

end Sys2Proof.Machine
end

