-- ==== Sys2Proof/Machine/HpcOps.lean ====
section
/-!
DEFINITION. The slots of the hot-plug controller (R486, R492 to R498): states, surprise removal, power-off, outputs, and
debounce.
-/

namespace Sys2Proof.Machine

/-- SLOT_STAT.STATE values (R492). -/
def slEmpty : Nat := 0
/-- Off. -/
def slOff : Nat := 1
/-- PendOn. -/
def slPendOn : Nat := 2
/-- Powering. -/
def slPowering : Nat := 3
/-- On. -/
def slOn : Nat := 4
/-- PendOff. -/
def slPendOff : Nat := 5
/-- OffReq. -/
def slOffReq : Nat := 6
/-- Fault. -/
def slFault : Nat := 7

/-- A slot's state. -/
def State.slot (s : State) (n : Nat) : Nat := s.get (Fld.slotStat.STATE n)

/-- A state with power enable 1 (R492). -/
def slPowered (st : Nat) : Bool := decide (3 ≤ st ∧ st ≤ 6)

/-- A slot's EIC source is raised (R493, R499). -/
def State.slotRaise (s : State) (n : Nat) : State := s.raise (0x10420 + n)

/-- A slot enters a state, with the power enable of R492; a change raises its source (R493). -/
def State.setSlot (s : State) (n st : Nat) : State :=
  let s1 := { s.put (Fld.slotStat.PWR_EN n) (b2n (slPowered st)) with slotOffPend := NSet.del s.slotOffPend n }
  if s.slot n = st then s1 else (s1.put (Fld.slotStat.STATE n) st).slotRaise n

/-- A sticky bit of a slot sets, with its source (R499). -/
def State.slotFlag (s : State) (n : Nat) (f : Nat → Field) : State := (s.put (f n) 1).slotRaise n

/-- The ports of a slot (R494). -/
def State.slotPorts (s : State) (n : Nat) : List Nat :=
  s.validPorts.filter fun p => s.on (Fld.dpData.SLOT_EN p) && s.get (Fld.dpData.SLOT p) == n

/-- Every port of a slot is removed; one already removed stays as it is (R495, R496). -/
def State.slotUnport (s : State) (n : Nat) : State := forAll (s.slotPorts n) State.removePort s

/-- Surprise removal (R496). -/
def State.surprise (s : State) (n : Nat) : State :=
  ((s.slotUnport n).slotFlag n Fld.slotStat.SURPRISE).incSat (Fld.slotStat.REMOVALS n)

/-- The slot is wired to an I3C expander (R486). -/
def State.slotI3c (s : State) (n : Nat) : Bool := decide (s.get (Fld.slotCfg.BUS n) ≥ 2)

/-- Power-off (R495): the ports at once; power enable and the state at the next output update, which on I3C follows the
change. -/
def State.powerOff (s : State) (n : Nat) : State :=
  let s1 := s.slotUnport n
  if s.slotI3c n then s1.setSlot n slOff else { s1 with slotOffPend := NSet.add s1.slotOffPend n }

/-- A cancelling press (R493). -/
def State.slotCancel (s : State) (n : Nat) : State :=
  let st := s.slot n
  (s.setSlot n (if st = slPendOn then slOff else slOn)).slotFlag n Fld.slotStat.CANCELLED

/-- A press (R491, R493); one that comes while the power-off is under way does nothing. -/
def State.slotPress (s : State) (n : Nat) : State :=
  let st := s.slot n
  if NSet.has s.slotOffPend n then s
  else if st = slOff ∧ s.on (Fld.slotStat.LATCH n) then s.setSlot n slPendOn
  else if st = slPendOn ∨ st = slPendOff ∨ st = slOffReq then s.slotCancel n
  else if st = slOn then s.setSlot n slPendOff
  else s.incSat (Fld.slotStat.IGN_PRESS n)

/-- Off with power to come at insertion or latch close (R493). -/
def State.slotAuto (s : State) (n : Nat) : State :=
  if s.slot n = slOff ∧ s.on (Fld.slotCfg.AUTO_ON n) ∧ s.on (Fld.slotStat.LATCH n) then s.setSlot n slPowering else s

/-- Presence has changed (R493). -/
def State.slotPresence (s : State) (n : Nat) (up : Bool) : State :=
  let st := s.slot n
  if up then (if st = slEmpty then (s.setSlot n slOff).slotAuto n else s)
  else if st = slEmpty then s
  else if slPowered st then (s.surprise n).setSlot n slEmpty
  else s.setSlot n slEmpty

/-- The latch has opened or closed (R493). -/
def State.slotLatch (s : State) (n : Nat) (closed : Bool) : State :=
  let st := s.slot n
  if closed then s.slotAuto n
  else if st = slPendOn then s.setSlot n slOff
  else if slPowered st then (s.surprise n).setSlot n slOff
  else s

/-- A power fault has risen (R493); `powered` is whether the slot had power before this sample (R501). -/
def State.slotPfault (s : State) (n : Nat) (powered : Bool) : State :=
  let s1 := if powered then s.slotFlag n Fld.slotStat.PF_SEEN else s
  if slPowered (s1.slot n) then (s1.slotUnport n).setSlot n slFault else s1

/-- The debounced level of input `b` of a slot byte (R486). -/
def slotInput (b n : Nat) : Field :=
  match b with
  | 0 => Fld.slotStat.PRES n
  | 1 => Fld.slotStat.BTN n
  | 2 => Fld.slotStat.LATCH n
  | _ => Fld.slotStat.PFAULT n

/-- One input is sampled at time `t` in microseconds of the always-on clock (R491): the answer says whether its new
level is taken now. -/
def State.debounce (s : State) (n b t : Nat) (level : Bool) : State × Bool :=
  let k := n * 4 + b
  if s.on (slotInput b n) == level then ({ s with slotDeb := SMap.set s.slotDeb 0 k 0 }, false)
  else
    let first := SMap.get s.slotDeb 0 k
    let since := if first = 0 then t else first - 1
    if t - since ≥ 1000 * s.get Fld.hpcCtl.DEB_MS ∧ s.get Fld.pcmStat.DSTATE ≠ 2 then
      ({ s.put (slotInput b n) (b2n level) with slotDeb := SMap.set s.slotDeb 0 k 0 }, true)
    else ({ s with slotDeb := SMap.set s.slotDeb 0 k (since + 1) }, false)

/-- A slot byte is sampled (R486, R491, R493, R501). -/
def State.slotSample (s0 : State) (n t : Nat) (v : Byte) : State :=
  let powered := slPowered (s0.slot n)
  let (s1, p) := s0.debounce n 0 t (v.getLsbD 0)
  let (s2, b) := s1.debounce n 1 t (v.getLsbD 1)
  let (s3, l) := s2.debounce n 2 t (v.getLsbD 2)
  let (s4, f) := s3.debounce n 3 t (v.getLsbD 3)
  let s5 := if p then s4.slotPresence n (v.getLsbD 0) else s4
  let s6 := if l then s5.slotLatch n (v.getLsbD 2) else s5
  let s7 := if f && v.getLsbD 3 then s6.slotPfault n powered else s6
  if b && v.getLsbD 1 then s7.slotPress n else s7

/-- A light in a 2-bit mode is on at a time (R498). -/
def ledOn (mode t : Nat) : Bool :=
  match mode with
  | 0 => false
  | 1 => true
  | 2 => decide (t % 1000000 < 500000)
  | _ => decide (t % 250000 < 125000)

/-- A slot's output byte (R486, R492, R498). -/
def State.slotByte (s : State) (n t : Nat) : Nat :=
  let st := s.slot n
  let act := if s.on (Fld.slotLed.ACT_OVR n) then ledOn (s.get (Fld.slotLed.ACT_MODE n)) t
    else if s.on (Fld.slotCfg.ACT_HW n) then (if st = slPowering then ledOn 2 t else decide (t < SMap.get s.slotActEnd 0 n))
    else false
  let flt := if s.on (Fld.slotLed.FLT_OVR n) then ledOn (s.get (Fld.slotLed.FLT_MODE n)) t else st == slFault
  let att := if s.on (Fld.slotLed.ATT_OVR n) then ledOn (s.get (Fld.slotLed.ATT_MODE n)) t
    else if st = slPendOn ∨ st = slPendOff then ledOn 2 t else st == slOffReq
  b2n act + 2 * b2n (ledOn (s.get (Fld.slotLed.LOC_MODE n)) t) + 4 * b2n flt + 8 * b2n att +
    16 * b2n (s.on (Fld.slotStat.PWR_EN n))

/-- A slot's outputs are driven (R487, R495, R498). -/
def State.slotOutput (s : State) (n t : Nat) : State :=
  let s1 := if NSet.has s.slotOffPend n then s.setSlot n slOff else s
  let s2 := if NSet.has s1.slotAct n then
      { s1 with slotAct := NSet.del s1.slotAct n, slotActEnd := SMap.set s1.slotActEnd 0 n (t + 50000) } else s1
  s2.emit (.slotOut n (s2.slotByte n t))

/-- The enabled slots on a bus. -/
def State.busSlots (s : State) (bus : Nat) : List Nat :=
  below 256 fun n => s.on (Fld.slotCfg.EN n) && s.get (Fld.slotCfg.BUS n) == bus

/-- A slot takes its state from its inputs and its power enable (R497). -/
def State.slotDerive (s : State) (n : Nat) : State :=
  let st := if !s.on (Fld.slotStat.PRES n) then slEmpty
    else if s.on (Fld.slotStat.LATCH n) && s.on (Fld.slotStat.PWR_EN n) then slOn else slOff
  if s.slot n = st then s else (s.put (Fld.slotStat.STATE n) st).slotRaise n

end Sys2Proof.Machine
end

