-- ==== Sys2Proof/Machine/ResetOps.lean ====
section
/-!
DEFINITION. The error lines of the blocks (R394, R520) and what a block reset does to a block and to the work in progress
(R401).
-/

namespace Sys2Proof.Machine

/-! ### Error lines -/

/-- The block has an ERR_LOG (R520). -/
def hasErrLog (i : Nat) : Bool :=
  i == 9 || i == 10 || i == 11 || (decide (12 ≤ i ∧ i ≤ 20)) || (decide (25 ≤ i ∧ i ≤ 29)) || (decide (33 ≤ i ∧ i ≤ 38)) ||
    (decide (40 ≤ i ∧ i ≤ 42)) || i == 63

/-- The cause that a block holds (R394): its log is VALID or its standing condition lasts. -/
def State.fltCause (s : State) (i : Nat) : Bool :=
  (hasErrLog i && s.on (Fld.errLog.VALID i)) ||
  (if i = 0 then s.hostFault || s.ideFault
   else if 1 ≤ i ∧ i ≤ 8 then s.on (Fld.pluErr.VALID (i - 1)) || s.on (Fld.lockbrk.VALID i)
   else if 12 ≤ i ∧ i ≤ 19 then s.on (Fld.lockbrk.VALID i)
   else if 21 ≤ i ∧ i ≤ 24 then s.on (Fld.xferLog.MERR (i - 21))
   else if i = 30 then s.on (Fld.lockbrk.VALID 30)
   else if i = 31 then s.on Fld.eccLog.VALID
   else if i = 32 then s.on Fld.ptrLog.VALID
   else if i = 36 then s.get Fld.cfsStat.STATE == 4
   else if i = 39 then s.on Fld.hpcErr.VALID
   else false)

/-- The level of an error line: low while the block's reset runs, and while it is held (R403, R406). -/
def State.fltLine (s : State) (i : Nat) : Bool :=
  s.fltCause i && !NSet.has s.inReset i && !s.on (Fld.fclReact.HELD i)

/-- The index has a block reset (R394). -/
def canBlockReset (i : Nat) : Bool :=
  decide (i ≤ 8 ∨ (12 ≤ i ∧ i ≤ 19) ∨ (21 ≤ i ∧ i ≤ 28)) || i == 30 || i == 32 || i == 38 || i == 39 || i == 40 || i == 42

/-! ### Block reset -/

/-- The register words that satisfy a condition return to their reset values. -/
def State.resetRegs (s : State) (p : Reg → Bool) : State := { s with regs := s.regs.filter fun e => !p e.1 }

/-- A register of some tables, with the first index `i`. -/
def regIn (ids : List RegId) (i : Nat) (r : Reg) : Bool := ids.contains r.id && r.i == i

/-- The owners of locks that a block keeps end, and their locks break with CAUSE 1 (R401 step 1). -/
def State.breakHeldBy (s : State) (blk : Nat) : State :=
  forAll (s.liveCtx.filter fun c => match (s.cx c).lock with | some r => r.blk == blk | none => false)
    (fun t c => if (t.cx c).live then t.autoEnd c 0x80 { lockCause := 1 } else t) s

/-- A program of a cluster is lost: its queue's LOSTMAP bit sets unless its entry has left (R402). -/
def State.loseProgram (s : State) (c : Nat) : State :=
  let x := s.cx c
  let s1 := if x.posted then s
    else s.put (Fld.lostmap.LOST (x.qid / 64)) (putBits (s.get (Fld.lostmap.LOST (x.qid / 64))) (x.qid % 64) 1 1)
  s1.stopSilent c 1

/-- The reset of a cluster. -/
def State.resetCec (s : State) (cl : Nat) : State :=
  let s1 := forAll (s.liveCtx.filter fun c => clusterOf c == cl) State.loseProgram s
  { s1.resetRegs (fun r => regIn [RegId.pgmStat, .staleLog, .gbtCnt0, .gbtCnt1, .gbtCnt2, .gbtCnt3, .gbtStat, .gbtHist] cl r ||
      regIn [.lockbrk, .errLog] (12 + cl) r) with
    sem := s1.sem.filter (fun e => e.1 / 4096 != cl),
    held := SMap.set s1.held [] cl []
    watch := SMap.set s1.watch [] cl []
    xq := SMap.set s1.xq [] cl []
    staleSeen := SMap.set s1.staleSeen [] cl [] }

/-- The reset of a peer link: it goes Down and starts again as after a failed attempt. -/
def State.resetPlu (s : State) (p : Nat) : State :=
  let s1 := (if s.lState p = 4 then s.linkDown p 4 0 false else s.clearLink p).resetRegs fun r =>
    regIn [.pluErr, .pluCnt, .srcLog, .pluCred] p r || regIn [.lockbrk, .errLog] (1 + p) r
  let s2 := s1.put (Fld.pluStat.ATTEMPTS p) 0
  if !s.on (Fld.pluCtl.EN p) then s2.setLState p 0
  else if s.on (Fld.pluCtl.HOLD p) then s2.setLState p 5
  else if s.on (Fld.pluCtl.AUTO_RETRAIN p) then (s2.setLState p 5).waitRetry p
  else s2.setLState p 6

/-- The transfers that a reset of movers or lanes ends, with CAUSE 13. -/
def State.endTransfers (s : State) (p : Xfer → Bool) : State :=
  s.stopAll (s.xfersBy p) 13 0x30 fun _ => 0

/-- Every FIFO is reset (R371, R401). -/
def State.resetEvf (s : State) : State :=
  let s1 := forAll (List.range 64) (fun t f => t.fReset f) s
  ((s1.resetRegs fun r => r.id == .fifoStat || r.id == .fifoCnt || r.id == .ptrLog).xoffUpdate).level 0x10406 false

/-- Steps 1 and 2 of a block reset (R401); the mask stays. The owners of a cluster's own semaphore locks run in it and end
with it, without entries (R87). -/
def State.blockReset (s0 : State) (i : Nat) : State :=
  let s1 := { s0 with masked := NSet.add s0.masked i }
  let s := if 12 ≤ i ∧ i ≤ 19 then s1 else s1.breakHeldBy i
  if i = 0 then
    { (s.hostDown.put Fld.hpuStat.UNROUTED 0).put Fld.hpuStat.PEER_DROP 0 with
      hostFault := false
      ideFault := false
      ideSecure := false }
  else if 1 ≤ i ∧ i ≤ 8 then s.resetPlu (i - 1)
  else if 12 ≤ i ∧ i ≤ 19 then s.resetCec (i - 12)
  else if 21 ≤ i ∧ i ≤ 24 then
    (s.resetRegs (regIn [.xferLog] (i - 21))).endTransfers fun x => match x.mover with | some m => m.1 == i - 21 | none => false
  else if 25 ≤ i ∧ i ≤ 28 then
    (s.resetRegs (regIn [.errLog] i)).endTransfers fun x => match x.lane with | some l => l / 2 == i - 25 | none => false
  else if i = 30 then
    let cs := s.liveCtx.filter fun c => s.txn.any fun e => match e.2.purp with | .ext c' _ => c' == c | _ => false
    (forAll cs (fun t c => if (t.cx c).live then t.autoEnd c 0x50 { lockCause := 1 } else t) s).resetRegs fun r =>
      regIn [.lockbrk] 30 r || r.id == .extLog || r.id == .extCnt
  else if i = 32 then s.resetEvf
  else if i = 38 then s.resetRegs fun r => regIn [.errLog] 38 r || r.id == .agmDeg || r.id == .agmSram || r.id == .agmLeye
  else if i = 39 then
    let s1 := forAll (below 256 fun n => s.on (Fld.slotCfg.EN n)) (fun t n =>
      t.putAll [(Fld.slotStat.SURPRISE n, 0), (Fld.slotStat.PF_SEEN n, 0), (Fld.slotStat.CANCELLED n, 0),
        (Fld.slotStat.IGN_PRESS n, 0), (Fld.slotStat.REMOVALS n, 0)]) (s.resetRegs fun r => r.id == .hpcErr)
    forAll (below 256 fun n => s.on (Fld.slotCfg.EN n)) State.slotDerive
      { s1 with slotDeb := [], sgOnes := [], i3cNack := [], slotOffPend := [] }
  else if i = 40 ∨ i = 42 then s.resetRegs (regIn [.errLog] i)
  else s

end Sys2Proof.Machine
end

