-- ==== Sys2Proof/Machine/Fcl.lean ====
section
/-!
DEFINITION. The fault collector (R394 to R406): rises and reactions, FAULT_N, and what settles at the end of a command:
squashes that watched lines bring, the King bound, and the error lines.
-/

namespace Sys2Proof.Machine

/-- Some FSW bit with a member of its reaction set is 1. -/
def State.fswWith (s : State) (f : Nat → Field) : Bool :=
  (List.range 64).any fun i => (s.reg ⟨.fclFsw, 0, 0⟩).getLsbD i && s.on (f i)

/-- FCL_INT follows the FSW bits with INT in their sets (R399). -/
def State.fclInt (s : State) : State := s.level 0x10407 (s.fswWith Fld.fclReact.INT)

/-- FAULT_N follows the FSW bits with PIN in their sets: once low it stays low for its 1 microsecond (R400). -/
def State.faultPin (s : State) : State :=
  if s.fswWith Fld.fclReact.PIN then
    if s.faultLow then s else { s with faultLow := true, faultHold := true }
  else if s.faultHold then s else { s with faultLow := false }

/-- The lines that rise now (R395). -/
def State.rises (s : State) : List Nat := below 64 fun i => !(s.reg ⟨.fclFsw, 0, 0⟩).getLsbD i && s.fltLine i

/-- A BLOCK_RESET reaction (R401, R403): at the escalation limit the block is held. -/
def State.reactReset (s : State) (i : Nat) : State :=
  let n := s.get (Fld.fclReact.RST_CNT i)
  let lim := s.get Fld.fclCtl.ESC_LIMIT
  let s1 := (s.incSat (Fld.fclReact.RST_CNT i)).blockReset i
  if lim ≠ 0 ∧ n ≥ lim then s1.put (Fld.fclReact.HELD i) 1 else { s1 with inReset := NSet.add s1.inReset i }

/-- The reactions to the rises of one cycle (R399). -/
def State.react (s : State) (rs : List Nat) : State :=
  let s1 := if rs.any fun i => s.on (Fld.fclReact.NMI i) then s.put Fld.fclNmi.NMI_PEND 1 else s
  if rs.any fun i => s.on (Fld.fclReact.CHIP_RESET i) then { s1 with chipPend := some 3 }
  else forAll (rs.filter fun i => s.on (Fld.fclReact.BLOCK_RESET i)) State.reactReset s1

/-- The rises of one cycle (R396). -/
def State.rise (s : State) (rs : List Nat) : State :=
  match rs with
  | [] => s
  | i :: more =>
    let w := rs.foldl (fun a k => putBits a k 1 1) (s.get Fld.fclFsw.FSW)
    let s1 := s.put Fld.fclFsw.FSW w
    let s2 := if s.on Fld.fclFirst.FIRST_V then s1.put Fld.fclFirst.OVF 1
      else s1.putAll [(Fld.fclFirst.FIRST, i), (Fld.fclFirst.FIRST_V, 1)]
    let s3 := if more.isEmpty then s2 else s2.put Fld.fclFirst.OVF 1
    s3.fclInt.faultPin.react rs

/-- Rises are taken until none is left; a reset can make another block's line rise. -/
def State.riseAll (s : State) : Nat → State
  | 0 => s
  | n + 1 => match s.rises with
    | [] => s
    | rs => (s.rise rs).riseAll n

/-- Watched lines that have been hit squash their checkpoints with cause CONFLICT (R213). -/
def State.takeHits (s : State) : State :=
  forAll s.hits (fun t h => if (t.cx h.1).live then t.squash h.1 (h.2 - 1) .conflict else t) { s with hits := [] }

/-- What follows a command at once: hits, requests that can go now, the error lines, and the King bound. -/
def State.settle (s : State) : State :=
  (((s.takeHits.retry.riseAll 64).retry).fclInt.faultPin).boundUpdate

/-- A command's end. -/
def State.done (s : State) : Res := .next s.settle

end Sys2Proof.Machine
end

