-- ==== Sys2Proof/Machine/Issue.lean ====
section
/-!
DEFINITION. What every instruction does before its own operation: the context must be able to issue, the bytes must
lie in the program segment and the prefixes must be legal, a Stop instruction pauses a speculative path, the locked
sequence opens or ends, the repeat count is latched (chapters 5, 6 and 8).
-/

namespace Sys2Proof.Machine

/-- What the opcode maps and the instruction tables say of an opcode: the prefixes it admits (R151, R153, R154), the
byte of the opcode at which they are judged, the registers it reads, whether it is Stop under Gambit (R161),
whether its width prefix breaks a rule of its own (R144), the byte, counted from the opcode's first, that makes the encoding
undefined (R138), and whether an operand field fails the check of R147. -/
structure Op where
  w : Bool := false
  nib : Bool := false
  rep : Bool := false
  lock : Bool := false
  spec : Bool := false
  king : Bool := false
  at_ : Nat := 0
  rd : List Nat := []
  cf : Bool := false
  acc : List Nat := []
  stop : Bool := false
  bad : Bool := false
  undef : Option Nat := none
  cls : Bool := false

/-- The bytes of an instruction before its opcode (R135). -/
def hdrBase (h : Hdr) : Nat := if h.blk then 2 else 0

/-- An instruction's last byte, counted from its opcode's first. -/
def hdrLast (h : Hdr) : Nat := h.len - 1 - hdrBase h

/-- The byte, counted from the instruction's first, at which its prefixes are illegal under R144; `none` where they
are legal. -/
def badPrefix (op : Op) (h : Hdr) : Option Nat :=
  if h.blk then
    if (h.rpt != .once && h.lock) || (h.spec == .spec && h.lock) then some 1
    else if (match h.width with | .w64 => false | .w4 => !op.nib | _ => !op.w) || (h.rpt != .once && !op.rep)
        || (h.lock && !op.lock) || (h.spec == .spec && !op.spec) || (h.king && !op.king) then some (2 + op.at_)
    else if op.bad then some (2 + op.at_)
    else none
  else if op.bad then some op.at_
  else none

/-- The first byte of an instruction that makes its encoding undefined, 0x10, or its prefix use illegal, 0x11; 0x10 where one
byte does both (R138). -/
def izBadAt (op : Op) (h : Hdr) : Option (Nat × Nat) :=
  match op.undef.map (· + hdrBase h), badPrefix op h with
  | some u, some i => if u ≤ i then some (u, 0x10) else some (i, 0x11)
  | some u, none => some (u, 0x10)
  | none, some i => some (i, 0x11)
  | none, none => none

/-- The decode checks of R138: each byte in turn must lie inside the program segment and be legal; then the operand-class check
of R147. -/
def fetchCheck (op : Op) (h : Hdr) (p : Cpc) : Option Nat :=
  if !p.seg.live then some 0x22
  else if p.seg.inval then some 0x23
  else match izBadAt op h with
    | some (i, st) => if p.off + i < p.seg.limit then some st else some 0x20
    | none => if p.seg.limit < p.off + h.len then some 0x20 else if op.cls then some 0x13 else none

/-- A check fails: on a speculative path the path pauses with no effect (R218); otherwise the program ends with the
status (R103). `s0` is the state before the instruction. -/
def State.trap (s0 : State) (c st : Nat) (i : EndInfo := {}) : Res :=
  if (s0.cx c).speculating then .next (s0.holdPath c) else (s0.autoEnd c st i).done

/-- Another context of the engine is inside a locked sequence, so this one is not granted (R86, R184). -/
def State.engineHeld (s : State) (c : Nat) : Bool :=
  s.ctx.any fun e => e.1 != c && e.1 / 8 == c / 8 && e.2.seqCount.isSome

/-- The context can issue an instruction: its program has started, waits for nothing, is neither parked nor paused
nor being squashed, and its engine is free and running (R462). -/
def State.canIssue (s : State) (c : Nat) : Bool :=
  let x := s.cx c
  x.live && x.started && x.wait == .none && !x.parked && !x.paused && x.squash.isNone && !s.engineHeld c &&
    s.engW (clusterOf c) (engineOf c) == 0

/-- A register the instruction reads is still to be written by a load or a transfer (R161, R239). -/
def State.interlocked (s : State) (c : Nat) (op : Op) : Bool :=
  let x := s.cx c
  op.rd.any x.pendD || (op.cf && x.pendCF) || op.acc.any (s.pendAcc c)

/-- A repeated instruction begins with D15 = 0: it executes zero times and reads no register (R180). -/
def State.noTimes (s : State) (c : Nat) (h : Hdr) : Bool :=
  let x := s.cx c
  h.rpt != .once && !x.regs.repOn && !x.pendD 15 && x.dreg 15 == 0

/-- The locked sequence opens at this instruction, or ends before it when its opcode does not admit LOCK (R183). -/
def Ctx.seqFront (x : Ctx) (op : Op) (h : Hdr) : Ctx :=
  if !op.lock then x.endSeq
  else if h.lock && x.seqCount.isNone then { x with seqCount := some 0 } else x

/-- An instruction whose opcode does not admit LOCK ends the sequence at its decode, though it still waits to issue (R183). -/
def State.decoded (s : State) (c : Nat) (op : Op) : State :=
  if op.lock || (s.cx c).seqCount.isNone then s else s.updCx c Ctx.endSeq

/-- REPZ tests a Z that a load in flight may still write (R161, R178). -/
def Ctx.waitsZ (x : Ctx) (h : Hdr) : Bool := h.rpt == .repz && x.loads.any (·.fz)

/-- The front of every instruction. `k` is its own operation, on the state in which it executes once. -/
def issue (op : Op) (h : Hdr) (s : State) (k : State → Res) : Res :=
  let c := h.ctx.val
  let x := s.cx c
  if !s.canIssue c then .next s
  else match fetchCheck op h x.regs.cpc with
  | some st => s.trap c st { sel := x.regs.cpc.sel }
  | none =>
    if !s.noTimes c h && (s.interlocked c op || x.waitsZ h) then .next (s.decoded c op)
    else if x.speculating && (op.stop || h.spec == .nospec || (h.lock && x.seqCount.isNone)) then .next (s.pause c)
    else
      let x1 := x.seqFront op h
      if h.rpt == .once then k (s.setCx c x1)
      else if x1.regs.repOn then k (s.setCx c x1)
      else if x1.dreg 15 = 0 then .next (s.setCx c ((x1.upd fun r => { r with repc := 0 }).retire h))
      else k (s.setCx c (x1.upd fun r => { r with repc := x1.dreg 15 }))

/-- An instruction that only changes its context and takes part in repeats: `f` is its operation. -/
def simple (op : Op) (h : Hdr) (s : State) (f : Ctx → Ctx) : Res :=
  issue { op with rd := if h.rpt == .once then op.rd else 15 :: op.rd } h s
    fun s1 => .next (s1.updCx h.ctx.val fun x => (f x).iterate h)

end Sys2Proof.Machine
end

