-- ==== Sys2Proof/Machine/BitOps.lean ====
section
/-!
DEFINITION. The bit space (R155 to R158, R174, R175): reading and writing a bit, the checks of R157, the semaphores
and those that wait for them (R129), the lock of a locked sequence (R184, R185), and the opening of a checkpoint (R206 to
R211).
-/

namespace Sys2Proof.Machine

/-! ### Ranges -/

/-- Context-private bits. -/
def bPriv (a : Nat) : Bool := decide (a < 0x100)
/-- The mirror of CF and engine state. -/
def bMirror (a : Nat) : Bool := decide (0x100 ≤ a ∧ a < 0x200)
/-- The mirror of the bound port. -/
def bPort (a : Nat) : Bool := decide (0x200 ≤ a ∧ a < 0x400)
/-- Cluster semaphore bits. -/
def bSem (a : Nat) : Bool := decide (0x400 ≤ a ∧ a < 0x1000)
/-- Device-global event bits. -/
def bEvent (a : Nat) : Bool := decide (0x1000 ≤ a ∧ a < 0x2000)

/-- A bit of the mirror range (R156). -/
def State.mirrorBit (s : State) (c a : Nat) : Bool :=
  let x := s.cx c
  match a with
  | 0x100 => x.regs.cf.z
  | 0x101 => x.regs.cf.n
  | 0x102 => x.regs.cf.c
  | 0x103 => x.regs.cf.v
  | 0x104 => x.regs.cf.dz
  | 0x110 => s.on (Fld.qctx.SUSP_REQ x.qid)
  | 0x111 => !x.chain.isEmpty
  | 0x112 => !x.slots.isEmpty
  | 0x113 => x.regs.bound.isSome
  | 0x114 => x.regs.mst % 2 == 1
  | 0x115 => x.seqCount.isSome
  | _ => false

/-- A status bit of a bound port as a cluster sees it; 0 when no port is bound, or the port is no longer the one that was
bound (R108, R313). -/
def State.portBit (s : State) (cl : Nat) (b : Option (Nat × Nat)) (a : Nat) : Bool :=
  match b with
  | none => false
  | some (p, gen) =>
    s.portLive p gen && (SMap.get s.imgCopy 0 ((cl * 4096 + p) * 8 + (a - 0x200) / 64)).getLsbD ((a - 0x200) % 64)

/-- The value of a bit as a context reads it, with a given binding (R155). -/
def State.bitWith (s : State) (c : Nat) (b : Option (Nat × Nat)) (a : Nat) : Bool :=
  let cl := clusterOf c
  if bPriv a then NSet.has (s.cx c).regs.bits a
  else if bMirror a then s.mirrorBit c a
  else if bPort a then s.portBit cl b a
  else if bSem a then (s.semBit cl a).set
  else NSet.has s.evbCopy (cl * 8192 + a)

/-- The value of a bit as a context reads it now. -/
def State.bitVal (s : State) (c a : Nat) : Bool := s.bitWith c (s.cx c).regs.bound a

/-- A block's ownership forbids an access of a domain (R158). -/
def ownBars (restrict roOthers : Bool) (owner dom : Nat) (write : Bool) : Bool :=
  restrict && owner != dom && (write || !roOthers)

/-- The ownership check of a bit access (R157, R158). -/
def State.bitBarred (s : State) (c a : Nat) (write : Bool) : Bool :=
  let d := (s.cx c).pdom
  if bSem a then
    let b := (a - 0x400) / 64
    let cl := clusterOf c
    ownBars (s.on (Fld.semOwn.RESTRICT cl b)) (s.on (Fld.semOwn.RO_OTHERS cl b)) (s.get (Fld.semOwn.PDOM cl b)) d write
  else if bEvent a then
    let b := (a - 0x1000) / 64
    ownBars (s.on (Fld.gebOwn.RESTRICT b)) (s.on (Fld.gebOwn.RO_OTHERS b)) (s.get (Fld.gebOwn.PDOM b)) d write
  else false

/-- The checks of R157 in the order of R187: the status of the first that fails. `sem` for SEMA, SEMR and SEMT. -/
def State.bitCheck (s : State) (c a : Nat) (write sem : Bool) : Option Nat :=
  if a ≥ 0x2000 ∨ (write ∧ 0x100 ≤ a ∧ a < 0x400) ∨ (sem ∧ !bSem a) then some 0x13
  else if s.bitBarred c a write then some 0x21
  else none

/-! ### Writes -/

/-- A write of a bit by a bit instruction (R174): clearing a semaphore bit clears its owner record; writing the value it
has changes nothing. -/
def State.setBit (s : State) (c a : Nat) (v : Bool) : State :=
  let cl := clusterOf c
  if bPriv a then
    s.updCx c fun x => x.upd fun r => { r with bits := if v then NSet.add r.bits a else NSet.del r.bits a }
  else if bSem a then
    if v then (if (s.semBit cl a).set then s else s.setSem cl a { set := true, owner := none })
    else (s.setSem cl a {}).semServe cl a
  else if bEvent a then s.setEvb a v
  else s

/-! ### The lock of a locked sequence (R184, R185) -/

/-- What the lock-resource step of a member answers: go on, wait at the arbiter, or the check of R185. -/
inductive LockStep where
  | go (s : State)
  | wait
  | bad
deriving Repr

/-- A member of a locked sequence reaches a lockable resource, and so does an instruction outside one: nobody but the
owner of a lock is granted. -/
def State.lockStep (s : State) (c : Nat) (r : Resource) : LockStep :=
  let x := s.cx c
  match x.lock with
  | some h => if h = r then .go s else .bad
  | none =>
    if s.lockedByOther c r then .wait
    else if x.seqCount.isSome then .go (s.setCx c { x with lock := some r })
    else .go s

/-- The lock resource of a semaphore bit: the 64-bit block of SEM_OWN that holds it. -/
def semRes (c a : Nat) : Resource := { kind := 1, blk := 12 + clusterOf c, num := a / 64 * 64 }

/-! ### Recorded reads (R214) -/

/-- A read on a speculative path is recorded for verification under the youngest checkpoint (R214). -/
def State.recordRead (s : State) (c : Nat) (v : VRead) : State :=
  s.updCx c fun x => match x.ckpts.getLast? with
    | none => x
    | some k => { x with ckpts := x.ckpts.dropLast ++ [{ k with verify := k.verify ++ [v] }] }

/-! ### The drain of held stores (R221, R222) -/

/-- A line image as runs of adjoining bytes, each with its offset in the line. -/
def runsOf (bytes : List (Nat × Byte)) : List (Nat × List Byte) :=
  bytes.foldr (fun e acc => match acc with
    | (o, bs) :: r => if e.1 + 1 = o then (e.1, e.2 :: bs) :: r else (e.1, [e.2]) :: (o, bs) :: r
    | [] => [(e.1, [e.2])]) []

/-- One entry of the commit buffer drains as ordinary posted writes of the program (R221, R222). -/
def State.drainEntry (s : State) (h : Held) : State :=
  (forAll (runsOf h.bytes) (fun t r => t.hostWriteBy (some h.ctx) h.func (h.line * 64 + r.1) r.2) s).inc
    (Fld.gbtCnt3.DRAINED (clusterOf h.ctx))

/-- The held stores of a context's oldest checkpoint, in program order. -/
def State.oldestHeld (s : State) (c : Nat) : List Held :=
  (SMap.get s.held [] (clusterOf c)).filter fun h => h.ctx == c && h.ckpt == 1

/-- The drain of a context's oldest checkpoint meets a write that cannot reach the host (R329, R334): the entries before it drain,
and the program ends. -/
def State.drainDead (s : State) (c : Nat) : State :=
  (forAll ((s.oldestHeld c).takeWhile fun h => s.hostOk h.func) State.drainEntry s).autoEnd c 0x30

/-- A page that a drain needs is refused: the entries before it drain, and the program ends (R197, R222). -/
def State.refuseDrain (s : State) (c func page : Nat) : State :=
  let k := match (s.cx c).ckpts.head? with | some e => e.outcome == some e.predicted | none => false
  let hs := s.oldestHeld c
  let hit (h : Held) : Bool := h.func == func && h.line / 64 == page
  match k, hs.find? hit with
  | true, some h => (forAll (hs.takeWhile fun e => !hit e) State.drainEntry s).autoEnd c 0x21 { sel := h.sel }
  | _, _ => s

end Sys2Proof.Machine
end

