-- ==== Sys2Proof/Machine/Bpm.lean ====
section
/-!
DEFINITION. Buffer pools: BALLOC, BFREE, their waits, the free ring's refill, host frees, and the enabling and disabling of
a pool (R195, R217, R255 to R264, R269).
-/

namespace Sys2Proof.Machine

/-- A program ends with 0x90, and its pool counts it (R259, R267). -/
def State.exhaust (s : State) (c p : Nat) : State := (s.incSat (Fld.poolData.EXHAUST p)).autoEnd c 0x90

/-- A waiting allocation is withdrawn from its pool's list. -/
def State.unwait (s : State) (c p : Nat) : State := s.setPl p { s.pl p with waiters := (s.pl p).waiters.filter (· != c) }

/-- BALLOC (R195, R217, R259). -/
def execBalloc (h : Hdr) (sr : Fin 16) (d : Fin 16) (imm : BitVec 16) (s : State) : Res :=
  let c := h.ctx.val
  let p := imm.toNat % 4096
  issue {} h s fun s1 =>
    let x := s1.cx c
    if imm.toNat ≥ 4096 then s1.trap c 0x10
    else if !s1.on (Fld.poolData.EN p) then s1.trap c 0x22
    else if s1.get (Fld.poolData.PDOM p) ≠ x.pdom then s1.trap c 0x21
    else if x.speculating then
      if x.regs.allocs.length ≥ 16 ∨ s1.marginBars c p then .next (s.pause c)
      else
        .next (((s1.setPl p { s1.pl p with waiters := (s1.pl p).waiters ++ [c] }).updCx c fun y =>
          { y with wait := .balloc h.len sr.val d.val p, waitLock := h.lock }).servePool p)
    else if x.regs.allocs.length ≥ 16 then (s1.exhaust c p).done
    else
      let s2 := ((s1.setPl p { s1.pl p with waiters := (s1.pl p).waiters ++ [c] }).updCx c fun y =>
        { y with wait := .balloc h.len sr.val d.val p, waitLock := h.lock }).servePool p
      match (s2.cx c).wait with
      | .balloc .. =>
        if s2.get (Fld.poolData.FREE p) = 0 ∧ s2.get (Fld.poolData.WAIT_LIMIT p) = 0 then ((s2.unwait c p).exhaust c p).done
        else .next s2
      | _ => .next s2

/-- The segment registers of a context that hold a buffer's descriptor are marked invalidated (R195). -/
def Ctx.markHandle (x : Ctx) (hd : Nat) : Ctx :=
  x.upd fun r => { r with seg := r.seg.map fun e => if e.2.handle == some hd then (e.1, { e.2 with inval := true }) else e }

/-- BFREE (R195, R212, R260, R261): on a speculative path the return to the pool is held under the youngest checkpoint, and it is
judged when it is made. -/
def execBfree (h : Hdr) (d : Fin 16) (s : State) : Res :=
  let c := h.ctx.val
  issue { rd := [d.val] } h s fun s1 =>
    let x := s1.cx c
    let v := (x.dreg d.val).toNat
    let p := handlePool v
    let ix := handleIndex v
    if !s1.on (Fld.poolData.EN p) then s1.trap c 0x22
    else if s1.get (Fld.poolData.PDOM p) ≠ x.pdom then s1.trap c 0x21
    else if ix ≥ s1.get (Fld.poolData.NBUF p) then s1.trap c 0x22
    else if !x.speculating && s1.alreadyFree p ix then .fault (.unpredictable 260)
    else
      let hd := handleOf p ix
      let s2 := s1.updCx c fun y =>
        (((y.markHandle hd).upd fun r => { r with
          allocs := NSet.del r.allocs hd
          freesHeld := if x.speculating then r.freesHeld ++ [(hd, x.ckpts.length)] else r.freesHeld })).retire h
      (if x.speculating then s2 else s2.freeBuf p ix).done

/-- A BALLOC reaches its wait limit with no buffer free (R259, R269); a free in the same cycle has already served it. -/
def execBallocWaitExpiry (ctx : Fin 1024) (s : State) : Res :=
  let c := ctx.val
  match (s.cx c).wait with
  | .balloc _ _ _ p =>
    if s.get (Fld.poolData.FREE p) > 0 ∧ (s.pl p).refill then .next s
    else if (s.cx c).speculating then .next ((s.unwait c p).pause c)
    else ((s.unwait c p).exhaust c p).done
  | _ => .next s

/-- The free ring's entries arrive (R258): what was written there comes back, in ring order; anything else means that the
driver wrote the ring, with an unpredictable result. -/
def execFreeRingRefill (pool : Fin 4096) (ix : List (BitVec 32)) (s : State) : Res :=
  let p := pool.val
  match s.hreq.find? (fun e => e.2.purp == .ring p) with
  | none => .next s
  | some (id, q) =>
    let got := ix.map (·.toNat)
    if q.held ∨ (s.on Fld.hpuStat.MODE ∧ !q.dead) then .next s
    else if q.dead then (s.hostReadFail id).done
    else if 4 * got.length ≠ q.n then .next s
    else if got ≠ (s.pl p).ring.take got.length then .fault (.unpredictable 258)
    else .next ((s.dropHreq id).ringData p got)

/-- A PF write of a handle to BPM_HFREE (R262). -/
def execBpmHfree (handle : BitVec 64) (s : State) : Res :=
  let p := handlePool handle.toNat
  let ix := handleIndex handle.toNat
  if !s.on (Fld.poolData.EN p) || decide (ix ≥ s.get (Fld.poolData.NBUF p)) then .next (s.incSat Fld.bpmStat.HFREE_REJ)
  else if s.alreadyFree p ix then .fault (.unpredictable 260)
  else (s.freeBuf p ix).done

/-- The enabled pools, rising. -/
def State.poolsOn (s : State) : List Nat := below 4096 fun p => s.on (Fld.poolData.EN p)

/-- The bytes of a pool. -/
def State.poolBytes (s : State) (p : Nat) : Nat := s.get (Fld.poolData.NBUF p) * s.bufSize p

/-- The cause with which an enable is rejected (R255, R267). -/
def State.poolReject (s : State) (p : Nat) : Option Nat :=
  let n := s.get (Fld.poolData.NBUF p)
  if s.get (Fld.poolData.BACKING p) = 3 ∨ s.get (Fld.poolData.BUF_LOG2 p) > 10 ∨ n = 0 ∨ n > 2 ^ 30 then some 4
  else if s.poolsOn.foldl (fun a q => a + s.get (Fld.poolData.NBUF q)) n > 2 ^ 30 then some 2
  else if s.poolsOn.foldl (fun a q => a + s.poolBytes q) (s.poolBytes p) > 2 ^ 42 then some 3
  else none

/-- In Roloa-native mode a pool's free ring or its buffers reach beyond the 48-bit addresses of HOST (R337). -/
def State.poolFar (s : State) (p : Nat) : Bool :=
  s.on Fld.hpuStat.MODE &&
    (decide (s.get (Fld.poolData.FREE_BASE p) * 4096 + 4 * s.get (Fld.poolData.NBUF p) > 2 ^ 48) ||
      (s.get (Fld.poolData.BACKING p) == 0 && decide (s.get (Fld.poolData.BACK_BASE p) * 4096 + s.poolBytes p > 2 ^ 48)))

/-- A rejected pool write (R264). -/
def State.poolRejected (s : State) (cause : Nat) : State :=
  s.putAll [(Fld.bpmStat.REJECT, 1), (Fld.bpmStat.REJ_CAUSE, cause)]

/-- Setting a pool's EN (R255, R264). -/
def execPoolEnable (pool : Fin 4096) (s : State) : Res :=
  let p := pool.val
  if s.on (Fld.poolData.EN p) then .next s
  else match s.poolReject p with
    | some cause => .next (s.poolRejected cause)
    | none =>
      if s.poolFar p then .fault (.unpredictable 337) else
      let n := s.get (Fld.poolData.NBUF p)
      .next (((s.putAll
        [(Fld.poolData.EN p, 1), (Fld.poolData.FREE p, n), (Fld.poolData.FRESH p, 0), (Fld.poolData.CACHED p, 0),
         (Fld.poolData.EXHAUST p, 0), (Fld.bpmStat.TOTAL_BUF, s.get Fld.bpmStat.TOTAL_BUF + n),
         (Fld.bpmStat.POOLS_EN, s.get Fld.bpmStat.POOLS_EN + 1)]).setPl p {}).poolLow p)

/-- The allocation records that name a pool are dropped from a context's registers. -/
def CtxRegs.dropPool (r : CtxRegs) (p : Nat) : CtxRegs :=
  { r with allocs := r.allocs.filter fun h => handlePool h != p
           freesHeld := r.freesHeld.filter fun e => handlePool e.1 != p }

/-- The same over a context and its checkpoints. -/
def Ctx.dropPool (x : Ctx) (p : Nat) : Ctx :=
  { x.upd (fun r => r.dropPool p) with
    ckpts := x.ckpts.map fun k => { k with saved := k.saved.dropPool p, allocs := k.allocs.filter fun h => handlePool h != p } }

/-- Clearing a pool's EN (R264): the waiting allocations end with 0x22, and allocation records are dropped. -/
def execPoolDisable (pool : Fin 4096) (s : State) : Res :=
  let p := pool.val
  if !s.on (Fld.poolData.EN p) then .next s
  else
    let ws := (s.pl p).waiters
    let s1 := s.putAll [(Fld.poolData.EN p, 0),
      (Fld.bpmStat.TOTAL_BUF, s.get Fld.bpmStat.TOTAL_BUF - s.get (Fld.poolData.NBUF p)),
      (Fld.bpmStat.POOLS_EN, s.get Fld.bpmStat.POOLS_EN - 1)]
    let s2 := forAll s1.liveCtx (fun t c => t.updCx c fun x => x.dropPool p) s1
    let s3 := { s2.setPl p {} with hreq := abandonH (fun q => q == Purpose.ring p) s2.hreq }
    (forAll ws (fun t c => t.waitTrap c 0x22 0) s3).done

end Sys2Proof.Machine
end

