-- ==== Sys2Proof/Machine/EicOps.lean ====
section
/-!
DEFINITION. The event and interrupt controller as operations: targets and routing (R377 to R381), the record and its exit
(R380, R382, R384, R385), messages (R384), and the effect of a function-level reset (R390).
-/

namespace Sys2Proof.Machine

/-- A delivery target's own state; targets from 4096 on are the management cores. -/
def State.et (s : State) (t : Nat) : EicTgt := SMap.get s.eic {} t
/-- That state replaced. -/
def State.setEt (s : State) (t : Nat) (x : EicTgt) : State := { s with eic := SMap.set s.eic {} t x }

/-- The target that a source names (R378): a private source always its own core. -/
def State.srcTgt (s : State) (src : Nat) : Nat :=
  if src ≥ 0x10800 then 4096 + (src - 0x10800) / 256
  else if s.on (Fld.srcCfg.TGT_CORE src) then 4096 + s.get (Fld.srcCfg.TGT src) % 4
  else s.get (Fld.srcCfg.TGT src)

/-- The function that owns a source (R374); the private sources have none. -/
def State.srcFunc (s : State) (src : Nat) : Option Nat :=
  if src < 0x10000 then (if s.on (Fld.grp.ASSIGNED (src / 16)) then some (s.qFunc src) else none)
  else if src < 0x10400 then some (src - 0x10000)
  else if src < 0x10800 then some 0
  else none

/-- The routing check of R378. -/
def State.routeOk (s : State) (src : Nat) : Bool :=
  let t := s.srcTgt src
  if t < 4096 then s.srcFunc src == some (s.get (Fld.eqData.FUNC t))
  else decide (src ≥ 0x10400)

/-- A ring is full (R379). -/
def ringFull (tail head lg : Nat) : Bool := (tail + 2 ^ lg - head % 2 ^ lg) % 2 ^ lg == 2 ^ lg - 1

/-- A target takes deliveries, but for being full (R381). -/
def State.tgtUsable (s : State) (t : Nat) : Bool :=
  if t < 4096 then s.on (Fld.eqData.EN t) && !s.on (Fld.eqData.ERR t) && s.funcRuns (s.get (Fld.eqData.FUNC t))
  else s.on (Fld.coreEq.EN (t - 4096))

/-- A target's ring is full. -/
def State.tgtFull (s : State) (t : Nat) : Bool :=
  if t < 4096 then ringFull (s.get (Fld.eqData.TAIL t)) (s.get (Fld.eqData.HEAD t)) (s.get (Fld.eqData.LOG2 t))
  else
    let c := t - 4096
    ringFull (s.get (Fld.coreEq.TAIL c)) (s.get (Fld.coreEq.HEAD c)) (s.get (Fld.coreEq.LOG2 c))

/-- A source is held in an entry of another target, where a change of its target does not move it (R392). -/
def State.heldElsewhere (s : State) (t src : Nat) : Bool :=
  s.eic.any fun e => e.1 != t && (match e.2.held with | some h => h.1 == src | none => false)

/-- The pending unmasked sources that name a target, rising. -/
def State.tgtPending (s : State) (t : Nat) : List Nat :=
  (s.regs.filter fun e => e.1.id == .srcStat && e.2.getLsbD 0 && !s.on (Fld.srcCfg.MASK e.1.i) && s.srcTgt e.1.i == t &&
    !s.heldElsewhere t e.1.i).map (·.1.i)

/-- A target selects at all (R378): it is enabled and not in error. -/
def State.tgtSelects (s : State) (t : Nat) : Bool :=
  if t < 4096 then s.on (Fld.eqData.EN t) && !s.on (Fld.eqData.ERR t) else s.on (Fld.coreEq.EN (t - 4096))

/-- A source that fails the routing check at a selection (R378). -/
def State.misroute (s : State) (src : Nat) : State :=
  let s1 := s.put (Fld.srcStat.MISROUTE src) 1
  if NSet.has s1.misEp src then s1
  else { s1.incSat Fld.eicStat.MISROUTED with misEp := NSet.add s1.misEp src }

/-- The best of some sources (R377, R381): the lowest priority, then the first at or after the pointer. -/
def State.bestSrc (s : State) (t : Nat) (l : List Nat) : Option Nat :=
  let p := l.foldl (fun m r => Nat.min m (s.get (Fld.srcCfg.PRI r))) 256
  fromPtr (l.filter fun r => s.get (Fld.srcCfg.PRI r) == p) (s.et t).ptr

/-- The group priority (R377). -/
def State.grpPri (s : State) (pri : Nat) : Nat := pri / 2 ^ s.get Fld.eicCtl.PRIGROUP

/-- A target holds a source in an entry with the priority sampled now. -/
def State.holdSrc (s : State) (t src : Nat) : State :=
  s.setEt t { s.et t with held := some (src, s.get (Fld.srcCfg.PRI src)), ptr := (src + 1) % 0x10C00 }

/-- An entry ends without a write (R383, R386). -/
def State.dropEntry (s : State) (t : Nat) : State := s.setEt t { s.et t with held := none }

/-- The entry that holds a source ends. -/
def State.dropEntryOf (s : State) (src : Nat) : State :=
  forAll (s.eic.map (·.1)) (fun u t => match (u.et t).held with | some h => if h.1 = src then u.dropEntry t else u | none => u) s

/-- The entries of the event queues of a function end (R383). -/
def State.dropEntriesFunc (s : State) (f : Nat) : State :=
  forAll (s.eic.map (·.1)) (fun u t => if t < 4096 ∧ u.get (Fld.eqData.FUNC t) = f then u.dropEntry t else u) s

/-- The input of a level source (R375). -/
def State.levelInput (s : State) (src : Nat) : Bool :=
  if src = 0x10406 then s.wmSeen else if src = 0x10407 then s.fswWith Fld.fclReact.INT else false

/-- The 16 bytes of a record (R380). -/
def State.recordBytes (s : State) (src pri cnt phase : Nat) : List Byte :=
  toBytes 4 (src + phase * 2 ^ 17 + b2n (isLevel src) * 2 ^ 18 + cnt * 2 ^ 24) ++
    toBytes 4 (pri + s.get (Fld.srcStat.MEPOCH src) * 2 ^ 8) ++ toBytes 4 s.time ++
    toBytes 4 (if src < 0x10000 then s.get (Fld.qctx.CQ_TAIL src) else 0)

/-- A record of a source has issued: PEND and CNT clear; a level source becomes active (R376). -/
def State.srcTaken (s : State) (src : Nat) : State :=
  let s1 := s.putAll [(Fld.srcStat.PEND src, 0), (Fld.srcStat.CNT src, 0)]
  if isLevel src && s1.levelInput src then s1.put (Fld.srcStat.ACT src) 1 else s1

/-- The moderation's part of an exit to an event queue that was empty or not (R384, R385). -/
def State.moderate (s : State) (q : Nat) (wasEmpty : Bool) : State :=
  let x := s.et q
  let now := s.time
  let idleT := s.get (Fld.eqData.IDLE_TIME q)
  let x1 := if wasEmpty && !x.due then
      let idle := idleT != 0 && (match x.last with | none => true | some l => decide (now - l > idleT))
      { x with due := true, dueAt := now, n := 0, bypass := s.get (Fld.eqData.MOD_TIME q) == 0 || idle }
    else x
  s.setEt q { x1 with n := if x1.due then x1.n + 1 else x1.n, last := some now }

/-- An event queue's record issues and its exit follows. -/
def State.recordEq (s : State) (q src pri : Nat) : State :=
  let tail := s.get (Fld.eqData.TAIL q)
  let lg := s.get (Fld.eqData.LOG2 q)
  let ph := s.get (Fld.eqData.PHASE q)
  let bs := s.recordBytes src pri (s.get (Fld.srcStat.CNT src)) ph
  let s1 := (s.hostWrite (s.get (Fld.eqData.FUNC q)) (s.get (Fld.eqData.BASE q) * 4096 + tail * 16) bs).srcTaken src
  let t' := (tail + 1) % 2 ^ lg
  (((s1.putAll [(Fld.eqData.TAIL q, t'), (Fld.eqData.PHASE q, if t' = 0 then 1 - ph else ph)]).moderate q
    (tail == s.get (Fld.eqData.HEAD q)))).dropEntry q

/-- A core's record is written into management SRAM (R391). -/
def State.recordCore (s : State) (c src pri : Nat) : State :=
  let tail := s.get (Fld.coreEq.TAIL c)
  let lg := s.get (Fld.coreEq.LOG2 c)
  let ph := s.get (Fld.coreEq.PHASE c)
  let bs := s.recordBytes src pri (s.get (Fld.srcStat.CNT src)) ph
  let s1 := { s with msram := Memory.writeL s.msram (s.get (Fld.coreEq.BASE c) * 4096 + tail * 16) bs }.srcTaken src
  let t' := (tail + 1) % 2 ^ lg
  let s2 := s1.putAll [(Fld.coreEq.TAIL c, t'), (Fld.coreEq.PHASE c, if t' = 0 then 1 - ph else ph)]
  (if tail = s.get (Fld.coreEq.HEAD c) then s2.put (Fld.coreEq.EV_PEND c) 1 else s2).dropEntry (4096 + c)

/-- A record write of a queue fails (R389). -/
def State.recordFail (s : State) (q src cnt addr : Nat) : State :=
  let s1 := (s.put (Fld.eqData.ERR q) 1).dropEntry q
  let s2 := s1.setPend src
  let s3 := s2.put (Fld.srcStat.CNT src) (Nat.min 255 (s2.get (Fld.srcStat.CNT src) + cnt))
  if src < 0x10000 then s3.queueError src 2 addr else s3

/-! ### Messages -/

/-- A word of an MSI-X table entry. -/
def State.msixWord (s : State) (f v k : Nat) : Nat := SMap.get s.msix 0 ((f * 2048 + v) * 4 + k)

/-- The Mask bit of an entry: 1 at reset. -/
def State.msixMasked (s : State) (f v : Nat) : Bool := s.msixWord f v 3 % 2 == 0 || NSet.has s.msixFmask f

/-- The entries of a function's MSI-X table (R339, R340). -/
def msixCount (f : Nat) : Nat := if f = 0 then 2048 else 64

/-- The message of an entry leaves: a CXL.io write, or in Roloa-native mode an MWR of one word at HOST (R27, R337). -/
def State.msixEmit (s : State) (f v : Nat) : State :=
  let a := s.msixWord f v 0 + s.msixWord f v 1 * 2 ^ 32
  let d := s.msixWord f v 2
  if !s.hostOk f then s
  else if s.on Fld.hpuStat.MODE then s.sendRouted { mwrPkt 0x60 s.hostNode (a % 2 ^ 48) (toBytes 4 d) 1 false with src := s.selfNode }
  else s.emit (.msix f v a d)

/-- A function's messages are on: MSI-X Enable is 1, or there is no configuration space to hold it (R337, R384, log entry 80). -/
def State.msixOn (s : State) (f : Nat) : Bool := s.on Fld.hpuStat.MODE || NSet.has s.msixEn f

/-- A message becomes due at its table entry (R384): discarded while MSI-X is off, pending under a mask. -/
def State.msixSend (s : State) (f v : Nat) : State :=
  if !s.msixOn f then s
  else if s.msixMasked f v then { s with pba := NSet.add s.pba (f * 2048 + v) }
  else s.msixEmit f v

/-- A message that waits in the PBA is sent once nothing masks it. -/
def State.msixPoke (s : State) (f v : Nat) : State :=
  if NSet.has s.pba (f * 2048 + v) ∧ s.msixOn f ∧ !s.msixMasked f v then
    { s.msixEmit f v with pba := NSet.del s.pba (f * 2048 + v) }
  else s

/-! ### Rings in host memory (R38, R379) -/

/-- A ring in host memory: whose addresses, where it begins, and its bytes. In Roloa-native mode every ring is at HOST (R337). -/
structure Ring where
  func : Nat
  base : Nat
  size : Nat
deriving DecidableEq, Repr

/-- Two rings have a byte in common. -/
def Ring.meets (a b : Ring) : Bool :=
  a.func == b.func && decide (a.base < b.base + b.size ∧ b.base < a.base + a.size)

/-- The function in whose addresses a ring of `f` stands. -/
def State.ringFunc (s : State) (f : Nat) : Nat := if s.on Fld.hpuStat.MODE then 0 else f

/-- The submission ring and the completion ring of a queue (R38). -/
def State.sqRing (s : State) (q : Nat) : Ring :=
  ⟨s.ringFunc (s.qFunc q), s.get (Fld.qctx.SQ_BASE q) * 4096, 64 * 2 ^ s.get (Fld.qctx.SQ_LOG2 q)⟩
def State.cqRing (s : State) (q : Nat) : Ring :=
  ⟨s.ringFunc (s.qFunc q), s.get (Fld.qctx.CQ_BASE q) * 4096, 32 * 2 ^ s.get (Fld.qctx.CQ_LOG2 q)⟩

/-- The ring of an event queue (R379). -/
def State.eqRing (s : State) (q : Nat) : Ring :=
  ⟨s.ringFunc (s.get (Fld.eqData.FUNC q)), s.get (Fld.eqData.BASE q) * 4096, 16 * 2 ^ s.get (Fld.eqData.LOG2 q)⟩

/-- The rings of the enabled queues but `q`. -/
def State.queueRings (s : State) (q : Option Nat) : List Ring :=
  (s.enabledQueues.filter fun i => some i != q).flatMap fun i => [s.sqRing i, s.cqRing i]

/-- The rings of the enabled event queues but `q`. -/
def State.eventRings (s : State) (q : Option Nat) : List Ring :=
  ((s.regs.filter fun e => e.1.id == .eqData && e.1.j == 0 && e.2.getLsbD 0 && some e.1.i != q).map (·.1.i)).map s.eqRing

/-- A queue's rings overlap each other or a ring in use (R38). -/
def State.ringClash (s : State) (q : Nat) : Bool :=
  (s.sqRing q).meets (s.cqRing q) ||
    (s.queueRings (some q) ++ s.eventRings none).any fun r => r.meets (s.sqRing q) || r.meets (s.cqRing q)

/-- An event queue's ring overlaps a ring in use (R38, R379). -/
def State.eqClash (s : State) (q : Nat) : Bool :=
  (s.queueRings none ++ s.eventRings (some q)).any fun r => r.meets (s.eqRing q)

/-- In Roloa-native mode an event queue's ring reaches beyond the 48-bit addresses of HOST (R337). -/
def State.eqFar (s : State) (q : Nat) : Bool :=
  s.on Fld.hpuStat.MODE && decide ((s.eqRing q).base + (s.eqRing q).size > 2 ^ 48)

/-! ### Queues of the EIC -/

/-- An event queue is disabled (R383, R393). -/
def State.eqDisable (s : State) (q : Nat) : State :=
  (s.put (Fld.eqData.EN q) 0).setEt q { s.et q with held := none, due := false }

/-- An event queue is enabled (R392). -/
def State.eqEnable (s : State) (q : Nat) : State :=
  (s.putAll [(Fld.eqData.EN q, 1), (Fld.eqData.ERR q, 0), (Fld.eqData.TAIL q, 0), (Fld.eqData.HEAD q, 0),
    (Fld.eqData.PHASE q, 1), (Fld.eqData.SPURIOUS q, 0)]).setEt q { ptr := (s.et q).ptr }

/-- A source loses PEND and CNT, and an entry that holds it ends (R383, R392). A level source whose input is still 1
becomes pending again unless it is active. -/
def State.srcClear (s : State) (src : Nat) : State :=
  let s1 := (s.putAll [(Fld.srcStat.PEND src, 0), (Fld.srcStat.CNT src, 0)]).dropEntryOf src
  if isLevel src then s1.level src (s1.levelInput src) else s1

/-- SRC_CFG is written (R386, R392): a private source keeps its core; a mask that sets adds to MEPOCH and suppresses a
record in entry. -/
def State.srcCfg (s : State) (src val : Nat) : State :=
  let mask := bitsOf val 0 1
  let s1 := s.putAll [(Fld.srcCfg.MASK src, mask), (Fld.srcCfg.PRI src, bitsOf val 1 8)]
  let s2 := if src < 0x10800 then
    s1.putAll [(Fld.srcCfg.TGT_CORE src, bitsOf val 9 1), (Fld.srcCfg.TGT src, bitsOf val 10 12)] else s1
  if mask = 1 ∧ !s.on (Fld.srcCfg.MASK src) then (s2.inc (Fld.srcStat.MEPOCH src)).dropEntryOf src else s2

/-- A function-level reset's part in the EIC (R390). -/
def State.eicFlr (s : State) (f : Nat) : State :=
  let qs := (s.regs.filter fun e => e.1.id == .eqData && e.1.j == 0).map (·.1.i)
  let s1 := forAll (qs.filter fun q => s.get (Fld.eqData.FUNC q) == f) State.eqDisable s
  let own := (s1.regs.filter fun e => e.1.id == .srcStat && s1.srcFunc e.1.i == some f).map (·.1.i)
  forAll own (fun t src => (t.put (Fld.srcStat.ACT src) 0).srcClear src) s1

end Sys2Proof.Machine
end

