-- ==== Sys2Proof/Machine/RegMap.lean ====
section
/-!
DEFINITION. Where the registers stand in BAR0 (R15 to R19): which register word lies at an offset, which of its bits a
write may change, and what a write does to them by the field types of R12.
-/

namespace Sys2Proof.Machine

/-! ### Places -/

/-- `n` numbered words from offset `base` up. -/
def inArr (o base n : Nat) (f : Nat → Reg) : Option Reg :=
  if base ≤ o ∧ o < base + 8 * n then some (f ((o - base) / 8)) else none

/-- The first of some places that is one. -/
def firstOf : List (Option Reg) → Option Reg
  | [] => none
  | some r :: _ => some r
  | none :: l => firstOf l

/-- One word of a register that is not numbered. -/
def at1 (o base : Nat) (id : RegId) : Option Reg := inArr o base 1 fun _ => ⟨id, 0, 0⟩
/-- One word of copy `i`. -/
def atI (o base : Nat) (id : RegId) (i : Nat) : Option Reg := inArr o base 1 fun _ => ⟨id, i, 0⟩
/-- `n` copies, one word each. -/
def atN (o base n : Nat) (id : RegId) : Option Reg := inArr o base n fun k => ⟨id, k, 0⟩
/-- `n` words of copy `i`. -/
def atW (o base n : Nat) (id : RegId) (i : Nat) : Option Reg := inArr o base n fun k => ⟨id, i, k⟩

/-- The register word at an offset of an expert block (R18, and the register tables of the chapters); selectors choose
what the word at a window's offset is. The QMU's ERR_LOG stands before GRP[4064], whose offset R56 gives too (log
entry 4). -/
def State.blockReg (s : State) (b o : Nat) : Option Reg :=
  if b = 0 then firstOf [at1 o 0 .hpuCtl, at1 o 8 .hpuStat, atN o 0x100 8 .hpuPeer]
  else if b ≤ 8 then
    let p := b - 1
    firstOf [atI o 0 .pluCtl p, atI o 8 .pluStat p, atW o 0x20 4 .pluCred p, atI o 0x100 .pluErr p, atI o 0x108 .pluCnt p,
      atI o 0x110 .srcLog p, atI o 0xF000 .lockbrk b]
  else if b = 9 then
    firstOf [at1 o 0 .fxbCtl, at1 o 8 .fxbCommit, at1 o 0x10 .fxbVc,
      if 0x100 ≤ o ∧ o < 0x200 ∧ (o - 0x100) / 8 % 8 < 5 then some ⟨.fxbIw, (o - 0x100) / 0x40, (o - 0x100) / 8 % 8⟩ else none,
      at1 o 0x3000 .rtCtl, atN o 0x3100 32 .nodeRt, atN o 0x3200 32 .domRt, atN o 0x3300 32 .nodeRtA,
      atN o 0x3400 32 .domRtA, at1 o 0x3800 .txnCtl, at1 o 0x3808 .txnStat, atI o 0xFF00 .errLog b]
  else if b = 10 then
    firstOf [at1 o 0x10 .qctxSel, atW o 0x80 8 .qctx (s.get Fld.qctxSel.QID), at1 o 0x100 .qctl, at1 o 0x108 .qmuStat,
      atI o 0xFF00 .errLog b, atN o 0x8000 4096 .grp]
  else if b = 11 then
    firstOf [at1 o 0 .qscCtl, at1 o 8 .qscCommit, at1 o 0x10 .clsW, at1 o 0x18 .cluW, at1 o 0x20 .kingQuota,
      at1 o 0x28 .kingStat, at1 o 0x30 .kstCtl, at1 o 0x40 .qwSel, atW o 0x48 2 .qwData (s.get Fld.qwSel.GROUP),
      atN o 0x1000 128 .kstShadow, atN o 0x1400 128 .kstActive, atN o 0x2000 512 .grpW, atI o 0xFF00 .errLog b]
  else if b ≤ 19 then
    let c := b - 12
    firstOf [atI o 0x100 .pgmCtl c, atI o 0x108 .pgmStat c, atI o 0x110 .staleLog c, atW o 0x200 48 .semOwn c,
      atI o 0x400 .gbtCtl c, atI o 0x408 .gbtCnt0 c, atI o 0x410 .gbtCnt1 c, atI o 0x418 .gbtCnt2 c, atI o 0x420 .gbtCnt3 c,
      atI o 0x428 .gbtClr c, atI o 0x430 .gbtStat c, atI o 0x440 .gbtHsel c,
      inArr o 0x448 1 fun _ => ⟨.gbtHist, c, s.get (Fld.gbtHsel.QID c)⟩, atI o 0xF000 .lockbrk b, atI o 0xFF00 .errLog b]
  else if b = 20 then
    firstOf [at1 o 0x10 .pdSel, atW o 0x20 2 .pdData (s.get Fld.pdSel.PDOM), at1 o 0x100 .invCmd, at1 o 0x108 .invStat,
      at1 o 0x110 .segvLog, at1 o 0x200 .dpSel, at1 o 0x208 .dpCmd, at1 o 0x210 .dpStat,
      atW o 0x240 4 .dpData (s.get Fld.dpSel.PORT), atW o 0x280 8 .dpImage (s.get Fld.dpSel.PORT), atI o 0xFF00 .errLog b]
  else if b ≤ 24 then
    let g := b - 21
    firstOf [atI o 0 .dmgCtl g, atI o 8 .dmgCommit g, atI o 0x10 .dmgCw g, atI o 0x200 .xferLog g]
  else if b ≤ 28 then firstOf [atI o 0 .txlStat (b - 25), atI o 0xFF00 .errLog b]
  else if b = 29 then
    firstOf [at1 o 8 .bpmStat, at1 o 0x10 .poolSel, atW o 0x40 7 .poolData (s.get Fld.poolSel.POOL), at1 o 0x100 .bpmHfree,
      atI o 0xFF00 .errLog b]
  else if b = 30 then
    firstOf [atN o 0x100 8 .extBind, at1 o 0x200 .extLog, at1 o 0x208 .extCnt, atI o 0xF000 .lockbrk b]
  else if b = 31 then
    firstOf [at1 o 0 .spmCtl, at1 o 8 .spmAper, at1 o 0x10 .bankCmd, at1 o 0x18 .spmStat, at1 o 0x20 .testStat,
      at1 o 0x28 .ownLog, at1 o 0x30 .eccLog, atN o 0x1000 528 .bankOwn]
  else if b = 32 then
    let f := s.get Fld.fifoSel.FIFO
    firstOf [at1 o 0x10 .fifoSel, atI o 0x40 .fifoCfg f, atI o 0x48 .fifoWm f, atI o 0x50 .fifoStat f, atI o 0x58 .fifoCnt f,
      atI o 0x60 .fifoPtr f, atI o 0x68 .fifoPtrB f, at1 o 0x70 .fifoCmd, at1 o 0x110 .ptrLog]
  else if b = 33 then
    firstOf [if 0x100 ≤ o ∧ o < 0x180 ∧ o / 8 % 4 < 3 then some ⟨.coreEq, (o - 0x100) / 0x20, o / 8 % 4⟩ else none,
      atN o 0xE000 64 .gebOwn, atI o 0xFF00 .errLog b]
  else if b = 34 then firstOf [at1 o 0 .mbArb, atI o 0xFF00 .errLog b]
  else if b = 35 then firstOf [at1 o 0 .secStat, atI o 0xFF00 .errLog b]
  else if b = 36 then
    firstOf [at1 o 0 .cfsStat, at1 o 8 .cfsVer, at1 o 0x10 .cfsSwmap, at1 o 0x18 .cfsPart, at1 o 0x20 .cfsCtl,
      at1 o 0x28 .failLog, if 0x100 ≤ o ∧ o < 0x200 then some ⟨.epochLog, (o - 0x100) / 16, o / 8 % 2⟩ else none,
      atI o 0xFF00 .errLog b]
  else if b = 37 then
    firstOf [at1 o 0 .pcmCtl, at1 o 8 .pcmPlan, at1 o 0x10 .eclkCeil, at1 o 0x18 .pcmStat, at1 o 0x20 .pcmEff,
      at1 o 0x28 .pcmRet, at1 o 0x30 .wakeLog, atN o 0x100 8 .engState, atN o 0x200 25 .pcmVtab, atI o 0xFF00 .errLog b]
  else if b = 38 then
    firstOf [at1 o 0 .agmCtl, at1 o 8 .agmTgt, at1 o 0x10 .agmPlan, at1 o 0x18 .agmLife, atN o 0x100 8 .agmDeg,
      atN o 0x180 6 .agmSram, atN o 0x200 12 .agmLrep, atN o 0x280 12 .agmLeye, atI o 0xFF00 .errLog b]
  else if b = 39 then
    firstOf [at1 o 0 .hpcCtl, at1 o 8 .hpcErr, atN o 0x1000 256 .slotCfg, atN o 0x1800 256 .slotStat, atN o 0x2000 256 .slotLed]
  else if b ≤ 42 then atI o 0xFF00 .errLog b
  else if b = 63 then firstOf [atN o 0x2000 1024 .lostmap, atI o 0xFF00 .errLog b]
  else none

/-- The register word at an offset below the mailbox windows: global control (R422, R458, R513), the fault collector
(R405) and the EIC's global region (R392). -/
def State.globalReg (s : State) (o : Nat) : Option Reg :=
  firstOf [at1 o 0x100 .glbExpert, at1 o 0x108 .glbBoot, at1 o 0x110 .glbReset,
    at1 o 0x10000 .fclFsw, at1 o 0x10008 .fclFirst, at1 o 0x10010 .fclCtl, at1 o 0x10018 .fclNmi, atN o 0x10100 64 .fclReact,
    at1 o 0x18000 .eicCtl, at1 o 0x18008 .eicCommit, at1 o 0x18018 .eicStat, at1 o 0x18020 .eqSel,
    atW o 0x18040 4 .eqData (s.get Fld.eqSel.EQ), at1 o 0x18100 .srcSel, atI o 0x18108 .srcCfg (s.get Fld.srcSel.SRC),
    atI o 0x18110 .srcStat (s.get Fld.srcSel.SRC), at1 o 0x18118 .srcCmd]

/-- The register word at an offset of a mailbox window (R409). -/
def mailReg (m o : Nat) : Option Reg :=
  firstOf [atI o 0 .mbDb m, atI o 8 .mbStat m, atW o 0x10 14 .mbReq m, atW o 0x80 14 .mbRsp m, atI o 0xF0 .mbCfg m,
    atI o 0xF8 .eqDb m]

/-- The first and the last offset of the mailbox windows (R16). -/
def mailBase : Nat := 0x00100000
/-- The doorbell pages. -/
def doorBase : Nat := 0x01000000
/-- The expert register window. -/
def expertBase : Nat := 0x02000000
/-- The end of the expert register blocks: the other 12 MiB of the window are reserved (R18). -/
def expertEnd : Nat := 0x02400000

/-- The register word at an offset of BAR0 (R16, R18), the offset a multiple of 8. -/
def State.place (s : State) (o : Nat) : Option Reg :=
  if o < mailBase then s.globalReg o
  else if o < 0x00140000 then mailReg ((o - mailBase) / 256) (o % 256)
  else if expertBase ≤ o ∧ o < expertEnd then s.blockReg ((o - expertBase) / 0x10000) (o % 0x10000)
  else none

/-- The block to whose configuration an offset belongs (R430): its expert block, or for the EIC and the fault collector
the global region. -/
def blockAt (o : Nat) : Option Nat :=
  if 0x10000 ≤ o ∧ o < 0x18000 then some 63
  else if 0x18000 ≤ o ∧ o < 0x20000 then some 33
  else if expertBase ≤ o ∧ o < expertEnd then some ((o - expertBase) / 0x10000)
  else none

/-! ### Fields -/

/-- Registers of 32 bits (R15): what follows them is another offset. -/
def is32 (id : RegId) : Bool :=
  match id with
  | .kingQuota | .kstCtl | .qwSel | .qctxSel | .gbtHsel | .gbtHist | .pdSel | .poolSel | .dpSel | .spmAper | .fifoSel | .eqSel
  | .srcSel => true
  | _ => false

/-- The bits of a field row. -/
def FieldRow.mask (f : FieldRow) : Nat := (2 ^ f.w - 1) * 2 ^ f.lo

/-- The bits of a register word whose fields satisfy a condition. -/
def maskOf (r : Reg) (p : FieldRow → Bool) : Nat := ((rowsOf r).filter p).foldl (fun a f => a + f.mask) 0

/-- A field that a configuration version sets (R430). -/
def RType.isCfg : RType → Bool
  | .rw | .rwc | .rwi | .rws => true
  | _ => false

/-- The configurable bits of a register word (R430). -/
def cfgMask (r : Reg) : Nat := maskOf r fun f => f.ty.isCfg

/-- The bits of a 64-bit word that its bytes from `b` on hold, `n` of them. -/
def byteMask (b n : Nat) : Nat := (2 ^ (8 * n) - 1) * 2 ^ (8 * b)

/-- A number's bits within a mask. -/
def maskBits (v m : Nat) : Nat := v &&& m

/-- `v` with the bits of a mask taken from `x`. -/
def mergeBits (v m x : Nat) : Nat := v - maskBits v m + maskBits x m

/-- What a write of the bits of `m` with the value `x` leaves in a word (R12): RO and WO fields keep what they hold. -/
def writtenWord (r : Reg) (old m x : Nat) : Nat :=
  (rowsOf r).foldl (fun w f =>
    let k := maskBits f.mask m
    match f.ty with
    | .rw | .rwc | .rwi | .rws | .rwo => mergeBits w k x
    | .w1c => w - maskBits w (maskBits x k)
    | .w1s => mergeBits w (maskBits x k) x
    | .ro | .wo => w) old

/-- A write sets a reserved bit (R14). -/
def reservedSet (r : Reg) (m x : Nat) : Bool :=
  let width := if is32 r.id then 2 ^ 32 - 1 else 2 ^ 64 - 1
  let known := maskOf r fun _ => true
  maskBits (maskBits x m) (width - maskBits known width) != 0

/-- The same of a value written whole. -/
def reservedIn (r : Reg) (v : Word) : Bool := reservedSet r (2 ^ 64 - 1) v.toNat

/-- A field of the register is written as 1 in a write of the bits `m` with the value `x`. -/
def sets (m x : Nat) (f : Field) : Bool := bitsOf (maskBits x m) f.lo f.w != 0

end Sys2Proof.Machine
end

