-- ==== Sys2Proof/Machine/Eic.lean ====
section
/-!
DEFINITION. The commands of the event and interrupt controller (R374 to R393).
-/

namespace Sys2Proof.Machine

/-- The EIC selects for a target, or selects again during an entry (R378, R381, R383). -/
def execEicSelect (tgt : Fin 4100) (s : State) : Res :=
  let t := tgt.val
  if !s.tgtSelects t then .next (s.dropEntry t)
  else
    let all := s.tgtPending t
    let s1 := forAll (all.filter fun r => !s.routeOk r) State.misroute s
    if !s.tgtUsable t then .next (s1.dropEntry t)
    else
    let good := all.filter s.routeOk
    if s.tgtFull t then
      .next (if good.isEmpty then s1 else s1.put (if t < 4096 then Fld.eqData.FULL_SEEN t else Fld.coreEq.FULL_SEEN (t - 4096)) 1)
    else match s1.bestSrc t good, (s.et t).held with
      | none, _ => .next s1
      | some r, none => .next (s1.holdSrc t r)
      | some r, some h =>
        if s.grpPri (s.get (Fld.srcCfg.PRI r)) < s.grpPri h.2 then .next (s1.holdSrc t r) else .next s1

/-- MASK of a source was set between issue and exit: a spurious completion (R387). -/
def State.spurious (s : State) (t src : Nat) : State :=
  (s.srcCfg src (s.reg ⟨.srcCfg, src, 0⟩ ||| 1#64).toNat).incSat
    (if t < 4096 then Fld.eqData.SPURIOUS t else Fld.coreEq.SPURIOUS (t - 4096))

/-- The targets that contend for issue: those with a selected source and a place for its record, rising (R382). -/
def State.eicReqs (s : State) : List Nat :=
  (s.eic.map (·.1)).filter fun t => (s.et t).held.isSome && s.tgtUsable t && !s.tgtFull t

/-- A target's selected source has group priority 0 (R382). -/
def State.eicHp (s : State) (t : Nat) : Bool :=
  match (s.et t).held with | some h => s.grpPri h.2 == 0 | none => false

/-- The record of the source in entry issues once the delivery arbiter grants its target, and its exit follows (R382, R384, R387);
`maskRace` says that the source's MASK is set between the two. -/
def execRecordIssue (tgt : Fin 4100) (maskRace : Bool) (s : State) : Res :=
  let t := tgt.val
  match (s.et t).held with
  | none => .next s
  | some (src, pri) =>
    if !s.tgtUsable t ∨ s.tgtFull t then .next (s.dropEntry t)
    else match s.arbDecide { kind := akEic } s.eicReqs s.eicHp 1 with
      | none => .next s
      | some (w, s1) =>
        if w ≠ t then .next s else
        let after (u : State) : State := if maskRace && !s.on (Fld.srcCfg.MASK src) then u.spurious t src else u
        if t < 4096 then
          let f := s.get (Fld.eqData.FUNC t)
          let a := s.get (Fld.eqData.BASE t) * 4096 + s.get (Fld.eqData.TAIL t) * 16
          if !s.hostOk f then
            ((after (s1.recordEq t src pri)).recordFail t src (s.get (Fld.srcStat.CNT src)) a).done
          else if !s.translated f a then .next (s.askAts f a)
          else (after (s1.recordEq t src pri)).done
        else (after (s1.recordCore (t - 4096) src pri)).done

/-- A due message is sent (R384, R385). -/
def execModerationExpiry (eq : Fin 4096) (s : State) : Res :=
  let q := eq.val
  if !(s.et q).due then .next s
  else
    let f := s.get (Fld.eqData.FUNC q)
    let v := s.get (Fld.eqData.VEC q)
    if v ≥ msixCount f then .fault (.unpredictable 384)
    else .next ((s.setEt q { s.et q with due := false }).msixSend f v)

/-- A record write gets an error response or fails translation (R389). -/
def execRecordWriteError (eq : Fin 4096) (src : Fin 68608) (cnt : BitVec 8) (addr : BitVec 57) (s : State) : Res :=
  (s.recordFail eq.val src.val cnt.toNat addr.toNat).done

/-- SRC_CMD RAISE (R392): software and private sources alone. -/
def execSrcRaise (src : Fin 68608) (s : State) : Res := if src.val ≥ 0x10600 then .next (s.raise src.val) else .next s

/-- SRC_CMD ACK (R376, R392). -/
def execSrcAck (src : Fin 68608) (s : State) : Res :=
  let s1 := s.put (Fld.srcStat.ACT src.val) 0
  .next (if isLevel src.val then s1.level src.val (s1.levelInput src.val) else s1)

/-- SRC_CMD CLEAR (R383, R392). -/
def execSrcClear (src : Fin 68608) (s : State) : Res := .next (s.srcClear src.val)

/-- A write of SRC_CFG (R386, R392). -/
def execSrcCfgWrite (src : Fin 68608) (val : BitVec 64) (s : State) : Res :=
  if reservedIn ⟨.srcCfg, src.val, 0⟩ val then .fault (.unpredictable 14) else .next (s.srcCfg src.val val.toNat)

/-- A write of EQ_DB (R340, R346, R388). -/
def execEqDb (func : Fin 1024) (val : BitVec 64) (s : State) : Res :=
  let q := bitsOf val.toNat 0 12
  let head := bitsOf val.toNat 32 20
  let n := 2 ^ s.get (Fld.eqData.LOG2 q)
  let tail := s.get (Fld.eqData.TAIL q)
  let old := s.get (Fld.eqData.HEAD q)
  if !s.reaches (ownAcc func) then .next s
  else if s.get (Fld.eqData.FUNC q) ≠ func.val ∨ !s.on (Fld.eqData.EN q) then .next (s.incSat Fld.eicStat.DB_FOREIGN)
  else if reservedIn ⟨.eqDb, func.val, 0⟩ val then .fault (.unpredictable 14)
  else if head ≥ n ∨ (tail + n - head) % n > (tail + n - old) % n then .fault (.unpredictable 388)
  else .next (s.put (Fld.eqData.HEAD q) head)

/-- Setting EQ_DATA.EN (R379, R392). -/
def execEventQueueEnable (eq : Fin 4096) (s : State) : Res :=
  let q := eq.val
  let lg := s.get (Fld.eqData.LOG2 q)
  if s.on (Fld.eqData.EN q) then .next s
  else if lg < 4 ∨ lg > 20 then .fault (.unpredictable 379)
  else if s.eqFar q then .fault (.unpredictable 337)
  else if s.eqClash q then .fault (.unpredictable 379)
  else .next (s.eqEnable q)

/-- Clearing EQ_DATA.EN (R383, R393). -/
def execEventQueueDisable (eq : Fin 4096) (s : State) : Res := .next (s.eqDisable eq.val)

/-- Setting CORE_EQ.EN (R391, R392). -/
def execCoreEqEnable (core : Fin 4) (s : State) : Res :=
  let c := core.val
  if s.on (Fld.coreEq.EN c) then .next s
  else if s.get (Fld.coreEq.LOG2 c) < 4 ∨ s.get (Fld.coreEq.LOG2 c) > 10 then .fault (.unpredictable 391)
  else .next (s.putAll [(Fld.coreEq.EN c, 1), (Fld.coreEq.TAIL c, 0), (Fld.coreEq.HEAD c, 0), (Fld.coreEq.PHASE c, 1)])

/-- EIC_STAT.CLR (R392). -/
def execEicStatClr (s : State) : Res := .next (s.putAll [(Fld.eicStat.DB_FOREIGN, 0), (Fld.eicStat.MISROUTED, 0)])

/-- EIC_COMMIT.COMMIT (R75, R392). -/
def execEicCommit (s : State) : Res :=
  let w := s.get Fld.eicCtl.WIN_LOG2
  if w < 6 ∨ w > 14 then .fault (.unpredictable 392)
  else .next ((s.commit ⟨.eicCtl, 0, 0⟩).arbQuotaNew [{ kind := akEic }])

/-- An MSI-X mask is cleared (R384): of one entry, or the Function Mask. -/
def execMsixUnmask (func : Fin 1024) (vec : Option (Fin 2048)) (s : State) : Res :=
  let f := func.val
  match vec with
  | some v =>
    if v.val ≥ msixCount f then .next s
    else
      let k := (f * 2048 + v.val) * 4 + 3
      .next ({ s with msix := SMap.set s.msix 0 k (putBits (SMap.get s.msix 0 k) 0 1 1) }.msixPoke f v.val)
  | none =>
    let s1 := { s with msixFmask := NSet.del s.msixFmask f }
    .next (forAll (s1.pba.filter fun k => k / 2048 == f) (fun t k => t.msixPoke f (k % 2048)) s1)

end Sys2Proof.Machine
end

