-- ==== Sys2Proof/Machine/Spm.lean ====
section
/-!
DEFINITION. The scratchpad: the host aperture, bank ownership and the background test (R351 to R360); the event FIFOs'
commands (R361 to R373).
-/

namespace Sys2Proof.Machine

/-! ### The host aperture -/

/-- The lowest address of the aperture in BAR0 (R16, R354). -/
def aperBase : Nat := 0x03000000

/-- A size and alignment that the aperture takes (R15). -/
def aperSize (o n : Nat) : Bool := [1, 2, 4, 8, 16, 32, 64].contains n && o % n == 0

/-- BASE_BANK has one of its values (R354). -/
def aperBaseOk (base : Nat) : Bool := base % 64 == 0 && decide (base ≤ 512)

/-- An access of the PF through the aperture at a base that R354 allows, with the bytes that it returns: one that is refused
returns zeros, and so does one above 4 MiB with BASE_BANK = 512, which is not counted. -/
def State.aperAcc (s : State) (o n : Nat) (w : Option (List Byte)) : List Byte × State :=
  let zeros := List.replicate n (0 : Byte)
  let base := s.get Fld.spmAper.BASE_BANK
  if base = 512 ∧ o ≥ 0x400000 then (zeros, s)
  else match s.bankAcc ownHost (base * 0x40000 + o) n w with
    | .ok bs s1 => (bs, s1)
    | .refused s1 | .devErr s1 => (zeros, s1)
    | .outside => (zeros, s)

/-- A read of `n` bytes through the aperture (R15, R354): one of another size or alignment, or at another base, returns
bytes that the spec does not state. -/
def State.aperRead (s : State) (o n : Nat) : List Byte × State :=
  if !aperSize o n || !aperBaseOk (s.get Fld.spmAper.BASE_BANK) then (freeBytes s.freeCnt n, s.takeFree)
  else s.aperAcc o n none

/-- A write through the aperture (R15, R354): one of another size or alignment is unpredictable, and so is one at another
base. -/
def State.aperWrite (s : State) (o : Nat) (d : List Byte) : Res :=
  if d.length = 0 then .next s
  else if !aperSize o d.length then .fault (.unpredictable 15)
  else if !aperBaseOk (s.get Fld.spmAper.BASE_BANK) then .fault (.unpredictable 354)
  else .next (s.aperAcc o d.length (some d)).2

/-- An access of the PF through the aperture (R15, R353, R354): a read that is refused answers 0. -/
def execApertureAccess (off : BitVec 24) (n : Fin 65) (w : Option (List Byte)) (s : State) : Res :=
  let o := off.toNat
  if !s.reaches .pf then .next s
  else match w with
    | none => if n.val = 0 then .next s else
      let r := s.aperRead o n.val
      .next (r.2.emit (.rdata (aperBase + o) (ofBytes r.1)))
    | some d => s.aperWrite o d

/-! ### Banks -/

/-- BANK_CMD shows a command and its result (R360). -/
def State.bankShow (s : State) (b owner : Nat) (clear testOk notify : Bool) (res : Nat) : State :=
  s.putAll [(Fld.bankCmd.BANK, b), (Fld.bankCmd.CLEAR, b2n clear), (Fld.bankCmd.TEST_OK, b2n testOk),
    (Fld.bankCmd.NOTIFY, b2n notify), (Fld.bankCmd.NEW_OWNER, owner), (Fld.bankCmd.RESULT, res)]

/-- A state of a bank. -/
def State.bankSt (s : State) (b : Nat) : Nat := s.get (Fld.bankOwn.STATE b)

/-- The test gives a bank back (R357, R373). -/
def State.unborrow (s : State) (b : Nat) : State :=
  if s.on (Fld.bankOwn.BORROWED b) then (s.put (Fld.bankOwn.BORROWED b) 0).put Fld.testStat.ACTIVE 0 else s

/-- A bank gets an owner (R355). -/
def State.bankGrant (s : State) (b owner : Nat) (testOk : Bool) : State :=
  let s1 := if testOk then s else s.unborrow b
  s1.putAll [(Fld.bankOwn.OWNER b, owner), (Fld.bankOwn.TEST_OK b, b2n testOk), (Fld.bankOwn.STATE b, bankOwned)]

/-- The final state of a bank command is reached: BUSY falls and, with NOTIFY, SPM_BANK is raised (R355). -/
def State.bankFinal (s : State) (notify : Bool) : State :=
  let s1 := { s.put Fld.bankCmd.BUSY 0 with bankOp := none }
  if notify then s1.raise 0x10405 else s1

/-- The result that a command of BANK_CMD gets (R355, R360). -/
def State.bankCheck (s : State) (b need : Nat) (owner : Option Nat) : Nat :=
  if decide (b ≥ 528) || (match owner with | some o => !ownerOk false o | none => false) then 3
  else if s.bankSt b ≠ need then 2 else 0

/-- A command written while another runs is discarded with RESULT 1; one that is not accepted only shows its result. -/
def State.bankFront (s : State) (b owner : Nat) (clear testOk notify : Bool) (need : Nat) (check : Option Nat)
    (k : State → State) : Res :=
  if s.on Fld.bankCmd.BUSY then .next (s.put Fld.bankCmd.RESULT 1)
  else
    let r := s.bankCheck b need check
    let s1 := s.bankShow b owner clear testOk notify r
    if r = 0 then .next (k s1) else .next s1

/-- GRANT (R355). -/
def execBankGrant (bank : BitVec 10) (owner : BitVec 16) (testOk notify : Bool) (s : State) : Res :=
  s.bankFront bank.toNat owner.toNat (s.on Fld.bankCmd.CLEAR) testOk notify bankFree (some owner.toNat) fun t =>
    (t.bankGrant bank.toNat owner.toNat testOk).bankFinal notify

/-- A release begins (R355 step 1): the bank refuses what arrives from now on, and a borrowed bank comes back. -/
def State.bankLeave (s : State) (op : BankOp) : State :=
  { ((s.put (Fld.bankOwn.STATE op.bank) bankReleasing).unborrow op.bank).put Fld.bankCmd.BUSY 1 with bankOp := some op }

/-- RELEASE (R355). -/
def execBankRelease (bank : BitVec 10) (clear notify : Bool) (s : State) : Res :=
  s.bankFront bank.toNat (s.get Fld.bankCmd.NEW_OWNER) clear (s.on Fld.bankCmd.TEST_OK) notify bankOwned none fun t =>
    t.bankLeave { bank := bank.toNat, handover := false, clear := clear, owner := 0, testOk := false, notify := notify, waiting := true }

/-- HANDOVER (R355). -/
def execBankHandover (bank : BitVec 10) (owner : BitVec 16) (clear testOk notify : Bool) (s : State) : Res :=
  s.bankFront bank.toNat owner.toNat clear testOk notify bankOwned (some owner.toNat) fun t =>
    t.bankLeave { bank := bank.toNat, handover := true, clear := clear, owner := owner.toNat, testOk := testOk, notify := notify, waiting := true }

/-- Every byte of a bank is 0. -/
def State.bankZero (s : State) (b : Nat) : State := { s with spm := s.spm.filter fun e => e.1 / 0x40000 != b }

/-- The step of the release that runs ends (R355): accepted accesses have completed and the clearing begins, or the final
state is reached. -/
def execBankReleaseComplete (s : State) : Res :=
  match s.bankOp with
  | none => .next s
  | some op =>
    let b := op.bank
    if op.clear && op.waiting then
      .next { (s.bankZero b).put (Fld.bankOwn.STATE b) bankClearing with bankOp := some { op with waiting := false } }
    else
      let s1 := if op.handover then s.bankGrant b op.owner op.testOk
        else s.putAll [(Fld.bankOwn.OWNER b, 0), (Fld.bankOwn.TEST_OK b, 0), (Fld.bankOwn.STATE b, bankFree)]
      (s1.bankFinal op.notify).done

/-! ### The background test -/

/-- Where a bank held back by a yield resumes, and until when it is held back (R358): FCLK cycle * 64 + chunk, plus one. -/
def State.heldChunk (s : State) (b : Nat) : Option (Nat × Nat) :=
  match SMap.get s.testHold 0 b with
  | 0 => none
  | v + 1 => some (v / 64, v % 64)

/-- The test may borrow a bank (R357 to R359). -/
def State.testable (s : State) (b : Nat) : Bool :=
  (s.bankSt b == bankFree || (s.bankSt b == bankOwned && s.on (Fld.bankOwn.TEST_OK b))) &&
    (match s.heldChunk b with | some h => decide (h.1 ≤ s.fclk) | none => true)

/-- The next step's bank and chunk (R357). -/
def State.testNext (s : State) : Option (Nat × Nat) :=
  let b := s.get Fld.testStat.BANK
  if s.on Fld.testStat.ACTIVE && s.testable b then some (b, s.get Fld.testStat.CHUNK + 1)
  else
    let from_ := if s.get Fld.testStat.PASSES = 0 ∧ !s.on Fld.testStat.ACTIVE ∧ b = 0 then 0 else b + 1
    (((List.range 528).map fun i => (from_ + i) % 528).find? s.testable).map fun b' =>
      (b', match s.heldChunk b' with | some h => h.2 | none => 0)

/-- A bank is given back at a step boundary. -/
def State.testStop (s : State) (b : Nat) : State := (s.put (Fld.bankOwn.BORROWED b) 0).put Fld.testStat.ACTIVE 0

/-- A bank has been tested to its last chunk. -/
def State.testPassed (s : State) (b : Nat) : State := (s.testStop b).inc Fld.testStat.PASSES

/-- The result of a step (R357 to R359): a failing cell, a yield to an urgent access, the bank's end, or none of these. -/
def State.testResult (s : State) (b ch : Nat) (bad : Option (BitVec 18)) (urgent : Bool) : State :=
  match bad with
  | some o => ((s.put (Fld.bankOwn.STATE b) bankFailed).testStop b).logFirst Fld.eccLog.VALID Fld.eccLog.OVF
      [(Fld.eccLog.BANK, b), (Fld.eccLog.OFFSET, o.toNat), (Fld.eccLog.TEST, 1)]
  | none =>
    if ch = 63 then s.testPassed b
    else if urgent then
      { (s.testStop b).incSat Fld.spmStat.YIELDS with
        testHold := SMap.set s.testHold 0 b ((s.fclk + 2000 * s.get Fld.spmCtl.YIELD_HOLD) * 64 + (ch + 1) + 1) }
    else s

/-- One step of the background test (R357): a chunk of a Free bank is left zero, one of an owned bank as it was. -/
def execTestStep (bad : Option (BitVec 18)) (urgent : Bool) (s : State) : Res :=
  let b0 := s.get Fld.testStat.BANK
  if !s.on Fld.spmCtl.TEST_EN then .next (s.unborrow b0)
  else
    let s0 := if s.on Fld.testStat.ACTIVE && s.testable b0 then s else s.unborrow b0
    match s.testNext with
    | none => .next s0
    | some (b, ch) =>
      let s1 := s0.putAll [(Fld.testStat.ACTIVE, 1), (Fld.testStat.BANK, b), (Fld.testStat.CHUNK, ch),
        (Fld.bankOwn.BORROWED b, 1)]
      let s2 := { s1 with
        testHold := SMap.set s1.testHold 0 b 0
        spm := if s.bankSt b = bankFree then s1.spm.filter fun e => e.1 / 0x1000 != b * 64 + ch else s1.spm }
      (s2.testResult b ch bad urgent).done

/-- SPM_STAT.CLR (R360). -/
def execSpmStatClr (s : State) : Res :=
  .next (s.putAll [(Fld.spmStat.OWN_VIOL, 0), (Fld.spmStat.CE, 0), (Fld.spmStat.UE, 0), (Fld.spmStat.YIELDS, 0)])

/-! ### Event FIFOs -/

/-- A write of a FIFO window by a requester (R362 to R364, R367). -/
def execFifoPush (f : Fin 64) (req src : BitVec 16) (off : BitVec 12) (data : List Byte) (s : State) : Res :=
  match s.fifoWrite req.toNat src.toNat f.val off.toNat data with
  | .ok _ s1 => s1.done
  | .refused s1 => s1.done
  | .devErr s1 => s1.done
  | .outside => .next s

/-- What a read of a window returns. -/
def accRead (a : Nat) (r : Acc) (s : State) : Res :=
  match r with
  | .ok bs s1 => (s1.emit (.rdata a (ofBytes bs))).done
  | .refused s1 => s1.done
  | .devErr s1 => s1.done
  | .outside => .next s

/-- A read of a FIFO window by a requester (R362 to R365). -/
def execFifoPop (f : Fin 64) (req : BitVec 16) (off : BitVec 12) (n : Fin 513) (s : State) : Res :=
  accRead (fifoBase + f.val * 0x1000 + off.toNat) (s.fifoRead req.toNat f.val off.toNat n.val) s

/-- A read at offset 0x418 (R362). -/
def execFifoPeek (f : Fin 64) (req : BitVec 16) (s : State) : Res :=
  accRead (fifoBase + f.val * 0x1000 + 0x418) (s.fifoRead req.toNat f.val 0x418 8) s

/-- A read of a group's window (R368). -/
def execGroupPop (g : Fin 8) (req : BitVec 16) (off : BitVec 12) (n : Fin 513) (s : State) : Res :=
  let a := groupBase + g.val * 0x1000 + off.toNat
  accRead a (s.selfAcc req.toNat s.selfNode a n.val none) s

/-- A consumer command (R362, R365): by a requester through the window, or by FIFO_CMD. -/
def consumerCmd (f : Nat) (req : Option (BitVec 16)) (s : State) (k : State → State) : Res :=
  match req with
  | none => (k s).done
  | some r => if s.fMayPop f r.toNat then (k s).done else .next (s.fBad f)

/-- MARK (R365). -/
def execFifoMark (f : Fin 64) (req : Option (BitVec 16)) (s : State) : Res :=
  consumerCmd f.val req s fun t => t.fMark f.val
/-- REWIND (R365). -/
def execFifoRewind (f : Fin 64) (req : Option (BitVec 16)) (s : State) : Res :=
  consumerCmd f.val req s fun t => t.fRewind f.val
/-- RELEASE (R365). -/
def execFifoRelease (f : Fin 64) (req : Option (BitVec 16)) (s : State) : Res :=
  consumerCmd f.val req s fun t => t.fRelease f.val

/-- FIFO_CMD RESET (R371). -/
def execFifoReset (f : Fin 64) (s : State) : Res := (s.fReset f.val).done

/-- FIFO_CNT.CLR (R372). -/
def execFifoCntClr (f : Fin 64) (s : State) : Res :=
  .next (s.putAll [(Fld.fifoCnt.DROPS f.val, 0), (Fld.fifoCnt.EMPTY_RD f.val, 0), (Fld.fifoCnt.BAD_ACC f.val, 0)])

/-- EN of a FIFO is set (R371): the FIFO is reset, and its sticky bits and counters clear. -/
def State.fEnable (s : State) (f : Nat) : State :=
  let s1 := ((s.fReset f).putAll [(Fld.fifoStat.HI_SEEN f, 0), (Fld.fifoStat.LO_SEEN f, 0)]).setReg ⟨.fifoCnt, f, 0⟩ 0
  (s1.put (Fld.fifoCfg.EN f) 1).level 0x10406 s1.wmSeen

/-- Setting FIFO_CFG.EN (R371). -/
def execFifoEnable (f : Fin 64) (s : State) : Res :=
  if s.on (Fld.fifoCfg.EN f.val) then .next s else (s.fEnable f.val).done

/-- An XOFF line's 8 cycles have passed (R370). -/
def execXoffHoldExpiry (l : Fin 4) (s : State) : Res :=
  .next ({ s with xoffHold := NSet.del s.xoffHold l.val }.xoffUpdate)

end Sys2Proof.Machine
end

