-- ==== Sys2Proof/Machine/FclCmd.lean ====
section
/-!
DEFINITION. Detected faults (R394, R520) and the commands of the fault collector (R397, R400, R401, R403, R405).
-/

namespace Sys2Proof.Machine

/-- The kinds of ERR_LOG that a block's row of R394 gives (R520). -/
def kindOk (blk kind : Nat) : Bool :=
  if blk = 9 ∨ blk = 10 ∨ blk = 11 ∨ (12 ≤ blk ∧ blk ≤ 20) ∨ (25 ≤ blk ∧ blk ≤ 29) ∨ blk = 33 then kind == 1
  else if blk = 34 then kind == 7 || kind == 1
  else if blk = 35 ∨ blk = 36 then kind == 3
  else if blk = 37 then kind == 4 || kind == 5
  else if blk = 38 then kind == 6
  else if blk = 40 then kind == 8
  else if blk = 41 ∨ blk = 63 then kind == 2
  else if blk = 42 then kind == 9
  else false

/-- A commit-buffer entry of a context is found bad (R222): the checkpoint it lies under is squashed; the entry never
drains. `loc` numbers the checkpoint from 1, 0 for a cause that is no such entry. -/
def State.badEntry (s : State) (blk loc : Nat) (ctx : Option (Fin 1024)) : State :=
  match ctx with
  | some c =>
    let x := s.cx c.val
    if blk = 12 + clusterOf c.val ∧ x.live ∧ loc ≠ 0 then
      s.squash c.val (loc - 1) .other
    else s
  | none => s

/-- A pointer mismatch in a FIFO (R371). -/
def State.breakFifo (s : State) (f : Nat) : State :=
  (((s.putAll [(Fld.fifoStat.BROKEN f, 1), (Fld.fifoStat.XSTATE f, 1)]).logFirst Fld.ptrLog.VALID Fld.ptrLog.OVF
    [(Fld.ptrLog.FIFO, f)])).xoffUpdate

/-- A block detects an error of its own (R394, R520): `unit` and `loc` as the block's log has them, and the context whose
access met it. At the SPM a `kind` of 0 is a single-bit error that the bank corrects and counts (R351, log entry 71). -/
def execHardwareFault (blk : Fin 64) (kind : Fin 16) (unit : Fin 1024) (loc : BitVec 32) (ctx : Option (Fin 1024))
    (s : State) : Res :=
  let b := blk.val
  if 21 ≤ b ∧ b ≤ 24 then
    if unit.val < 4 then
      ((s.put (Fld.xferLog.MERR (b - 21)) 1).stopAll (s.xfersBy fun x => x.mover == some (b - 21, unit.val)) 11 0x30
        fun _ => 0).done
    else .next s
  else if 25 ≤ b ∧ b ≤ 28 then
    if unit.val < 2 ∧ kindOk b kind.val then
      ((s.logErr b kind.val unit.val loc.toNat).stopAll (s.xfersBy fun x => x.lane == some (2 * (b - 25) + unit.val)) 12 0x30
        fun _ => 0).done
    else .next s
  else if b = 31 then
    if unit.val < 528 then
      if kind.val = 0 then .next (s.incSat Fld.spmStat.CE) else
      let s1 := (s.logFirst Fld.eccLog.VALID Fld.eccLog.OVF
        [(Fld.eccLog.BANK, unit.val), (Fld.eccLog.OFFSET, loc.toNat), (Fld.eccLog.TEST, 0)]).incSat Fld.spmStat.UE
      match ctx with
      | some c => if (s1.cx c.val).live then (s1.autoEnd c.val 0x30).done else s1.done
      | none => s1.done
    else .next s
  else if b = 32 then
    if unit.val < 64 ∧ !s.on (Fld.fifoStat.BROKEN unit.val) then (s.breakFifo unit.val).done else .next s
  else if kindOk b kind.val then ((s.badEntry b loc.toNat ctx).logErr b kind.val unit.val loc.toNat).done
  else .next s

/-- A write of 1 to FSW bits (R397): with every bit 0, FIRST_V clears. -/
def execFswClear (mask : BitVec 64) (s : State) : Res :=
  let r : Reg := ⟨.fclFsw, 0, 0⟩
  let s1 := s.setReg r (s.reg r &&& ~~~mask)
  let s2 := if s1.reg r = 0 then s1.putAll [(Fld.fclFirst.FIRST, 0), (Fld.fclFirst.FIRST_V, 0)] else s1
  s2.done

/-- Step 3 of a block reset (R401): the mask is removed, and what waited at the block goes on. -/
def State.resetDone (s : State) (b : Nat) : State :=
  { s with
    inReset := NSet.del s.inReset b
    masked := NSet.del s.masked b
    rstSw := if s.castle.isSome then NSet.add s.rstSw b else s.rstSw }.goAll

/-- A block reset completes (R401); a held block stays held (R403). -/
def execBlockResetComplete (blk : Fin 64) (s : State) : Res :=
  if !NSet.has s.inReset blk.val then .next s else (s.resetDone blk.val).done

/-- FAULT_N's microsecond has passed (R400). -/
def execFaultPinHoldExpiry (s : State) : Res := { s with faultHold := false }.done

/-- FCL_REACT.RELEASE (R403). -/
def execHeldRelease (blk : Fin 64) (s : State) : Res :=
  let b := blk.val
  if !s.on (Fld.fclReact.HELD b) then .next s
  else ((s.putAll [(Fld.fclReact.HELD b, 0), (Fld.fclReact.RST_CNT b, 0)]).resetDone b).done

/-- FCL_REACT.CLR_CNT (R405). -/
def execReactClrCnt (blk : Fin 64) (s : State) : Res := .next (s.put (Fld.fclReact.RST_CNT blk.val) 0)

end Sys2Proof.Machine
end

