-- ==== Sys2Proof/Machine/Gambit.lean ====
section
/-!
DEFINITION. The Gambit events: retirement of a checkpoint and the drain of its stores, the end of a squash, the horizon,
snoops, and the clearing of the counters (R213, R214, R220 to R224, R226, R227, R332).
-/

namespace Sys2Proof.Machine

/-! ### Retirement -/

/-- A recorded read has been made again and agrees (R214). -/
def VRead.agrees (v : VRead) : Bool :=
  match v.data, v.again with | some a, some b => a == b | _, _ => false

/-- A checkpoint is confirmed and verified (R220, R221). -/
def Ckpt.ready (k : Ckpt) : Bool := k.outcome == some k.predicted && k.verify.all VRead.agrees

/-- The checkpoint numbers that records of a context carry count down by one; those of the oldest go. -/
def Load.younger (l : Load) : Load := { l with ck := l.ck - 1 }

/-- Held frees of the oldest checkpoint go from a context's registers, the others count down. -/
def CtxRegs.younger (r : CtxRegs) : CtxRegs :=
  { r with freesHeld := (r.freesHeld.filter fun e => e.2 != 1).map fun e => (e.1, e.2 - 1) }

/-- A context without its oldest checkpoint. -/
def Ctx.younger (x : Ctx) : Ctx :=
  { x with
    regs := x.regs.younger
    loads := x.loads.map Load.younger
    ckpts := x.ckpts.tail.map fun k => { k with saved := k.saved.younger, loads := k.loads.map Load.younger }
    paused := x.paused && !x.ckpts.tail.isEmpty
    watchStop := x.watchStop && !x.ckpts.tail.isEmpty }

/-- A verification read's place counts down with its checkpoint. -/
def Purpose.younger (c : Nat) : Purpose → Purpose
  | .verify c' k i => if c' = c then (if k = 0 then .gone else .verify c (k - 1) i) else .verify c' k i
  | p => p

/-- The buffers whose frees are held under the oldest checkpoint. -/
def Ctx.oldestFrees (x : Ctx) : List Nat := (x.regs.freesHeld.filter fun e => e.2 == 1).map (·.1)

/-- A free of one buffer twice, or of one that is free already (R260). -/
def State.freesBad (s : State) (l : List Nat) : Bool :=
  l.eraseDups.length != l.length ||
    l.any fun h => s.on (Fld.poolData.EN (handlePool h)) && s.alreadyFree (handlePool h) (handleIndex h)

/-- The oldest checkpoint of a context retires (R221): its watched lines leave, its held frees reach their pools, its
held stores drain. -/
def State.retireCk (s : State) (c : Nat) : State :=
  let cl := clusterOf c
  let x := s.cx c
  let ws := (SMap.get s.watch [] cl).filter fun w => !(w.2.2.1 == c && w.2.2.2 == 1)
  let s1 := s.setWatch cl (ws.map fun (w : Nat × Nat × Nat × Nat) =>
    if w.2.2.1 == c then (w.1, w.2.1, w.2.2.1, w.2.2.2 - 1) else w)
  let s2 := (s1.updCx c Ctx.younger).freeHandles x.oldestFrees
  let s3 := forAll (s2.oldestHeld c) State.drainEntry s2
  let hs := (SMap.get s3.held [] cl).filter fun h => !(h.ctx == c && h.ckpt == 1)
  let s4 := { s3 with
    held := SMap.set s3.held [] cl (hs.map fun (h : Held) => if h.ctx == c then { h with ckpt := h.ckpt - 1 } else h)
    hreq := s3.hreq.map fun (e : Nat × HReq) => (e.1, { e.2 with purp := e.2.purp.younger c })
    txn := s3.txn.map fun (e : Nat × Txn) => (e.1, { e.2 with purp := e.2.purp.younger c }) }
  ((s4.inc (Fld.gbtCnt0.RETIRED cl)).parkCheck c).kick c

/-- The oldest checkpoint is confirmed and verified and retires. Recorded reads that had no tag when it was confirmed are
issued again now; a held store waits for the context's outstanding loads of its bytes (R519), and a page that one needs and the
device does not have is asked for first (R199, R216). A watched line that is hit goes before (R226), and a held free of a buffer
that is free already has an unpredictable result now (R212, R260). -/
def execCheckpointRetire (ctx : Fin 1024) (s : State) : Res :=
  let c := ctx.val
  match (s.cx c).ckpts with
  | [] => .next s
  | k :: _ =>
    if !s.hits.isEmpty then s.done
    else if (s.cx c).squash.isSome || k.outcome != some k.predicted then .next s
    else if !k.ready then
      .next (forAll (List.range k.verify.length) (fun t i => match k.verify[i]? with
        | some v => if (t.cx c).squash.isSome then t else t.verifyRead c 0 i v
        | none => t) s)
    else if (s.oldestHeld c).any fun h =>
        (runsOf h.bytes).any fun r => s.readOverlaps c h.func (h.line * 64 + r.1) r.2.length then .next s
    else if (s.oldestHeld c).any fun h => !s.hostOk h.func then (s.drainDead c).done
    else match (s.oldestHeld c).find? fun h => !s.translated h.func (h.line * 64) with
      | some h => .next (s.askAts h.func (h.line * 64))
      | none => if s.freesBad (s.cx c).oldestFrees then .fault (.unpredictable 260) else (s.retireCk c).done

/-! ### Squash -/

/-- Twelve ECLK cycles after a squash began the context resumes at the predicted instruction (R223, R224): with the
outcome it already has, or still waiting. A bit wait whose prediction failed parks there where the queue is to be suspended, and
keeps its outcome (R121). -/
def execSquashComplete (ctx : Fin 1024) (s : State) : Res :=
  let c := ctx.val
  match (s.cx c).squash with
  | none => .next s
  | some o =>
    let s1 := s.updCx c fun x => { x with squash := none, missed := false }
    let s2 := match o with
      | some r =>
        if (s.cx c).missed && s1.parks c then s1.updCx c fun x => { x with owed := some r } else s1.finishWait c r
      | none => s1
    ((s2.parkCheck c).kick c).done

/-- The value a bit wait awaits is there. -/
def Wait.bitDone (s : State) (c : Nat) : Wait → Option (Nat × Nat) → Bool
  | .bit _ a v _ _, b => s.bitWith c b a == v
  | _, _ => false

/-- The oldest unresolved checkpoint that has not outlasted HORIZON. -/
def Ctx.inHorizon (x : Ctx) : Option Nat :=
  (List.range x.ckpts.length).find? fun k =>
    match x.ckpts[k]? with | some e => e.outcome.isNone && !e.late | none => false

/-- A wait of an instruction of R207 that is in progress: a device command's begins when it is sent. -/
def Wait.begun : Wait → Bool
  | .dcmd _ _ _ _ _ t => t.isSome
  | w => w.counted

/-- A context's own wait outlasts HORIZON: its counter falls, once (R208). -/
def State.liveHorizon (s : State) (c : Nat) : State :=
  let x := s.cx c
  if !x.live || x.parked || !x.wait.begun || x.outlast || x.squash.join.isSome then s
  else if Wait.bitDone s c x.wait x.regs.bound then s.resolveLive c (.bit true) true
  else (s.hist c x.regs.cpc.off false).updCx c fun y => { y with outlast := true }

/-- A wait of an eligible program is unresolved at its horizon (R208, R220): the bit at its value in the same cycle resolves it;
otherwise its counter falls, once, and where it was predicted satisfied its checkpoint is squashed and the wait goes on. -/
def execHorizonExpiry (ctx : Fin 1024) (s : State) : Res :=
  let c := ctx.val
  let x := s.cx c
  match x.inHorizon with
  | none => .next (s.liveHorizon c)
  | some k => match x.ckpts[k]? with
    | none => .next s
    | some e =>
      if Wait.bitDone s c e.wait e.saved.bound then .next (s.resolveCk c k (.bit true))
      else
        let s1 := s.histMove (clusterOf c) x.qid (siteOf e.site) false
        .next (if e.predicted == .bit true then s1.squash c k .horizon
          else s1.updCx c fun y => { y with ckpts := setAt y.ckpts k { e with late := true } })

/-! ### Snoops and counters -/

/-- An H2D snoop that invalidates a line (R213, R332): answered as for a clean line; every watch on it is hit. -/
def execSnoop (func : Fin 1024) (line : BitVec 51) (s : State) : Res :=
  let hs := s.watchHits none func.val [line.toNat]
  ({ s.emit (.reply 1 [line.toNat]) with hits := hs ++ s.hits }).done

/-- GBT_CLR (R227). -/
def execGbtClr (cluster : Fin 8) (s : State) : Res :=
  .next (forAll [RegId.gbtCnt0, .gbtCnt1, .gbtCnt2, .gbtCnt3] (fun t r => t.setReg ⟨r, cluster.val, 0⟩ 0) s)

end Sys2Proof.Machine
end

