-- ==== Sys2Proof/Machine/HostJoin.lean ====
section
/-!
DEFINITION. What both kinds of Roloa links send and owe (R275, R284, R285), and the link to the host in Roloa-native mode (R337): the
words of its bring-up, its credits, and how it fails.
-/

namespace Sys2Proof.Machine

/-- The device's LID word (R275): version 1.0 and its own node. -/
def State.sendLid (s : State) (p : Nat) : State := s.sendWord p 0xF5 (1 + s.selfNode * 256)

/-- The advertised receive buffers (R284): header and data credits. -/
def advert (vc : Nat) : Nat × Nat :=
  match vc with | 0 => (32, 64) | 1 => (128, 512) | 2 => (128, 512) | _ => (8, 16)

/-- The device's LINIT word for a virtual channel. -/
def State.sendLinit (s : State) (p vc : Nat) : State :=
  s.sendWord p 0xF1 (vc + (advert vc).1 * 8 + (advert vc).2 * 2 ^ 12)

/-- An LCRD goes out with up to 255 credits of each kind (R285). -/
def State.sendLcrd (s : State) (p vc : Nat) : State :=
  let l := s.lk p
  let h := Nat.min 255 (SMap.get l.owedHdr 0 vc)
  let d := Nat.min 255 (SMap.get l.owedData 0 vc)
  if h = 0 ∧ d = 0 then s
  else
    (s.setLk p { l with owedHdr := SMap.set l.owedHdr 0 vc (SMap.get l.owedHdr 0 vc - h)
                        owedData := SMap.set l.owedData 0 vc (SMap.get l.owedData 0 vc - d) }).sendWord p 0xF0
      (vc + h * 2 ^ 8 + d * 2 ^ 16)

/-- A packet arrives and its buffer space is free again: the credits are owed; the answer is none when it came without
credit (R285). -/
def State.owe (s : State) (p vc d : Nat) : Option State :=
  let l := s.lk p
  let h' := SMap.get l.owedHdr 0 vc + 1
  let d' := SMap.get l.owedData 0 vc + d
  let a := advert vc
  if h' > a.1 ∨ d' > a.2 then none
  else
    let s1 := s.setLk p { l with owedHdr := SMap.set l.owedHdr 0 vc h', owedData := SMap.set l.owedData 0 vc d' }
    some (if 2 * h' ≥ a.1 ∨ 2 * d' ≥ a.2 then s1.sendLcrd p vc else s1)

/-! ### The host link (R337) -/

/-- The host's modules are active: the link waits for the host's LID. -/
def State.hostWaiting (s : State) : State :=
  ({ (s.dropTx 8 fun _ => true).setLk 8 {} with hostLink := { st := 2 } }).sendLid 8

/-- The host link receives words. -/
def State.hostReceives (s : State) : Bool := 2 ≤ s.hostLink.st && s.hostLink.st ≤ 4

/-- A word at the host link is malformed (R293). -/
def State.hostBadWord (s : State) : Res := if s.hostReceives then s.hostLost.done else .next s

/-- A timer of the bring-up expires in its state: the attempt fails, and the link goes down. -/
def State.hostTimer (s : State) (st : Nat) : Res := if s.hostLink.st = st then s.hostLost.done else .next s

/-- The LINIT words received so far satisfy R284 for the host's MPS. -/
def State.hostCredOk (s : State) : Bool :=
  (s.lk 8).gotLinit.all fun v =>
    decide ((SMap.get s.hostLink.adv (0, 0) v).1 ≥ 1 ∧ (SMap.get s.hostLink.adv (0, 0) v).2 ≥ 2 ^ s.hostLink.mps)

/-- Everything the join needs has come: the credits become usable, and the packets that wait leave. -/
def State.hostTryJoin (s : State) : State :=
  let l := s.lk 8
  if s.hostLink.st = 3 ∧ l.gotLcap ∧ l.gotLinit.length = 4 ∧ l.nodeDone then
    let s1 := { s with hostLink := { s.hostLink with st := 4, tx := s.hostLink.adv } }
    let s2 := forAll [4, 5, 6, 7, 0, 1, 2, 3] (fun t key => t.drainTx 8 key (SMap.get (t.lk 8).txq [] key).length) s1
    s2.supdFlush s2.supdQ.length
  else s

/-- A LID of the host: the first begins the exchange; one that carries the granted ID completes the node step. -/
def State.hostLid (s : State) (v : Nat) : Res :=
  let h := s.hostLink
  let same := h.node == bitsOf v 8 16 && h.minor == bitsOf v 4 4 && bitsOf v 0 4 == 1
  let seen := { s with hostLink := { h with node := bitsOf v 8 16, minor := bitsOf v 4 4 } }
  if !s.hostReceives then .next s
  else if h.st = 4 then (if same then .next s else s.hostLost.done)
  else if bitsOf v 0 4 ≠ 1 then s.hostLost.done
  else if h.st = 2 then
    let s1 := ({ seen with hostLink := { seen.hostLink with st := 3 } }.setLk 8 { s.lk 8 with gotLid := true }).sendWord 8 0xF6 7
    .next (forAll [0, 1, 2, 3] (fun t c => t.sendLinit 8 c) s1)
  else if !(s.lk 8).gotLcap then .next seen
  else if bitsOf v 8 16 = s.hostNode then ((seen.setLk 8 { s.lk 8 with nodeDone := true }).hostTryJoin).done
  else if same then .next s
  else s.hostLost.done

/-- The host's LCAP: it is granted one node ID, DOMAIN : HOST, whatever it asks for. -/
def State.hostLcap (s : State) (v : Nat) : Res :=
  if !s.hostReceives then .next s
  else if s.hostLink.st = 4 ∨ controlBad (0xF6 + v * 256) then s.hostLost.done
  else if s.hostLink.st ≠ 3 then .next s
  else if (s.lk 8).gotLcap then s.hostLost.done
  else
    let s1 := { s with hostLink := { s.hostLink with mps := bitsOf v 1 3 } }.setLk 8 { s.lk 8 with gotLcap := true }
    if !s1.hostCredOk then s1.hostLost.done else .next (s1.sendWord 8 0xF7 (s1.hostNode * 256))

/-- A LINIT of the host. -/
def State.hostLinit (s : State) (v : Nat) : Res :=
  let vc := bitsOf v 0 2
  if !s.hostReceives then .next s
  else if s.hostLink.st = 4 ∨ controlBad (0xF1 + v * 256) then s.hostLost.done
  else if s.hostLink.st ≠ 3 then .next s
  else if (s.lk 8).gotLinit.contains vc then s.hostLost.done
  else
    let s1 := { s with hostLink := { s.hostLink with adv := SMap.set s.hostLink.adv (0, 0) vc (bitsOf v 3 9, bitsOf v 12 12) } }.setLk 8
      { s.lk 8 with gotLinit := (s.lk 8).gotLinit ++ [vc] }
    if (s1.lk 8).gotLcap && !s1.hostCredOk then s1.hostLost.done else s1.hostTryJoin.done

/-- A LASN at the host link: the device takes no block. -/
def State.hostLasn (s : State) (v : Nat) : Res :=
  if s.hostReceives ∧ (s.hostLink.st = 4 ∨ controlBad (0xF7 + v * 256)) then s.hostLost.done else .next s

/-- Credits that the host returns (R285). -/
def State.hostLcrd (s : State) (v : Nat) : Res :=
  let vc := bitsOf v 0 2
  if !s.hostReceives then .next s
  else if controlBad (0xF0 + v * 256) then s.hostLost.done
  else if s.hostLink.st ≠ 4 then .next s
  else
    let h := (s.txCred 8 vc).1 + bitsOf v 8 8
    let d := (s.txCred 8 vc).2 + bitsOf v 16 8
    if h > (SMap.get s.hostLink.adv (0, 0) vc).1 ∨ d > (SMap.get s.hostLink.adv (0, 0) vc).2 then s.hostLost.done
    else
      let go (t : State) (key : Nat) : State := t.drainTx 8 key ((SMap.get (t.lk 8).txq [] key).length)
      let s2 := go (go (s.setTxCred 8 vc h d) (vc + 4)) vc
      (s2.supdFlush s2.supdQ.length).done

end Sys2Proof.Machine
end

