-- ==== Sys2Proof/Machine/MailOps.lean ====
section
/-!
DEFINITION. The mailbox windows (R408 to R415): submission, the response, abort, and the notices.
-/

namespace Sys2Proof.Machine

/-- ACP firmware answers commands (R408). -/
def State.fwReady (s : State) : Bool := s.on Fld.dvsec.FW_READY

/-- The words of a window's request (R409, R411): the header, and the payload as one number. -/
def State.reqHdr (s : State) (m : Nat) : Nat := (s.reg ⟨.mbReq, m, 0⟩).toNat
/-- The payload. -/
def State.reqPay (s : State) (m : Nat) : Nat :=
  (List.range 13).foldl (fun a k => a + (s.reg ⟨.mbReq, m, k + 1⟩).toNat * 2 ^ (64 * k)) 0

/-- Bytes replaced in a word, from byte `b` on. -/
def splice (w : Nat) (b : Nat) : List Byte → Nat
  | [] => w
  | x :: r => splice (putBits w (8 * b) 8 x.toNat) (b + 1) r

/-- The payload of a response written: bytes beyond it keep what they held. -/
def State.rspPay (s : State) (m : Nat) : Nat → List Byte → State
  | _, [] => s
  | k, b :: bs =>
    if k < 104 then
      let f : Field := ⟨⟨.mbRsp, m, 1 + k / 8⟩, 8 * (k % 8), 8⟩
      (s.put f b.toNat).rspPay m (k + 1) bs
    else s

/-- A response (R411, R412): header, payload, SEQ, BUSY and DONE change together, with the mailbox source when asked for. -/
def State.respond (s : State) (m hdr err detail : Nat) (pay : List Byte) : State :=
  let h := bitsOf hdr 0 16 + pay.length * 2 ^ 16 + err * 2 ^ 24 + detail % 2 ^ 32 * 2 ^ 32
  let s1 := (({ s with mbAbort := NSet.del s.mbAbort m }.setReg ⟨.mbRsp, m, 0⟩ (BitVec.ofNat 64 h)).rspPay m 0 pay).putAll
    [(Fld.mbStat.SEQ m, bitsOf hdr 8 8), (Fld.mbStat.BUSY m, 0), (Fld.mbStat.DONE m, 1)]
  if s.on (Fld.mbCfg.IRQ_DONE m) then s1.raise (0x10000 + m) else s1

/-- The commands that firmware runs, without those of a window. -/
def State.acpDrop (s : State) (m : Nat) : State := { s with acp := s.acp.filter fun c => c.win != m }

/-- An ACP command answers. -/
def State.acpAnswer (s : State) (c : AcpCmd) (err detail : Nat) (pay : List Byte) : State :=
  (s.respond c.win c.hdr err detail pay).acpDrop c.win

/-- A command goes on in its next phase. -/
def State.acpPhase (s : State) (c : AcpCmd) (ph : Nat) : State :=
  { s with acp := s.acp.map fun d => if d.win = c.win then { d with phase := ph } else d }

/-- The opcode. -/
def AcpCmd.opc (c : AcpCmd) : Nat := bitsOf c.hdr 0 8

/-- The block whose registers a command writes that has begun and goes on in a later step (R423). -/
def AcpCmd.blk (c : AcpCmd) : Option Nat :=
  if c.phase = 0 then none
  else match c.opc with
    | 0x06 => some 10
    | 0x08 | 0x41 => some 20
    | 0x46 => some 30
    | 0x47 => some 31
    | _ => none

/-- Firmware holds a block while a command writes its registers (R423). -/
def State.fwHolds (s : State) (blk : Nat) : Bool := s.acp.any fun c => c.blk == some blk

/-- The windows with GO pending (R413). -/
def State.mailPending (s : State) : List Nat :=
  ((s.regs.filter fun e => e.1.id == .mbStat && e.2.getLsbD 0).map (·.1.i)).filter fun m =>
    !(s.acp.any fun c => c.win == m)

/-- GO is written in a window (R408, R409, R412, R466): before readiness only window 0 is served, by the ROM in Recovery,
and any other window answers NOT_READY. -/
def State.mailGo (s0 : State) (m : Nat) : State :=
  let s := s0.leaveDoze
  if s.on (Fld.mbStat.BUSY m) then s.put (Fld.mbStat.OVERRUN m) 1
  else
    let s1 := s.putAll [(Fld.mbStat.BUSY m, 1), (Fld.mbStat.DONE m, 0)]
    if !s.fwReady && m != 0 then s1.respond m (s.reqHdr m) 8 0 [] else s1

/-- ABORT is written in a window (R413, R415): it stops the window's command at its next step, where the command is of the
abortable ones; one that still waits to be selected keeps it. -/
def State.mailAbort (s : State) (m : Nat) : State :=
  if s.acp.any fun c => c.win == m then
    { s with acp := s.acp.map fun c => if c.win = m then { c with aborted := true } else c }
  else if s.on (Fld.mbStat.BUSY m) then { s with mbAbort := NSet.add s.mbAbort m }
  else s

/-- Firmware slots that are being written and stay partly written hold nothing valid (R452, R460). -/
def State.fwTorn (s : State) : State :=
  { s with fwSlot := s.fwWriting.foldl (fun m k => SMap.set m [] k []) s.fwSlot, fwWriting := [] }

/-- No command waits any more for the castling's end to answer it, of the windows that satisfy `p`; a staging, or the
writing of a firmware slot, that one of their commands runs ends (R414, R415). -/
def State.acpForget (s : State) (p : Nat → Bool) : State :=
  let s1 := { s with castle := s.castle.map fun c => if c.win.any p then { c with win := none } else c }
  let s2 := if s.acp.any fun c => p c.win && bitsOf c.hdr 0 8 == 0x4F then s1.fwTorn else s1
  if s.acp.any fun c => p c.win && bitsOf c.hdr 0 8 == 0x4B && c.phase != 0 then s2.put Fld.cfsStat.STATE 0 else s2

/-- A window returns to its reset values at a function-level reset, apart from FW_READY (R410, R415). -/
def State.mailReset (s : State) (m : Nat) : State :=
  (({ s with mbAbort := NSet.del s.mbAbort m }.acpForget (· == m)).acpDrop m).resetRegs fun r => regIn [.mbDb, .mbStat, .mbReq, .mbRsp, .mbCfg] m r

/-- A notice sets in every window (R414, R435). -/
def State.noticeAll (s : State) (f : Nat → Field) : State := forAll (List.range 1024) (fun t m => t.notice m f) s

/-- Firmware restarts (R414). -/
def State.mailRestart (s : State) : State :=
  let ws := (s.regs.filter fun e => e.1.id == .mbStat && e.2.getLsbD 0).map (·.1.i)
  let s1 := forAll ws (fun t m =>
    let h := match t.acp.find? (fun c => c.win == m) with | some c => c.hdr | none => t.reqHdr m
    t.respond m h 0x0F 0 []) (s.acpForget fun _ => true)
  { s1 with acp := [] }.noticeAll Fld.mbStat.N_FWRST

end Sys2Proof.Machine
end

