-- ==== Sys2Proof/Machine/MemSeg.lean ====
section
/-!
DEFINITION. Loads, stores and segment loads (R148, R163, R164, R178 to R182, R194, R196 to R199, R213 to R219), and what
answers them: reads of host memory, table reads, translations, invalidations (R200 to R205).
-/

namespace Sys2Proof.Machine

/-! ### Loads -/

/-- What a load finds out before it issues: the check that fails, a pause until the path is no longer speculative (R212, R214), a
pause until an entry leaves the watch set (R213), or where it goes. -/
inductive LoadPlan where
  | trap (status : Nat)
  | stop
  | full
  | go (tg : Tgt) (verify : Bool)
deriving Repr

/-- A load lies in the watch set or among the verified reads: room for it under the youngest checkpoint (R213, R214). -/
def State.specRoom (s : State) (c : Nat) (verify : Bool) (func a n : Nat) : Bool :=
  match (s.cx c).ckpts.getLast? with
  | none => true
  | some k =>
    if verify then decide (k.verify.length + (alignedParts a n).length ≤ 16)
    else s.watchRoom c ((linesOf a n).filter fun l =>
      !((SMap.get s.watch [] (clusterOf c)).any fun w => w.1 == func && w.2.1 == l && w.2.2.1 == c)).length

/-- The checks of a load and what it may do on a speculative path (R196, R212 to R214, R338, R350). -/
def State.planLoad (s : State) (c : Nat) (g : Desc) (o n : Nat) : LoadPlan :=
  match segCheck g .r o n with
  | some st => .trap st
  | none =>
    let x := s.cx c
    let tg := s.target x.pdom g o false
    match tg with
    | .bad st => .trap st
    | .host f a =>
      let ver := s.on Fld.hpuStat.MODE
      if x.speculating && !s.specRoom c ver f a n then (if ver then .stop else .full) else .go tg (ver && x.speculating)
    | .self _ a =>
      if x.speculating && (g.kind != 1 || !g.idem || inFifoWindow g.base g.limit || !s.specRoom c true 0 a n) then .stop
      else .go tg x.speculating
    | .dev node a =>
      if x.speculating && (g.kind != 1 || !g.idem || !s.specRoom c true 0 a n) then .stop
      else match s.devDead node a n with
        | some st => .trap st
        | none => .go tg x.speculating

/-- One part of a load issues: the part, and the state in which its read is outstanding or answered; or the status
with which it fails at once; or nothing while no tag is free. -/
inductive PartOut where
  | part (p : LoadPart) (s : State)
  | fails (status : Nat) (s : State)
  | later

/-- One part of a load (R148, R163, R213, R219). -/
def State.issuePart (s : State) (c : Nat) (g : Desc) (tg : Tgt) (verify : Bool) (off n : Nat) : PartOut :=
  let x := s.cx c
  let vc := s.memVc c
  let id := s.hreqNext
  match tg with
  | .bad st => .fails st s
  | .host f b =>
    let a := b + off
    let s1 := s.hostRead (.load c id) f (if x.speculating && !verify then .rdShared else .rdCurr) a n vc g
    let s2 := if verify then s1.recordRead c
        { key := 2 * id, host := some f, node := s.hostNode, addr := a, n := n, vc := vc, data := none, again := none,
          sent := false, seg := g }
      else if x.speculating then s1.addWatch c f a n else s1
    .part { req := id, dev := false, off := off, n := n, data := none, cover := s.overlay c f a n } s2
  | .dev node b =>
    let a := b + off
    match s.request (.load c id) (mrdPkt node a n vc false) n (s.portRef node a n) true s.tmoNow g with
    | none => .later
    | some (s1, _) =>
      let s2 := { s1 with hreqNext := id + 1 }
      let s3 := if verify then s2.recordRead c
        { key := 2 * id, host := none, node := node, addr := a, n := n, vc := vc, data := none, again := none,
          sent := false, seg := g } else s2
      .part { req := id, dev := true, off := off, n := n, data := none, cover := [] } s3
  | .self req b =>
    let a := b + off
    match s.selfAcc req s.selfNode a n none with
    | .ok bs s1 =>
      let s2 := if verify then s1.recordRead c
        { key := 2 * id, host := none, node := s.selfNode, addr := a, n := n, vc := vc, data := some bs, again := none,
          sent := false, seg := g } else s1
      .part { req := id, dev := true, off := off, n := n, data := some bs, cover := [] } { s2 with hreqNext := id + 1 }
    | .refused s1 => .fails 0x21 s1
    | .devErr s1 => .fails 0x30 s1
    | .outside => .fails 0x30 s

/-- The first part of a load that cannot be made: its status, and the state with what the refusal records (R164). -/
def State.partFails (s : State) (c : Nat) (g : Desc) (tg : Tgt) (verify : Bool) (ps : List (Nat × Nat)) :
    Option (Nat × State) :=
  ps.findSome? fun p => match s.issuePart c g tg verify p.1 p.2 with | .fails st s1 => some (st, s1) | _ => none

/-- A load issues its parts in ascending order. -/
def State.issueParts (s : State) (c : Nat) (g : Desc) (tg : Tgt) (verify : Bool) : List (Nat × Nat) → List LoadPart →
    Option (Except (Nat × State) (List LoadPart × State))
  | [], acc => some (.ok (acc, s))
  | (off, n) :: r, acc =>
    match s.issuePart c g tg verify off n with
    | .part p s1 => s1.issueParts c g tg verify r (acc ++ [p])
    | .fails st s1 => some (.error (st, s1))
    | .later => none

/-- LD and LDI once their address is known (R163, R164, R181): the load issues, and the instruction retires with its
result to come; under REPZ it waits for the data. -/
def loadAt (h : Hdr) (d : Nat) (m : Mem) (o : Nat) (s0 s : State) : Res :=
  let c := h.ctx.val
  let x := s.cx c
  let g := x.sreg (memSreg m)
  let n := widthBytes h.width
  if h.rpt == .rep && decide (x.loads.length ≥ 8) then .next s0
  else match s.planLoad c g o n with
  | .trap st => s.trap c st { sel := g.sel }
  | .stop => .next (s0.pause c)
  | .full => .next ((s0.updCx c fun y => { y with watchStop := true }).pause c)
  | .go tg verify =>
    let parts := alignedParts (g.base + o) n
    match s.partFails c g tg verify parts, s.issueParts c g tg verify parts [] with
    | some (st, s1), _ => s1.trap c st { sel := g.sel }
    | none, none => .next s0
    | none, some (.error (st, s1)) => s1.trap c st { sel := g.sel }
    | none, some (.ok (ps, s1)) =>
      let w := widthBits h.width
      let l : Load := { dst := some d, nib := if h.width == .w4 then some m.nsel else none
                        fz := true, fn := true, w := w, ck := x.ckpts.length, parts := ps, sel := g.sel }
      let s2 := s1.updCx c fun y =>
        let y1 := y.useSeg g.dom g.sel
        { y1 with loads := (y1.loads.map fun e => { e.supersede d with fz := false, fn := false }) ++ [l] }
      if h.rpt == .repz then
        if (l.bytes).isSome then .next (s2.updCx c fun y => y.landAll.iterateMem h m)
        else .next (s2.updCx c fun y => { y with wait := .ld h m, waitLock := h.lock })
      else .next (s2.updCx c fun y => y.landAll.iterateMem h m)

/-- A memory selector, at a byte of the instruction counted from its opcode's first, whose NSEL the form requires to be zero and
is not, makes the encoding undefined (R138, R140). -/
def nselBad (bad : Bool) (at_ : Nat) : Option Nat := if bad then some at_ else none

/-- LD (R163). -/
def execLd (h : Hdr) (d : Fin 16) (m : Mem) (s : State) : Res :=
  issue { w := true, nib := true, rep := true, lock := true, rd := if h.rpt == .once then [] else [15],
          undef := nselBad (m.nsel && h.width != .w4) 2 } h s fun s1 =>
    loadAt h d.val m ((s1.cx h.ctx.val).offset m).toNat s s1

/-- LDI (R153): the index is added in bytes, modulo 2^64. -/
def execLdi (h : Hdr) (d : Fin 16) (m : Mem) (k : Fin 16) (s : State) : Res :=
  issue { w := true, nib := true, rep := true, lock := true, at_ := 1,
          rd := if h.rpt == .once then [k.val] else [15, k.val], undef := nselBad (m.nsel && h.width != .w4) 3 } h s fun s1 =>
    let x := s1.cx h.ctx.val
    loadAt h d.val m (x.offset m + x.dreg k.val).toNat s s1

/-! ### Stores -/

/-- The aligned parts of a store, as target offset and bytes. -/
def storeParts (a : Nat) (bs : List Byte) : List (Nat × List Byte) :=
  (alignedParts a bs.length).map fun p => (p.1, (bs.drop p.1).take p.2)

/-- Held stores are placed in turn (R216). -/
def State.holdParts (s : State) (c func a vc sel : Nat) : List (Nat × List Byte) → Option State
  | [] => some s
  | (off, bs) :: r =>
    match s.holdStore c func (a + off) vc sel bs with
    | none => none
    | some s1 => s1.holdParts c func a vc sel r

/-- Writes to a node or to the device itself: where one part cannot be made none is (R164), and the answer is its status, with
the state that its refusal leaves; otherwise they go out in turn. -/
def State.putParts (s : State) (c vc : Nat) (tg : Tgt) (ps : List (Nat × List Byte)) : State × Option Nat :=
  let try_ (t : State) (p : Nat × List Byte) : State × Option Nat := t.putPiece c vc (tg.plus p.1) p.2
  match ps.find? fun p => (try_ s p).2.isSome with
  | some p => try_ s p
  | none => (ps.foldl (fun t p => (try_ t p).1) s, none)

/-- The first page of some writes of a function whose translation is not there. -/
def State.missingPage (s : State) (func : Nat) (w : List (Nat × List Byte)) : Option Nat :=
  (w.find? fun e => !s.translated func e.1).map fun e => e.1 / 4096

/-- A store's writes to host memory: held on a speculative path, refused where they cannot reach the host (R329, R334), waiting for
a translation that is not there, and otherwise issued. -/
def storeHost (h : Hdr) (m : Mem) (func a : Nat) (bs : List Byte) (s0 s : State) : Res :=
  let c := h.ctx.val
  let ps := storeParts a bs
  if (s.cx c).speculating then
    match s.holdParts c func a (s.memVc c) ((s.cx c).sreg (memSreg m)).sel ps with
    | none => .next (s0.pause c)
    | some s1 => .next (s1.updCx c fun y => y.iterateMem h m)
  else if s.readOverlaps c func a bs.length then .next s0
  else if !s.hostOk func then s.trap c 0x30
  else
    let w := ps.map fun p => (a + p.1, p.2)
    match s.missingPage func w with
    | some pg => .next ((s.askAts func (pg * 4096)).updCx c fun y => { y with wait := .xlate h m func pg w })
    | none => ((forAll w (fun t e => t.hostWriteBy (some c) func e.1 e.2) s).updCx c fun y => y.iterateMem h m).done

/-- ST and STI once their address is known (R163, R164). -/
def storeAt (h : Hdr) (d : Nat) (m : Mem) (o : Nat) (s0 s : State) : Res :=
  let c := h.ctx.val
  let x := s.cx c
  let g := x.sreg (memSreg m)
  let n := widthBytes h.width
  match segCheck g .w o n with
  | some st => s.trap c st { sel := g.sel }
  | none =>
    let bs := toBytes n (x.dreg d).toNat
    let s1 := s.updCx c fun y => y.useSeg g.dom g.sel
    match s1.target x.pdom g o true with
    | .bad st => s.trap c st { sel := g.sel }
    | .host f a => storeHost h m f a bs s0 s1
    | tg =>
      if x.speculating then .next (s0.pause c)
      else match s1.putParts c (s1.memVc c) tg (storeParts (g.base + o) bs) with
        | (s2, some st) => s2.trap c st { sel := g.sel }
        | (s2, none) => (s2.updCx c fun y => y.iterateMem h m).done

/-- ST (R163). -/
def execSt (h : Hdr) (m : Mem) (d : Fin 16) (s : State) : Res :=
  issue { w := true, rep := true, lock := true, rd := if h.rpt == .once then [d.val] else [15, d.val],
          undef := nselBad m.nsel 2 } h s fun s1 =>
    storeAt h d.val m ((s1.cx h.ctx.val).offset m).toNat s s1

/-- STI (R153). -/
def execSti (h : Hdr) (m : Mem) (k : Fin 16) (d : Fin 16) (s : State) : Res :=
  issue { w := true, rep := true, lock := true, at_ := 1,
          rd := if h.rpt == .once then [k.val, d.val] else [15, k.val, d.val], undef := nselBad m.nsel 3 } h s fun s1 =>
    let x := s1.cx h.ctx.val
    storeAt h d.val m (x.offset m + x.dreg k.val).toNat s s1

/-! ### Segment loads -/

/-- LDS (R194). -/
def execLds (h : Hdr) (sr : Fin 16) (sel : SelSrc) (s : State) : Res :=
  let c := h.ctx.val
  issue { lock := true, rd := usesSel sel } h s fun s1 =>
    let x := s1.cx c
    let sl := x.sel sel
    s1.seePd x.pdom (f := onNext) fun s2 =>
      if !s2.selOk c sl then s2.trap c 0x22 { sel := sl }
      else match s2.lookup x.pdom sl with
        | (some g, s3) => .next (s3.updCx c fun y => ((y.setS sr.val g).useSeg x.pdom sl).retire h)
        | (none, s3) => .next (s3.updCx c fun y => { y with wait := .lds h.len sr.val sl, waitLock := h.lock })

/-- What makes the effect of a table entry unpredictable, with the rule: a reserved field that is not zero (R7), or a range
beyond the address space of its kind (R193, R337). -/
def State.segBad (s : State) (e : SegEntry) : Option Nat :=
  let w := e.w0.toNat
  let kind := bitsOf w 1 2
  let top := bitsOf e.base.toNat 0 57 + bitsOf e.limit.toNat 0 57
  if bitsOf w 0 1 = 0 ∨ kind = 3 then none
  else if bitsOf w 7 9 ≠ 0 ∨ bitsOf w 44 20 ≠ 0 ∨ bitsOf e.base.toNat 57 7 ≠ 0 ∨ bitsOf e.limit.toNat 57 7 ≠ 0 then some 7
  else if (kind = 0 ∧ top > 2 ^ 57) ∨ (kind = 1 ∧ top > 2 ^ 48) then some 193
  else if kind = 0 ∧ s.on Fld.hpuStat.MODE ∧ top > 2 ^ 48 then some 337
  else none

/-- A submission entry's reserved field is not zero (R7, R44). -/
def entryBad (e : Entry) : Bool := bitsOf e.w1.toNat 21 43 != 0

/-- The STU's read of a table entry returns, or fails (R194). -/
def execSegmentTableRead (dom : Fin 4096) (sel : BitVec 16) (r : Option SegEntry) (s : State) : Res :=
  if SMap.get s.segRead 0 (segKey dom.val sel.toNat) = 0 then .next s
  else match s.hreq.find? (fun e => e.2.purp == .table dom.val sel.toNat) with
    | some e =>
      if e.2.held then .next s
      else
        let r1 := if e.2.dead then none else r
        match r1.bind s.segBad with
        | some rule => .fault (.unpredictable rule)
        | none => ((s.dropHreq e.1).tableResult dom.val sel.toNat r1).done
    | none => .next s

/-! ### Data for the one that waits -/

/-- A REPZ load's wait is over once its data has landed (R181). -/
def State.ldLanded (s : State) (c : Nat) : State :=
  (s.updCx c fun x => match x.wait with
    | .ld h m => if x.pendCF then x else { x with wait := .none }.iterateMem h m
    | _ => x).dueEnd c

/-- The data of one part of a load arrives (R164, R214). -/
def State.loadData (s : State) (c req : Nat) (dev : Bool) (bs : List Byte) : State :=
  let s1 := s.updCx c fun x => x.mapLoads (Load.fill dev req bs)
  let s2 := s1.gotFirst c (2 * req) bs
  ((s2.updCx c Ctx.landAll).ldLanded c).kick c

/-- A submission entry from its 64 bytes (R44). -/
def entryOf (bs : List Byte) : Entry :=
  let w i := BitVec.ofNat 64 (ofBytes ((bs.drop (8 * i)).take 8))
  { w0 := w 0, w1 := w 1, p0 := w 2, p1 := w 3, p2 := w 4, p3 := w 5, p4 := w 6, p5 := w 7 }

/-- The entry's program starts (R45 to R47, R96, R190). -/
def State.startEntry (s : State) (c : Nat) (e : Entry) : State :=
  let x := s.cx c
  let co := bitsOf e.w1.toNat 18 2
  let cls := if bitsOf e.w1.toNat 20 1 = 1 then Nat.max co x.cls else x.cls
  let sel := e.w0.toNat % 2 ^ 16
  let off := e.w0.toNat / 2 ^ 16
  let ps := [e.p0, e.p1, e.p2, e.p3, e.p4, e.p5]
  let s1 := s.updCx c fun y =>
    let y1 := { y with tag := e.w1.toNat % 2 ^ 16, ioc := bitsOf e.w1.toNat 16 1 == 1, ga := bitsOf e.w1.toNat 17 1 == 1
                       cls := cls, wait := .prog sel off
                       regs := { y.regs with cpc := { sel := sel, off := off, seg := {} } } }
    (List.range 6).foldl (fun z i => z.putD i (ps.getD i 0)) y1
  let s2 := s1.setQd x.qid { s1.qd x.qid with reads := (s1.qd x.qid).reads.filter (· != x.sqIdx) }
  s2.seePd x.pdom (f := fun u g => g u) fun t =>
    if !t.selOk c sel then t.autoEnd c 0x22 { sel := sel }
    else match t.lookup x.pdom sel with
      | (some g, s3) => s3.startProg c sel off g
      | (none, s3) => s3

/-- A table entry from its first 24 bytes (R193). -/
def segEntryOf (bs : List Byte) : SegEntry :=
  let w i := BitVec.ofNat 64 (ofBytes ((bs.drop (8 * i)).take 8))
  { w0 := w 0, base := w 1, limit := w 2 }

/-- What the data of a read makes unpredictable, with the rule. -/
def State.dataBad (s : State) (p : Purpose) (bs : List Byte) : Option Nat :=
  match p with
  | .entry _ => if entryBad (entryOf bs) then some 7 else none
  | .table _ _ =>
    let e := segEntryOf bs
    if bitsOf e.w0.toNat 0 1 = 1 ∧ bitsOf e.w0.toNat 1 2 ≠ 3 ∧ ofBytes ((bs.drop 24).take 8) ≠ 0 then some 7 else s.segBad e
  | _ => none

/-- The stripe descriptor's bytes arrive, or the ones of any read: by what the read was for. -/
def State.hostData (s0 : State) (id : Nat) (r : HReq) (bs : List Byte) (onDesc : State → Nat → List Byte → State) : State :=
  let s := s0.dropHreq id
  match r.purp with
  | .entry c => s.startEntry c (entryOf bs)
  | .load c k => s.loadData c k false bs
  | .table dom sel => s.tableResult dom sel (some (segEntryOf bs))
  | .desc c => onDesc s c bs
  | .mover k => (s.feed k bs).goXf k
  | .verify c k i => s.gotRead c k i true bs
  | .peer src tag vc addr len =>
    forAll (s.dataPkts src tag vc addr len r.addr bs) State.sendRouted (s.dataTaken len bs)
  | _ => s

/-- The read of the submission entry returns (R44, R96, R190). -/
def execEntryReturn (ctx : Fin 1024) (e : Entry) (s : State) : Res :=
  match s.hreq.find? (fun r => r.2.purp == .entry ctx.val) with
  | some r =>
    if r.2.held then .next s
    else if r.2.dead then (s.hostReadFail r.1).done
    else if entryBad e then .fault (.unpredictable 7)
    else ((s.dropHreq r.1).startEntry ctx.val e).done
  | none => .next s

/-! ### Address translation -/

/-- A store that waits for a page goes on (R199); one that can no longer reach the host gets its error response (R334). -/
def State.xlateNow (s : State) (c : Nat) : State :=
  match (s.cx c).wait with
  | .xlate h m f _ w =>
    if !s.hostOk f then s.autoEnd c 0x30
    else match s.missingPage f w with
    | some pg => (s.askAts f (pg * 4096)).updCx c fun y => { y with wait := .xlate h m f pg w }
    | none => ((forAll w (fun t e => t.hostWriteBy (some c) f e.1 e.2) s).updCx c fun y =>
        { y with wait := .none }.iterateMem h m).dueEnd c
  | _ => s

/-- A request of a function touches a page. -/
def HReq.touches (r : HReq) (func page : Nat) : Bool :=
  r.func == func && decide (r.n > 0) && decide (r.addr / 4096 ≤ page ∧ page ≤ (r.addr + r.n - 1) / 4096)

/-- A page's translation is refused (R194, R197, R199): what needs it ends. -/
def State.refusePage (s : State) (func page : Nat) : State :=
  let ids := (s.hreq.filter fun e => e.2.held && e.2.touches func page).map (·.1)
  let s1 := forAll ids (fun t id =>
    let r := t.hreqOf id
    match r.purp with
    | .entry c => (t.dropHreq id).queueError (t.cx c).qid 3 r.addr
    | .load c k => (t.dropHreq id).loadFail c k 0x21
    | .desc c => (t.dropHreq id).autoEnd c 0x21 { sel := r.seg.sel }
    | .table .. | .ring _ => t.hostReadFail id
    | .mover k => (t.dropHreq id).xferFail k 5 0x21 r.seg.sel
    | .verify c k _ => (t.dropHreq id).squash c k .conflict
    | .peer .. => t
    | _ => t.dropHreq id) s
  let s2 := forAll s1.liveCtx (fun t c => match (t.cx c).wait with
    | .xlate _ m f p _ =>
      if f = func ∧ p = page then t.autoEnd c 0x21 { sel := ((t.cx c).sreg (memSreg m)).sel } else t
    | _ => t.refuseDrain c func page) s1
  let s3 := forAll s2.xfer (fun t e =>
    match (t.xferNeeds e.1).find? fun w => w.1 == func && w.2.1 / 4096 == page with
    | some (_, _, off, sel) => t.xferFail e.1 5 0x21 sel (some off)
    | none => t) s2
  forAll ((s3.cpl.map (·.qid)).eraseDups.filter fun q =>
      s3.get (Fld.grp.FUNC (q / 16)) == func && s3.cqAddr q / 4096 == page)
    (fun t q => t.queueError q 3 (t.cqAddr q)) s3

/-- An ATS translation response (R199): the translation, with the log2 of its pages, is kept, and what waited for a page of it goes on;
or the page is refused. -/
def execTranslationResponse (func : Fin 1024) (page : BitVec 45) (r : Option (BitVec 45 × Fin 46)) (s : State) : Res :=
  let key := atcKey func.val page.toNat
  if !NSet.has s.atsPend key then .next s
  else match r with
    | some (t, size) =>
      let s1 := { s with
        atsPend := s.atsPend.filter fun k => !(k / 2 ^ 45 == func.val && pagesMeet page.toNat size.val (k % 2 ^ 45) 0)
        atc := ⟨func.val, page.toNat, size.val, t.toNat⟩ :: s.atc }
      (forAll s1.liveCtx State.xlateNow s1).sendHeld.goAll.done
    | none => ({ s with atsPend := NSet.del s.atsPend key }.refusePage func.val page.toNat).done

/-- The host asks the device to drop the translations of some pages: the first and the log2 of how many (R200). -/
def execAtsInvalidation (func : Fin 1024) (page : BitVec 45 × Fin 46) (s : State) : Res :=
  let e := (func.val, page.1.toNat, page.2.val)
  .next { s with
    atc := s.atc.filter fun a => !(a.func == func.val && pagesMeet a.page a.log2 page.1.toNat page.2.val)
    atsInv := if s.atsInv.contains e then s.atsInv else s.atsInv ++ [e] }

/-- A read that was issued with a translation of the pages of an invalidation is outstanding. -/
def State.atsUsed (s : State) (e : Nat × Nat × Nat) : Bool :=
  s.hreq.any fun r => !r.2.held && r.2.func == e.1 && decide (r.2.n > 0) &&
    (pagesMeet (r.2.addr / 4096) 0 e.2.1 e.2.2 || pagesMeet ((r.2.addr + r.2.n - 1) / 4096) 0 e.2.1 e.2.2)

/-- The STU completes the host's ATS invalidations of a page once every request that used the translations has completed
(R200). -/
def execAtsInvalidationComplete (func : Fin 1024) (page : BitVec 45) (s : State) : Res :=
  let mine (e : Nat × Nat × Nat) : Bool := e.1 == func.val && e.2.1 == page.toNat
  if s.atsInv.any mine && !(s.atsInv.any fun e => mine e && s.atsUsed e) then
    .next { s.emit (.atsDone func.val page.toNat) with atsInv := s.atsInv.filter fun e => !mine e }
  else .next s

/-! ### Segment invalidation (R201, R202) -/

/-- A descriptor lies in an invalidation's scope (R202). -/
def Inv.covers (i : Inv) (g : Desc) : Bool :=
  g.live && (match i.scope with
    | 0 => g.handle.isNone && g.dom == i.dom && g.sel == i.sel
    | 1 => g.dom == i.dom
    | _ => true)

/-- A tag of a domain and a selector lies in scope. -/
def Inv.coversTag (i : Inv) (dom sel : Nat) : Bool :=
  match i.scope with
  | 0 => dom == i.dom && sel == i.sel
  | 1 => dom == i.dom
  | _ => true

/-- A descriptor is marked where it lies in scope. -/
def Inv.mark (i : Inv) (g : Desc) : Desc := if i.covers g then { g with inval := true } else g

/-- Step 3: every segment register in scope of a context's registers, and the descriptors its code addresses were
reached by. -/
def CtxRegs.markAll (r : CtxRegs) (i : Inv) : CtxRegs :=
  { r with seg := r.seg.map fun e => (e.1, i.mark e.2)
           cpc := { r.cpc with seg := i.mark r.cpc.seg }
           stack := r.stack.map fun p => { p with seg := i.mark p.seg } }

/-- Step 3 over a context, its checkpoints included. -/
def Ctx.markAll (x : Ctx) (i : Inv) : Ctx :=
  { x.upd (fun r => r.markAll i) with ckpts := x.ckpts.map fun k => { k with saved := k.saved.markAll i } }

/-- The first checkpoint whose path used a descriptor in scope (R201, step 4); the path's own program segment counts
from the oldest on. -/
def Ctx.invCkpt (x : Ctx) (i : Inv) : Option Nat :=
  (List.range x.ckpts.length).find? fun k => match x.ckpts[k]? with
    | some ck => ck.segs.any (fun t => i.coversTag t.1 t.2) || i.covers ck.saved.cpc.seg
    | none => false

/-- A transfer was issued under a descriptor in scope. -/
def Xfer.inScope (x : Xfer) (i : Inv) : Bool := x.links.any fun l => i.covers l.src || (!l.skip && i.covers l.dst)

/-- The selector of a transfer's first range in scope, in assembler order. -/
def Xfer.scopeSel (x : Xfer) (i : Inv) : Nat :=
  ((x.links.flatMap fun l => if l.skip then [l.src] else [l.dst, l.src]).find? fun g => i.covers g).elim 0 (·.sel)

/-- Step 5 with STOP (R201, R234): the transfers in scope stop. STOPPED counts those of the last invalidation, and the
invalidations that a function-level reset makes (R202) count as such (log entry 58). -/
def State.stopScope (s : State) (i : Inv) : State :=
  let ks := s.xfersBy fun x => x.inScope i
  let s1 := s.put Fld.invStat.STOPPED (Nat.min 255 ks.length)
  s1.stopAll ks 6 0x23 fun x => x.scopeSel i

/-- Steps 1 to 4 of an invalidation, and with STOP the stops of step 5 (R201). -/
def State.invSteps (s : State) (i : Inv) : State :=
  let s1 := { s with
    segRead := s.segRead.map fun e => if e.2 == 1 && i.coversTag (e.1 / 65536) (e.1 % 65536) then (e.1, 2) else e
    segCache := s.segCache.filter fun e => !i.coversTag (e.1 / 65536) (e.1 % 65536) }
  let s2 := forAll s1.liveCtx (fun t c => t.updCx c fun x => x.markAll i) s1
  let s3 := forAll s2.liveCtx (fun t c => match (s1.cx c).invCkpt i with
    | some k => t.squash c k .other
    | none => t) s2
  if i.stop then s3.stopScope i else s3

/-- The scope takes in a whole domain's entry (R202). -/
def Inv.wholeDom (i : Inv) (d : Nat) : Bool := i.scope == 2 || (i.scope == 1 && i.dom == d)

/-- INV_CMD with GO = 1 (R201, R204, R205). -/
def execInvalidation (scope : Fin 4) (stop notify : Bool) (dom : Fin 4096) (sel : BitVec 16) (s : State) : Res :=
  if s.inv.isSome ∨ scope.val = 3 then .next (s.put Fld.invStat.REJECTED 1)
  else
    let i : Inv := { scope := scope.val, stop := stop, notify := notify, dom := dom.val, sel := sel.toNat }
    let s1 := s.putAll [(Fld.invCmd.SCOPE, scope.val), (Fld.invCmd.STOP, b2n stop), (Fld.invCmd.NOTIFY, b2n notify),
      (Fld.invCmd.PDOM, dom.val), (Fld.invCmd.SEL, sel.toNat), (Fld.invStat.BUSY, 1), (Fld.invStat.STOPPED, 0)]
    ({ s1 with
      inv := some i
      pdOld := s1.pdOld.map fun (o : OldDom) => { o with covered := i.wholeDom o.dom } }.invSteps i).done

/-- Some access or transfer issued under a descriptor in scope is still outstanding (R201, step 5). With STOP = 1 the reads of a
stopped transfer or program are abandoned and not awaited; with STOP = 0 an access is awaited even where its program has ended. -/
def State.invBusy (s : State) (i : Inv) : Bool :=
  s.xfer.any (fun e => e.2.inScope i) ||
    s.hreq.any (fun e => !(i.stop && e.2.purp.isGone) && i.covers e.2.seg) ||
    s.txn.any (fun e => !(i.stop && e.2.purp.isGone) && i.covers e.2.seg) ||
    s.ctx.any (fun e => e.2.live && (match e.2.wait with
      | .xlate _ m .. => i.covers (e.2.sreg (memSreg m))
      | _ => false))

/-- The drain finishes (R201, steps 5 and 6). -/
def execInvalidationComplete (s : State) : Res :=
  match s.inv with
  | none => .next s
  | some i =>
    if s.invBusy i then .next s
    else
      let s1 := { s with
        inv := none
        pdOld := s.pdOld.filter fun o => !(o.covered && i.wholeDom o.dom) }.putAll [(Fld.invStat.BUSY, 0), (Fld.invStat.DONE, 1)]
      .next (if i.notify then s1.raise 0x10403 else s1)

end Sys2Proof.Machine
end

