-- ==== Sys2Proof/Machine/BitsSem.lean ====
section
/-!
DEFINITION. The meanings of the bit instructions, the semaphores and the bit waits (R119, R120, R129, R155 to R158, R174,
R175), and the rows that end a bit wait (R8, R119, R215, R220).
-/

namespace Sys2Proof.Machine

/-- A bit access that is Stop on a speculative path (R174). -/
def bitStop (a : Nat) (write : Bool) : Bool := !(bPriv a || (bMirror a && !write))

/-- The front of a bit instruction: its checks, Stop, and the lock of its block. -/
def bitFront (h : Hdr) (rd : List Nat) (b : BitSrc) (write sem : Bool) (s : State) (at_ : Nat)
    (k : Nat → State → Res) : Res :=
  let c := h.ctx.val
  issue { lock := true, rd := rd ++ usesBit b, at_ := at_ } h s fun s1 =>
    let a := (s1.cx c).bitAddr b
    match s1.bitCheck c a write sem with
    | some st => s1.trap c st
    | none =>
      if (s1.cx c).pendBit a then .next s
      else if (s1.cx c).speculating && bitStop a write then .next (s.pause c)
      else if bSem a then
        match s1.lockStep c (semRes c a) with
        | .bad => s1.trap c 0x11
        | .wait => .next s
        | .go s2 => k a s2
      else k a s1

/-- BTST and its like: Z := not old, C := old, and the bit takes a new value where `f` gives one (R174). -/
def bitOp (h : Hdr) (rd : List Nat) (b : BitSrc) (s : State) (write : Bool) (f : State → Bool → Bool)
    (g : Ctx → Bool → Ctx := fun x _ => x) : Res :=
  let c := h.ctx.val
  bitFront h rd b write false s 0 fun a s1 =>
    let old := s1.bitVal c a
    let s2 := if write then s1.setBit c a (f s1 old) else s1
    .next (s2.updCx c fun x => ((g x old).setZC (!old) old).retire h)

/-- BTST (R174). -/
def execBtst (h : Hdr) (b : BitSrc) (s : State) : Res := bitOp h [] b s false fun _ old => old
/-- BSET (R174). -/
def execBset (h : Hdr) (b : BitSrc) (s : State) : Res := bitOp h [] b s true fun _ _ => true
/-- BCLR (R174). -/
def execBclr (h : Hdr) (b : BitSrc) (s : State) : Res := bitOp h [] b s true fun _ _ => false
/-- BNOT (R174). -/
def execBnot (h : Hdr) (b : BitSrc) (s : State) : Res := bitOp h [] b s true fun _ old => !old
/-- BLD (R174). -/
def execBld (h : Hdr) (d : Fin 16) (bit : BitVec 16) (s : State) : Res :=
  bitOp h [] (.imm bit) s false (fun _ old => old) fun x old => x.setD d.val (BitVec.ofNat 64 (b2n old))
/-- BST (R174): Dx[0] into the bit. -/
def execBst (h : Hdr) (bit : BitVec 16) (d : Fin 16) (s : State) : Res :=
  bitOp h [d.val] (.imm bit) s true fun t _ => ((t.cx h.ctx.val).dreg d.val).getLsbD 0

/-- SEMA (R129): acquires a free bit; waits for one that is set, except inside a locked sequence. -/
def execSema (h : Hdr) (b : BitSrc) (s : State) : Res :=
  let c := h.ctx.val
  bitFront h [] b true true s 0 fun a s1 =>
    let cl := clusterOf c
    if !(s1.semBit cl a).set then
      .next ((s1.setSem cl a { set := true, owner := some c }).updCx c fun x => (x.setZ true).retire h)
    else if (s1.cx c).seqCount.isSome then .next (s1.updCx c fun x => (x.setZ false).retire h)
    else .next (s1.updCx c fun x => { x with wait := .sema h.len a, waitLock := h.lock })

/-- SEMR (R174): the bit and its owner record clear; Z says whether this context was the owner. -/
def execSemr (h : Hdr) (b : BitSrc) (s : State) : Res :=
  let c := h.ctx.val
  bitFront h [] b true true s 0 fun a s1 =>
    let own := (s1.semBit (clusterOf c) a).owner == some c
    .next ((s1.setBit c a false).updCx c fun x => (x.setZ own).retire h)

/-- SEMT (R174): never waits. -/
def execSemt (h : Hdr) (b : BitSrc) (s : State) : Res :=
  let c := h.ctx.val
  bitFront h [] b true true s 1 fun a s1 =>
    let cl := clusterOf c
    if (s1.semBit cl a).set then .next (s1.updCx c fun x => (x.setZ false).retire h)
    else .next ((s1.setSem cl a { set := true, owner := some c }).updCx c fun x => (x.setZ true).retire h)

/-! ### Waits -/

/-- Ranges whose waits Gambit may predict (R120, R207). -/
def bWaitable (a : Nat) : Bool := bPort a || bEvent a

/-- The predicted outcome of a bit wait (R207, R227): satisfied with a high counter or SPEC, which needs HORIZON not 0;
a TWAITB with a low counter and a timeout is predicted to time out. -/
def State.predictBit (s : State) (h : Hdr) (a : Nat) (strict timed : Bool) : Option Bool :=
  let c := h.ctx.val
  if !bWaitable a || !s.mayPredict c h.spec then none
  else if s.siteHigh c || h.spec == .spec then
    (if s.get (Fld.gbtCtl.HORIZON (clusterOf c)) = 0 then none else some true)
  else if !strict && timed then some false
  else none

/-- WAITB (`strict`) and TWAITB (R119, R120, R121): the wait begins; its timeout is in units of 64 FCLK cycles, 0 for
none. A bit that already has the awaited value completes it at once. -/
def waitOp (strict : Bool) (h : Hdr) (bit : BitVec 16) (val : Bool) (t : Fin 16) (s : State) : Res :=
  let c := h.ctx.val
  let a := bit.toNat
  issue { spec := true, rd := [t.val] } h s fun s1 =>
    let x := s1.cx c
    let n := (x.dreg t.val).toNat % 2 ^ 32 * 64
    let tmo := if n = 0 then none else some n
    match s1.bitCheck c a false false with
    | some st => s1.trap c st
    | none =>
      if x.pendBit a then .next s1
      else if x.speculating && !bWaitable a then .next (s.pause c)
      else if bPort a && (match x.regs.bound with | some b => !s1.portLive b.1 b.2 | none => false) then s1.trap c 0x31
      else if s1.bitVal c a == val then
        .next ((s1.beginWait c (.bit h.len a val strict tmo) h.lock h.spec).resolveLive c (.bit true) true)
      else match s1.predictBit h a strict tmo.isSome with
        | some p =>
          .next (s1.openCkpt c (.bit h.len a val strict tmo) h.lock (.bit p) fun y =>
            (if strict then y else y.setZ p).retire h)
        | none =>
          .next ((s1.beginWait c (.bit h.len a val strict tmo) h.lock h.spec).parkCheck c)

/-- WAITB (R119). -/
def execWaitb (h : Hdr) (bit : BitVec 16) (val : Bool) (t : Fin 16) (s : State) : Res := waitOp true h bit val t s
/-- TWAITB (R119). -/
def execTwaitb (h : Hdr) (bit : BitVec 16) (val : Bool) (t : Fin 16) (s : State) : Res := waitOp false h bit val t s

/-- A bit wait of a context under some binding has its awaited value now. -/
def State.bitMet (s : State) (c : Nat) (b : Option (Nat × Nat)) : Wait → Bool
  | .bit _ a v _ _ => s.bitWith c b a == v
  | _ => false

/-- The oldest unresolved checkpoint of a context with a property of its wait. -/
def Ctx.bitCk (x : Ctx) (p : Ckpt → Bool) : Option Nat :=
  (List.range x.ckpts.length).find? fun k => match x.ckpts[k]? with
    | some ck => ck.outcome.isNone && (match ck.wait with | .bit .. => p ck | _ => false)
    | none => false

/-- A waited bit is sampled at the awaited value, and the wait completes (R8, R119, R220). A parked context samples
nothing. -/
def execBitWaitSatisfied (ctx : Fin 1024) (s : State) : Res :=
  let c := ctx.val
  let x := s.cx c
  if !x.live || x.parked then .next s
  else match x.bitCk (fun ck => s.bitMet c ck.saved.bound ck.wait) with
    | some k => .next (s.resolveCk c k (.bit true))
    | none => if s.bitMet c x.regs.bound x.wait then .next (s.resolveLive c (.bit true) true) else .next s

/-- What is left of a wait's timeout. -/
def Wait.left : Wait → Option Nat
  | .bit _ _ _ _ t => t
  | _ => Option.none

/-- The unresolved checkpoint whose timeout expires first; of two the older (R215, R220). -/
def Ctx.soonest (x : Ctx) : Option Nat :=
  let left (k : Nat) : Option (Nat × Nat) := match x.ckpts[k]? with
    | some ck => if ck.outcome.isNone then ck.wait.left.map fun n => (n, k) else none
    | none => none
  let first (a : Option (Nat × Nat)) (e : Nat × Nat) : Option (Nat × Nat) :=
    match a with | some b => if e.1 < b.1 then some e else a | none => some e
  (((List.range x.ckpts.length).filterMap left).foldl first none).map (·.2)

/-- A timeout expires with the bit not at the awaited value; one that is there wins (R8). The live wait's timeout does
not count while the context is parked or speculates (R120, R215). -/
def execWaitTimeout (ctx : Fin 1024) (s : State) : Res :=
  let c := ctx.val
  let x := s.cx c
  if !x.live || x.parked then .next s
  else match x.soonest with
    | some k =>
      match x.ckpts[k]? with
      | some ck => (s.resolveCk c k (.bit (s.bitMet c ck.saved.bound ck.wait))).done
      | none => .next s
    | none =>
      if x.wait.left.isSome && !x.speculating then
        let met := s.bitMet c x.regs.bound x.wait
        (s.resolveLive c (.bit met) met).done
      else .next s

end Sys2Proof.Machine
end

