-- ==== Sys2Proof/Machine/Qmu.lean ====
section
/-!
DEFINITION. Queues: doorbells, completion writes, ring failures, the QCTL commands, group assignment (chapter 2).
-/

namespace Sys2Proof.Machine

/-! ### Doorbells -/

/-- The VC0 quota of an output port of the crossbar is spent (R71, R89). -/
def State.vc0Spent (s : State) (port : Nat) : Bool := (s.ar { kind := akFxbVc, i := port }).quotaMask

/-- The quota, the free eligible slots, IN_FLIGHT or the ports bar entry `k`, from 1, of a King doorbell; the `k - 1` entries
ahead of it count as dispatched, in flight, and holding the slots that would be claimed first (R89). -/
def State.outsideQuota (s : State) (q k : Nat) : Bool :=
  let free := s.freeSlots (s.qFunc q)
  let used := (s.ar { kind := akKing }).hpUsed
  !(decide (used + (k - 1) < s.getA Fld.kingQuota.QUOTA) && decide (free.length > k - 1) &&
    decide (s.get (Fld.qctx.IN_FLIGHT q) + (k - 1) ≤ s.get (Fld.qctx.INFLIGHT_MAX q)) &&
    (List.range 8 ++ [37] ++ (free.drop (k - 1)).map fun f => 24 + f / 16).all fun p => !s.vc0Spent p)

/-- A King doorbell's new entries that are outside the quota are remembered (R89). -/
def State.judgeKing (s : State) (q old new : Nat) : State :=
  if s.qClass q = 0 ∧ s.on Fld.qscCtl.KING_EN then
    let n := 2 ^ s.get (Fld.qctx.SQ_LOG2 q)
    let cnt := (new + n - old % n) % n
    let ixs := ((List.range cnt).filter fun i => s.outsideQuota q (i + 1)).map fun i => (old + i) % n
    s.setQd q { s.qd q with overQ := (s.qd q).overQ ++ ixs }
  else s

/-- A doorbell (R2, R48 to R51, R340, R346): its values are absolute indices; one at or above the ring's size, or a head beyond what
the device has written, gives an unpredictable result, and one with neither index has no effect. A tail that makes fewer entries pending than were written is within the
ring, and of the results that R49 leaves open the model takes one: it is the new SQ_TAIL (log entry 55). -/
def execDoorbell (func : Fin 1024) (qid : BitVec 16) (val : BitVec 64) (s : State) : Res :=
  let q := qid.toNat
  let v := val.toNat
  let st := s.get (Fld.qctx.STATE q)
  let sqV := bitsOf v 20 1 == 1
  let cqV := bitsOf v 52 1 == 1
  let tail := bitsOf v 0 20
  let head := bitsOf v 32 20
  let n := 2 ^ s.get (Fld.qctx.CQ_LOG2 q)
  if !s.reaches (ownAcc func) then .next s
  else if !s.on (Fld.grp.ASSIGNED (q / 16)) || s.qFunc q != func.val then .next (s.leaveDoze.incSat Fld.qmuStat.DB_FOREIGN)
  else if st = 0 ∨ st = 6 then .next (s.leaveDoze.incSat (Fld.qctx.DB_DROPPED q))
  else if bitsOf v 21 11 ≠ 0 ∨ bitsOf v 53 11 ≠ 0 then .fault (.unpredictable 14)
  else if (sqV && decide (tail ≥ 2 ^ s.get (Fld.qctx.SQ_LOG2 q))) || (cqV && decide (head ≥ n)) then
    .fault (.unpredictable 49)
  else if !sqV && !cqV then .next s
  else if cqV && decide ((s.get (Fld.qctx.CQ_TAIL q) + n - head) % n > s.cqUsed q) then .fault (.unpredictable 43)
  else
    let s1 := s.leaveDoze
    let s2 := if cqV then s1.put (Fld.qctx.CQ_HEAD q) head else s1
    let s3 := if sqV then (s2.judgeKing q (s2.get (Fld.qctx.SQ_TAIL q)) tail).put (Fld.qctx.SQ_TAIL q) tail else s2
    ((s3.qUpdate q).kingWake q).done

/-! ### Completion writes -/

/-- SQ_HEAD as a completion entry reports it (R54). -/
def State.reusePoint (s : State) (q : Nat) : Nat :=
  match (s.qd q).reads with
  | ix :: _ => ix
  | [] => s.get (Fld.qctx.SQ_HEAD q)

/-- The 32 bytes of a completion entry (R52). -/
def State.cplBytes (s : State) (e : Cpl) : List Byte :=
  toBytes 2 e.tag ++ toBytes 1 e.status ++ toBytes 1 e.epoch ++ toBytes 5 e.residual ++
    toBytes 1 (s.get (Fld.qctx.CQ_PHASE e.qid) + 2 * b2n e.auto) ++ toBytes 2 0 ++ toBytes 4 (s.reusePoint e.qid) ++
    toBytes 4 s.time ++ toBytes 4 0 ++ toBytes 8 (if e.auto then 0 else e.result.toNat)

/-- The first entry of a queue leaves the list of those that wait. -/
def dropFirst (q : Nat) : List Cpl → List Cpl
  | [] => []
  | e :: r => if e.qid = q then r else e :: dropFirst q r

/-- The QMU writes the oldest entry handed in for a queue (R41, R52 to R55, R64, R329, R334). -/
def execCompletionWrite (qid : BitVec 16) (s : State) : Res :=
  let q := qid.toNat
  match s.cpl.find? (fun e => e.qid == q) with
  | none => .next s
  | some e =>
    let f := s.qFunc q
    let a := s.cqAddr q
    if !s.hostOk f then (s.queueError q 2 a).done
    else if !s.translated f a then .next (s.askAts f a)
    else
      let n := 2 ^ s.get (Fld.qctx.CQ_LOG2 q)
      let t := s.get (Fld.qctx.CQ_TAIL q)
      let s1 := { s.hostWrite f a (s.cplBytes e) with cpl := dropFirst q s.cpl }
      let s2 := s1.putAll
        [(Fld.qctx.CQ_TAIL q, (t + 1) % n),
         (Fld.qctx.CQ_PHASE q, if (t + 1) % n = 0 then 1 - s.get (Fld.qctx.CQ_PHASE q) else s.get (Fld.qctx.CQ_PHASE q)),
         (Fld.qctx.LAST_EPOCH q, e.epoch), (Fld.qctx.COMPLETIONS q, s.get (Fld.qctx.COMPLETIONS q) + 1)]
      let s3 := if s2.ctx.any fun x => x.2.live && x.2.order == e.order then s2.qUpdate q else s2.qLeave q
      (if e.ioc then s3.raise q else s3).done

/-- A ring access of a queue fails (R64): an entry read of a context, or with none a completion write. -/
def execRingAccessFailure (qid : BitVec 16) (cause : Fin 16) (addr : BitVec 57) (ctx : Option (Fin 1024)) (s : State) : Res :=
  let q := qid.toNat
  if cause.val = 0 ∨ cause.val > 4 then .next s
  else match ctx with
    | none => (s.queueError q cause.val addr.toNat).done
    | some c =>
      match s.hreq.find? (fun r => r.2.purp == .entry c.val) with
      | some r => if (s.cx c.val).qid = q then ((s.dropHreq r.1).queueError q cause.val addr.toNat).done else .next s
      | none => .next s

/-! ### QCTL -/

/-- The QMU is applying a command (R61): QCTL.BUSY reads 1. -/
def State.qctlBusy (s : State) : Bool := decide (s.fclk < s.qctlUntil)

/-- A command written while BUSY is 1 is discarded (R61): QID and NOTIFY keep what they hold (log entry 54). -/
def State.qctlRefuse (s : State) : State := (s.put Fld.qctl.RESULT 1).put Fld.qmuStat.REJECTED 1

/-- The register shows a command and how it was answered (R61). The command acts at once; BUSY reads 1 from then on for a
number of cycles that the spec bounds by 64 and does not fix, and not at all for a reserved command (log entry 54). -/
def State.qctlShow (s : State) (q : Nat) (notify : Bool) (result : Nat) : State :=
  let s1 := s.putAll [(Fld.qctl.QID, q), (Fld.qctl.NOTIFY, b2n notify), (Fld.qctl.RESULT, result)]
  let s2 := if result = 0 then s1 else s1.put Fld.qmuStat.REJECTED 1
  if result = 5 then s2 else { s2 with qctlUntil := s2.fclk + s2.freeVal.toNat % 65, freeCnt := s2.freeCnt + 1 }

/-- The four indices of a queue are zeroed. -/
def State.zeroIndices (s : State) (q : Nat) : State :=
  s.putAll [(Fld.qctx.SQ_TAIL q, 0), (Fld.qctx.SQ_HEAD q, 0), (Fld.qctx.CQ_TAIL q, 0), (Fld.qctx.CQ_HEAD q, 0)]

/-- A ring size outside 4 to 20 gives an unpredictable result (R38). -/
def State.ringBad (s : State) (q : Nat) : Bool :=
  let a := s.get (Fld.qctx.SQ_LOG2 q)
  let b := s.get (Fld.qctx.CQ_LOG2 q)
  decide (a < 4 ∨ a > 20 ∨ b < 4 ∨ b > 20)

/-- In Roloa-native mode a ring reaches beyond the 48-bit addresses of HOST (R337). -/
def State.ringFar (s : State) (q : Nat) : Bool :=
  s.on Fld.hpuStat.MODE &&
    (decide (s.get (Fld.qctx.SQ_BASE q) * 4096 + 64 * 2 ^ s.get (Fld.qctx.SQ_LOG2 q) > 2 ^ 48) ||
      decide (s.get (Fld.qctx.CQ_BASE q) * 4096 + 32 * 2 ^ s.get (Fld.qctx.CQ_LOG2 q) > 2 ^ 48))

/-- A queue's history word is 0xAAAA in every cluster (R208). -/
def State.resetHist (s : State) (q : Nat) : State :=
  forAll (List.range 8) (fun t cl => t.put (Fld.gbtHist.HIST cl q) 0xAAAA) s

/-- ENABLE (R62). -/
def execEnableQ (qid : BitVec 16) (notify : Bool) (s : State) : Res :=
  let q := qid.toNat
  if s.qctlBusy then .next s.qctlRefuse
  else if s.get (Fld.qctx.STATE q) ≠ 0 then .next (s.qctlShow q notify 2)
  else if !s.on (Fld.grp.ASSIGNED (q / 16)) then .next (s.qctlShow q notify 4)
  else if s.qClass q = 0 ∧ s.kingCount ≥ 1024 then .next (s.qctlShow q notify 3)
  else if s.ringBad q then .fault (.unpredictable 38)
  else if s.ringFar q then .fault (.unpredictable 337)
  else if s.ringClash q then .fault (.unpredictable 38)
  else
    let s1 := (((s.qctlShow q notify 0).zeroIndices q).putAll
      [(Fld.qctx.CQ_PHASE q, 1), (Fld.qctx.COMPLETIONS q, 0), (Fld.qctx.DB_DROPPED q, 0), (Fld.qctx.ERR_CAUSE q, 0),
       (Fld.qctx.ERR_ADDR q, 0), (Fld.qctx.SUSP_REQ q, 0), (Fld.qctx.STATE q, 1)]).resetHist q
    let s2 := s1.clearQd q
    .next (if notify then s2.raise 0x10400 else s2)

/-- A parked context continues (R121): its bit wait is checked for ownership again (R158), and ends with the outcome that it
already has, if it has one (R224). -/
def State.unparkCtx (s : State) (c : Nat) : State :=
  let x := s.cx c
  let s1 := s.updCx c fun y => { y with parked := false, owed := none }
  let barred := match x.wait with | .bit _ a .. => x.parked && s.bitBarred c a false | _ => false
  if barred then s1.autoEnd c 0x21
  else match x.owed with
    | some r => s1.finishWait c r
    | none => s1.kick c

/-- Parked programs of a queue continue (R62, R121). -/
def State.unpark (s : State) (q : Nat) : State :=
  forAll (s.liveCtx.filter fun c => (s.cx c).qid == q) State.unparkCtx s

/-- A command takes hold of a queue that is to end Disabled: STATE shows Draining until nothing is in flight. SUSP_REQ clears, under
RESET too, whose row of R62 does not say so (log entry 66). -/
def State.beginDrain (s : State) (q how : Nat) (notify : Bool) : State :=
  (s.putAll [(Fld.qctx.STATE q, 5), (Fld.qctx.SUSP_REQ q, 0)]).setQd q
    { s.qd q with target := some 0, notify := notify, stopping := how }

/-- DRAIN (R62). -/
def execDrainQ (qid : BitVec 16) (notify : Bool) (s : State) : Res :=
  let q := qid.toNat
  let st := s.get (Fld.qctx.STATE q)
  if s.qctlBusy then .next s.qctlRefuse
  else if st = 1 ∨ st = 2 ∨ st = 3 ∨ st = 4 then
    ((((s.qctlShow q notify 0).beginDrain q stopDrain notify).unpark q).qUpdate q).done
  else .next (s.qctlShow q notify 2)

/-- DRAIN_ABORT (R62, R63). -/
def execDrainAbort (qid : BitVec 16) (notify : Bool) (s : State) : Res :=
  let q := qid.toNat
  let st := s.get (Fld.qctx.STATE q)
  if s.qctlBusy then .next s.qctlRefuse
  else if 1 ≤ st ∧ st ≤ 5 then
    let s1 := (s.qctlShow q notify 0).beginDrain q stopAbort notify
    ((forAll (s1.liveCtx.filter fun c => (s1.cx c).qid == q) (fun t c => t.stopAt c dueAbort) s1).qUpdate q).done
  else .next (s.qctlShow q notify 2)

/-- A context meets SUSP_REQ (R121, R160): a wait that the new bit 0x0110 satisfies completes, any other parks. -/
def State.suspendCtx (s : State) (c : Nat) : State :=
  let x := s.cx c
  if x.live && !x.parked && s.bitMet c x.regs.bound x.wait then s.resolveLive c (.bit true) true else s.parkCheck c

/-- SUSPEND (R62, R121). -/
def execSuspend (qid : BitVec 16) (notify : Bool) (s : State) : Res :=
  let q := qid.toNat
  let st := s.get (Fld.qctx.STATE q)
  if s.qctlBusy then .next s.qctlRefuse
  else if st = 1 ∨ st = 2 ∨ st = 3 then
    let s1 := ((s.qctlShow q notify 0).put (Fld.qctx.SUSP_REQ q) 1).setQd q { s.qd q with target := some 4, notify := notify }
    ((forAll (s1.liveCtx.filter fun c => (s1.cx c).qid == q) State.suspendCtx s1).qUpdate q).done
  else .next (s.qctlShow q notify 2)

/-- RESUME (R62): QMU_QSTATE rises only in a final state of the command, so not where the queue is in Error (R61). -/
def execResume (qid : BitVec 16) (notify : Bool) (s : State) : Res :=
  let q := qid.toNat
  if s.qctlBusy then .next s.qctlRefuse
  else if s.on (Fld.qctx.SUSP_REQ q) then
    let s1 := (((s.qctlShow q notify 0).put (Fld.qctx.SUSP_REQ q) 0).setQd q { s.qd q with target := none, notify := false })
    let s2 := (s1.unpark q).qUpdate q
    (if notify ∧ 1 ≤ s2.get (Fld.qctx.STATE q) ∧ s2.get (Fld.qctx.STATE q) ≤ 3 then s2.raise 0x10400 else s2).done
  else .next (s.qctlShow q notify 2)

/-- A queue is reset by its function's reset (R66): its programs stop without entries, its indices are zeroed, and it is
Disabled. -/
def State.resetQueue (s : State) (q lockCause : Nat) (notify : Bool) : State :=
  ((((s.beginDrain q stopReset notify).stopQueue q lockCause).zeroIndices q).qUpdate q).clearQd q

/-- RESET of a queue (R62, R63): its programs stop without entries, each at its next instruction boundary (R188); the indices
are zeroed, and the queue is Disabled once nothing is in flight. -/
def State.stopAndZero (s : State) (q : Nat) (notify : Bool) : State :=
  let s1 := s.beginDrain q stopReset notify
  let s2 := forAll (s1.liveCtx.filter fun c => (s1.cx c).qid == q) (fun t c => t.stopAt c dueReset) s1
  let s3 := ((s2.dropCpl q).zeroIndices q).qUpdate q
  if s3.get (Fld.qctx.STATE q) = 0 then s3.clearQd q
  else (s3.clearQd q).setQd q { s3.qd q with reads := [], overQ := [] }

/-- RESET (R62). -/
def execResetQ (qid : BitVec 16) (notify : Bool) (s : State) : Res :=
  let q := qid.toNat
  if s.qctlBusy then .next s.qctlRefuse
  else if s.get (Fld.qctx.STATE q) = 0 then .next (s.qctlShow q notify 2)
  else ((s.qctlShow q notify 0).stopAndZero q notify).done

/-! ### Groups and counts -/

/-- A write of GRP[n] (R37, R57). -/
def execGrpWrite (n : Fin 4096) (val : BitVec 64) (s : State) : Res :=
  let g := n.val
  let v := val.toNat
  if reservedIn ⟨.grp, g, 0⟩ val then .fault (.unpredictable 14)
  else if (List.range 16).all fun i => s.get (Fld.qctx.STATE (g * 16 + i)) == 0 then
    .next (s.putAll [(Fld.grp.ASSIGNED g, bitsOf v 0 1), (Fld.grp.FUNC g, bitsOf v 1 10),
      (Fld.grp.VF_PAGE g, bitsOf v 12 12)])
  else .next (s.put Fld.qmuStat.GRP_BUSY 1)

/-- QMU_STAT.CLR_FOREIGN (R57). -/
def execClrForeign (s : State) : Res := .next (s.put Fld.qmuStat.DB_FOREIGN 0)

end Sys2Proof.Machine
end

