-- ==== Sys2Proof/Machine/Hpu.lean ====
section
/-!
DEFINITION. The host port's events (R328 to R347) and function-level reset (R66, R202, R345, R390).
-/

namespace Sys2Proof.Machine

/-! ### The host link -/

/-- The largest contiguous set from HM0 (R328). -/
def contiguous (m : Nat) : Nat :=
  if bitsOf m 0 1 = 0 then 0 else if bitsOf m 1 1 = 0 then 1 else if bitsOf m 2 1 = 0 then 2 else if bitsOf m 3 1 = 0 then 3 else 4

/-- The host modules train once the boot configuration is loaded, or in Recovery (R515). -/
def State.hostTrains (s : State) : Bool :=
  !s.chipReset && (match s.boot with | .firmware | .ready | .recovery | .halted => true | _ => false)

/-- The host link comes up on the modules that trained (R328, R341, R347); in Roloa-native mode its bring-up begins (R337). -/
def execHostLinkUp (mods : BitVec 4) (rate : Fin 8) (s : State) : Res :=
  let n := contiguous (bitsOf (mods.toNat &&& s.get Fld.hpuCtl.MOD_EN) 0 4)
  if s.on Fld.hpuStat.LINK_UP || n == 0 || decide (rate.val > 5 ∨ rate.val > s.get Fld.hpuCtl.MAX_RATE) || !s.hostTrains then
    .next s
  else
    let s1 := s.putAll [(Fld.hpuStat.LINK_UP, 1), (Fld.hpuStat.MODULES, n), (Fld.hpuStat.RATE, rate.val),
      (Fld.dvsec.MODULES, n), (Fld.dvsec.RATE, rate.val), (Fld.hpuCtl.RETRAIN, 0)]
    let s2 := { forAll (List.range n) State.applyRepair s1 with hostFault := false }
    (if s2.on Fld.hpuStat.MODE then s2.hostWaiting else s2).done

/-- The host link goes down (R329): outside a commanded retrain the error line rises (R394). -/
def execHostLinkDown (s : State) : Res :=
  if s.on Fld.hpuStat.LINK_UP then s.hostLost.done else .next s

/-- HPU_CTL.RETRAIN (R347): the link goes down and trains again; no error line (R394). -/
def execHostRetrain (s : State) : Res :=
  let s1 := s.put Fld.hpuCtl.RETRAIN 1
  (if s.on Fld.hpuStat.LINK_UP then s1.hostDown else s1).done

/-- HPU_STAT.CLR (R347). -/
def execHpuStatClr (s : State) : Res := .next (s.putAll [(Fld.hpuStat.UNROUTED, 0), (Fld.hpuStat.PEER_DROP, 0)])

/-- A write of Cache_Enable (R333). -/
def execCacheEnableWrite (val : Bool) (s : State) : Res :=
  if s.outReset then .next s
  else if val then .next (s.put Fld.hpuStat.CACHE_EN 1)
  else if s.enabledQueues.isEmpty then .next (s.put Fld.hpuStat.CACHE_EN 0)
  else .next s

/-- Requests of a function that are outstanding at the host, or wait to be issued, end in error (R334). -/
def State.failFunc (s : State) (f : Nat) : State := (s.failHost fun r => r.func == f).failXlate fun g => g == f

/-- A function that may no longer use the host link: its requests fail, and so do its completion entries. -/
def State.cutFunc (s : State) (f : Nat) : State := if s.master f then s else (s.failFunc f).dropEntriesFunc f

/-- Bus Master Enable of a function changes (R334, R381). -/
def execBusMasterEnableChange (func : Fin 1024) (val : Bool) (s : State) : Res :=
  let f := func.val
  if s.outReset then .next s
  else if val then { s with bme := NSet.add s.bme f }.done
  else ({ s with bme := NSet.del s.bme f }.cutFunc f).done

/-- A function moves between D0 and D3hot (R346). -/
def execDStateChange (func : Fin 1024) (d3 : Bool) (s : State) : Res :=
  let f := func.val
  if s.outReset then .next s
  else if d3 then ({ s with d3hot := NSet.add s.d3hot f }.cutFunc f).done
  else { s with d3hot := NSet.del s.d3hot f }.done

/-- A function's translations are dropped, those that are on their way among them (R202, R342). -/
def State.dropAtc (s : State) (f : Nat) : State :=
  { s with
    atc := s.atc.filter fun e => e.func != f
    atsPend := s.atsPend.filter fun k => k / 2 ^ 45 != f }

/-- What waits for a translation of a function goes on with an untranslated request (R342). -/
def execAtsEnableClear (func : Fin 1024) (s : State) : Res :=
  let f := func.val
  let s1 := { s.dropAtc f with atsEn := NSet.del s.atsEn f }
  (forAll s1.liveCtx State.xlateNow s1).sendHeld.goAll.done

/-! ### Function-level reset -/

/-- The groups assigned to a function (R36). -/
def State.funcGroups (s : State) (f : Nat) : List Nat :=
  (s.regs.filter fun e => e.1.id == .grp && e.2.getLsbD 0 && s.get (Fld.grp.FUNC e.1.i) == f).map (·.1.i)

/-- The domains of a function (R202). -/
def State.funcDoms (s : State) (f : Nat) : List Nat := below 4096 fun d => s.get (Fld.pdData.FUNC d) == f

/-- An invalidation that waits in step 5 with STOP = 0 and whose scope lies within a function's domains is treated as one
with STOP = 1 (R202). -/
def State.invTakeOver (s : State) (f : Nat) : State :=
  match s.inv with
  | some i =>
    let doms := if i.scope = 2 then List.range 4096 else [i.dom]
    if !i.stop && doms.all fun d => s.get (Fld.pdData.FUNC d) == f then
      { s with inv := some { i with stop := true } }.stopScope { i with stop := true }
    else s
  | none => s

/-- The function's part in configuration space returns to reset: its enables, its power state, its MSI-X capability. -/
def State.resetFuncCfg (s : State) (f : Nat) : State :=
  { s with
    bme := NSet.del s.bme f
    d3hot := NSet.del s.d3hot f
    atsEn := NSet.del s.atsEn f
    msixEn := NSet.del s.msixEn f
    msixFmask := NSet.del s.msixFmask f
    pba := s.pba.filter fun k => k / 2048 != f
    msix := s.msix.filter fun e => e.1 / 8192 != f }

/-- What a function-level reset does to a function but for the parts that only the PF has (R66, R202, R345, R390, R410,
R415); it takes a QCTL command over that is being applied to one of the function's queues (R67). -/
def State.flrFunc (s : State) (f : Nat) : State :=
  let gs := s.funcGroups f
  let qs := gs.flatMap fun g => (List.range 16).map (g * 16 + ·)
  let sq := if s.qctlBusy ∧ qs.contains (s.get Fld.qctl.QID) then { s.put Fld.qctl.RESULT 0 with qctlUntil := 0 } else s
  let s0 := { sq with flr := NSet.add sq.flr f }
  let s1 := forAll (qs.filter fun q => s0.get (Fld.qctx.STATE q) != 0) (fun t q => t.resetQueue q 6 false) s0
  let s2 := s1.resetRegs fun r => r.id == .qctx && gs.contains (r.i / 16)
  let s3 := forAll (s2.funcDoms f) (fun t d =>
    { t with pdOld := t.pdOld.filter fun (o : OldDom) => o.dom != d }.invSteps
      { scope := 1, stop := true, notify := false, dom := d, sel := 0 }) (s2.invTakeOver f)
  (((s3.dropAtc f).eicFlr f).mailReset f).resetFuncCfg f

/-- Clearing VF Enable resets every VF at once (R340). -/
def State.vfOff (s : State) : State :=
  if s.vfEn then forAll ((List.range 1023).map (· + 1)) State.flrFunc { s with vfEn := false } else s

/-- A function-level reset (R66, R345); the PF's also resets its configuration space and every VF, locks the expert
window (R422) and ends the secured session (R455). -/
def execFunctionLevelReset (func : Fin 1024) (s : State) : Res :=
  let f := func.val
  if s.outReset then .next s
  else if f ≠ 0 then (if s.vfEn then (s.flrFunc f).done else .next s)
  else
    let s1 := (s.flrFunc 0).vfOff.putAll
      [(Fld.hpuStat.CACHE_EN, 0), (Fld.dvsec.VF_BAR_LOG2, 4), (Fld.glbExpert.UNLOCKED, 0)]
    ({ s1 with spdm := {}, doeErr := false }).done

/-- VF Enable is cleared (R340). -/
def execVfEnableClear (s : State) : Res := s.vfOff.done

/-! ### IDE and DOE -/

/-- A CXL IDE integrity failure (R343). -/
def execIdeFailure (s : State) : Res :=
  if s.ideSecure then
    let s1 := { s with ideSecure := false, ideFault := true }
    (if s.on Fld.hpuStat.LINK_UP then s1.hostLost else s1).done
  else .next s

/-- An IDE_KM message in the secured session (R343, R455): it programs keys, or brings the programmed keys into force. -/
def execIdeKm (key : Option (List Byte)) (s : State) : Res :=
  if s.ideEn && s.get Fld.hpuStat.MODE == 0 && s.spdm.sess == 2 then
    match key with
    | some k => .next { s with ideKey := k }
    | none => if s.ideKey.isEmpty then .next s else { s with ideSecure := true, ideFault := false }.done
  else .next s

/-- A data object is written to the DOE mailbox: one longer than 1,024 DW sets DOE Error and is discarded (R344). -/
def execDoeError (dwords : Nat) (s : State) : Res :=
  if s.get Fld.hpuStat.MODE = 0 ∧ dwords > 1024 then .next { s with doeErr := true } else .next s

end Sys2Proof.Machine
end

