-- ==== Sys2Proof/Machine/PcmOps.lean ====
section
/-!
DEFINITION. Clocks, voltage and safety caps (R470 to R472, R476), engine power states (R462 to R464) and the device states
(R466 to R469) as operations.
-/

namespace Sys2Proof.Machine

/-! ### Clocks and voltage -/

/-- A step that is kept as the step plus one, 0 standing for `d`. -/
def stepOr (m : SMap Nat) (c d : Nat) : Nat := match SMap.get m 0 c with | 0 => d | v + 1 => v

/-- A cluster's ECLK step now. -/
def State.clk (s : State) (c : Nat) : Nat := stepOr s.eclk c 16

/-- A cluster's plan ceiling (R483). -/
def State.ceil (s : State) (c : Nat) : Nat := s.regByte .eclkCeil 0 0 c

/-- The effective ceiling: the lowest of plan ceiling, safety cap and throttle (R470, R472). -/
def State.effTarget (s : State) (c : Nat) : Nat :=
  Nat.min (s.ceil c) (Nat.min (stepOr s.cap c 24) (stepOr s.throttle c 24))

/-- VTAB of a step, in millivolts. -/
def State.vtab (s : State) (i : Nat) : Nat := s.get (Fld.pcmVtab.MV i)

/-- VDD_CORE as R470 sets it. -/
def State.vddTarget (s : State) : Nat :=
  Nat.min 850 (s.vtab ((List.range 8).foldl (fun m c => Nat.max m (s.ceil c)) 0) + s.get Fld.pcmPlan.GB_MV)

/-- A byte of a register word written. -/
def State.setByte (s : State) (id : RegId) (c v : Nat) : State := s.put ⟨⟨id, 0, 0⟩, 8 * c, 8⟩ v

/-- PCM_EFF follows the effective ceilings: a lower one at once, a higher one when the clock has reached it (R471). -/
def State.effUpdate (s : State) : State :=
  forAll (List.range 8) (fun t c =>
    if t.effTarget c ≤ t.clk c then t.setByte .pcmEff c (t.effTarget c)
    else t.setByte .pcmEff c (Nat.min (t.effStep c) (t.clk c))) s

/-- A cluster's headroom at a step, in millivolts (R476). -/
def State.headAt (s : State) (c step : Nat) : Int :=
  (s.get Fld.pcmStat.VDD_MV : Int) - (s.vtab step : Int) - (s.get ⟨⟨.agmDeg, c, 0⟩, 0, 12⟩ : Int)

/-- The headroom meets the guard. -/
def State.guardMet (s : State) (c step : Nat) : Bool := decide (s.headAt c step ≥ (s.get Fld.agmCtl.GUARD_MIN_MV : Int))

/-- A cluster's cap: a step, or none. -/
def State.setCap (s : State) (c : Nat) (step : Option Nat) : State :=
  { s with cap := SMap.set s.cap 0 c (match step with | some i => i + 1 | none => 0) }.put
    ⟨⟨.pcmStat, 0, 0⟩, 6 + c, 1⟩ (b2n step.isSome)

/-- The highest step, at most `n`, at which the guard is met; 0 where none is. -/
def State.guardStep (s : State) (c : Nat) : Nat → Nat
  | 0 => 0
  | n + 1 => if s.guardMet c (n + 1) then n + 1 else s.guardStep c n

/-- HEAD_MV of a cluster is recorded (R476, R484). -/
def State.headRecord (s : State) (c : Nat) : State :=
  s.put ⟨⟨.agmDeg, c, 0⟩, 12, 12⟩ (ofSigned 12 (s.headAt c (s.effTarget c)))

/-- The safety caps after a measurement (R476): a cluster whose headroom falls short steps down until it does not. -/
def State.capUpdate (s : State) : State :=
  (forAll (List.range 8) (fun t c =>
    let t1 := if t.guardMet c (t.effTarget c) then t else t.setCap c (some (t.guardStep c (t.effTarget c)))
    t1.headRecord c) s).effUpdate

/-- The caps are set anew while the PCM changes to a version (R476). -/
def State.recap (s : State) : State :=
  (forAll (List.range 8) (fun t c =>
    (t.setCap c (if t.guardMet c (t.ceil c) then none else some (t.guardStep c (t.ceil c)))).headRecord c)
    { s with pcmSw := 2 }).effUpdate

/-- VDD has reached its value: a change to a version sets the caps anew (R476, R481). -/
def State.vddSettled (s : State) : State :=
  if s.pcmSw = 1 ∧ s.get Fld.pcmStat.VDD_MV = s.vddTarget then s.recap else s

/-- The PCM's safe point (R481): VDD and every clock are where the version puts them. -/
def State.pcmSafe (s : State) : Bool :=
  s.pcmSw == 2 && s.get Fld.pcmStat.VDD_MV == s.vddTarget && (List.range 8).all fun c => s.clk c == s.effTarget c

/-- A voltage or clock change is in progress (R483, SLEW). -/
def State.slew (s : State) : Bool :=
  s.get Fld.pcmStat.VDD_MV != s.vddTarget || (List.range 8).any fun c => s.clk c != s.effTarget c

/-! ### Engines -/

/-- An engine, numbered over the device, holds a context. -/
def State.engBusy (s : State) (e : Nat) : Bool := s.liveCtx.any fun c => c / 8 == e

/-- The engines that the PCM keeps warm (R464). -/
def State.warmEngine (s : State) (e : Nat) : Bool :=
  decide (e % 16 < 14) && !s.engBusy e &&
    decide (((List.range (e % 16)).filter fun i => !s.engBusy (e / 16 * 16 + i)).length < s.get Fld.pcmCtl.WARM)

/-! ### Sleep -/

/-- Castling is Idle (R428). -/
def State.castIdle (s : State) : Bool := s.get Fld.cfsStat.STATE == 0

/-- The condition of R467 that a Sleep request fails, as SLEEP_REJ names it; 0 for none. -/
def State.sleepReject (s : State) : Nat :=
  if (s.regs.filter fun e => e.1.id == .qctx && e.1.j == 5).any fun e => s.get (Fld.qctx.IN_FLIGHT e.1.i) != 0 then 1
  else if !s.xfer.isEmpty then 2
  else if !s.castIdle then 3
  else if !s.acp.isEmpty then 4
  else 0

/-- What Sleep does not keep (R469): caches and watch sets, history words, what stands in the FIFOs, and the banks that
are not retained. -/
def State.sleepLoss (s : State) : State :=
  let s1 := forAll s.liveCtx (fun t c => t.stopSilent c 1) s
  let s2 := forAll (List.range 64) (fun t f => t.fReset f) (s1.resetRegs fun r => r.id == .gbtHist)
  { s2 with
    segCache := []
    segRead := []
    atc := []
    atsPend := []
    watch := []
    spm := s2.spm.filter fun e =>
      let b := e.1 / 0x40000
      decide (b < 512) && (s2.reg ⟨.pcmRet, 0, 0⟩).getLsbD (b / 8) }

/-- FCLK cycles that `n` AON_CLK periods stand for, in whole timestamp units (R461): a period is 30,517.578125 ns, a unit
32 ns. -/
def aonCycles (n : Nat) : Nat := 64 * (n * 30517578125 / 32000000)

end Sys2Proof.Machine
end

