-- ==== Sys2Proof/Machine/Pcm.lean ====
section
/-!
DEFINITION. Power events: engine states (R462 to R464), Doze and Sleep (R466 to R469, R485), voltage and clock steps (R471,
R506), and the thermal trip (R472, R507).
-/

namespace Sys2Proof.Machine

/-! ### Engines -/

/-- An engine that issued nothing for 256 ECLK cycles is clock-gated (R462). -/
def execEngineClockGate (eng : Fin 128) (s : State) : Res :=
  let e := eng.val
  if s.w e = 0 ∧ !NSet.has s.waking e then (s.setW e 1).done else .next s

/-- An engine may go deeper than W1 (R462 to R464). -/
def State.mayDeepen (s : State) (e : Nat) : Bool := !s.engBusy e && !s.kingEngine e && !NSet.has s.waking e

/-- An engine is power-gated (R462): not one that the PCM keeps warm in Active (R464). -/
def execEnginePowerGate (eng : Fin 128) (s : State) : Res :=
  let e := eng.val
  if s.w e = 1 ∧ s.mayDeepen e ∧ !(s.get Fld.pcmStat.DSTATE = 0 ∧ s.warmEngine e) then (s.setW e 2).done else .next s

/-- An engine is switched off (R462): not one that the PCM keeps at W2 in Doze (R464). -/
def execEngineOff (eng : Fin 128) (s : State) : Res :=
  let e := eng.val
  if s.w e = 2 ∧ s.mayDeepen e ∧ !s.warmEngine e then (s.setW e 3).done else .next s

/-- A waking engine runs (R462, R464): one that is needed, or one that the PCM keeps warm. -/
def execEngineWakeComplete (eng : Fin 128) (s : State) : Res :=
  let e := eng.val
  if NSet.has s.waking e ∨ (s.w e ≥ 2 ∧ s.warmEngine e) then ({ s with waking := NSet.del s.waking e }.setW e 0).done
  else .next s

/-! ### Device states -/

/-- The device has been idle for DOZE_US (R466). -/
def State.dozeIdle (s : State) : Bool :=
  s.on Fld.pcmCtl.DOZE_EN && s.get Fld.pcmStat.DSTATE == 0 && s.liveCtx.isEmpty && s.xfer.isEmpty && s.acp.isEmpty &&
    s.mailPending.isEmpty && s.castIdle

/-- Doze is entered (R463, R464, R466). -/
def execDozeEntry (s : State) : Res :=
  if !s.dozeIdle then .next s
  else
    let s1 := forAll (List.range 128) (fun t e => t.setW e (if t.kingEngine e then 1 else if t.warmEngine e then 2 else 3)) s
    ({ s1 with gatedGrp := List.range 8, pwrGrp := List.range 8 }.setDstate 1).done

/-- SLEEP_REQ is written (R467): refused with its cause, or accepted, which withdraws the King bound. -/
def execSleepReq (s : State) : Res :=
  if s.get Fld.pcmStat.DSTATE = 2 ∨ s.on Fld.pcmCtl.SLEEP_REQ then .next s
  else
    let r := s.sleepReject
    if r = 0 then (s.putAll [(Fld.pcmCtl.SLEEP_REQ, 1), (Fld.pcmStat.SLEEP_REJ, 0)]).done
    else .next (s.put Fld.pcmStat.SLEEP_REJ r)

/-- The request is abandoned (R467, R485). -/
def State.sleepAbandon (s : State) : State := s.putAll [(Fld.pcmCtl.SLEEP_REQ, 0), (Fld.pcmStat.SLEEP_REJ, 5)]

/-- Every module is in L2 and the PCM removes power (R467, R469). -/
def execSleepEntry (s : State) : Res :=
  if !s.on Fld.pcmCtl.SLEEP_REQ then .next s
  else
    let s1 := forAll (List.range 128) (fun t e => t.setW e 3) (s.sleepLoss.put Fld.pcmCtl.SLEEP_REQ 0)
    ({ s1 with gatedGrp := List.range 8, pwrGrp := List.range 8, waking := [] }.setDstate 2).done

/-- A module has not entered L2 within 1 ms (R467). -/
def execSleepL2Timeout (s : State) : Res := if s.on Fld.pcmCtl.SLEEP_REQ then s.sleepAbandon.done else .next s

/-- A wake event (R468); while the entry to Sleep waits it ends the entry (R485). -/
def execWakeEvent (src : Fin 6) (s : State) : Res :=
  if s.on Fld.pcmCtl.SLEEP_REQ then s.sleepAbandon.done
  else if s.get Fld.pcmStat.DSTATE = 2 ∧ !s.wakeLow ∧ bitsOf (s.get Fld.pcmCtl.WAKE_EN) src.val 1 = 1 then
    .next ({ s with wakeLow := true }.putAll [(Fld.wakeLog.VALID, 1), (Fld.wakeLog.SOURCE, src.val)])
  else .next s

/-- The device reaches Active after `periods` periods of AON_CLK in Sleep (R461, R468). -/
def execWakeComplete (periods : Nat) (s : State) : Res :=
  if s.get Fld.pcmStat.DSTATE = 2 ∧ s.wakeLow then
    let s1 := forAll (below 128 s.kingEngine) (fun t e => t.setW e 1) (s.put Fld.wakeLog.PERIODS periods)
    ({ s1 with wakeLow := false, fclk := s1.fclk + aonCycles periods }.setDstate 0).done
  else .next s

/-! ### Voltage and clocks -/

/-- An AVSBus step settles (R471): VDD rises before the clocks and falls after them; a write that succeeds ends a failure
(R506). -/
def execVddStep (s : State) : Res :=
  let v := s.get Fld.pcmStat.VDD_MV
  let tgt := s.vddTarget
  let go (v' : Nat) : Res := ((({ s with avsFail := false }.put Fld.pcmStat.VDD_MV v').emit (.avs v')).vddSettled).done
  if v < tgt then go (Nat.min tgt (v + 10))
  else if v > tgt ∧ (List.range 8).all (fun c => decide (s.clk c ≤ s.effTarget c)) then go (Nat.max tgt (v - 10))
  else .next s

/-- A cluster's ECLK moves one step (R471): up only once VDD stands and AVSBus works (R506). -/
def execEclkStep (cluster : Fin 8) (s : State) : Res :=
  let c := cluster.val
  let k := s.clk c
  let set (v : Nat) : Res := ({ s with eclk := SMap.set s.eclk 0 c (v + 1) }.effUpdate).done
  if k < s.effTarget c ∧ !s.avsFail ∧ s.get Fld.pcmStat.VDD_MV ≥ s.vddTarget then set (k + 1)
  else if k > s.effTarget c then set (k - 1)
  else .next s

/-- An AVSBus transaction fails (R506): the LSI's line rises; which number the bus has in UNIT is not stated. -/
def execAvsbusFailure (s : State) : Res :=
  let s1 := { s with avsFail := true }
  ((s1.takeFree).logErr 40 8 (s1.freeVal.toNat % 1024) 0).done

/-- The junction reaches 115 °C (R472, R507). -/
def execThermalTrip (s : State) : Res := .next { s with thermTrip := true }

end Sys2Proof.Machine
end

