-- ==== Sys2Proof/Machine/PinOps.lean ====
section
/-!
DEFINITION. The bumps (R502, R509, R514, R517) and the resets of the whole device (R509 to R513).
-/

namespace Sys2Proof.Machine

/-! ### Bumps -/

/-- An output bump that EXTEST drives (R514): the boundary-scan cell's level then, else its level for reset or its
function's. -/
def State.bump (s : State) (cell : Nat) (inReset fn : Bool) : Bool :=
  if s.extest then bitsOf s.bsCells cell 1 == 1 else if s.outReset then inReset else fn

/-- PEER_RESET_N[p] is high (R276, R281, R516). -/
def State.pinPeerReset (s : State) (p : Nat) : Bool := s.bump p false (NSet.has s.peerReset p)
/-- FABRIC_READY is high (R280). -/
def State.pinFabricReady (s : State) : Bool := s.bump 8 false s.fabricReady
/-- XOFF[l] is high (R370). -/
def State.pinXoff (s : State) (l : Nat) : Bool := s.bump (9 + l) true (NSet.has s.xoff l)
/-- FAULT_N is high: the driver is released (R400); a FAULT_N that was low stays low over a chip reset (R511). -/
def State.pinFault (s : State) : Bool := !s.faultLow
/-- WAKE_N is high (R468); it is released in reset (R502). -/
def State.pinWake (s : State) : Bool := s.outReset || !s.wakeLow
/-- THERM_TRIP_N is high (R507). -/
def State.pinThermTrip (s : State) : Bool := !s.thermTrip

/-! ### Resets of the device -/

/-- A cold reset clears everything but fuses and flash (R510, R511); a firmware slot that is being written holds nothing
valid (R460). What waits to be commanded and the model's own
records stay. -/
def State.coldReset (s : State) (cause : Nat) : State :=
  let t : State := {
    pending := s.pending
    freeCnt := s.freeCnt
    out := s.out
    fuses := s.fuses
    fwSlot := s.fwSlot.filter fun e => e.1 != 2 && !NSet.has s.fwWriting e.1
    cfgSlot := s.cfgSlot
    roleA := s.roleA
    roleB := s.roleB
    pkgReset := s.pkgReset
    pwrGood := s.pwrGood
    extest := s.extest
    bsCells := s.bsCells }
  t.put Fld.glbReset.CAUSE cause

/-- A chip reset is asked for (R399, R513, R518): the reaction's cause wins over the others, otherwise the first stays. -/
def State.chipAsk (s : State) (cause : Nat) : State :=
  { s with chipPend := if cause = 3 ∨ s.chipPend = none then some cause else s.chipPend }

/-- The register words of which a chip reset keeps some or all fields, with the part that it keeps (R511). -/
def keptPart (r : Reg) (v : Word) : Option Word :=
  match r.id with
  | .fclReact => some (v &&& 0xFF1F)
  | .fclFsw | .lostmap => some v
  | .fclFirst | .fclCtl | .glbBoot => some v
  | .agmLife => some (v &&& 0xFFFFFFFF)
  | .secStat => some (BitVec.ofNat 64 (putBits (Reg.reset r).toNat 2 4 (bitsOf v.toNat 2 4)))
  | .glbReset => some (v &&& 0xFFF0000)
  | .hpuStat => some (v &&& 2)
  | .dvsec => if r.j = 1 then some (BitVec.ofNat 64 (putBits (Reg.reset r).toNat 32 1 (bitsOf v.toNat 32 1))) else none
  | .bankOwn => if bitsOf v.toNat 16 3 = 4 then some 0x40000 else none
  | _ => none

/-- Every byte of the scratchpad undefined (R511): the 528 banks of 256 KiB, those that read 0 unlisted. -/
def spmFree (draw : Nat) : Memory :=
  (List.range (528 * 0x40000)).filterMap fun a => if Config.freeMem draw a = 0 then none else some (a, Config.freeMem draw a)

/-- A chip reset clears everything outside R511, fuses and flash (R510 to R512). The timestamp counts on from cold reset
(R149). -/
def State.chipResetNow (s : State) (cause : Nat) : State :=
  let t : State := {
    pending := s.pending
    freeCnt := s.freeCnt + 1
    out := s.out
    fclk := s.fclk
    regs := s.regs.foldl (fun m e => match keptPart e.1 e.2 with
      | some v => AMap.set Reg.lt m e.1.reset e.1 v
      | none => m) []
    spm := spmFree s.freeCnt
    ideEn := s.ideEn
    fuses := s.fuses
    fwSlot := s.fwSlot.filter fun e => e.1 != 2 && !NSet.has s.fwWriting e.1
    cfgSlot := s.cfgSlot
    roleA := s.roleA
    roleB := s.roleB
    faultLow := s.faultLow
    faultHold := s.faultHold
    pkgReset := s.pkgReset
    pwrGood := s.pwrGood
    thermTrip := s.thermTrip
    extest := s.extest
    bsCells := s.bsCells
    chipReset := true }
  (t.put Fld.glbReset.CAUSE cause).incSat Fld.glbReset.COUNT

end Sys2Proof.Machine
end

