-- ==== Sys2Proof/Machine/Pins.lean ====
section
/-!
DEFINITION. Pin events, resets and boundary scan (R505, R508 to R515, R518).
-/

namespace Sys2Proof.Machine

/-- PKG_RESET_N falls (R509). -/
def execColdReset (s : State) : Res :=
  if s.pkgReset then .next ({ s with pkgReset := false }.coldReset 1) else .next s

/-- PWR_GOOD falls, which acts as PKG_RESET_N low (R509). -/
def execPwrGoodFall (s : State) : Res :=
  if s.pwrGood then .next ({ s with pwrGood := false }.coldReset 2) else .next s

/-- PWR_GOOD rises (R508): its 1 ms begins; a PKG_RESET_N that is already high waits for it (R518). -/
def execPwrGoodRise (s : State) : Res :=
  if s.pwrGood then .next s
  else .next { s with
    pwrGood := true
    pwrHold := true
    boot := if s.pkgReset then .powerWait else .inReset }

/-- The 1 ms from PWR_GOOD has passed (R505, R518). -/
def execPwrGoodHoldExpiry (s : State) : Res :=
  if s.pwrHold then .next { s with
    pwrHold := false
    boot := if s.boot = .powerWait then .pllWait else s.boot }
  else .next s

/-- PKG_RESET_N rises (R515): the sequence starts, once PWR_GOOD has been high for 1 ms (R518). -/
def execResetRelease (s : State) : Res :=
  if s.pkgReset then .next s
  else .next { s with
    pkgReset := true
    boot := if !s.pwrGood then .inReset else if s.pwrHold then .powerWait else .pllWait }

/-- The PLLs lock and the clocks start; the fuse check begins (R22, R515). -/
def execPllLock (s : State) : Res := if s.boot = .pllWait then .next { s with boot := .rom } else .next s

/-- GLB_RESET.CHIP is written with a value of CONFIRM (R513). -/
def execGlbResetChip (confirm : BitVec 8) (s : State) : Res :=
  if confirm = 0xC5 then .next ((s.put Fld.glbReset.CHIP 1).chipAsk 6) else .next s

/-- The chip reset that was asked for begins (R512); a cause during a chip reset only restarts its 20 µs. -/
def execChipReset (s : State) : Res :=
  match s.chipPend with
  | none => .next s
  | some cause => if s.chipReset then .next { s with chipPend := none } else (s.chipResetNow cause).done

/-- Twenty microseconds later the boot stages run from the fuse check (R512). -/
def execBootStart (s : State) : Res :=
  if s.chipReset then .next { s with chipReset := false, boot := .rom } else .next s

/-- The TAP returns to Test-Logic-Reset (R514). -/
def execTapReset (s : State) : Res := .next { s with extest := false }

/-- EXTEST (R514): the boundary-scan cells drive the bumps. -/
def execExtest (cells : BitVec 16) (s : State) : Res :=
  if s.pwrGood then .next { s with extest := true, bsCells := cells.toNat } else .next s

end Sys2Proof.Machine
end

