-- ==== Sys2Proof/Machine/Plu.lean ====
section
/-!
DEFINITION. Peer links: enabling, holding and retraining, bring-up and its timers, the link control words, credits, loss
and errors, and the routes (R270 to R297).
-/

namespace Sys2Proof.Machine

/-! ### Commands of PLU_CTL -/

/-- Bring-up starts at Training (R277); RETRAIN reads 0 from there. -/
def State.startTraining (s : State) (p : Nat) : State :=
  let s1 := (s.put (Fld.pluCtl.RETRAIN p) 0).setLState p 1
  s1.setLk p { s1.lk p with retryHold := false, trained := none }

/-- A setting of PLU_CTL that R295 calls unpredictable. -/
def State.pluBad (s : State) (p : Nat) : Bool :=
  decide (s.get (Fld.pluCtl.MAX_RATE p) > 5 ∨ s.get (Fld.pluCtl.NODE_BASE p) % 2 ^ s.get (Fld.pluCtl.NODE_LOG2 p) ≠ 0)

/-- Setting EN (R277, R281, R295). -/
def execLinkEnable (p : Fin 8) (s : State) : Res :=
  let i := p.val
  if s.on (Fld.pluCtl.EN i) then .next s
  else if s.pluBad i then .fault (.unpredictable 295)
  else
    let s1 := ((s.put (Fld.pluCtl.EN i) 1).put (Fld.pluStat.ATTEMPTS i) 0).setLk i { s.lk i with reached := false }
    if s1.on (Fld.pluCtl.HOLD i) then .next (s1.setLState i 5) else .next (s1.startTraining i)

/-- An attempt that a command ends: cause 11, not counted (R277, R297). Entering Down raises the link's event (R294). -/
def State.attemptStop (s : State) (p st : Nat) : State :=
  let s1 := ((s.linkErr p 11 0).clearLink p).setLState p st
  if st = 5 then s1.raise (0x10408 + p) else s1

/-- Clearing EN (R295): a Joined link goes Down first. -/
def execLinkDisable (p : Fin 8) (s : State) : Res :=
  let i := p.val
  if !s.on (Fld.pluCtl.EN i) then .next s
  else
    let s1 := s.put (Fld.pluCtl.EN i) 0
    let st := s.lState i
    let s2 := if st = 4 then s1.linkDown i 11 0 false
      else if st = 1 ∨ st = 2 ∨ st = 3 then s1.attemptStop i 0 else s1
    let s3 := s2.setLState i 0
    ((s3.setLk i { s3.lk i with retryHold := false }).fabricCheck).done

/-- Setting HOLD (R281, R294, R297). -/
def execLinkHold (p : Fin 8) (s : State) : Res :=
  let i := p.val
  if s.on (Fld.pluCtl.HOLD i) then .next s
  else
    let s1 := s.put (Fld.pluCtl.HOLD i) 1
    let st := s.lState i
    if st = 4 then
      let s2 := (s1.linkDown i 11 0 false).setLState i 5
      (s2.setLk i { s2.lk i with retryHold := false }).done
    else if st = 1 ∨ st = 2 ∨ st = 3 then (s1.attemptStop i 5).done
    else .next s1

/-- Clearing HOLD (R281): a link held in Down restarts after its 1 ms. -/
def execLinkHoldClear (p : Fin 8) (s : State) : Res :=
  let i := p.val
  if !s.on (Fld.pluCtl.HOLD i) then .next s
  else
    let s1 := s.put (Fld.pluCtl.HOLD i) 0
    if s.lState i = 5 then .next (s1.waitRetry i) else .next s1

/-- RETRAIN (R294, R295, R297): bring-up restarts and ATTEMPTS clears. With EN = 0 there is none to restart. -/
def execLinkRetrain (p : Fin 8) (s : State) : Res :=
  let i := p.val
  let st := s.lState i
  if !s.on (Fld.pluCtl.EN i) then .next s
  else
    let s1 := (s.put (Fld.pluCtl.RETRAIN i) 1).put (Fld.pluStat.ATTEMPTS i) 0
    if st = 4 then (s1.linkDown i 11 0 true).done
    else if st = 2 ∨ st = 3 then ((s1.attemptStop i 5).waitRetry i).done
    else if st = 5 then (if s.on (Fld.pluCtl.HOLD i) then .next s1 else .next (s1.waitRetry i))
    else if st = 6 ∧ s.on (Fld.pluCtl.HOLD i) then .next (s1.setLState i 5)
    else .next (s1.startTraining i)

/-- PLU_CTL.CLR_CNT (R295). -/
def execPluClrCnt (p : Fin 8) (s : State) : Res := .next (s.setReg ⟨.pluCnt, p.val, 0⟩ 0)

/-! ### Bring-up -/

/-- The module is active (R277 step 2): the peer is released, and the first LID goes out. -/
def State.releasePeer (s : State) (p rate : Nat) : State :=
  (((s.applyRepair (4 + p)).put (Fld.pluStat.RATE p) rate).setLState p 2).sendLid p

/-- The module reaches the active state (R277): the peer is released, once its reset line has been low for 1 ms (R281). -/
def execLinkTrained (p : Fin 8) (rate : Fin 8) (s : State) : Res :=
  let i := p.val
  if s.lState i = 1 ∧ rate.val ≤ s.get (Fld.pluCtl.MAX_RATE i) then
    if (s.lk i).lowHold then .next (s.setLk i { s.lk i with trained := some rate.val }) else .next (s.releasePeer i rate.val)
  else .next s

/-- A timer of R277 expires in its state. -/
def State.bringUpTimeout (s : State) (p st cause : Nat) : Res :=
  if s.lState p = st then ((s.attemptFail p cause 0).fabricCheck).done else .next s

/-- The 10 ms training timer; a module that is active has met it. -/
def execTrainingTimeout (p : Fin 8) (s : State) : Res :=
  if (s.lk p.val).trained.isSome then .next s else s.bringUpTimeout p.val 1 1
/-- The 20 ms peer timer. -/
def execPeerTimeout (p : Fin 9) (s : State) : Res := if p.val = 8 then s.hostTimer 2 else s.bringUpTimeout p.val 2 2
/-- The 100 µs init timer. -/
def execInitTimeout (p : Fin 9) (s : State) : Res := if p.val = 8 then s.hostTimer 3 else s.bringUpTimeout p.val 3 3

/-- The 1 ms of low reset has passed (R277, R281, R294): a link that waits for it trains, and a peer whose module is active already is
released. -/
def execRetryHoldExpiry (p : Fin 8) (s : State) : Res :=
  let i := p.val
  let s1 := if (s.lk i).lowHold then s.setLk i { s.lk i with lowHold := false } else s
  if s.lState i = 5 ∧ (s.lk i).retryHold then
    if s.on (Fld.pluCtl.HOLD i) then .next (s1.setLk i { s1.lk i with retryHold := false })
    else .next (s1.startTraining i)
  else match (if s.lState i = 1 then (s.lk i).trained else none) with
    | some r => .next (s1.releasePeer i r)
    | none => .next s1

/-- LID goes out again every 10 µs in Waiting (R277). -/
def execLidResend (p : Fin 9) (s : State) : Res :=
  if (if p.val = 8 then s.hostLink.st else s.lState p.val) = 2 then .next (s.sendLid p.val) else .next s

/-- The peer's first LID (R277 step 3): the link is the last so far to reach Init. -/
def State.enterInit (s : State) (p : Nat) : State :=
  let ord := (List.range 8).foldl (fun m q => Nat.max m (s.lk q).initOrd) 0 + 1
  let s1 := ((s.setLState p 3).setLk p { s.lk p with gotLid := true, initOrd := ord }).sendWord p 0xF6 7
  forAll [0, 1, 2, 3] (fun t v => t.sendLinit p v) s1

/-- Everything the join needs has come (R277 step 4): the credits become usable, packets flow, and firmware reads the descriptor of
an endpoint (R312). -/
def State.tryJoin (s : State) (p : Nat) : State :=
  let l := s.lk p
  if s.lState p = 3 ∧ l.gotLcap ∧ l.gotLinit.length = 4 ∧ l.nodeDone then
    let s1 := forAll [0, 1, 2, 3] (fun t v => t.putAll
      [(Fld.pluCred.TX_HDR p v, t.get (Fld.pluCred.PEER_HDR p v)), (Fld.pluCred.TX_DATA p v, t.get (Fld.pluCred.PEER_DATA p v))]) s
    let s2 := ((s1.put (Fld.pluStat.ATTEMPTS p) 0).setLState p 4).fabricCheck
    match l.granted with
    | some (base, _) => s2.discStart base base
    | none => s2
  else s

/-- A word is malformed: the link goes Down, or the attempt fails, with cause 5 (R293). -/
def State.malformed (s : State) (p word : Nat) : Res := ((s.linkBad p 5 word).fabricCheck).done

/-- A received LID (R275, R277 to R279, R293). -/
def execLid (p : Fin 9) (hi : BitVec 24) (s : State) : Res :=
  let i := p.val
  let v := hi.toNat
  if i = 8 then s.hostLid v else
  let major := bitsOf v 0 4
  let minor := bitsOf v 4 4
  let node := bitsOf v 8 16
  let same := s.get (Fld.pluStat.PEER_NODE i) == node && s.get (Fld.pluStat.PEER_MINOR i) == minor && major == 1
  let seen := s.putAll [(Fld.pluStat.PEER_NODE i, node), (Fld.pluStat.PEER_MINOR i, minor)]
  let st := s.lState i
  if st = 4 then (if same then .next s else s.malformed i (0xF5 + v * 256))
  else if st = 2 then
    if major ≠ 1 then ((seen.attemptFail i 9 0).fabricCheck).done else .next (seen.enterInit i)
  else if st = 3 then
    if major ≠ 1 then ((seen.attemptFail i 9 0).fabricCheck).done
    else match (s.lk i).granted with
      | none => .next seen
      | some (base, _) =>
        if node = base then ((seen.setLk i { s.lk i with nodeDone := true }).tryJoin i).done
        else if same then .next s
        else ((seen.attemptFail i 8 0).fabricCheck).done
  else .next s

/-- Two blocks of node IDs overlap. -/
def blocksMeet (a : Nat × Nat) (b : Nat × Nat) : Bool := decide (a.1 < b.1 + 2 ^ b.2 ∧ b.1 < a.1 + 2 ^ a.2)

/-- The other links whose granted blocks overlap a block. -/
def State.blockRivals (s : State) (p : Nat) (b : Nat × Nat) : List Nat :=
  (List.range 8).filter fun q => q != p && (match (s.lk q).granted with | some g => blocksMeet b g | none => false)

/-- A block overlaps SELF, HOST or the block of a link that is Joined or that reached Init earlier (R278, R297). -/
def State.blockClash (s : State) (p : Nat) (b : Nat × Nat) : Bool :=
  blocksMeet b (s.selfNode, 0) || blocksMeet b (s.hostNode, 0) ||
    (s.blockRivals p b).any fun q => s.lState q == 4 || decide ((s.lk q).initOrd < (s.lk p).initOrd)

/-- The LINIT words received so far satisfy R284 for a peer's MPS. -/
def State.creditsOk (s : State) (p : Nat) : Bool :=
  (s.lk p).gotLinit.all fun v =>
    decide (s.get (Fld.pluCred.PEER_HDR p v) ≥ 1 ∧ s.get (Fld.pluCred.PEER_DATA p v) ≥ 2 ^ s.get (Fld.pluStat.PEER_MPS p))

/-- A link receives words: it is in Waiting, Init or Joined (R276). -/
def State.receives (s : State) (p : Nat) : Bool := s.lState p == 2 || s.lState p == 3 || s.lState p == 4

/-- A received LCAP (R275, R278, R279, R284). The link that reached Init second gives way to this one where their blocks overlap
(R297). -/
def execLcap (p : Fin 9) (hi : BitVec 24) (s : State) : Res :=
  let i := p.val
  let v := hi.toNat
  if i = 8 then s.hostLcap v else
  let word := 0xF6 + v * 256
  let st := s.lState i
  if !s.receives i then .next s
  else if st = 4 ∨ controlBad word then s.malformed i word
  else if st ≠ 3 then .next s
  else if (s.lk i).gotLcap then s.malformed i word
  else
    let s1 := (s.putAll [(Fld.pluStat.PEER_SW i, bitsOf v 0 1), (Fld.pluStat.PEER_MPS i, bitsOf v 1 3)]).setLk i
      { s.lk i with gotLcap := true }
    if !s1.creditsOk i then ((s1.attemptFail i 5 word).fabricCheck).done
    else if bitsOf v 0 1 = 1 then
      if s1.get (Fld.pluStat.PEER_NODE i) / 256 = s1.get Fld.rtCtl.DOMAIN then ((s1.attemptFail i 8 0).fabricCheck).done
      else ((s1.setLk i { s1.lk i with nodeDone := true }).tryJoin i).done
    else
      let g := Nat.min (bitsOf v 4 3) (s1.get (Fld.pluCtl.NODE_LOG2 i))
      let base := s1.get Fld.rtCtl.DOMAIN * 256 + s1.get (Fld.pluCtl.NODE_BASE i)
      if s1.blockClash i (base, g) then ((s1.attemptFail i 8 0).fabricCheck).done
      else
        let s2 := (forAll (s1.blockRivals i (base, g)) (fun t q => t.attemptFail q 8 0) s1).fabricCheck
        (((s2.put (Fld.pluStat.GRANTED i) g).setLk i { s2.lk i with granted := some (base, g) }).sendWord i 0xF7
          (g + base * 256)).done

/-- A received LINIT (R275, R284). -/
def execLinit (p : Fin 9) (hi : BitVec 24) (s : State) : Res :=
  let i := p.val
  let v := hi.toNat
  if i = 8 then s.hostLinit v else
  let word := 0xF1 + v * 256
  let vc := bitsOf v 0 2
  let st := s.lState i
  if !s.receives i then .next s
  else if st = 4 ∨ controlBad word then s.malformed i word
  else if st ≠ 3 then .next s
  else if (s.lk i).gotLinit.contains vc then s.malformed i word
  else
    let s1 := (s.putAll [(Fld.pluCred.PEER_HDR i vc, bitsOf v 3 9), (Fld.pluCred.PEER_DATA i vc, bitsOf v 12 12)]).setLk i
      { s.lk i with gotLinit := (s.lk i).gotLinit ++ [vc] }
    if (s1.lk i).gotLcap && !s1.creditsOk i then ((s1.attemptFail i 5 word).fabricCheck).done
    else (s1.tryJoin i).done

/-- A received LASN (R275, R279, R293): the device is a switch and takes no block; in Joined the word is malformed. -/
def execLasn (p : Fin 9) (hi : BitVec 24) (s : State) : Res :=
  let i := p.val
  if i = 8 then s.hostLasn hi.toNat else
  let word := 0xF7 + hi.toNat * 256
  if s.receives i ∧ (s.lState i = 4 ∨ controlBad word) then s.malformed i word else .next s

/-! ### Credits -/

/-- A received LCRD (R283, R285). -/
def execLcrd (p : Fin 9) (hi : BitVec 24) (s : State) : Res :=
  let i := p.val
  let v := hi.toNat
  if i = 8 then s.hostLcrd v else
  let vc := bitsOf v 0 2
  let word := 0xF0 + v * 256
  if !s.receives i then .next s
  else if controlBad word then s.malformed i word
  else if s.lState i ≠ 4 then .next s
  else
    let h := s.get (Fld.pluCred.TX_HDR i vc) + bitsOf v 8 8
    let d := s.get (Fld.pluCred.TX_DATA i vc) + bitsOf v 16 8
    if h > s.get (Fld.pluCred.PEER_HDR i vc) ∨ d > s.get (Fld.pluCred.PEER_DATA i vc) then
      ((s.linkDown i 6 0 false).fabricCheck).done
    else
      let s1 := s.putAll [(Fld.pluCred.TX_HDR i vc, h), (Fld.pluCred.TX_DATA i vc, d)]
      let go (t : State) (key : Nat) : State := t.drainTx i key ((SMap.get (t.lk i).txq [] key).length)
      let s2 := go (go s1 (vc + 4)) vc
      (s2.supdFlush s2.supdQ.length).done

/-- Credits owed are returned within 64 FCLK cycles (R285). -/
def execLcrdDue (p : Fin 9) (vc : Fin 4) (s : State) : Res :=
  if (if p.val = 8 then s.hostLink.st else s.lState p.val) = 4 then .next (s.sendLcrd p.val vc.val) else .next s

/-! ### Loss, errors, routes -/

/-- The module loses the link, or replay is exhausted (R293, R294). -/
def execLinkLoss (p : Fin 8) (s : State) : Res :=
  ((s.linkBad p.val 4 0).fabricCheck).done

/-- A flit with a CRC error is replayed by the adapter (R293). -/
def execFlitCrcError (p : Fin 8) (s : State) : Res :=
  let st := s.lState p.val
  if st = 2 ∨ st = 3 ∨ st = 4 then .next (s.incSat (Fld.pluCnt.REPLAY p.val)) else .next s

/-- A word that begins a packet or stands between packets arrives (R271 to R275, R293): one that is malformed takes the link Down. A
well-formed word is IDLE, or arrives by the command of its packet or control word. -/
def execMalformedWordArrival (p : Fin 9) (w : BitVec 32) (s : State) : Res :=
  if p.val = 8 then (if wordBad w.toNat then s.hostBadWord else .next s)
  else if s.receives p.val ∧ wordBad w.toNat then s.malformed p.val w.toNat else .next s

/-- A shadow route entry that R296 calls unpredictable. -/
def State.routeBad (s : State) : Bool :=
  (List.range 256).any fun b =>
    decide (8 ≤ s.rtEntry .nodeRt b ∧ s.rtEntry .nodeRt b < 15) || decide (8 ≤ s.rtEntry .domRt b ∧ s.rtEntry .domRt b < 15)

/-- The shadow route bank becomes active (R288). -/
def State.swapRoutes (s : State) : State :=
  forAll (List.range 32) (fun t m =>
    (t.setReg ⟨.nodeRtA, m, 0⟩ (t.reg ⟨.nodeRt, m, 0⟩)).setReg ⟨.domRtA, m, 0⟩ (t.reg ⟨.domRt, m, 0⟩)) s

/-- RT_CTL.SWAP (R288, R296). -/
def execRouteSwap (s : State) : Res :=
  if s.routeBad then .fault (.unpredictable 296) else .next s.swapRoutes

/-- FABRIC_READY rises once its conditions hold (R280). -/
def execFabricReady (s : State) : Res := .next s.fabricCheck

end Sys2Proof.Machine
end

