-- ==== Sys2Proof/Machine/Ports.lean ====
section
/-!
DEFINITION. The device-port entries (R314 to R320) and the clearing of the fabric's counts (R310, R325).
-/

namespace Sys2Proof.Machine

/-- TXN_STAT.CLR (R310). -/
def execTxnStatClr (s : State) : Res :=
  .next (s.putAll [(Fld.txnStat.TIMEOUTS, 0), (Fld.txnStat.LATE_RSP, 0), (Fld.txnStat.BAD_REQ, 0)])

/-- EXT_CNT.CLR (R325). -/
def execExtCntClr (s : State) : Res :=
  .next (s.putAll [(Fld.extCnt.ERRORS, 0), (Fld.extCnt.TIMEOUTS, 0), (Fld.extCnt.LATE, 0)])

/-! ### Device ports -/

/-- The writable bits of a DP_DATA word (R314): VALID to PDOM and NODE to REG_LOG2; the register base and IDEM; the data
window. -/
def dpMask (w : Nat) : Nat :=
  match w with
  | 0 => 0x00000FFF_FFFF3FFD
  | 1 => 0xFFFFFFFF_FFFFF000
  | _ => 0x0000FFFF_FFFFFFFF

/-- A port's windows at its node (R314): base and size. -/
def State.portWindows (s : State) (p : Nat) : List (Nat × Nat) :=
  [(s.get (Fld.dpData.REG_BASE p), 2 ^ (12 + s.get (Fld.dpData.REG_LOG2 p))),
   (s.get (Fld.dpData.DATA_BASE p), s.get (Fld.dpData.DATA_LIMIT p))]

/-- A window of a port overlaps a window of another valid port at the same node (R314); a data window of size 0 is none. -/
def State.portClash (s : State) (p : Nat) : Bool :=
  s.validPorts.any fun q => q != p && s.get (Fld.dpData.NODE q) == s.get (Fld.dpData.NODE p) &&
    (s.portWindows p).any fun a => (s.portWindows q).any fun b =>
      decide (a.2 ≠ 0 ∧ b.2 ≠ 0 ∧ a.1 < b.1 + b.2 ∧ b.1 < a.1 + a.2)

/-- A write of a word of DP_DATA (R314, R315). -/
def execDpDataWrite (word : Fin 4) (val : BitVec 64) (s : State) : Res :=
  let p := s.get Fld.dpSel.PORT
  let r : Reg := ⟨.dpData, p, word.val⟩
  let m := BitVec.ofNat 64 (dpMask word.val)
  let new := (s.reg r &&& ~~~m) ||| (val &&& m)
  let reject : State := s.put Fld.dpStat.REJECT 1
  if reservedIn r val then .fault (.unpredictable 14)
  else if s.on (Fld.dpData.VALID p) then
    if new = s.reg r then .next s
    else if word.val = 0 ∧ new = s.reg r &&& ~~~1#64 ∧ s.on (Fld.dpData.REMOVED p) then .next (s.setReg r new)
    else .next reject
  else
    let s1 := s.setReg r new
    if s1.on (Fld.dpData.VALID p) then
      if s1.portClash p then .fault (.unpredictable 314) else
      let s2 := s1.put (Fld.dpData.REMOVED p) 0
      if s2.reachable (s2.get (Fld.dpData.NODE p)) then .next s2 else (s2.removePort p).done
    else .next s1

/-- The result of a port command (R320). -/
def State.dpResult (s : State) (p res : Nat) : State := s.putAll [(Fld.dpCmd.PORT, p), (Fld.dpCmd.RESULT, res)]

/-- DP_CMD REMOVE (R318, R320). -/
def execPortRemove (port : Fin 4096) (s : State) : Res :=
  let p := port.val
  if !s.on (Fld.dpData.VALID p) then .next (s.dpResult p 2) else ((s.dpResult p 0).removePort p).done

/-- DP_CMD RESTORE (R319, R320). -/
def execPortRestore (port : Fin 4096) (s : State) : Res :=
  let p := port.val
  if !s.on (Fld.dpData.VALID p) then .next (s.dpResult p 2)
  else if !s.on (Fld.dpData.REMOVED p) then .next (s.dpResult p 4)
  else if !s.reachable (s.get (Fld.dpData.NODE p)) then .next (s.dpResult p 3)
  else .next ((s.dpResult p 0).put (Fld.dpData.REMOVED p) 0)

end Sys2Proof.Machine
end

