-- ==== Sys2Proof/Machine/Qsc.lean ====
section
/-!
DEFINITION. The scheduler: dispatch, arbiters and their windows and commits, the King slot table (chapter 3), the chess
clock and the stalemate detector (R127 to R133).
-/

namespace Sys2Proof.Machine

/-! ### Dispatch -/

/-- A queue is dispatched to a context (R42, R43, R60, R96): the entry is claimed, the context takes its dispatch values,
and it reads the entry. -/
def State.dispatch (s : State) (q c : Nat) (slot : Option Nat) : State :=
  let n := 2 ^ s.get (Fld.qctx.SQ_LOG2 q)
  let ix := s.get (Fld.qctx.SQ_HEAD q)
  let f := s.qFunc q
  let lim := s.get (Fld.qctx.CLOCK_LIMIT q)
  let cls := s.qClass q
  let overQ := (s.qd q).overQ.contains ix
  let s1 := (s.putAll [(Fld.qctx.SQ_HEAD q, (ix + 1) % n), (Fld.qctx.IN_FLIGHT q, s.get (Fld.qctx.IN_FLIGHT q) + 1)]).setQd q
    { s.qd q with reads := (s.qd q).reads ++ [ix], overQ := (s.qd q).overQ.filter (· != ix) }
  let s2 := if overQ then s1.incSat Fld.kingStat.OVERQ else s1
  let x : Ctx :=
    { live := true, fresh := true, gambit := s.on (Fld.qctx.GAMBIT_EN q), qid := q, epoch := s.get Fld.cfsStat.EPOCH, func := f, pdom := s.get (Fld.qctx.PDOM q), cls := cls
      kingSlot := slot, order := s.order, sqIdx := ix, clock := if lim = 0 then none else some (lim * 1024), wait := .entry }
  let s3 := { s2.setCx c x with order := s.order + 1 }
  let s4 := (s3.setEngW (clusterOf c) (engineOf c) 0).qUpdate q
  s4.hostRead (.entry c) f .rdCurr (s.sqAddr q ix) 64 (s4.memVc c)

/-- The dispatch message's path to a cluster (R76): requester 0 the King pipe, 1 the general pipe. -/
def State.pathGrant (s : State) (cl r : Nat) : State :=
  match s.arbDecide { kind := akPath, i := cl } [r] (· == 0) 1 with
  | some (_, s1) => s1
  | none => s

/-- The eligible queues, rising. -/
def State.eligibleQueues (s : State) : List Nat := s.enabledQueues.filter s.qEligible

/-- The King pipe's decision (R78, R79, R81). -/
def execKingPipeDecision (s : State) : Res :=
  if !s.on Fld.qscCtl.KING_EN then .next s
  else
    let qs := s.eligibleQueues.filter fun q => s.qClass q == 0
    if qs.isEmpty then .next s
    else match s.arbDecide { kind := akKing } [0] (· == 0) 1 with
    | none => .next s
    | some (_, s1) => match s1.arbDecide { kind := akGroup, i := 0 } (qs.map (· / 16)).eraseDups (fun _ => false) 1 with
      | none => .next s
      | some (g, s2) =>
        match s2.arbDecide { kind := akQueue, i := 0, j := g } ((qs.filter fun q => q / 16 == g).map (· % 16)) (fun _ => false) 1 with
        | none => .next s
        | some (i, s3) =>
          let q := g * 16 + i
          match s3.freeSlots (s3.qFunc q) with
          | [] => .next s
          | k :: _ => ((s3.pathGrant (k / 16) 0).dispatch q (slotCtx k) (some k)).done

/-- The engines of a cluster that take general work (R69, R80). -/
def State.generalEngines (s : State) : Nat := if s.on Fld.qscCtl.KING_EN then 14 else 16

/-- The lowest free context of a cluster for general work (R78). -/
def State.generalCtx (s : State) (cl : Nat) : Option Nat :=
  ((List.range (8 * s.generalEngines)).map (· + cl * 128)).find? s.ctxFree

/-- A cluster whose only free contexts lie on W2 or W3 engines starts to wake the lowest such engine (R464). -/
def State.wakeFor (s : State) (cl : Nat) : State :=
  if (s.generalCtx cl).isSome then s
  else match (List.range s.generalEngines).find? (fun e => decide (s.engW cl e ≥ 2)) with
    | some e => { s with waking := NSet.add s.waking (cl * 16 + e) }
    | none => s

/-- The general pipe's decision (R78, R80, R464). -/
def execGeneralPipeDecision (s : State) : Res :=
  let qs := s.eligibleQueues.filter fun q => s.qClass q != 0 || !s.on Fld.qscCtl.KING_EN
  let cls := (qs.map s.qClass).eraseDups
  let woken := forAll (List.range 8) State.wakeFor s
  if qs.isEmpty then .next s
  else match s.arbDecide { kind := akClass } (below 4 cls.contains) (fun _ => false) 1 with
  | none => .next s
  | some (k, s1) =>
    let qk := qs.filter fun q => s.qClass q == k
    match s1.arbDecide { kind := akGroup, i := 1 } (qk.map (· / 16)).eraseDups (fun _ => false) 1 with
    | none => .next s
    | some (g, s2) =>
      match s2.arbDecide { kind := akQueue, i := 1, j := g } ((qk.filter fun q => q / 16 == g).map (· % 16)) (fun _ => false) 1 with
      | none => .next s
      | some (i, s3) =>
        match s3.arbDecide { kind := akCluster } (below 8 fun cl => (s.generalCtx cl).isSome) (fun _ => false) 1 with
        | none => .next woken
        | some (cl, s4) => match s4.generalCtx cl with
          | none => .next woken
          | some c => (((forAll (List.range 8) State.wakeFor s4).pathGrant cl 1).dispatch (g * 16 + i) c none).done

/-! ### Arbiters -/

/-- The exchange of the King slot banks (R82): the shadow bank becomes active and is copied back, and King engines that have
gained a slot are woken (R92). -/
def State.kstExchange (s : State) : State :=
  { (forAll (List.range 128) (fun t k => t.setReg ⟨.kstActive, k, 0⟩ (t.reg ⟨.kstShadow, k, 0⟩)) s).put Fld.kstCtl.SWAP 0
    with swapAt := none }.kingKeep

/-- A window starts (R71, R82). -/
def execArbiterWindowStart (g : WinId) (s : State) : Res :=
  let s1 := s.windowStart (WinIdHas g)
  match g, s.swapAt with
  | .qsc, some t => if s.fclk ≥ t + 2 then s1.kstExchange.done else .next s1
  | _, _ => .next s1

/-- The cost of a grant (R71, R76, R77): 1, and on the crossbar's arbiters one per 64 B beat. -/
def arbCost (a : ArbId) (beats : Nat) : Nat := if a.kind = akFxbIn ∨ a.kind = akFxbVc then Nat.max 1 beats else 1

/-- The high-priority requesters of an arbiter (R76, R77, R382): the King pipe, VC0, a context whose first issue is still to come
(`Ctx.fresh`); and at the device ports, the tag allocator and the EIC the requests that carry KING, VC0 or PRI 0, which the
command marks by 65536 (`marked`). -/
def State.arbHp (s : State) (a : ArbId) (marked : Nat → Bool) (r : Nat) : Bool :=
  if a.kind = akKing ∨ a.kind = akPath ∨ a.kind = akFxbVc then r == 0
  else if a.kind = akEngine then (s.cx (a.i * 8 + r)).fresh
  else (a.kind == akPort || a.kind == akTag || a.kind == akEic) && marked r

/-- A standalone decision of an arbiter (R71) over the requesters `reqs`, for `beats` beats on the crossbar. The first issue of a
newly dispatched context wins outright once (R76). -/
def execArbiterDecision (a : ArbId) (reqs : List Nat) (beats : Nat) (s : State) : Res :=
  let ids := ((reqs.map (· % 65536)).filter (· < arbN a)).foldl NSet.add []
  match s.arbDecide a ids (s.arbHp a fun r => reqs.contains (65536 + r)) (arbCost a beats) with
  | none => .next s
  | some (w, s1) =>
    let s2 := if a.kind = akEngine then s1.updCx (a.i * 8 + w) fun x => { x with fresh := false } else s1
    .next (s2.emit (.grant a w))

/-- Every queue-weight word becomes active. -/
def State.commitQw (s : State) : State :=
  let ks := (s.regs.map (·.1) ++ s.act.map (·.1)).filter fun r => r.id == .qwData
  forAll ks State.commit s

/-- QSC_COMMIT (R75, R84): a window length or a quota out of range is unpredictable. -/
def execQscCommit (s : State) : Res :=
  let w := s.get Fld.qscCtl.WIN_LOG2
  if w < 8 ∨ w > 16 ∨ s.get Fld.kingQuota.QUOTA = 0 then .fault (.unpredictable 84)
  else
    let s1 := (forAll [⟨.qscCtl, 0, 0⟩, ⟨.clsW, 0, 0⟩, ⟨.cluW, 0, 0⟩, ⟨.kingQuota, 0, 0⟩] State.commit s).commitQw
    .next ((s1.arbClip fun a => a.kind == akClass || a.kind == akQueue || a.kind == akCluster).arbQuotaNew
      ({ kind := akKing } :: (List.range 8).map fun c => { kind := akPath, i := c }))

/-- FXB_COMMIT (R75, R85). -/
def execFxbCommit (s : State) : Res :=
  let w := s.get Fld.fxbCtl.WIN_LOG2
  if w < 6 ∨ w > 14 then .fault (.unpredictable 85)
  else
    .next (((forAll [⟨.fxbCtl, 0, 0⟩, ⟨.fxbVc, 0, 0⟩] State.commit s).arbClip fun a => a.kind == akFxbVc).arbQuotaNew
      ((List.range 40).map fun p => { kind := akFxbVc, i := p }))

/-- KST_CTL.SWAP (R82). -/
def execKstSwap (s : State) : Res :=
  .next { s.put Fld.kstCtl.SWAP 1 with swapAt := if s.swapAt.isSome then s.swapAt else some s.fclk }

/-- KING_STAT.CLR_OVERQ (R84). -/
def execClrOverq (s : State) : Res := .next (s.put Fld.kingStat.OVERQ 0)

/-! ### The chess clock -/

/-- Flag fall (R128): a bit at its awaited value in that cycle wins (R8); an iteration under way completes (R188). -/
def execChessClockFlagFall (ctx : Fin 1024) (s : State) : Res :=
  let c := ctx.val
  let x := s.cx c
  if !x.live || x.clock.isNone || x.parked || x.due != 0 then .next s
  else
    let s1 := s.updCx c fun y => { y with clock := some 0 }
    match x.wait with
    | .bit _ a v _ _ => if x.ckpts.isEmpty && s.bitVal c a == v then (s1.resolveLive c (.bit true) true).done
      else (s1.flagEnd c).done
    | _ => (s1.stopAt c dueFlag).done

/-! ### Stalemates -/

/-- The edge of the wait-for graph that leaves a context: the bit it waits on and that bit's owner (R130). -/
def State.waitsFor (s : State) (c : Nat) : Option (Nat × Nat) :=
  let x := s.cx c
  match x.wait with
  | .sema _ b => if x.live && x.squash.isNone then (s.semBit (clusterOf c) b).owner.map fun o => (b, o) else none
  | _ => none

/-- The contexts and bits met by following the graph from `c` until it comes back to `home`. -/
def State.follow (s : State) (home : Nat) : Nat → Nat → Option (List (Nat × Nat))
  | 0, _ => none
  | n + 1, c =>
    match s.waitsFor c with
    | none => none
    | some (b, o) => if o = home then some [(c, b)] else (s.follow home n o).map fun r => (c, b) :: r

/-- The cycles of a cluster, each from its lowest member. -/
def State.cycles (s : State) (cl : Nat) : List (List (Nat × Nat)) :=
  ((List.range 128).map (· + cl * 128)).filterMap fun c =>
    match s.follow c 128 c with
    | some l => if l.all fun e => c ≤ e.1 then some l else none
    | none => none

/-- The victim of a cycle (R131): highest class, then most recent dispatch, then highest CTX. -/
def State.victim (s : State) (l : List (Nat × Nat)) : Nat × Nat :=
  l.foldl (fun v e =>
    let a := s.cx v.1
    let b := s.cx e.1
    if b.cls > a.cls ∨ (b.cls = a.cls ∧ (b.order > a.order ∨ (b.order = a.order ∧ e.1 > v.1))) then e else v) (l.headD (0, 0))

/-- The semaphore bits of a cluster that a context owns. -/
def State.ownedBits (s : State) (c : Nat) : List Nat :=
  (s.sem.filter fun e => e.1 / 4096 == clusterOf c && e.2.owner == some c).map (·.1 % 4096)

/-- A stalemate is broken (R131). -/
def State.breakStale (s : State) (cl : Nat) (l : List (Nat × Nat)) : State :=
  let v := s.victim l
  let bits := s.ownedBits v.1
  let s1 := forAll bits (fun t b => t.setSem cl b {}) s
  let s2 := (s1.logFirst (Fld.staleLog.VALID cl) (Fld.staleLog.OVF cl)
    [(Fld.staleLog.VICTIM cl, v.1), (Fld.staleLog.BIT cl, v.2), (Fld.staleLog.LENGTH cl, l.length)]).incSat
      (Fld.pgmStat.STALE_VICTIMS cl)
  forAll bits (fun t b => t.semServe cl b) (s2.autoEnd v.1 0x71)

/-- A scan of a cluster's detector (R130): a cycle that the previous scan found too, with the same bits, is broken. -/
def execStalemateScan (cluster : Fin 8) (s : State) : Res :=
  let cl := cluster.val
  if !s.on (Fld.pgmCtl.STALE_EN cl) then .next s
  else
    let old := SMap.get s.staleSeen [] cl
    let found := s.cycles cl
    let hit := found.filter fun l => l.all old.contains
    let s1 := { s with staleSeen := SMap.set s.staleSeen [] cl (found.filter fun l => !l.all old.contains).flatten }
    (forAll hit (fun t l => t.breakStale cl l) s1).done

/-- PGM_STAT.CLR (R133). -/
def execPgmStatClr (cluster : Fin 8) (s : State) : Res :=
  let cl := cluster.val
  .next (s.putAll [(Fld.pgmStat.FLAG_FALLS cl, 0), (Fld.pgmStat.STALE_VICTIMS cl, 0), (Fld.pgmStat.POST_AGAIN cl, 0),
    (Fld.pgmStat.SILENT_FALLS cl, 0)])

end Sys2Proof.Machine
end

