-- ==== Sys2Proof/Machine/Roles.lean ====
section
/-!
DEFINITION. The configuration slots in flash and their roles (R429, R431).
-/

namespace Sys2Proof.Machine

/-- The role table that counts (R431): the copy with the higher sequence number whose digest is valid. -/
def State.roles (s : State) : Roles :=
  if s.roleA.ok && (!s.roleB.ok || decide (s.roleA.seq ≥ s.roleB.seq)) then s.roleA
  else if s.roleB.ok then s.roleB
  else {}

/-- A role change is written to the older copy, then to the newer one (R431). -/
def State.setRoles (s : State) (active prev staged : Option Nat) : State :=
  let r : Roles := { seq := s.roles.seq + 1, ok := true, active := active, prev := prev, staged := staged }
  if s.roleA.seq ≤ s.roleB.seq then { s with roleA := r, roleB := { r with seq := r.seq + 1 } }
  else { s with roleB := r, roleA := { r with seq := r.seq + 1 } }

/-- What a configuration slot holds. -/
def State.slotImg (s : State) (k : Nat) : List Byte := SMap.get s.cfgSlot [] k

/-- A little-endian number in an image. -/
def imgNum (img : List Byte) (off n : Nat) : Nat := ofBytes ((img.drop off).take n)

/-- VERSION of the slot with a role, 0 with none (R429, R441). -/
def State.slotVer (s : State) (k : Option Nat) : Nat :=
  match k with | some i => imgNum (s.slotImg i) 8 4 | none => 0

/-- The slot of the active version, none where no version is active (R433). -/
def State.activeSlot (s : State) : Option Nat := if s.cfgOn then s.roles.active else none

end Sys2Proof.Machine
end

