-- ==== Sys2Proof/Machine/Flags.lean ====
section
/-!
DEFINITION. The flag computations (R162, R167): arithmetic at width `w` on the low `w` bits of the operands.
-/

namespace Sys2Proof.Machine

/-- The low `w` bits of a word as a number (zx). -/
def zx (w : Nat) (v : Word) : Nat := v.toNat % 2 ^ w

/-- The low `w` bits of a word as a signed number (sx). -/
def sx (w : Nat) (v : Word) : Int := toSigned w v.toNat

/-- Z and N of a result at width `w` (R162). -/
def Flags.zn (f : Flags) (w r : Nat) : Flags :=
  { f with z := decide (r % 2 ^ w = 0), n := decide (r / 2 ^ (w - 1) % 2 = 1) }

/-- A signed result does not fit width `w` (R162, V). -/
def overflows (w : Nat) (v : Int) : Bool := decide (v < -(2 : Int) ^ (w - 1)) || decide (v ≥ (2 : Int) ^ (w - 1))

/-- A result and the flags it leaves. -/
structure AluOut where
  val : Word
  cf : Flags

/-- ADD and ADC: the sum with a carry in (R165). -/
def addF (f : Flags) (w : Nat) (a b : Word) (cin : Nat) : AluOut :=
  let t := zx w a + zx w b + cin
  { val := BitVec.ofNat 64 (t % 2 ^ w)
    cf := { f.zn w t with c := decide (t ≥ 2 ^ w), v := overflows w (sx w a + sx w b + cin) } }

/-- SUB, SBB and CMP: the difference with a borrow in (R165). -/
def subF (f : Flags) (w : Nat) (a b : Word) (bin : Nat) : AluOut :=
  let t := (zx w a + 2 ^ (w + 1) - zx w b - bin) % 2 ^ w
  { val := BitVec.ofNat 64 t
    cf := { f.zn w t with c := decide (zx w b + bin > zx w a), v := overflows w (sx w a - sx w b - bin) } }

/-- A result that sets Z and N and clears C and V (R165). -/
def logicF (f : Flags) (w r : Nat) : AluOut :=
  { val := BitVec.ofNat 64 (r % 2 ^ w), cf := { f.zn w r with c := false, v := false } }

/-- NEG (R165). -/
def negF (f : Flags) (w : Nat) (a : Word) : AluOut :=
  let t := (2 ^ w - zx w a) % 2 ^ w
  { val := BitVec.ofNat 64 t
    cf := { f.zn w t with c := decide (zx w a ≠ 0), v := decide (zx w a = 2 ^ (w - 1)) } }

/-- Kinds of shift (R167). -/
inductive Shift where
  | shl | shr | sar | rol | ror
deriving DecidableEq, Repr

/-- A shift of `x` at width `w` by the full count `c`, and its carry (R167). -/
def shiftVal (k : Shift) (w x c : Nat) : Nat × Bool :=
  let top := decide (x / 2 ^ (w - 1) % 2 = 1)
  if c = 0 then (x, false)
  else match k with
    | .shl =>
      if c < w then (x * 2 ^ c % 2 ^ w, decide (x / 2 ^ (w - c) % 2 = 1))
      else if c = w then (0, decide (x % 2 = 1)) else (0, false)
    | .shr =>
      if c < w then (x / 2 ^ c, decide (x / 2 ^ (c - 1) % 2 = 1))
      else if c = w then (0, top) else (0, false)
    | .sar =>
      if c < w then ((x + (if top then 2 ^ (2 * w) - 2 ^ w else 0)) / 2 ^ c % 2 ^ w, decide (x / 2 ^ (c - 1) % 2 = 1))
      else (if top then 2 ^ w - 1 else 0, top)
    | .rol =>
      let m := c % w
      let r := x * 2 ^ m % 2 ^ w + x / 2 ^ (w - m)
      (r % 2 ^ w, decide (r % 2 = 1))
    | .ror =>
      let m := c % w
      let r := (x / 2 ^ m + x * 2 ^ (w - m)) % 2 ^ w
      (r, decide (r / 2 ^ (w - 1) % 2 = 1))

/-- A shift's result and flags: Z and N from the result, V 0 (R167). -/
def shiftF (f : Flags) (k : Shift) (w : Nat) (a : Word) (count : Nat) : AluOut :=
  let r := shiftVal k w (zx w a) count
  { val := BitVec.ofNat 64 r.1, cf := { f.zn w r.1 with c := r.2, v := false } }

/-- Number of 1 bits of a number below 2^n. -/
def popc : Nat → Nat → Nat
  | 0, _ => 0
  | n + 1, v => v % 2 + popc n (v / 2)

/-- Number of 0 bits below the lowest 1 bit, `w` for 0 (R165, CTZ). -/
def ctz : Nat → Nat → Nat
  | 0, _ => 0
  | n + 1, v => if v % 2 = 1 then 0 else 1 + ctz n (v / 2)

/-- Number of 0 bits above the highest 1 bit of the low `w` bits, `w` for 0 (R165, CLZ). -/
def clz (w v : Nat) : Nat := if v % 2 ^ w = 0 then w else w - 1 - Nat.log2 (v % 2 ^ w)

/-- POPC, CLZ, CTZ: the count, Z from the source, N, C and V clear (R165). -/
def countF (f : Flags) (w : Nat) (a : Word) (r : Nat) : AluOut :=
  { val := BitVec.ofNat 64 r, cf := { f with z := decide (zx w a = 0), n := false, c := false, v := false } }

/-- The condition cc of Jcc (R152). -/
def Flags.cond (f : Flags) (cc : Fin 16) : Bool :=
  match cc.val with
  | 0 => f.z | 1 => !f.z | 2 => f.c | 3 => !f.c | 4 => f.n | 5 => !f.n | 6 => f.v | 7 => !f.v
  | 8 => f.dz | 9 => !f.dz | 10 => !f.c && !f.z | 11 => f.c || f.z
  | 12 => f.n == f.v | 13 => f.n != f.v | 14 => !f.z && f.n == f.v | _ => f.z || f.n != f.v

/-- The quotient and the remainder at width `w`, with the edge cases of R169; and DZ and V. -/
def divide (signed : Bool) (w : Nat) (a b : Word) : (Word × Word) × Bool × Bool :=
  if zx w b = 0 then ((BitVec.ofNat 64 (2 ^ w - 1), BitVec.ofNat 64 (zx w a)), true, false)
  else if signed then
    if sx w a = -(2 : Int) ^ (w - 1) ∧ sx w b = -1 then ((BitVec.ofNat 64 (2 ^ (w - 1)), 0), false, true)
    else ((BitVec.ofNat 64 (ofSigned w ((sx w a).tdiv (sx w b))),
           BitVec.ofNat 64 (ofSigned w ((sx w a).tmod (sx w b)))), false, false)
  else ((BitVec.ofNat 64 (zx w a / zx w b), BitVec.ofNat 64 (zx w a % zx w b)), false, false)

/-- The 2w-bit product as MH and ML (R168). -/
def multiply (signed : Bool) (w : Nat) (a b : Word) : Word × Word :=
  let p := if signed then ofSigned (2 * w) (sx w a * sx w b) else zx w a * zx w b
  (BitVec.ofNat 64 (p / 2 ^ 64), BitVec.ofNat 64 p)

/-- The bytes of a `w`-bit number in reverse order (R165, BSWAP). -/
def bswap (w v : Nat) : Nat := ofBytes (toBytes (w / 8) v).reverse

/-- FOLD's end-around carry; a 66-bit sum needs at most two rounds (R172). -/
def foldRound (s : Nat) : Nat := if s ≥ 2 ^ 64 then s % 2 ^ 64 + s / 2 ^ 64 else s

/-- CRCSTEP (R173): `n` bits of `v`, least significant first, into a reflected CRC. -/
def crcBits : Nat → Nat → Nat → Nat → Nat
  | 0, crc, _, _ => crc
  | n + 1, crc, poly, v =>
    let fb := (crc % 2) ^^^ (v % 2)
    crcBits n (if fb = 1 then (crc / 2) ^^^ poly else crc / 2) poly (v / 2)

end Sys2Proof.Machine
end

