-- ==== Sys2Proof/Machine/Control.lean ====
section
/-!
DEFINITION. The meanings of the control instructions: NOP, HALT, POST, SPT, JMP, Jcc, CALL, RET, TIC, CALLF (R99 to R102,
R121 to R126, R176).
-/

namespace Sys2Proof.Machine

/-- NOP (R176). -/
def execNop (h : Hdr) (s : State) : Res := simple { lock := true } h s id

/-- The front of the instructions that close an open chain (R115, R240). -/
def closing (c : Nat) (s : State) (k : State → Res) : Res :=
  match s.closeStatus c with
  | some st => s.trap c st
  | none => k (s.closeChain c)

/-- HALT (R101): it waits as POST does. -/
def execHalt (h : Hdr) (s : State) : Res :=
  let c := h.ctx.val
  issue { stop := true } h s fun s1 => closing c s1 fun s2 =>
    ((s2.updCx c fun x => if x.live then { x with wait := .halt } else x).kick c).done

/-- POST (R100, R102): a second POST ends the program at once without a further entry. -/
def execPost (h : Hdr) (status : BitVec 8) (d : Fin 16) (s : State) : Res :=
  let c := h.ctx.val
  issue { stop := true, rd := [d.val] } h s fun s1 =>
    if (s1.cx c).posted then ((s1.incSat (Fld.pgmStat.POST_AGAIN (clusterOf c))).autoEnd c 0).done
    else closing c s1 fun s2 =>
      ((s2.updCx c fun x =>
        if x.live then { x with wait := .post h.len status.toNat (x.dreg d.val) } else x).kick c).done

/-- SPT (R121): the context parks there while SUSP_REQ is 1, outside speculation; parked, it has passed the SPT. -/
def execSpt (h : Hdr) (s : State) : Res :=
  let c := h.ctx.val
  issue {} h s fun s1 =>
    let s2 := s1.updCx c fun x => x.retire h
    .next (if s2.on (Fld.qctx.SUSP_REQ (s2.cx c).qid) && !(s2.cx c).speculating then s2.park c else s2)

/-- The offset after the instruction. -/
def Ctx.nextOff (x : Ctx) (h : Hdr) : Nat := (x.regs.cpc.off + h.len) % 2 ^ 48

/-- A relative target in the program segment (R136, R176). -/
def relTarget (x : Ctx) (h : Hdr) (rel : BitVec 32) : Nat :=
  ((x.nextOff h : Int) + toSigned 32 rel.toNat).emod (2 ^ 48) |>.toNat

/-- The instruction retires and CPC goes to an offset of the program segment. -/
def Ctx.jumpTo (x : Ctx) (h : Hdr) (off : Nat) : Ctx :=
  (x.retire h).upd fun r => { r with cpc := { r.cpc with off := off } }

/-- A jump within the program segment after the limit check (R176). -/
def State.jump (s : State) (h : Hdr) (off : Nat) (f : Ctx → Ctx) : Res :=
  let c := h.ctx.val
  if off ≥ (s.cx c).regs.cpc.seg.limit then s.trap c 0x20 { sel := (s.cx c).regs.cpc.sel }
  else .next (s.updCx c fun x => f (x.jumpTo h off))

/-- JMP (R176). -/
def execJmp (h : Hdr) (t : JmpTo) (s : State) : Res :=
  issue { rd := match t with | .reg d => [d.val] | .rel _ => [] } h s fun s1 =>
    let x := s1.cx h.ctx.val
    s1.jump h (match t with | .rel r => relTarget x h r | .reg d => (x.dreg d.val).toNat % 2 ^ 48) id

/-- Jcc (R152, R176): no target check when the condition does not hold. -/
def execJcc (h : Hdr) (cc : Fin 16) (rel : BitVec 32) (s : State) : Res :=
  issue { cf := true } h s fun s1 =>
    let x := s1.cx h.ctx.val
    if x.regs.cf.cond cc then s1.jump h (relTarget x h rel) id
    else .next (s1.updCx h.ctx.val fun y => y.retire h)

/-- CALL (R126, R176): the target check, then the depth check, then the push. -/
def execCall (h : Hdr) (rel : BitVec 32) (s : State) : Res :=
  let c := h.ctx.val
  issue {} h s fun s1 =>
    let x := s1.cx c
    let off := relTarget x h rel
    if off < x.regs.cpc.seg.limit ∧ x.regs.stack.length ≥ 16 then s1.trap c 0x14
    else s1.jump h off fun y => y.upd fun r =>
      { r with stack := { r.cpc with off := x.nextOff h } :: r.stack }

/-- RET (R126): the popped target is checked against the domain entry as it stands (R190, log entry 68), and against the marks of
invalidations. -/
def execRet (h : Hdr) (s : State) : Res :=
  let c := h.ctx.val
  issue {} h s fun s1 =>
    match (s1.cx c).regs.stack with
    | [] => s1.trap c 0x14
    | p :: rest =>
      let i : EndInfo := { sel := p.sel }
      if !s1.selOk c p.sel then s1.trap c 0x22 i
      else if !p.seg.x then s1.trap c 0x21 i
      else if p.off ≥ p.seg.limit then s1.trap c 0x20 i
      else if p.seg.inval then s1.trap c 0x23 i
      else .next (s1.updCx c fun x => ((x.retire h).upd fun r => { r with cpc := p, stack := rest }).useSeg p.seg.dom p.sel)

/-- A far target's value. -/
def Ctx.far (x : Ctx) : FarTo → Nat
  | .imm t => t.toNat
  | .reg d => (x.dreg d.val).toNat

/-- TIC (kind 0) and CALLF (kind 1) (R125, R126): on a segment-cache miss the context waits for the table read. Until the invalidation
after a change of the domain entry completes they may see the old entry or the new one (R190); they see the new one (log entry 68). -/
def farOp (kind : Nat) (h : Hdr) (t : FarTo) (s : State) : Res :=
  let c := h.ctx.val
  issue { rd := match t with | .reg d => [d.val] | .imm _ => [] } h s fun s1 =>
    let x := s1.cx c
    let sel := x.far t / 2 ^ 48
    let off := x.far t % 2 ^ 48
    if !s1.selOk c sel then s1.trap c 0x22 { sel := sel }
    else match s1.lookup x.pdom sel with
      | (some g, s2) =>
        match farCheck g off (if kind = 1 then some x.regs.stack.length else none) with
        | some st => s2.trap c st { sel := sel }
        | none => .next (s2.updCx c fun y => (y.farJump h.len kind sel off g).useSeg x.pdom sel)
      | (none, s2) => .next (s2.updCx c fun y => { y with wait := .far h.len kind sel off })

/-- TIC (R125): nothing is pushed. -/
def execTic (h : Hdr) (t : FarTo) (s : State) : Res := farOp 0 h t s
/-- CALLF (R126). -/
def execCallf (h : Hdr) (t : FarTo) (s : State) : Res := farOp 1 h t s

end Sys2Proof.Machine
end

