-- ==== Sys2Proof/Machine/Transfer.lean ====
section
/-!
DEFINITION. The transfer instructions XFER, XFERT, WAITX, STRIPE, GATHER (R114 to R118, R236 to R254), the admission of
transfers, their lanes, ends and failures (R228 to R235, R246), and the completion of reads of host memory (R27).
-/

namespace Sys2Proof.Machine

/-! ### XFER and XFERT -/

/-- The link that the operands name. -/
def Ctx.linkOf (x : Ctx) (o : XOpnd) : Link :=
  let src := x.sreg (o.sseg.getD o.src).val
  let n := (x.dreg o.cnt.val).toNat
  match o.dst with
  | none => { skip := true, src := src, sOff := (x.areg o.src.val).toNat, dst := {}, dOff := 0, n := n }
  | some d => { skip := false, src := src, sOff := (x.areg o.src.val).toNat, dst := x.sreg (o.dseg.getD d).val,
                dOff := (x.areg d.val).toNat, n := n }

/-- The segment checks of a link in assembler order (R196, R197, R240): destination, source, and the result bytes where
the link ends the stream. A failure names the selector concerned. -/
def linkCheck (t : Nat) (l : Link) (last : Bool) : Option (Nat × Nat) :=
  let here (st : Option Nat) (g : Desc) : Option (Nat × Nat) := st.map fun x => (x, g.sel)
  let own :=
    if l.n = 0 then none
    else match (if l.skip then none else here (segCheck l.dst .w l.dOff (Nat.max 1 (outSpan t l.n))) l.dst) with
      | some e => some e
      | none => here (segCheck l.src .r l.sOff l.n) l.src
  match own with
  | some e => some e
  | none => if last then here (resultCheck t l) (if tRdst t = 1 then l.dst else l.src) else none

/-- A later link joins the open chain, and the mover goes on with it (R115). -/
def State.addLink (s : State) (c sl : Nat) (x : Xfer) (dc : Bool) (l : Link) : State :=
  let k := 4 * c + sl
  let y := { x with links := x.links ++ [l], closed := !dc }
  (((s.setXf k (y.advance y.links.length)).updCx c fun z =>
    z.upd fun r => { r with chainOpen := if dc then some sl else none }).flush k).goXf k

/-- XFER and XFERT with the selector that the stream goes under (R114 to R116, R187, R236, R237, R240, R242 to R245). -/
def transferAt (h : Hdr) (o : XOpnd) (tsel : Nat) (s : State) : Res :=
  let c := h.ctx.val
  let x := s.cx c
  let l := x.linkOf o
  let chain := s.openChain c
  let t := match chain with | some e => e.2.tsel | none => tsel
  let last := !o.dc
  let total := l.n + (match chain with | some e => e.2.total | none => 0)
  let a2 := match chain with | some e => e.2.a2 | none => (x.piece (tAcc t) 2).toNat
  let gcmLong := tCiph t ≥ 3 && decide (cipherIn t total > bitsOf a2 32 16 + (2 ^ 36 - 32))
  if (tsel ≠ 0 ∧ tsel ≠ t) ∨ (l.skip ∧ tRdst t = 2) then s.trap c 0x13
  else if chain.isNone ∧ l.n = 0 then .next (s.updCx c fun y => y.retire h)
  else match linkCheck t l last with
  | some (st, sel) => s.trap c st { sel := sel }
  | none =>
    match (if chain.isSome then none else s.keyCheck x.pdom t) with
    | some st => s.trap c st
    | none =>
      if l.n % piIn t ≠ 0 ∨ gcmLong ∨ (last ∧ endLenBad t a2 total) ∨ l.n ≥ 2 ^ 40 ∨
          (match chain with | some e => e.2.links.length | none => 0) ≥ 64 then s.trap c 0x12
      else match chain with
        | some (sl, e) => ((s.addLink c sl e o.dc l).updCx c fun y => if y.live then y.retire h else y).done
        | none => match x.freeSlot with
          | none => .next s
          | some sl => (((s.startXfer c t h.king o.dc l sl).updCx c fun y => y.retire h)).done

/-- The accumulator that a new stream samples (R239). -/
def State.xferAcc (s : State) (c tsel : Nat) : List Nat :=
  if tsel = 0 ∨ (s.openChain c).isSome then [] else [tAcc tsel]

/-- XFER (R114 to R117). -/
def execXfer (h : Hdr) (x : XOpnd) (s : State) : Res :=
  issue { king := true, stop := true, rd := [x.cnt.val] } h s fun s1 => transferAt h x 0 s1

/-- XFERT (R236 to R245): a selector of 0 makes it a plain XFER; one that R237 makes undefined is so at its last byte. -/
def execXfert (h : Hdr) (x : XOpnd) (tsel : BitVec 32) (s : State) : Res :=
  issue { king := true, stop := true, rd := [x.cnt.val], acc := s.xferAcc h.ctx.val tsel.toNat,
          undef := if tselOk tsel.toNat then none else some (hdrLast h) } h s fun s1 => transferAt h x tsel.toNat s1

/-- WAITX (R115, R118). -/
def execWaitx (h : Hdr) (d : Fin 16) (s : State) : Res :=
  let c := h.ctx.val
  issue {} h s fun s1 => match s1.closeStatus c with
    | some st => s1.trap c st
    | none => ((s1.updCx c fun x => { x with wait := .waitx h.len d.val }).kick c).done

/-! ### STRIPE and GATHER -/

/-- STRIPE and GATHER at issue (R249, R251 step 1). -/
def stripeAt (h : Hdr) (m : Mem) (d : Fin 16) (gather : Bool) (s : State) : Res :=
  let c := h.ctx.val
  let x := s.cx c
  let g := x.sreg (memSreg m)
  let off := (x.offset m).toNat
  match segCheck g .r off 32 with
  | some st => s.trap c st { sel := g.sel }
  | none =>
    if x.freeSlot.isNone then .next s
    else ((s.updCx c fun y => { y with wait := .stripe h gather g off (x.dreg d.val).toNat [] }).descGo c 8).done

/-- STRIPE (R249 to R252). -/
def execStripe (h : Hdr) (m : Mem) (d : Fin 16) (s : State) : Res :=
  issue { king := true, stop := true, rd := [d.val], undef := nselBad m.nsel 2 } h s fun s1 => stripeAt h m d false s1

/-- GATHER (R249 to R251, R253). -/
def execGather (h : Hdr) (m : Mem) (d : Fin 16) (s : State) : Res :=
  issue { king := true, stop := true, rd := [d.val], undef := nselBad m.nsel 2 } h s fun s1 => stripeAt h m d true s1

/-! ### Admission and lanes -/

/-- The transfers in a mover, as entries: a STRIPE or GATHER takes all eight (R228). -/
def State.entriesUsed (s : State) (g i : Nat) : List Nat :=
  (s.xfer.filter fun e => e.2.mover == some (g, i)).flatMap fun e =>
    if e.2.stripe.isSome then List.range 8 else [e.2.entry]

/-- The mover of a group, and the entry, that a transfer would take (R229). -/
def State.placeIn (s : State) (g : Nat) (x : Xfer) : Option (Nat × Nat) :=
  (List.range 4).findSome? fun i =>
    let used := s.entriesUsed g i
    if x.stripe.isSome then (if used.isEmpty then some (i, 0) else none)
    else ((List.range 8).find? fun e => !used.contains e).map fun e => (i, e)

/-- The transfer at the head of a cluster's queue. -/
def State.xqHead (s : State) (cl : Nat) : Option Nat := (SMap.get s.xq [] cl).head?

/-- The clusters that present a transfer to a group which the group can place now (R229). -/
def State.admitReqs (s : State) (g : Nat) : List Nat :=
  below 8 fun cl => match s.xqHead cl with
    | none => false
    | some k => (cl / 2 == g || (s.xg k).spill) && (s.placeIn g (s.xg k)).isSome

/-- The lane that a mover of a group would take (R246): the lower free one of its own pair, else the lowest free. -/
def State.laneFor (s : State) (g : Nat) : Option Nat :=
  ([2 * g, 2 * g + 1] ++ List.range 8).find? fun l => !NSet.has s.masked (25 + l / 2) && s.lanes.all fun e => e.1 != l

/-- Group `g` admits the head transfer of a cluster's queue to a mover entry (R229, R235, R246). -/
def execTransferAdmit (g : Fin 4) (s : State) : Res :=
  if NSet.has s.masked (21 + g.val) then .next s
  else match s.arbDecide { kind := akDmg, i := g.val } (s.admitReqs g.val) (fun _ => false) 1 with
  | none => .next s
  | some (cl, s1) =>
    match s1.xqHead cl with
    | none => .next s
    | some k =>
      let x := s1.xg k
      match s1.placeIn g.val x with
      | none => .next s
      | some (i, e) =>
        let s2 := { s1.setXf k { x with mover := some (g.val, i), entry := e, adm := s1.xferNext } with xferNext := s1.xferNext + 1 }
        let s3 := { s2 with xq := SMap.set s2.xq [] cl (SMap.get s2.xq [] cl).tail }.clockGrp g.val
        if x.tsel = 0 then (s3.goXf k).done
        else
          let s4 := s3.laneQueue (4 * g.val + i)
          .next (match s4.laneFor g.val with | some l => s4.clockGrp (4 + l / 2) | none => s4)

/-- The head of a cluster's queue has waited SPILL cycles and is offered to the other groups (R229). -/
def execTransferSpill (cluster : Fin 8) (s : State) : Res :=
  match s.xqHead cluster.val with
  | some k => .next (forAll (List.range 4) State.clockGrp (s.setXf k { s.xg k with spill := true }))
  | none => .next s

/-- The transformed transfer of a mover that gets its lane: the one admitted first (R246). -/
def State.laneFirst (s : State) (m : Nat) : Option Nat :=
  ((sortBy (fun e => e.2.adm) (s.xfer.filter fun e => e.2.moverNo == m && e.2.tsel != 0 && e.2.lane.isNone)).map (·.1)).head?

/-- A mover waiting for a lane is granted a free one in waiting order (R246). -/
def execLaneGrant (mover : Fin 16) (s : State) : Res :=
  if s.laneWait.head? ≠ some mover.val then .next s
  else match s.laneFirst mover.val, s.laneFor (mover.val / 4) with
    | some k, some l =>
      (({ s.setXf k { s.xg k with lane := some l } with
          lanes := s.lanes ++ [(l, mover.val)]
          laneWait := s.laneWait.filter (· != mover.val) }.clockGrp (4 + l / 2)).goXf k).done
    | _, _ => .next s

/-- A transfer writes its last beat and its outputs, and frees its slot and entry (R231, R239). -/
def execTransferComplete (ctx : Fin 1024) (slot : Fin 4) (s : State) : Res :=
  let k := 4 * ctx.val + slot.val
  match s.xf k with
  | none => .next s
  | some x => if x.finished then ((s.endXfer k).kick ctx.val).goAll.done else .next s

/-- A transfer stops on a failure that its own reads and writes do not show (R234): `cause` as XFER_LOG has it, the
shard concerned, and the bytes counted as written from the failed write on. -/
def execTransferFailure (ctx : Fin 1024) (slot : Fin 4) (cause : Fin 16) (shard : Fin 64) (lost : Nat) (s : State) : Res :=
  let k := 4 * ctx.val + slot.val
  match s.xf k with
  | none => .next s
  | some x =>
    let s1 := s.setXf k { x with written := x.written - lost }
    let st := causeStatus cause.val
    match cause.val with
    | 1 | 2 => ({ s1 with hreq := abandonH (fun p => p == Purpose.mover k) s1.hreq
                          txn := abandonT (fun p => p == Purpose.mover k) s1.txn }.readFail k cause.val st).done
    | 3 | 4 =>
      match x.stripe with
      | some (gather, d) =>
        if shard.val < sK d + sM d then
          (s1.shardFail k shard.val cause.val (gather && !(x.inUse true d).contains shard.val)).done
        else (s1.xferFail k cause.val st).done
      | none => (s1.xferFail k cause.val st).done
    | 11 => ((s1.put (Fld.xferLog.MERR x.group) 1).xferFail k 11 st).done
    | 12 => match x.lane with
      | some l => ((s1.logErr (25 + l / 2) 1 (l % 2) 0).xferFail k 12 st).done
      | none => .next s
    | 0 | 14 | 15 => .next s
    | n => (s1.xferFail k n st x.srcSel).done

/-- A group or a lane pair that holds nothing is clock-gated (R235). -/
def execGroupClockGate (g : Fin 8) (s : State) : Res :=
  let busy :=
    if g.val < 4 then
      s.xfer.any (fun e => e.2.mover.isSome && e.2.group == g.val) || !(s.xqHead (2 * g.val)).isNone ||
        !(s.xqHead (2 * g.val + 1)).isNone
    else s.lanes.any fun e => e.1 / 2 == g.val - 4
  if busy then .next s else .next { s with gatedGrp := NSet.add s.gatedGrp g.val }

/-- DMG_CTL and DMG_CW become active (R75, R265). -/
def execDmgCommit (g : Fin 4) (s : State) : Res :=
  let w := s.get (Fld.dmgCtl.WIN_LOG2 g.val)
  if w < 6 ∨ w > 14 then .fault (.unpredictable 265)
  else .next (((s.commit ⟨.dmgCtl, g.val, 0⟩).commit ⟨.dmgCw, g.val, 0⟩).arbClip fun a => a.kind == akDmg && a.i == g.val)

/-! ### Completions of host reads -/

/-- The beats of a poisoned read's data from an address on that are good (R234): a beat is 64 aligned bytes of the source. -/
def goodBeats (addr : Nat) (bs : List Byte) : List Byte := bs.take ((addr + bs.length) / 64 * 64 - addr)

/-- Data of a read of host memory returns (R27, R234), or its error. -/
def execHostReadCompletion (req : Nat) (r : ReadResult) (s : State) : Res :=
  match s.hreq.find? (fun e => e.1 == req) with
  | none => .next s
  | some (_, q) =>
    if q.held ∨ (s.on Fld.hpuStat.MODE ∧ !q.dead) then .next s
    else if q.purp.isGone then .next (s.lateRead req)
    else match q.purp with
    | .ring _ => .next s
    | _ =>
      if q.dead then (s.hostReadFail req).done
      else match r with
        | .data bs =>
          if bs.length ≠ q.n then .next s
          else match s.dataBad q.purp bs with
            | some rule => .fault (.unpredictable rule)
            | none => (s.hostData req q bs State.descData).done
        | .error => (s.hostReadFail req).done
        | .poison good =>
          match q.purp with
          | .mover k =>
            let g := goodBeats q.addr (good.take q.n)
            let s1 := s.dropHreq req
            if g.isEmpty || (s1.xg k).stripe.isSome then (s1.readFail k 2 0x30).done
            else
              let s2 := s1.feed k g
              (if (s2.xg k).links.isEmpty then s2 else s2.readFail k 2 0x30).done
          | _ => (s.hostReadFail req true).done

end Sys2Proof.Machine
end

