-- ==== Sys2Proof/Machine/RegView.lean ====
section
/-!
DEFINITION. What a read of a register returns: the word that the state keeps, with the fields that show something else
computed from it, and the words that are computed whole.
-/

namespace Sys2Proof.Machine

/-- A number as a register word. -/
def wordOf (n : Nat) : Word := BitVec.ofNat 64 n

/-- A word with fields replaced by values computed for the read. -/
def withFields (w : Word) : List (Field × Nat) → Word
  | [] => w
  | (f, v) :: l => withFields (wordOf (putBits w.toNat f.lo f.w v)) l

/-- A bit map over the numbers below 64. -/
def bitMap (p : Nat → Bool) : Nat := (List.range 64).foldl (fun a i => if p i then a + 2 ^ i else a) 0

/-- A core ring or event queue's source is held in an entry (R392, BUSY). -/
def State.srcHeld (s : State) (src : Nat) : Bool :=
  s.eic.any fun e => match e.2.held with | some h => h.1 == src | none => false

/-- Lane `l`: whether it is held, and the mover that holds it (R266). -/
def State.laneView (s : State) (l : Nat) : Bool × Nat :=
  match s.lanes.find? fun e => e.1 == l with | some e => (true, e.2) | none => (false, 0)

/-- A register word as a read returns it. -/
def State.viewReg (s : State) (r : Reg) : Word :=
  let w := s.reg r
  match r.id with
  | .grp => withFields w [(Fld.grp.ENABLED r.i,
      bitMap fun q => decide (q < 16) && s.get (Fld.qctx.STATE (r.i * 16 + q)) != 0)]
  | .kingStat => withFields w [(Fld.kingStat.SLOTS_FREE,
      (below 128 fun k => s.on (Fld.kstActive.VALID k) && !s.slotUsed k).length)]
  | .kstActive => withFields w [(Fld.kstActive.IN_USE r.i, b2n (s.slotUsed r.i))]
  | .kstShadow => withFields w [(Fld.kstShadow.IN_USE r.i, 0)]
  | .gbtStat => withFields w
      [(Fld.gbtStat.CB_USED r.i, (SMap.get s.held [] r.i).length),
       (Fld.gbtStat.SPEC_CTX r.i, (s.ctx.filter fun e => clusterOf e.1 == r.i && !e.2.ckpts.isEmpty).length),
       (Fld.gbtStat.WATCH_USED r.i, ((SMap.get s.watch [] r.i).map fun e => (e.1, e.2.1)).eraseDups.length)]
  | .txlStat =>
    let a := s.laneView (2 * r.i)
    let b := s.laneView (2 * r.i + 1)
    withFields w [(Fld.txlStat.BUSY0 r.i, b2n a.1), (Fld.txlStat.MOVER0 r.i, a.2), (Fld.txlStat.BUSY1 r.i, b2n b.1),
      (Fld.txlStat.MOVER1 r.i, b.2)]
  | .pluStat => withFields w [(Fld.pluStat.RELEASED r.i, b2n (s.pinPeerReset r.i))]
  | .fifoStat => s.fStatWord r.i
  | .srcCfg => if r.i ≥ 0x10800 then withFields w [(Fld.srcCfg.TGT_CORE r.i, 1)] else w
  | .srcStat => withFields w [(Fld.srcStat.LVL r.i, b2n (isLevel r.i)), (Fld.srcStat.BUSY r.i, b2n (s.srcHeld r.i))]
  | .qctl => withFields w [(Fld.qctl.BUSY, b2n (decide (s.fclk < s.qctlUntil)))]
  | .mbStat => withFields w [(Fld.mbStat.FW_READY r.i, b2n s.fwReady)]
  | .pcmStat => withFields w [(Fld.pcmStat.SLEW, b2n s.slew)]
  | .secStat => withFields w
      [(Fld.secStat.ROM_VER, Config.romVer), (Fld.secStat.FW_SVN, s.fuses.fwSvn), (Fld.secStat.CFG_SVN, s.fuses.cfgSvn),
       (Fld.secStat.OK_PROG, s.fuses.okProg), (Fld.secStat.OK_REV, s.fuses.okRev), (Fld.secStat.VK_REV, s.fuses.vkRev),
       (Fld.secStat.OWN_FW_REQ, b2n s.fuses.ownFw), (Fld.secStat.OWN_CFG_REQ, b2n s.fuses.ownCfg)]
  | .cfsStat => withFields w [(Fld.cfsStat.ACTIVE_VER, s.slotVer s.activeSlot)]
  | .cfsVer => withFields w
      [(Fld.cfsVer.PREV_VER, s.slotVer s.roles.prev), (Fld.cfsVer.STAGED_VER, s.slotVer s.roles.staged)]
  | .fclReact => if r.i ≤ 42 ∨ r.i = 63 then w else 0
  | _ => w

/-- An address as MVR_DESC shows it (R265): KIND 1 with its node, KIND 2 with its pool. -/
def descAddr (g : Desc) (off : Nat) : Nat :=
  match g.kind with
  | 1 => (g.base + off) % 2 ^ 48 + g.node * 2 ^ 48
  | 2 => (g.base + off) % 2 ^ 52 + g.pool * 2 ^ 52
  | _ => g.base + off

/-- An address at a node in that format. -/
def nodeAddr (node a : Nat) : Nat := a % 2 ^ 48 + node % 2 ^ 16 * 2 ^ 48

/-- The place of byte `p` of stored shard `i` in that format. -/
def State.shardAddr (s : State) (d : List Byte) (i p : Nat) : Nat :=
  nodeAddr (s.get (Fld.dpData.NODE (sPort d i))) (s.get (Fld.dpData.DATA_BASE (sPort d i)) + sOffset d i + p)

/-- The next source address of a transfer in link `l` (R265): a STRIPE reads its buffer, a GATHER its shards. -/
def State.mvrSrc (s : State) (x : Xfer) (l : Link) : Nat :=
  match x.stripe with
  | none => descAddr l.src (l.sOff + x.rd)
  | some (gather, d) =>
    let i := match s.nextRead x with | some e => e.2.2 | none => ((x.inUse gather d).getLast?).getD 0
    let p := (x.got i).length
    if gather then s.shardAddr d i p else descAddr l.src (l.sOff + i * x.total + p)

/-- The next destination address of a transfer (R265), where its output goes on: 0 under SK. -/
def State.mvrDst (s : State) (x : Xfer) (l : Link) : Nat :=
  let at_ (o : Link) (p : Nat) : Nat := if o.skip then 0 else descAddr o.dst (o.dOff + p)
  match x.stripe with
  | none => match findLink x.tsel x.links x.outPos, x.links.getLast? with
    | some (o, p), _ => at_ o p
    | none, some o => at_ o (outLen x.tsel o.n)
    | none, none => 0
  | some (true, d) =>
    let j := ((List.range (sK d)).find? fun j => decide (SMap.get x.gw 0 j < x.total)).getD (sK d - 1)
    at_ l (j * x.total + SMap.get x.gw 0 j)
  | some (false, d) => s.shardAddr d (((List.range (sK d + sM d)).find? fun i => !x.failed.contains i).getD 0) x.outPos

/-- Word `k` of MVR_DESC of a mover's entry (R265): a STRIPE or GATHER takes all eight entries and shows in each. -/
def State.mvrDesc (s : State) (g i e k : Nat) : Word :=
  match s.xfer.find? fun x => x.2.mover == some (g, i) && (x.2.entry == e || x.2.stripe.isSome) with
  | none => 0
  | some (_, x) =>
    let l := (x.links[x.linkIx]?).getD (x.links.getLastD { skip := true, src := {}, sOff := 0, dst := {}, dOff := 0, n := 0 })
    let before := (x.links.take x.linkIx).foldl (fun a m => a + m.n) 0
    let gone := Nat.min l.n (x.written - before)
    let kinds := match x.stripe with
      | none => (l.src.kind, l.dst.kind)
      | some (gather, _) => if gather then (1, l.dst.kind) else (l.src.kind, 1)
    match k with
    | 0 => wordOf (1 + b2n l.skip * 2 + b2n (!x.closed) * 4 + b2n x.stripe.isSome * 8 + b2n x.vc0 * 16 + x.ctx % 1024 * 2 ^ 5
        + x.slot % 4 * 2 ^ 15 + kinds.1 % 4 * 2 ^ 17 + kinds.2 % 4 * 2 ^ 19 + b2n x.lane.isSome * 2 ^ 21
        + x.lane.getD 0 % 8 * 2 ^ 22 + x.links.length % 128 * 2 ^ 25 + x.tsel % 2 ^ 32 * 2 ^ 32)
    | 1 => wordOf ((if x.stripe.isSome then x.total - x.written else l.n - gone) % 2 ^ 40)
    | 2 => wordOf (s.mvrSrc x l)
    | _ => wordOf (s.mvrDst x l)

/-- The words of the expert blocks that are computed whole (R56, R265, R267, R372). -/
def State.viewBlock (s : State) (b o : Nat) : Option Word :=
  if b = 10 ∧ o = 0x110 then some (wordOf s.kingCount)
  else if 21 ≤ b ∧ b ≤ 24 ∧ 0x1000 ≤ o ∧ o < 0x1800 then
    let k := (o - 0x1000) % 0x40
    some (if k < 0x20 then s.mvrDesc (b - 21) ((o - 0x1000) / 0x200) ((o - 0x1000) / 0x40 % 8) (k / 8) else 0)
  else if b = 29 ∧ 0x200 ≤ o ∧ o < 0x400 then
    some (wordOf (bitMap fun i => s.on (Fld.poolData.LO_SEEN ((o - 0x200) / 8 * 64 + i))))
  else if b = 32 ∧ o = 8 then some (wordOf (bitMap fun l => decide (l < 4) && s.pinXoff l))
  else if b = 32 ∧ o = 0x100 then
    some (wordOf (bitMap fun f => s.on (Fld.fifoStat.HI_SEEN f) || s.on (Fld.fifoStat.LO_SEEN f)))
  else if b = 32 ∧ o = 0x108 then some (wordOf (bitMap fun f => s.on (Fld.fifoStat.BROKEN f)))
  else none

/-- A word of an MSI-X table at byte `o` of it (R339, R340): the vector control word's mask reads 1 at reset. -/
def State.msixRead (s : State) (f o : Nat) : Word :=
  let half (o : Nat) : Nat :=
    let k := o / 4 % 4
    let v := s.msixWord f (o / 16) k
    if k = 3 then putBits v 0 1 (1 - v % 2) else v
  wordOf (half o + half (o + 4) * 2 ^ 32)

/-- A word of a function's pending-bit array. -/
def State.pbaRead (s : State) (f o : Nat) : Word :=
  wordOf (bitMap fun i => NSet.has s.pba (f * 2048 + (o / 8 * 64 + i)))

/-- The 64-bit word that a read of BAR0 meets at an offset, a multiple of 8; write-only fields read 0, and so does what is
reserved (R12, R14, R19). -/
def State.barWord (s : State) (o : Nat) : Word :=
  if 0x7000 ≤ o ∧ o < 0x7100 then s.pbaRead 0 (o - 0x7000)
  else if 0x8000 ≤ o ∧ o < 0x10000 then s.msixRead 0 (o - 0x8000)
  else if o = 0x10020 then wordOf (bitMap s.fltLine)
  else
    let blk := if expertBase ≤ o ∧ o < expertEnd then s.viewBlock ((o - expertBase) / 0x10000) (o % 0x10000) else none
    match blk with
    | some w => w
    | none => match s.place o with
      | some r => wordOf (maskBits (s.viewReg r).toNat (maskOf r fun f => f.ty != .wo))
      | none => 0

/-- Something other than reserved offsets stands in the 8 bytes at an offset of BAR0, a multiple of 8 (R16, R19). -/
def State.barHas (s : State) (o : Nat) : Bool :=
  decide ((0x7000 ≤ o ∧ o < 0x7100) ∨ (0x8000 ≤ o ∧ o < 0x10000) ∨ o = 0x10020) || (s.place o).isSome ||
    (decide (expertBase ≤ o ∧ o < expertEnd) && (s.viewBlock ((o - expertBase) / 0x10000) (o % 0x10000)).isSome)

/-- The same of a virtual function's BAR0 (R340). -/
def vfHas (f o : Nat) : Bool :=
  (decide (o < 0x100) && (mailReg f o).isSome) || decide (0x800 ≤ o ∧ o < 0xC00) || decide (o = 0xC00)

/-- The word a virtual function reads at an offset of its own BAR0 (R340). -/
def State.vfWord (s : State) (f o : Nat) : Word :=
  if o < 0x100 then
    match mailReg f o with
    | some r => wordOf (maskBits (s.viewReg r).toNat (maskOf r fun g => g.ty != .wo))
    | none => 0
  else if 0x800 ≤ o ∧ o < 0xC00 then s.msixRead f (o - 0x800)
  else if o = 0xC00 then s.pbaRead f 0
  else 0

end Sys2Proof.Machine
end

