-- ==== Sys2Proof/Machine/RegOps.lean ====
section
/-!
DEFINITION. Accesses to BAR0 (R12 to R20, R340, R409, R410, R422, R437): what a write of a register word does, by its
fields' types and by the rules of its own register, who reaches which region, and the spaces that are no registers.
-/

namespace Sys2Proof.Machine

/-! ### Writes of one register word -/

/-- A command's outcome goes on to another effect. -/
def andThen (r : Res) (k : State → Res) : Res :=
  match r with
  | .next s => k s
  | .fault e => .fault e
  | .refused e => .refused e

/-- A word stored, and what follows from it. -/
def State.store (s : State) (r : Reg) (v : Nat) : Res := (s.setReg r (wordOf v)).done

/-- An effect that happens when a bit is written as 1. -/
def whenSet (b : Bool) (k : State → Res) (s : State) : Res := if b then k s else .next s

/-- Byte `k` of a number. -/
def byteOf (v k : Nat) : Nat := bitsOf v (8 * k) 8

/-- A value of a register word that its table calls unpredictable: the rule that says so (R4, R7). Values that take effect
only at a later command are judged there. -/
def regBad (r : Reg) (v : Nat) : Option Nat :=
  match r.id with
  | .pgmCtl => if bitsOf v 1 5 < 8 ∨ bitsOf v 1 5 > 16 then some 133 else none
  | .pluCtl => if bitsOf v 4 3 > 5 ∨ bitsOf v 16 8 % 2 ^ bitsOf v 7 3 ≠ 0 then some 295 else none
  | .nodeRt | .domRt =>
    if (List.range 8).any fun k => decide ((8 ≤ byteOf v k ∧ byteOf v k ≤ 14) ∨ byteOf v k > 15) then some 296 else none
  | .rtCtl =>
    let d := bitsOf v 0 8
    let a := bitsOf v 8 8
    let b := bitsOf v 16 8
    if a = b ∨ (d = 0 ∧ (a = 0 ∨ b = 0)) then some 296 else none
  | .pdData => if r.j = 0 ∧ bitsOf v 11 5 > 16 then some 191 else none
  | .srcSel => if bitsOf v 0 17 ≥ 68608 then some 374 else none
  | .txnCtl => if bitsOf v 0 16 < 10 then some 310 else none
  | .hpuCtl => if bitsOf v 4 3 > 5 then some 347 else none
  | .spmCtl => if bitsOf v 1 5 < 8 ∨ bitsOf v 1 5 > 20 then some 360 else none
  | .fifoCfg => if 8 ≤ bitsOf v 8 4 ∧ bitsOf v 8 4 ≤ 14 then some 372 else none
  | .fifoWm => if bitsOf v 0 13 ≤ bitsOf v 16 13 ∨ bitsOf v 0 13 > 4096 then some 369 else none
  | .cfsCtl => if bitsOf v 0 16 = 0 ∨ bitsOf v 0 16 > 400 then some 441 else none
  | .pcmCtl => if bitsOf v 46 8 < 60 ∨ bitsOf v 46 8 > 110 then some 483 else none
  | .eclkCeil => if (List.range 8).any fun k => decide (byteOf v k > 24) then some 483 else none
  | .hpcCtl => if bitsOf v 2 16 < 3999 ∨ bitsOf v 32 8 = 0 ∨ bitsOf v 40 4 = 0 then some 499 else none
  | _ => none

/-- A write stored where every field may be written now, unless its value is unpredictable. -/
def State.storeOk (s : State) (r : Reg) (v : Nat) : Res :=
  match regBad r v with
  | some rule => .fault (.unpredictable rule)
  | none => s.store r v

/-- PD_DATA (R203, R204): the entry of a domain that is valid may still be seen as it was. -/
def State.writePd (s : State) (r : Reg) (v : Nat) : Res :=
  let d := r.i
  if !s.on (Fld.pdData.VALID d) || s.reg r == wordOf v then s.storeOk r v
  else if s.pdOld.any fun (o : OldDom) => o.dom == d then
    { s with pdOld := s.pdOld.map fun (o : OldDom) => if o.dom == d then { o with covered := false } else o }.storeOk r v
  else { s with pdOld := { dom := d, w0 := s.reg ⟨.pdData, d, 0⟩, w1 := s.reg ⟨.pdData, d, 1⟩ } :: s.pdOld }.storeOk r v

/-- The address of a domain's table entry (R191). -/
def State.segAddr (s : State) (d sel : Nat) : Nat := s.get (Fld.pdData.ST_BASE d) * 4096 + sel * 32

/-- A selector lies outside a domain's table. -/
def State.selBad (s : State) (d sel : Nat) : Bool := decide (sel ≥ 2 ^ s.get (Fld.pdData.ST_LOG2 d))

/-- The segment entry of the library (R424). -/
def libEntry (base : Nat) : List Byte := toBytes 8 0x29 ++ toBytes 8 base ++ toBytes 8 0x10000 ++ toBytes 8 0

/-- The library's entry is written in a domain's table, where the table admits its selector. -/
def State.libWrite (s : State) (d : Nat) : State :=
  if s.libSel ≠ 0 ∧ s.on (Fld.pdData.VALID d) ∧ !s.selBad d s.libSel then
    s.hostWrite 0 (s.segAddr d s.libSel) (libEntry s.libBase)
  else s

/-- QCTL (R61, R62): the command acts on the queue of the same write. -/
def State.writeQctl (s : State) (new cmd : Nat) : Res :=
  let q : BitVec 16 := BitVec.ofNat 16 (bitsOf new 0 16)
  let nt := bitsOf new 20 1 == 1
  match cmd with
  | 0 => .next (s.putAll [(Fld.qctl.QID, bitsOf new 0 16), (Fld.qctl.NOTIFY, bitsOf new 20 1)])
  | 1 => execEnableQ q nt s
  | 2 => execDrainQ q nt s
  | 3 => execDrainAbort q nt s
  | 4 => execSuspend q nt s
  | 5 => execResume q nt s
  | 6 => execResetQ q nt s
  | _ => .next (if s.qctlBusy then s.qctlRefuse else s.qctlShow q.toNat nt 5)

/-- A word of the selected queue's context (R59). -/
def State.writeQctx (s : State) (r : Reg) (new : Nat) : Res :=
  if cfgMask r = 0 then .next s
  else if s.get (Fld.qctx.STATE r.i) ≠ 0 then .fault (.unpredictable 59)
  else s.store r new

/-- PLU_CTL (R295): a change of a field other than EN, HOLD, AUTO_RETRAIN and RETRAIN while EN = 1 is unpredictable. -/
def State.writePluCtl (s : State) (r : Reg) (new m x : Nat) : Res :=
  let p : Fin 8 := Fin.ofNat 8 r.i
  let fixed := 0xFF03F0
  let old := (s.reg r).toNat
  if s.on (Fld.pluCtl.EN r.i) ∧ maskBits old fixed ≠ maskBits new fixed then .fault (.unpredictable 295)
  else match regBad r new with
    | some rule => .fault (.unpredictable rule)
    | none =>
      let s1 := s.setReg r (wordOf (mergeBits old (fixed + 4) new))
      let hold := bitsOf new 1 1 == 1
      let en := bitsOf new 0 1 == 1
      andThen (whenSet (sets m x (Fld.pluCtl.CLR_CNT r.i)) (execPluClrCnt p) s1) fun s2 =>
      andThen (if hold then execLinkHold p s2 else execLinkHoldClear p s2) fun s3 =>
      andThen (if en then execLinkEnable p s3 else execLinkDisable p s3) fun s4 =>
      whenSet (sets m x (Fld.pluCtl.RETRAIN r.i)) (execLinkRetrain p) s4

/-- Some link is in Init or Joined. -/
def State.linksUp (s : State) : Bool := (List.range 8).any fun p => s.lState p == 3 || s.lState p == 4

/-- RT_CTL (R288, R296). -/
def State.writeRtCtl (s : State) (r : Reg) (new m x : Nat) : Res :=
  let swap (t : State) : Res := whenSet (sets m x Fld.rtCtl.SWAP) execRouteSwap t
  if s.linksUp then swap s
  else match regBad r new with
    | some rule => .fault (.unpredictable rule)
    | none => swap (s.setReg r (wordOf (maskBits new 0xFFFFFF)))

/-- INV_CMD (R204): with GO the fields are those of the same write; a rejected write keeps them. -/
def State.writeInvCmd (s : State) (r : Reg) (new m x : Nat) : Res :=
  if sets m x Fld.invCmd.GO then
    execInvalidation (Fin.ofNat 4 (bitsOf new 0 2)) (bitsOf new 2 1 == 1) (bitsOf new 3 1 == 1) (Fin.ofNat 4096 (bitsOf new 4 12))
      (BitVec.ofNat 16 (bitsOf new 16 16)) s
  else .next (s.setReg r (wordOf new))

/-- DP_CMD (R320). -/
def State.writeDpCmd (s : State) (new cmd : Nat) : Res :=
  let p := bitsOf new 0 12
  match cmd with
  | 0 => .next (s.put Fld.dpCmd.PORT p)
  | 1 => execPortRemove (Fin.ofNat 4096 p) s
  | 2 => execPortRestore (Fin.ofNat 4096 p) s
  | _ => .next (s.dpResult p 1)

/-- A word of the selected pool's descriptor (R263, R264, R267): while EN = 1 only EN, WAIT_LIMIT and LOW_WM may change. -/
def State.writePool (s : State) (r : Reg) (new : Nat) : Res :=
  let p := r.i
  let on := s.on (Fld.poolData.EN p)
  let old := (s.reg r).toNat
  match r.j with
  | 0 =>
    if on then
      let s1 := if maskBits old 0xFFFFE ≠ maskBits new 0xFFFFE then s.poolRejected 1 else s
      if bitsOf new 0 1 = 0 then execPoolDisable (Fin.ofNat 4096 p) s1 else .next s1
    else
      let s1 := s.setReg r (wordOf (maskBits new 0xFFFFE))
      if bitsOf new 0 1 = 1 then execPoolEnable (Fin.ofNat 4096 p) s1 else .next s1
  | 4 => .next ((s.setReg r (wordOf new)).poolLow p)
  | 1 | 2 | 3 => .next (if on then s.poolRejected 1 else s.setReg r (wordOf new))
  | _ => .next (s.setReg r (wordOf new))

/-- EXT_BIND (R321): fields other than VALID only while VALID = 0. -/
def State.writeExtBind (s : State) (r : Reg) (new : Nat) : Res :=
  if s.on (Fld.extBind.VALID r.i) ∧ maskBits (s.reg r).toNat 0xFFFFFFFFFFFFFE ≠ maskBits new 0xFFFFFFFFFFFFFE then
    .fault (.unpredictable 321)
  else s.store r new

/-- BANK_CMD (R355, R360). -/
def State.writeBankCmd (s : State) (new cmd : Nat) : Res :=
  let bank : BitVec 10 := BitVec.ofNat 10 (bitsOf new 0 10)
  let owner : BitVec 16 := BitVec.ofNat 16 (bitsOf new 16 16)
  let clear := bitsOf new 12 1 == 1
  let tok := bitsOf new 13 1 == 1
  let nt := bitsOf new 14 1 == 1
  let shown := if s.on Fld.bankCmd.BUSY then s else
    s.putAll [(Fld.bankCmd.BANK, bitsOf new 0 10), (Fld.bankCmd.CLEAR, b2n clear), (Fld.bankCmd.TEST_OK, b2n tok),
      (Fld.bankCmd.NOTIFY, b2n nt), (Fld.bankCmd.NEW_OWNER, bitsOf new 16 16)]
  match cmd with
  | 0 => .next shown
  | 1 => execBankGrant bank owner tok nt shown
  | 2 => execBankRelease bank clear nt shown
  | _ => execBankHandover bank owner clear tok nt shown

/-- The bits of FIFO_CFG that may be written at any time (R372): EN, XEN, XLINE, FPRI and EVB_EN. -/
def fifoAlways : Nat := 0x10FF

/-- FIFO_CFG (R352, R371, R372): an owner code that may not be written is not taken. -/
def State.writeFifoCfg (s : State) (r : Reg) (v : Nat) : Res :=
  let f := r.i
  let old := (s.reg r).toNat
  let keep (lo n : Nat) : Nat := if ownerOk true (bitsOf n lo 16) then n else putBits n lo 16 (bitsOf old lo 16)
  let new := if s.on (Fld.fifoCfg.EN f) then mergeBits old fifoAlways v else keep 32 (keep 48 v)
  match regBad r new with
  | some rule => .fault (.unpredictable rule)
  | none =>
    let s1 := s.setReg r (wordOf (putBits new 0 1 (bitsOf old 0 1)))
    let s2 := if bitsOf new 12 1 = 1 ∧ bitsOf old 12 1 = 0 then
      s1.setEvb (0x1000 + bitsOf new 13 12) (s1.get (Fld.fifoStat.PKT_CNT f) != 0) else s1
    let s3 := s2.xoffUpdate
    if bitsOf new 0 1 = 1 then execFifoEnable (Fin.ofNat 64 f) s3 else (s3.put (Fld.fifoCfg.EN f) 0).done

/-- FIFO_WM (R369, R373): HI_WM written at or below the level counts as a rise. -/
def State.writeFifoWm (s : State) (r : Reg) (new : Nat) : Res :=
  match regBad r new with
  | some rule => .fault (.unpredictable rule)
  | none =>
    let lv := s.fLevel r.i
    let was := if lv < s.get (Fld.fifoWm.HI_WM r.i) ∧ lv ≥ bitsOf new 0 13 then 0 else lv
    ((s.setReg r (wordOf new)).fLevelUpdate r.i was).done

/-- FIFO_CMD (R365, R371, R372), on the selected FIFO. -/
def State.writeFifoCmd (s : State) (cmd : Nat) : Res :=
  let f : Fin 64 := Fin.ofNat 64 (s.get Fld.fifoSel.FIFO)
  match cmd with
  | 1 => execFifoMark f none s
  | 2 => execFifoRewind f none s
  | 3 => execFifoRelease f none s
  | 4 => execFifoReset f s
  | _ => .next s

/-- A word of the selected event queue (R392): LOG2, FUNC, VEC and BASE only while EN = 0. -/
def State.writeEqData (s : State) (r : Reg) (new : Nat) : Res :=
  let q := r.i
  let on := s.on (Fld.eqData.EN q)
  match r.j with
  | 0 =>
    let s1 := s.setReg r (wordOf (if on then mergeBits (s.reg r).toNat 4 new else putBits new 0 1 0))
    let want := bitsOf new 0 1 == 1
    if want && !on then execEventQueueEnable (Fin.ofNat 4096 q) s1
    else if !want && on then execEventQueueDisable (Fin.ofNat 4096 q) s1
    else .next s1
  | 1 => if on then .next s else .next (s.setReg r (wordOf new))
  | _ => .next (s.setReg r (wordOf new))

/-- A word of a core's ring (R391, R392): LOG2 and BASE only while EN = 0. -/
def State.writeCoreEq (s : State) (r : Reg) (new : Nat) : Res :=
  let c := r.i
  let on := s.on (Fld.coreEq.EN c)
  if r.j = 0 then
    if on then (if bitsOf new 0 1 = 0 then .next (s.put (Fld.coreEq.EN c) 0) else .next s)
    else
      let s1 := s.setReg r (wordOf (putBits new 0 1 0))
      if bitsOf new 0 1 = 1 then execCoreEqEnable (Fin.ofNat 4 c) s1 else .next s1
  else .next (s.setReg r (wordOf new))

/-- SRC_CMD (R392), on the selected source. -/
def State.writeSrcCmd (s : State) (cmd : Nat) : Res :=
  let src := s.get Fld.srcSel.SRC
  if src ≥ 68608 then .next s
  else
    let k : Fin 68608 := Fin.ofNat 68608 src
    match cmd with
    | 1 => execSrcRaise k s
    | 2 => execSrcAck k s
    | 3 => execSrcClear k s
    | _ => .next s

/-- FCL_REACT (R405): a reserved index ignores writes, and BLOCK_RESET reads 0 where there is no block reset. -/
def State.writeReact (s : State) (r : Reg) (new m x : Nat) : Res :=
  if 42 < r.i ∧ r.i ≠ 63 then .next s
  else
    let i : Fin 64 := Fin.ofNat 64 r.i
    andThen (s.store r (if canBlockReset r.i then new else putBits new 2 1 0)) fun s1 =>
    andThen (whenSet (sets m x (Fld.fclReact.RELEASE r.i)) (execHeldRelease i) s1) fun s2 =>
    whenSet (sets m x (Fld.fclReact.CLR_CNT r.i)) (execReactClrCnt i) s2

/-- HPC_CTL (R499): SG_LENx only while its chain is off, SG_DIV only while both are. -/
def State.writeHpcCtl (s : State) (r : Reg) (v : Nat) : Res :=
  let old := (s.reg r).toNat
  let on0 := s.on Fld.hpcCtl.SG0_EN
  let on1 := s.on Fld.hpcCtl.SG1_EN
  let keep (c : Bool) (lo w n : Nat) : Nat := if c then putBits n lo w (bitsOf old lo w) else n
  s.storeOk r (keep on0 18 7 (keep on1 25 7 (keep (on0 || on1) 2 16 v)))

/-- SLOT_CFG (R499): BUS, POS and ADDR only while EN = 0; clearing EN makes the slot Empty and leaves its power enable. -/
def State.writeSlotCfg (s : State) (r : Reg) (v : Nat) : Res :=
  let n := r.i
  let old := (s.reg r).toNat
  let new := if s.on (Fld.slotCfg.EN n) then mergeBits v 0x1FFFE old else v
  let s1 := s.setReg r (wordOf new)
  if bitsOf old 0 1 = 1 ∧ bitsOf new 0 1 = 0 then
    let s2 := s1.putAll [(Fld.slotStat.PRES n, 0), (Fld.slotStat.BTN n, 0), (Fld.slotStat.LATCH n, 0), (Fld.slotStat.PFAULT n, 0)]
    let s3 := { s2 with
      slotDeb := s2.slotDeb.filter fun e => e.1 / 4 != n
      slotOffPend := NSet.del s2.slotOffPend n }
    (if s.slot n = slEmpty then s3 else (s3.put (Fld.slotStat.STATE n) slEmpty).slotRaise n).done
  else .next s1

/-- A write of the bits `m` of a register word with the value `x`: the fields by their types (R12), with what the register's
own rule adds. -/
def State.regEffect (s : State) (r : Reg) (m x new : Nat) : Res :=
  let set (f : Field) : Bool := sets m x f
  match r.id with
  | .grp => execGrpWrite (Fin.ofNat 4096 r.i) (wordOf new) s
  | .qmuStat => andThen (s.store r new) (whenSet (set Fld.qmuStat.CLR_FOREIGN) execClrForeign)
  | .qctx => s.writeQctx r new
  | .qctl => s.writeQctl new (bitsOf (maskBits x m) 16 4)
  | .qscCtl =>
    if bitsOf new 0 1 ≠ s.get Fld.qscCtl.KING_EN ∧ s.kingCount ≠ 0 then .fault (.unpredictable 80) else s.store r new
  | .qscCommit => whenSet (set Fld.qscCommit.COMMIT) execQscCommit s
  | .kingStat => whenSet (set Fld.kingStat.CLR_OVERQ) execClrOverq s
  | .kstCtl => whenSet (set Fld.kstCtl.SWAP) execKstSwap s
  | .grpW => .next ((s.setReg r (wordOf new)).arbClip fun a => a.kind == akGroup)
  | .fxbIw => .next ((s.setReg r (wordOf new)).arbClip fun a => a.kind == akFxbIn)
  | .mbArb => .next ((s.setReg r (wordOf new)).arbClip fun a => a.kind == akMail)
  | .fxbCommit => whenSet (set Fld.fxbCommit.COMMIT) execFxbCommit s
  | .pgmStat => whenSet (set (Fld.pgmStat.CLR r.i)) (execPgmStatClr (Fin.ofNat 8 r.i)) s
  | .gbtClr => whenSet (set (Fld.gbtClr.CLR r.i)) (execGbtClr (Fin.ofNat 8 r.i)) s
  | .invCmd => s.writeInvCmd r new m x
  | .pdData => andThen (s.writePd r new) fun t => .next (if s.on (Fld.pdData.VALID r.i) then t else t.libWrite r.i)
  | .dpCmd => s.writeDpCmd new (bitsOf (maskBits x m) 12 4)
  | .dpStat => if set Fld.dpStat.REJECT then .next (s.putAll [(Fld.dpStat.REJECT, 0), (Fld.dpStat.SUPD_DROP, 0)]) else .next s
  | .dpData => execDpDataWrite (Fin.ofNat 4 r.j) (wordOf new) s
  | .dmgCommit => whenSet (set (Fld.dmgCommit.COMMIT r.i)) (execDmgCommit (Fin.ofNat 4 r.i)) s
  | .bpmStat => if set Fld.bpmStat.REJECT then .next (s.putAll [(Fld.bpmStat.REJECT, 0), (Fld.bpmStat.HFREE_REJ, 0)]) else .next s
  | .poolData => s.writePool r new
  | .bpmHfree => execBpmHfree (wordOf (maskBits x m)) s
  | .pluCtl => s.writePluCtl r new m x
  | .rtCtl => s.writeRtCtl r new m x
  | .txnStat => whenSet (set Fld.txnStat.CLR) execTxnStatClr s
  | .extBind => s.writeExtBind r new
  | .extCnt => whenSet (set Fld.extCnt.CLR) execExtCntClr s
  | .hpuCtl => andThen (s.storeOk r (putBits new 7 1 (bitsOf (s.reg r).toNat 7 1))) (whenSet (set Fld.hpuCtl.RETRAIN) execHostRetrain)
  | .hpuStat => whenSet (set Fld.hpuStat.CLR) execHpuStatClr s
  | .bankCmd => s.writeBankCmd new (bitsOf (maskBits x m) 10 2)
  | .spmStat => whenSet (set Fld.spmStat.CLR) execSpmStatClr s
  | .fifoCfg => s.writeFifoCfg r new
  | .fifoWm => s.writeFifoWm r new
  | .fifoStat =>
    let s1 := s.setReg r (wordOf new)
    (s1.level 0x10406 s1.wmSeen).done
  | .fifoCnt => whenSet (set (Fld.fifoCnt.CLR r.i)) (execFifoCntClr (Fin.ofNat 64 r.i)) s
  | .fifoCmd => s.writeFifoCmd (bitsOf (maskBits x m) 0 3)
  | .eicCommit => whenSet (set Fld.eicCommit.COMMIT) execEicCommit s
  | .eicStat => whenSet (set Fld.eicStat.CLR) execEicStatClr s
  | .eqData => s.writeEqData r new
  | .srcCfg => if r.i < 68608 then execSrcCfgWrite (Fin.ofNat 68608 r.i) (wordOf new) s else .next s
  | .srcStat => if r.i < 68608 then .next (s.setReg r (wordOf new)) else .next s
  | .srcCmd => s.writeSrcCmd (bitsOf (maskBits x m) 0 2)
  | .coreEq => s.writeCoreEq r new
  | .fclFsw => execFswClear (wordOf (maskBits x m)) s
  | .fclReact => s.writeReact r new m x
  | .glbExpert => if set Fld.glbExpert.CLR then .next (s.put Fld.glbExpert.DENIED 0) else .next s
  | .glbReset =>
    whenSet (set Fld.glbReset.CHIP) (execGlbResetChip (BitVec.ofNat 8 (bitsOf (maskBits x m) 8 8))) s
  | .pcmCtl =>
    andThen (s.storeOk r (putBits new 1 1 (bitsOf (s.reg r).toNat 1 1))) (whenSet (set Fld.pcmCtl.SLEEP_REQ) execSleepReq)
  | .eclkCeil => match regBad r new with
    | some rule => .fault (.unpredictable rule)
    | none => (s.setReg r (wordOf new)).effUpdate.done
  | .hpcCtl => s.writeHpcCtl r new
  | .slotCfg => s.writeSlotCfg r new
  | _ => s.storeOk r new

/-- A write that reaches a register word: a reserved bit that is not zero is unpredictable (R14). -/
def State.writeReg (s : State) (r : Reg) (m x : Nat) : Res :=
  if reservedSet r m x then .fault (.unpredictable 14)
  else s.regEffect r m x (writtenWord r (s.reg r).toNat m x)

/-! ### Regions -/

/-- Registers whose fields only choose what others show, or carry a command's operands: a castling does not hold a write of
them (log entry 5). -/
def chooses (id : RegId) : Bool :=
  match id with
  | .qctxSel | .qwSel | .gbtHsel | .pdSel | .poolSel | .dpSel | .fifoSel | .eqSel | .srcSel | .qctl | .invCmd | .dpCmd => true
  | _ => false

/-- A castling holds back writes of a block's configurable fields (R437). -/
def State.holds (s : State) (blk : Nat) : Bool :=
  decide (2 ≤ s.get Fld.cfsStat.STATE) && bitsOf (s.get Fld.cfsPart.MAP) blk 1 == 1

/-- A PF write of the bits `m` of a block's register waits: a castling holds its configurable fields (R437); a command of
firmware holds the whole block (R423); and it does not pass a write of the block that waits already. -/
def State.heldBack (s : State) (blk : Nat) (r : Reg) (m : Nat) : Bool :=
  (!chooses r.id && maskBits (cfgMask r) m != 0 && s.holds blk) || s.fwHolds blk ||
    s.deferred.any fun d => blockAt d.off == some blk

/-- A write of a mailbox window's register, by the function itself or by the PF (R409, R410). -/
def State.writeMail (s : State) (own : Bool) (r : Reg) (m x : Nat) : Res :=
  let w := r.i
  match r.id with
  | .mbDb =>
    if reservedSet r m x then .fault (.unpredictable 14) else
    let go := own && sets m x (Fld.mbDb.GO w)
    let s1 := if go then s.mailGo w else s
    (if sets m x (Fld.mbDb.ABORT w) then s1.mailAbort w else s1).done
  | .mbReq =>
    if !own then .next s
    else if s.on (Fld.mbStat.BUSY w) then .next (s.put (Fld.mbStat.OVERRUN w) 1)
    else .next (s.setReg r (wordOf (mergeBits (s.reg r).toNat m x)))
  | .eqDb =>
    if !own then .next s
    else if reservedSet r m x then .fault (.unpredictable 14)
    else execEqDb (Fin.ofNat 1024 w) (wordOf (maskBits x m)) s
  | .mbRsp => .next s
  | _ => if own then s.writeReg r m x else .next s

/-- A write of an MSI-X table's word (R339, R340, R384): clearing a vector's mask sends a message that waits. -/
def State.writeMsix (s : State) (f o : Nat) (v : Nat) : Res :=
  let k := f * 8192 + o / 4
  if o / 4 % 4 = 3 then
    if bitsOf v 0 1 = 1 then .next { s with msix := SMap.set s.msix 0 k (putBits (v % 2 ^ 32) 0 1 0) }
    else execMsixUnmask (Fin.ofNat 1024 f) (some (Fin.ofNat 2048 (o / 16)))
      { s with msix := SMap.set s.msix 0 k (putBits (v % 2 ^ 32) 0 1 1) }
  else .next { s with msix := SMap.set s.msix 0 k (v % 2 ^ 32) }

/-- A write of one or two words of an MSI-X table. -/
def State.writeMsixN (s : State) (f o n v : Nat) : Res :=
  andThen (s.writeMsix f o v) fun s1 => if n = 8 then s1.writeMsix f (o + 4) (v / 2 ^ 32) else .next s1

/-- A size and alignment that a register takes (R15). -/
def regSize (o n : Nat) : Bool := (n == 4 || n == 8) && o % n == 0

/-- The bits of a 64-bit word that an access covers. -/
def accMask (o n : Nat) : Nat := byteMask (o % 8) n
/-- Its value, at those bits. -/
def accVal (o n v : Nat) : Nat := v % 2 ^ (8 * n) * 2 ^ (8 * (o % 8))

/-- An access that meets a closed expert window (R422): counted, and without effect. -/
def State.denied (s : State) : State := s.incSat Fld.glbExpert.DENIED

/-- The expert window is closed to an accessor (R422). -/
def State.expertShut (s : State) (acc : Accessor) (o : Nat) : Bool :=
  decide (expertBase ≤ o ∧ o < aperBase) && acc != .firmware && !s.on Fld.glbExpert.UNLOCKED

/-- A write of BAR0 by the PF or by firmware; `n` bytes at offset `o`. -/
def State.writePf (s : State) (acc : Accessor) (o n v : Nat) : Res :=
  if aperBase ≤ o then s.aperWrite (o - aperBase) (toBytes n v)
  else if s.expertShut acc o then .next s.denied
  else if doorBase ≤ o ∧ o < expertBase then
    if o % 0x1000 ≥ 0x400 ∨ o % 0x40 ≥ 8 then .next s
    else if o % 0x40 ≠ 0 ∨ n ≠ 8 then .fault (.unpredictable 15)
    else execDoorbell 0 (BitVec.ofNat 16 ((o - doorBase) / 0x1000 * 16 + o % 0x1000 / 0x40)) (wordOf v) s
  else if 0x8000 ≤ o ∧ o < 0x10000 then (if regSize o n then s.writeMsixN 0 (o - 0x8000) n v else .fault (.unpredictable 15))
  else match s.place (o / 8 * 8) with
    | none => .next s
    | some r =>
      if is32 r.id && decide (o % 8 ≥ 4) then .next s
      else if !regSize o n then .fault (.unpredictable 15)
      else
        let m := if is32 r.id then maskBits (accMask o n) (2 ^ 32 - 1) else accMask o n
        let x := accVal o n v
        if mailBase ≤ o ∧ o < 0x140000 then s.writeMail (acc == .firmware || r.i == 0) r m x
        else if acc == .pf && (match blockAt o with | some b => s.heldBack b r m | none => false) then
          .next { s with deferred := s.deferred ++ [{ acc := acc, off := o, n := n, val := v }] }
        else s.writeReg r m x

/-- The groups that a virtual function reaches through a doorbell page of its BAR (R340). -/
def State.vfGroups (s : State) (f page : Nat) : List Nat :=
  (s.regs.filter fun e => e.1.id == .grp && e.2.getLsbD 0 && s.get (Fld.grp.FUNC e.1.i) == f &&
    s.get (Fld.grp.VF_PAGE e.1.i) == page).map (·.1.i)

/-- A write of its own BAR0 by a virtual function (R20, R340). -/
def State.writeVf (s : State) (f o n v : Nat) : Res :=
  if o ≥ 2 ^ (16 + s.get Fld.dvsec.VF_BAR_LOG2) then .next s
  else if o < 0x100 then
    match mailReg f (o / 8 * 8) with
    | none => .next s
    | some r => if regSize o n then s.writeMail true r (accMask o n) (accVal o n v) else .fault (.unpredictable 15)
  else if 0x800 ≤ o ∧ o < 0xC00 then (if regSize o n then s.writeMsixN f (o - 0x800) n v else .fault (.unpredictable 15))
  else if 0x1000 ≤ o then
    let p := (o - 0x1000) / 0x1000
    if o % 0x1000 ≥ 0x400 ∨ o % 0x40 ≥ 8 then .next s
    else if o % 0x40 ≠ 0 ∨ n ≠ 8 then .fault (.unpredictable 15)
    else match s.vfGroups f p with
      | [] => .next s
      | [g] => execDoorbell (Fin.ofNat 1024 f) (BitVec.ofNat 16 (g * 16 + o % 0x1000 / 0x40)) (wordOf v) s
      | _ => .fault (.unpredictable 340)
  else .next s

/-- Configuration-space fields that have no command of their own, at offsets above BAR0 (log entry 6): ATS Enable, VF
Enable, the MSI-X control bits, VF_BAR_LOG2. -/
def State.writeCfgSpace (s : State) (f k v : Nat) : Res :=
  match k with
  | 0 => if s.on Fld.hpuStat.MODE then .next s
    else if bitsOf v 0 1 = 1 then .next { s with atsEn := NSet.add s.atsEn f } else execAtsEnableClear (Fin.ofNat 1024 f) s
  | 1 => if f ≠ 0 ∨ s.on Fld.hpuStat.MODE then .next s
    else if bitsOf v 0 1 = 1 then .next { s with vfEn := true } else execVfEnableClear s
  | 2 =>
    let s1 := { s with msixEn := if bitsOf v 15 1 = 1 then NSet.add s.msixEn f else NSet.del s.msixEn f }
    if bitsOf v 14 1 = 1 then .next { s1 with msixFmask := NSet.add s1.msixFmask f }
    else execMsixUnmask (Fin.ofNat 1024 f) none s1
  | 3 => if f = 0 ∧ !s.vfEn ∧ bitsOf v 0 4 ≤ 9 then .next (s.put Fld.dvsec.VF_BAR_LOG2 (bitsOf v 0 4)) else .next s
  | _ => .next s

/-- The function whose memory space an accessor uses; firmware has its own path. -/
def accFunc : Accessor → Nat
  | .vf f => f.val
  | _ => 0

/-- A write of BAR0, or of a VF's BAR0, of `n` bytes. -/
def State.barWrite (s : State) (acc : Accessor) (o n v : Nat) : Res :=
  if !s.reaches acc then .next s
  else match acc with
    | .vf f => s.writeVf f.val o n v
    | _ => s.writePf acc o n v

/-- The writes that have waited apply in their order (R423, R437); one whose block is still held waits on. -/
def State.applyDeferred (s : State) : Res :=
  s.deferred.foldl (fun r d => andThen r fun t => t.barWrite d.acc d.off d.n d.val) (.next { s with deferred := [] })

/-- A read of BAR0, or of a VF's BAR0, of `n` bytes (R15, R19, R340, R354, R422): what is reserved reads 0, and a size or an
alignment that a register does not take returns bytes that the spec does not state. -/
def State.barRead (s : State) (acc : Accessor) (o n : Nat) : List Byte × State :=
  let zeros := List.replicate n (0 : Byte)
  let word (w : Word) (some8 : Nat → Bool) : List Byte × State :=
    if regSize o n then (((toBytes 8 w.toNat).drop (o % 8)).take n, s)
    else if (List.range ((o + n - 1) / 8 - o / 8 + 1)).any fun i => some8 ((o / 8 + i) * 8) then
      (freeBytes s.freeCnt n, s.takeFree)
    else (zeros, s)
  match acc with
  | .vf f =>
    if !s.reaches acc || decide (o ≥ 2 ^ (16 + s.get Fld.dvsec.VF_BAR_LOG2)) then (zeros, s)
    else word (s.vfWord f.val (o / 8 * 8)) (vfHas f.val)
  | _ =>
    if !s.reaches acc then (zeros, s)
    else if aperBase ≤ o then s.aperRead (o - aperBase) n
    else if s.expertShut acc o then (zeros, s.denied)
    else word (s.barWord (o / 8 * 8)) s.barHas

end Sys2Proof.Machine
end

