-- ==== Sys2Proof/Machine/AcpOps.lean ====
section
/-!
DEFINITION. What every ACP command shares (R411 to R418): the opcode table with its lengths and fields, the framing
checks at selection, whose turn it is among the commands that run, and the caller's scope.
-/

namespace Sys2Proof.Machine

/-! ### The opcode table -/

/-- Bits `w` from `lo` on of the payload word at byte `off`. -/
def payBits (off lo w : Nat) : Nat := (2 ^ w - 1) * 2 ^ (8 * off + lo)

/-- The fields of a register word that a payload carries at byte `off`. -/
def payReg (off : Nat) (r : Reg) : Nat := maskOf r (fun _ => true) * 2 ^ (8 * off)

/-- The fields of several words of a register, from byte `off` on. -/
def payWords (off : Nat) (id : RegId) (n : Nat) : Nat :=
  (List.range n).foldl (fun a k => a + payReg (off + 8 * k) ⟨id, 0, k⟩) 0

/-- The fields of a segment entry (R193) at byte `off`. -/
def paySeg (off : Nat) : Nat :=
  payBits off 0 7 + payBits off 16 16 + payBits off 32 12 + payBits (off + 8) 0 57 + payBits (off + 16) 0 57

/-- A command's request (R419, R420, R457, R500): its length, and the bits of its fields. ECHO's are left open. -/
def acpRow (opc : Nat) : Option (Nat × Nat) :=
  match opc with
  | 0x01 | 0x11 | 0x12 | 0x13 | 0x4D | 0x4E | 0x80 | 0x84 => some (0, 0)
  | 0x03 => some (4, payBits 0 0 12)
  | 0x04 => some (32, payBits 0 0 16 + payReg 8 ⟨.qctx, 0, 0⟩ + payReg 16 ⟨.qctx, 0, 1⟩ + payReg 24 ⟨.qctx, 0, 4⟩)
  | 0x05 => some (4, payBits 0 0 16)
  | 0x06 => some (4, payBits 0 0 21)
  | 0x07 | 0x0D | 0x0F | 0x10 => some (4, payBits 0 0 12)
  | 0x08 => some (40, payBits 0 0 12 + payBits 2 0 16 + payBits 4 0 1 + paySeg 8)
  | 0x09 => some (4, payBits 0 0 12 + payBits 2 0 16)
  | 0x0A => some (32, payBits 0 0 12 + payReg 8 ⟨.eqData, 0, 0⟩ + payReg 16 ⟨.eqData, 0, 1⟩ + payReg 24 ⟨.eqData, 0, 3⟩)
  | 0x0B => some (16, payBits 0 0 17 + payBits 4 0 3 + payReg 8 ⟨.srcCfg, 0, 0⟩)
  | 0x0C => some (72, payBits 0 0 12 + payBits 2 0 12 + payBits 4 0 1 + payBits 8 0 512)
  | 0x0E => some (8, payBits 0 0 30 + payBits 0 32 12)
  | 0x40 => some (16, payBits 0 0 12 + payReg 8 ⟨.grp, 0, 0⟩)
  | 0x41 => some (40, payBits 0 0 12 + payWords 8 .pdData 4)
  | 0x42 => some (4, payBits 0 0 12 + payBits 2 0 10)
  | 0x43 => some (4, payBits 0 0 16 + payBits 2 0 7)
  | 0x44 => some (40, payBits 0 0 12 + payBits 2 0 2 + payWords 8 .dpData 4)
  | 0x45 => some (72, payBits 0 0 12 + payWords 8 .poolData 8)
  | 0x46 => some (16, payBits 0 0 3 + payReg 8 ⟨.extBind, 0, 0⟩)
  | 0x47 => some (12, payBits 0 0 15 + payBits 0 16 16 + payBits 8 0 1)
  | 0x48 => some (24, payBits 0 0 6 + payBits 4 0 3 + payReg 8 ⟨.fifoCfg, 0, 0⟩ + payReg 16 ⟨.fifoWm, 0, 0⟩)
  | 0x49 => some (8, payBits 0 0 3 + payBits 4 0 3)
  | 0x4A => some (12, payBits 0 0 57 + payBits 8 0 16)
  | 0x4B | 0x4F | 0x81 => some (12, payBits 0 0 57 + payBits 8 0 32)
  | 0x4C => some (8, payBits 0 0 32 + payBits 4 0 16)
  | 0x50 => some (8, payBits 0 0 2 + payBits 4 0 32)
  | 0x51 => some (8, payBits 0 0 57)
  | 0x52 => some (16, payBits 0 0 8 + payBits 4 0 4 + payReg 8 ⟨.slotLed, 0, 0⟩)
  | 0x82 => some (16, payBits 0 0 57 + payBits 8 0 32 + payBits 12 0 1)
  | 0x83 => some (56, payBits 0 0 2 + payBits 0 8 2 + payBits 8 0 384)
  | _ => none

/-- The error codes of R418. -/
def aeOpc : Nat := 1
/-- BAD_LEN. -/
def aeLen : Nat := 2
/-- BAD_FIELD. -/
def aeField : Nat := 3
/-- DENIED. -/
def aeDenied : Nat := 4
/-- STATE. -/
def aeState : Nat := 5
/-- NO_RESOURCE. -/
def aeRes : Nat := 6
/-- DEVICE. -/
def aeDevice : Nat := 7
/-- ABORTED. -/
def aeAborted : Nat := 9
/-- HOST_IO. -/
def aeHost : Nat := 0xA
/-- AUTH. -/
def aeAuth : Nat := 0xB
/-- ROLLBACK. -/
def aeRollback : Nat := 0xC
/-- TIMEOUT. -/
def aeTimeout : Nat := 0xD
/-- DESCRIPTOR. -/
def aeDesc : Nat := 0xE

/-! ### Framing -/

/-- The payload byte where the reserved field begins that holds the lowest set bit outside `used`: a field does not reach
across a 64-bit word. -/
def badByte (used v : Nat) : Nat :=
  match (List.range 832).find? fun b => bitsOf v b 1 == 1 && bitsOf used b 1 == 0 with
  | none => 0
  | some b =>
    let w := b / 64 * 64
    match (List.range (b - w)).reverse.find? fun k => bitsOf used (w + k) 1 == 1 with
    | some k => (w + k + 1) / 8
    | none => w / 8

/-- The error of a request's framing, with its DETAIL (R411, R417): an expert-level opcode from a VF, a wrong length, a
reserved field that is not zero. -/
def acpFrame (m hdr pay : Nat) : Option (Nat × Nat) :=
  let opc := bitsOf hdr 0 8
  let len := bitsOf hdr 16 8
  let hres := bitsOf hdr 24 40
  if opc = 2 then
    if len % 4 ≠ 0 ∨ len > 104 then some (aeLen, 0) else if hres ≠ 0 then some (aeField, 0) else none
  else match acpRow opc with
    | none => some (aeOpc, 0)
    | some (n, used) =>
      if decide (m ≠ 0 ∧ opc ≥ 0x40) then some (aeOpc, 0)
      else if len ≠ n then some (aeLen, 0)
      else if hres ≠ 0 then some (aeField, 0)
      else
        let v := pay % 2 ^ (8 * n)
        if v - maskBits v used ≠ 0 then some (aeField, badByte used v)
        else if opc = 0x52 ∧ bitsOf pay 32 4 > 5 then some (aeField, 4)
        else none

/-- The opcodes that the ROM answers in Recovery (R457), and those that firmware answers. -/
def acpServed (rom : Bool) (opc : Nat) : Bool := if rom then decide (0x80 ≤ opc) else decide (opc < 0x80)

/-- A window is selected (R411, R412): its request is copied, and the framing checks are made. -/
def State.mailTake (s : State) (rom : Bool) (m : Nat) : State :=
  let hdr := s.reqHdr m
  let pay := s.reqPay m
  let err := if acpServed rom (bitsOf hdr 0 8) then acpFrame m hdr pay else some (aeOpc, 0)
  match err with
  | some e => s.respond m hdr e.1 e.2 []
  | none =>
    { s with
      acp := s.acp ++ [{ win := m, hdr := hdr, pay := pay, aborted := NSet.has s.mbAbort m }]
      mbAbort := NSet.del s.mbAbort m }

/-! ### Fields of a request -/

/-- The field of `w` bits at bit `lo` of payload byte `off`. -/
def AcpCmd.fld (c : AcpCmd) (off lo w : Nat) : Nat := bitsOf c.pay (8 * off + lo) w
/-- The 64-bit payload word at byte `off`. -/
def AcpCmd.word (c : AcpCmd) (off : Nat) : Nat := c.fld off 0 64
/-- LEN. -/
def AcpCmd.len (c : AcpCmd) : Nat := bitsOf c.hdr 16 8

/-! ### Whose turn -/

/-- The resources that a command touches (R413): a kind and a number. Kind 2 is a protection domain, kind 13 the
library, which stands in every domain's table. -/
def acpKeys (c : AcpCmd) : List (Nat × Nat) :=
  match c.opc with
  | 0x04 | 0x05 | 0x06 => [(1, c.fld 0 4 12)]
  | 0x40 => [(1, c.fld 0 0 12)]
  | 0x07 | 0x08 | 0x09 | 0x41 => [(2, c.fld 0 0 12)]
  | 0x0A | 0x42 => [(3, c.fld 0 0 12)]
  | 0x0B => [(4, c.fld 0 0 17)]
  | 0x0C | 0x0D => [(5, c.fld 0 0 12)]
  | 0x0E => [(6, c.fld 0 32 12)]
  | 0x0F | 0x45 => [(6, c.fld 0 0 12)]
  | 0x10 | 0x44 => [(7, c.fld 0 0 12)]
  | 0x12 | 0x13 => [(8, 0)]
  | 0x46 => [(9, c.fld 0 0 3)]
  | 0x47 => [(10, 0)]
  | 0x48 => [(11, c.fld 0 0 6)]
  | 0x49 => [(12, c.fld 0 0 3)]
  | 0x11 | 0x4A => [(13, 0)]
  | 0x4F => [(15, 0)]
  | 0x52 => [(16, c.fld 0 0 8)]
  | _ => []

/-- Two commands touch the same resource. -/
def acpClash (a b : AcpCmd) : Bool :=
  (acpKeys a).any fun x => (acpKeys b).any fun y =>
    x == y || (x.1 == 13 && y.1 == 2) || (x.1 == 2 && y.1 == 13)

/-- A command selected before this one and not yet answered touches the same resource (R413). -/
def State.acpBarred (s : State) (c : AcpCmd) : Bool :=
  (s.acp.takeWhile fun d => d.win != c.win).any (acpClash c)

/-- The command of a window with an opcode, when it is its turn; while a castling switches one of the blocks `blks` that it
writes, it waits to begin, and one that has begun goes on (R425, R437). -/
def State.acpTurn (s : State) (m : Fin 1024) (opc : Nat) (blks : List Nat) (k : AcpCmd → Res) : Res :=
  match s.acp.find? fun c => c.win == m.val && c.opc == opc with
  | none => .next s
  | some c => if s.acpBarred c || (decide (c.phase = 0) && blks.any s.holds) then .next s else k c

/-- A command answers and completes; the PF's writes of a block that it held apply (R423). -/
def State.acpEnd (s : State) (c : AcpCmd) (err detail : Nat) (pay : List Byte) : Res :=
  let t := s.acpAnswer c err detail pay
  if c.blk.isSome then andThen t.applyDeferred State.done else t.done

/-- A command answers OK. -/
def State.acpOk (s : State) (c : AcpCmd) (pay : List Byte) : Res := s.acpEnd c 0 0 pay

/-- A command answers with an error and its DETAIL. -/
def State.acpErr (s : State) (c : AcpCmd) (err detail : Nat) : Res := s.acpEnd c err detail []

/-- A command of two phases goes on in a later step. -/
def State.acpWait (s : State) (c : AcpCmd) (ph : Nat) : Res := (s.acpPhase c ph).done

/-! ### Scope (R416) -/

/-- A group is the caller's own; the PF's scope is everything. -/
def State.ownGroup (s : State) (m g : Nat) : Bool :=
  m == 0 || (s.on (Fld.grp.ASSIGNED g) && s.get (Fld.grp.FUNC g) == m)
/-- A domain. -/
def State.ownDom (s : State) (m d : Nat) : Bool := m == 0 || s.get (Fld.pdData.FUNC d) == m
/-- An event queue. -/
def State.ownEq (s : State) (m q : Nat) : Bool := m == 0 || s.get (Fld.eqData.FUNC q) == m
/-- An event source. -/
def State.ownSrc (s : State) (m src : Nat) : Bool := m == 0 || s.srcFunc src == some m
/-- A pool. -/
def State.ownPool (s : State) (m p : Nat) : Bool := s.ownDom m (s.get (Fld.poolData.PDOM p))
/-- A device port. -/
def State.ownPort (s : State) (m p : Nat) : Bool := s.ownDom m (s.get (Fld.dpData.PDOM p))
/-- A key slot: free, or of an own domain. -/
def State.keySlot (s : State) (k : Nat) : KeySlot := SMap.get s.keys {} k
/-- A key slot is the caller's own. -/
def State.ownKey (s : State) (m k : Nat) : Bool := !(s.keySlot k).valid || s.ownDom m (s.keySlot k).dom

/-- The first check that fails decides: its error and its DETAIL. -/
def firstBad : List (Bool × Nat × Nat) → Option (Nat × Nat)
  | [] => none
  | (bad, e) :: r => if bad then some e else firstBad r

/-- The checks of a command, and what it does when they pass. -/
def State.checked (s : State) (c : AcpCmd) (l : List (Bool × Nat × Nat)) (k : Res) : Res :=
  match firstBad l with
  | some e => s.acpErr c e.1 e.2
  | none => k

/-! ### Through the registers -/

/-- Firmware writes a register word whole (R419). -/
def State.fwWrite (s : State) (r : Reg) (v : Nat) : Res := s.writeReg r (2 ^ 64 - 1) (v % 2 ^ 64)

/-- Several words written in turn. -/
def State.fwWrites (s : State) : List (Reg × Nat) → Res
  | [] => .next s
  | (r, v) :: l => andThen (s.fwWrite r v) fun t => t.fwWrites l

/-- The bytes that firmware reads from a register's words. -/
def State.regBytes (s : State) (id : RegId) (i n : Nat) : List Byte :=
  (List.range n).flatMap fun j => toBytes 8 (s.viewReg ⟨id, i, j⟩).toNat

/-- A bulk read of host memory is issued (R420), recorded as one request in either host mode; the command's operand is what it
returns. -/
def State.bulkRead (s : State) (addr n : Nat) : State :=
  { s with hreqNext := s.hreqNext + 1 }.emit (.hostRead s.hreqNext 0 .io false addr n 0)

/-- A bulk write of host memory, each part of it within one page (R199). -/
def State.bulkWrite (s : State) (addr : Nat) (data : List Byte) : State :=
  forAll (List.range ((addr % 4096 + data.length + 4095) / 4096)) (fun t i =>
    let a := Nat.max addr ((addr / 4096 + i) * 4096)
    t.hostWrite 0 a ((data.drop (a - addr)).take ((addr / 4096 + i + 1) * 4096 - a))) s

/-- N_ASSIGN sets in the windows of two owners, none for a resource that has none (R409). -/
def State.assigned (s : State) (a b : Option Nat) : State :=
  let one (t : State) (o : Option Nat) : State := match o with | some f => t.notice f Fld.mbStat.N_ASSIGN | none => t
  one (one s a) b

/-- The same, where the owner changes. -/
def State.reassigned (s : State) (a b : Option Nat) : State := if a = b then s else s.assigned a b

end Sys2Proof.Machine
end

