-- ==== Sys2Proof/Machine/Mail.lean ====
section
/-!
DEFINITION. The mailbox commands (R408 to R415): GO, ABORT, the selection of a window, and a restart of firmware.
-/

namespace Sys2Proof.Machine

/-- A function writes GO in its window (R340, R346, R408, R409, R412). -/
def execMailboxGo (m : Fin 1024) (s : State) : Res :=
  if s.reaches (ownAcc m) then (s.mailGo m.val).done else .next s

/-- ABORT is written in a window, by its function or by the PF (R410, R413). -/
def execMailboxAbort (m : Fin 1024) (s : State) : Res :=
  if s.reaches (ownAcc m) || s.reaches .pf then (s.mailAbort m.val).done else .next s

/-- The MGP's arbiter selects the next window with GO pending (R413), of which firmware runs up to four at once; in Recovery
the ROM takes window 0 (R457). -/
def execMailboxSelect (s : State) : Res :=
  let rom := s.boot == .recovery || s.boot == .halted
  if rom then
    if s.mailPending.contains 0 ∧ s.acp.isEmpty then (s.mailTake true 0).done else .next s
  else if !s.fwReady || decide (s.acp.length ≥ 4) then .next s
  else match s.arbDecide { kind := akMail } s.mailPending (fun _ => false) 1 with
    | none => .next s
    | some (m, t) => (t.mailTake false m).done

/-- ACP firmware restarts (R414); it holds no block any more (R423). -/
def execFirmwareRestart (s : State) : Res :=
  if s.fwReady then andThen s.mailRestart.applyDeferred State.done else .next s

/-- A function-level reset completes: Transactions Pending reads 0 (R66, R345). A block that firmware held for the function's
command is free (R415, R423). -/
def execFlrComplete (func : Fin 1024) (s : State) : Res := { s with flr := NSet.del s.flr func.val }.applyDeferred

end Sys2Proof.Machine
end

