-- ==== Sys2Proof/Machine/Acp.lean ====
section
/-!
DEFINITION. The basic-level ACP commands (R419, R422, R424). Each takes the window whose command it carries out.
-/

namespace Sys2Proof.Machine

/-! ### Information -/

/-- The entries of a register whose field is `m`, among `n` of them that read 0 where nothing is listed. -/
def State.countOwn (s : State) (id : RegId) (f : Nat → Field) (n m : Nat) : Nat :=
  let l := (s.regs.filter fun e => e.1.id == id && e.1.j == 0).map fun e => s.get (f e.1.i)
  if m = 0 then n - (l.filter (· != 0)).length else (l.filter (· == m)).length

/-- The groups of a caller, rising (R416). -/
def State.ownGroups (s : State) (m : Nat) : List Nat :=
  (s.regs.filter fun e => e.1.id == .grp && e.2.getLsbD 0 && s.get (Fld.grp.FUNC e.1.i) == m).map (·.1.i)

/-- The valid domains of a caller. -/
def State.ownDoms (s : State) (m : Nat) : List Nat :=
  (s.regs.filter fun e => e.1.id == .pdData && e.1.j == 0 && e.2.getLsbD 0 && s.get (Fld.pdData.FUNC e.1.i) == m).map (·.1.i)

/-- FW_VER of the firmware that runs (R446). -/
def State.fwVer (s : State) : Nat := ofBytes (((SMap.get s.fwSlot [] (s.get Fld.secStat.RUN_SLOT)).drop 8).take 4)

/-- INFO (R419). -/
def execInfo (m : Fin 1024) (s : State) : Res :=
  s.acpTurn m 0x01 [] fun c =>
    s.acpOk c (toBytes 4 s.fwVer ++ [1, 0] ++ toBytes 2 m.val ++
      toBytes 4 (s.get Fld.cfsStat.EPOCH + 256 * s.get Fld.glbExpert.UNLOCKED + 512 * s.get Fld.glbExpert.ALLOWED) ++
      toBytes 4 (Config.libVer % 65536) ++ toBytes 2 (s.ownGroups m.val).length ++ toBytes 2 (s.ownDoms m.val).length ++
      toBytes 4 (s.countOwn .eqData Fld.eqData.FUNC 4096 m.val))

/-- ECHO (R419). -/
def execEcho (m : Fin 1024) (s : State) : Res := s.acpTurn m 0x02 [] fun c => s.acpOk c (toBytes c.len c.pay)

/-- GRP_LIST (R419). -/
def execGrpList (m : Fin 1024) (s : State) : Res :=
  s.acpTurn m 0x03 [] fun c =>
    let all := s.ownGroups m.val
    let l := (all.filter fun g => decide (c.fld 0 0 12 ≤ g)).take 48
    let body := l.flatMap fun g => toBytes 2 g
    s.acpOk c (toBytes 2 all.length ++ toBytes 6 l.length ++ body ++ List.replicate (body.length % 4) 0)

/-- LIB_INFO (R419, R424). -/
def execLibInfo (m : Fin 1024) (s : State) : Res :=
  s.acpTurn m 0x11 [] fun c => s.acpOk c (toBytes 2 Config.libVer ++ toBytes 2 s.libSel ++ toBytes 4 0x3F)

/-! ### Queues -/

/-- A ring size outside its range (R58). -/
def ringLogBad (v : Nat) : Bool := decide (v < 4 ∨ v > 20)

/-- A valid active King slot serves a function alone (R419). -/
def State.hasKingSlot (s : State) (f : Nat) : Bool :=
  (List.range 128).any fun k =>
    s.on (Fld.kstActive.VALID k) && s.on (Fld.kstActive.FUNC_EN k) && s.get (Fld.kstActive.FUNC k) == f

/-- QUEUE_SET (R419): the context is written through QCTX_SEL and QCTX_DATA. -/
def execQueueSet (m : Fin 1024) (s : State) : Res :=
  s.acpTurn m 0x04 [10] fun c =>
    let q := c.fld 0 0 16
    let d := c.fld 24 16 12
    s.checked c
      [(!s.ownGroup m.val (q / 16), aeDenied, 0),
       (s.get (Fld.qctx.STATE q) != 0, aeState, 0),
       (ringLogBad (c.fld 8 0 5), aeField, 8),
       (ringLogBad (c.fld 16 0 5), aeField, 16),
       (!s.ownDom m.val d, aeDenied, 0x1A),
       (!s.on (Fld.pdData.VALID d), aeState, 0x1A),
       (c.fld 24 1 2 == 0 && m.val != 0 && !s.hasKingSlot m.val, aeDenied, 0x18)]
      (andThen ((s.put Fld.qctxSel.QID q).fwWrites
        [(⟨.qctx, q, 0⟩, c.word 8), (⟨.qctx, q, 1⟩, c.word 16), (⟨.qctx, q, 4⟩, c.word 24)]) fun t => t.acpOk c [])

/-- QUEUE_GET (R419). -/
def execQueueGet (m : Fin 1024) (s : State) : Res :=
  s.acpTurn m 0x05 [] fun c =>
    let q := c.fld 0 0 16
    s.checked c [(!s.ownGroup m.val (q / 16), aeDenied, 0)]
      (let t := s.put Fld.qctxSel.QID q
       t.acpOk c (t.regBytes .qctx q 8))

/-- The answer to QUEUE_CMD. -/
def State.queueShown (s : State) (q res : Nat) : List Byte :=
  toBytes 4 (res + 256 * s.get (Fld.qctx.STATE q) + 2048 * s.get (Fld.qctx.SUSP_REQ q))

/-- QUEUE_CMD (R419): with WAIT the answer comes at the final state, or when the time is over. -/
def execQueueCmd (m : Fin 1024) (late : Bool) (s : State) : Res :=
  s.acpTurn m 0x06 [] fun c =>
    let q := c.fld 0 0 16
    let cmd := c.fld 0 16 4
    let finish (t : State) : Res :=
      if c.fld 0 20 1 = 0 ∨ (t.qd q).target = none then t.acpOk c (t.queueShown q 0)
      else if late then t.acpEnd c aeTimeout 0 (t.queueShown q 0)
      else t.acpWait c 1
    if c.phase = 1 then finish s
    else s.checked c [(!s.ownGroup m.val (q / 16), aeDenied, 0)]
      (andThen (s.writeQctl q cmd) fun t =>
        let r := if cmd = 0 then 0 else t.get Fld.qctl.RESULT
        if r ≠ 0 then t.acpErr c aeDevice r else finish t)

/-! ### Domains and segments -/

/-- DOM_GET (R419). -/
def execDomGet (m : Fin 1024) (s : State) : Res :=
  s.acpTurn m 0x07 [] fun c =>
    let d := c.fld 0 0 12
    s.checked c [(!s.ownDom m.val d, aeDenied, 0)]
      (let t := s.put Fld.pdSel.PDOM d
       t.acpOk c (t.regBytes .pdData d 4))

/-- A range lies in the data window of a valid port of a domain at a node (R419). -/
def State.inWindow (s : State) (d node base n : Nat) : Bool :=
  s.validPorts.any fun p => s.get (Fld.dpData.PDOM p) == d && s.get (Fld.dpData.NODE p) == node &&
    decide (s.get (Fld.dpData.DATA_BASE p) ≤ base ∧
      base + n ≤ s.get (Fld.dpData.DATA_BASE p) + s.get (Fld.dpData.DATA_LIMIT p))

/-- Another command's invalidation still holds the STU. -/
def State.stuTaken (s : State) (c : AcpCmd) : Bool :=
  s.inv.isSome || s.acp.any fun e => e.win != c.win && (e.opc == 0x08 || e.opc == 0x41) && e.phase != 0

/-- The checks of a segment entry (R193, R419), for domain `d` and the entry at payload byte 8. -/
def State.segChecks (s : State) (c : AcpCmd) (d : Nat) : List (Bool × Nat × Nat) :=
  let kind := c.fld 8 1 2
  [(kind == 3, aeField, 8),
   (c.fld 8 5 1 == 1 && kind != 0, aeField, 8),
   (kind == 1 && c.fld 16 48 9 != 0, aeField, 16),
   (kind == 1 && !s.inWindow d (c.fld 8 16 16) (c.fld 16 0 48) (c.fld 24 0 57), aeDenied, 10),
   (kind == 2 && s.get (Fld.poolData.PDOM (c.fld 8 32 12)) != d, aeDenied, 12)]

/-- SEG_SET (R419): the entry is written, and a scope-0 invalidation runs; the answer follows its completion. -/
def execSegSet (m : Fin 1024) (s : State) : Res :=
  s.acpTurn m 0x08 [] fun c =>
    let d := c.fld 0 0 12
    let sel := c.fld 2 0 16
    if c.phase = 1 then
      if s.inv.isSome then .next s else s.acpOk c (toBytes 4 (s.get Fld.invStat.STOPPED))
    else if s.stuTaken c then .next s
    else s.checked c
      ([(!s.ownDom m.val d, aeDenied, 0), (!s.on (Fld.pdData.VALID d), aeState, 0),
        (sel == 0 || s.selBad d sel, aeField, 2), (s.libSel != 0 && sel == s.libSel, aeField, 2)] ++
       s.segChecks c d ++ [(!s.hostOk 0, aeHost, 0)])
      (andThen (execInvalidation 0 (c.fld 4 0 1 == 1) false (Fin.ofNat 4096 d) (BitVec.ofNat 16 sel)
        (s.hostWrite 0 (s.segAddr d sel) (toBytes 32 (c.pay / 2 ^ 64)))) fun t => t.acpWait c 1)

/-- SEG_GET (R419): `data` is what the read of the entry returns. -/
def execSegGet (m : Fin 1024) (data : Option (List Byte)) (s : State) : Res :=
  s.acpTurn m 0x09 [] fun c =>
    let d := c.fld 0 0 12
    let sel := c.fld 2 0 16
    s.checked c
      [(!s.ownDom m.val d, aeDenied, 0), (!s.on (Fld.pdData.VALID d), aeState, 0), (s.selBad d sel, aeField, 2),
       (!s.hostOk 0, aeHost, 0)]
      (let t := s.bulkRead (s.segAddr d sel) 32
       match data with
       | some b => if b.length = 32 then t.acpOk c b else .next s
       | none => t.acpErr c aeHost 0)

/-! ### Event queues and sources -/

/-- EVQ_SET (R419): FUNC keeps its value; what only EN = 0 lets change must not change while EN = 1. -/
def execEvqSet (m : Fin 1024) (s : State) : Res :=
  s.acpTurn m 0x0A [33] fun c =>
    let q := c.fld 0 0 12
    let on := s.on (Fld.eqData.EN q)
    let lg := c.fld 8 3 5
    s.checked c
      [(!s.ownEq m.val q, aeDenied, 0),
       (m.val != 0 && decide (c.fld 8 18 11 ≥ 64), aeField, 10),
       (c.fld 8 0 1 == 1 && ringLogBad lg, aeField, 8),
       (on && lg != s.get (Fld.eqData.LOG2 q), aeState, 8),
       (on && c.fld 8 18 11 != s.get (Fld.eqData.VEC q), aeState, 10),
       (on && c.fld 16 12 45 != s.get (Fld.eqData.BASE q), aeState, 17)]
      (andThen ((s.put Fld.eqSel.EQ q).fwWrites
        [(⟨.eqData, q, 1⟩, c.word 16), (⟨.eqData, q, 3⟩, c.word 24),
         (⟨.eqData, q, 0⟩, putBits (c.word 8) 8 10 (s.get (Fld.eqData.FUNC q)))]) fun t => t.acpOk c [])

/-- SRC_SET (R419): SRC_CFG is written first where CFG_V = 1, then CMD is applied. -/
def execSrcSet (m : Fin 1024) (s : State) : Res :=
  s.acpTurn m 0x0B [33] fun c =>
    let src := c.fld 0 0 17
    s.checked c
      [(decide (src ≥ 68608), aeField, 0), (!s.ownSrc m.val src, aeDenied, 0),
       (c.fld 4 1 2 == 1 && m.val != 0, aeDenied, 4)]
      (andThen ((s.put Fld.srcSel.SRC src).fwWrites (if c.fld 4 0 1 = 1 then [(⟨.srcCfg, src, 0⟩, c.word 8)] else [])) fun t =>
       andThen (t.writeSrcCmd (c.fld 4 1 2)) fun u =>
        u.acpOk c (u.regBytes .srcStat src 1))

/-! ### Keys -/

/-- KEY_LOAD (R419, R245). -/
def execKeyLoad (m : Fin 1024) (s : State) : Res :=
  s.acpTurn m 0x0C [] fun c =>
    let k := c.fld 0 0 12
    let d := c.fld 2 0 12
    let gcm := c.fld 4 0 1 == 1
    s.checked c
      [(!s.ownKey m.val k, aeDenied, 0), (!s.ownDom m.val d, aeDenied, 2), (!s.on (Fld.pdData.VALID d), aeState, 2),
       (gcm && c.fld 40 0 256 != 0, aeField, 40)]
      (let key := toBytes (if gcm then 32 else 64) (c.fld 8 0 512)
       { s with keys := SMap.set s.keys {} k { valid := true, dom := d, gcm := gcm, key := key } }.acpOk c [])

/-- KEY_CLEAR (R419). -/
def execKeyClear (m : Fin 1024) (s : State) : Res :=
  s.acpTurn m 0x0D [] fun c =>
    let k := c.fld 0 0 12
    s.checked c [(!s.ownKey m.val k, aeDenied, 0)] ({ s with keys := SMap.set s.keys {} k {} }.acpOk c [])

/-! ### Pools and ports -/

/-- BUF_FREE (R419, R260). -/
def execBufFree (m : Fin 1024) (s : State) : Res :=
  s.acpTurn m 0x0E [] fun c =>
    let p := c.fld 0 32 12
    s.checked c
      [(!s.ownPool m.val p, aeDenied, 4), (!s.on (Fld.poolData.EN p), aeState, 4),
       (decide (c.fld 0 0 30 ≥ s.get (Fld.poolData.NBUF p)), aeField, 0)]
      (andThen (execBpmHfree (wordOf (c.word 0)) s) fun t => t.acpOk c [])

/-- POOL_GET (R419). -/
def execPoolGet (m : Fin 1024) (s : State) : Res :=
  s.acpTurn m 0x0F [] fun c =>
    let p := c.fld 0 0 12
    s.checked c [(!s.ownPool m.val p, aeDenied, 0)]
      (let t := s.put Fld.poolSel.POOL p
       t.acpOk c (t.regBytes .poolData p 8))

/-- PORT_GET (R419). -/
def execPortGet (m : Fin 1024) (s : State) : Res :=
  s.acpTurn m 0x10 [] fun c =>
    let p := c.fld 0 0 12
    s.checked c [(!s.ownPort m.val p, aeDenied, 0)]
      (let t := s.put Fld.dpSel.PORT p
       t.acpOk c (t.regBytes .dpData p 4))

/-! ### The expert window -/

/-- EXPERT_UNLOCK (R419, R422). -/
def execExpertUnlock (m : Fin 1024) (s : State) : Res :=
  s.acpTurn m 0x12 [] fun c =>
    s.checked c [(m.val != 0, aeDenied, 0), (!s.on Fld.glbExpert.ALLOWED, aeDenied, 0)]
      (let t := s.put Fld.glbExpert.UNLOCKED 1
       t.acpOk c (t.regBytes .glbExpert 0 1))

/-- EXPERT_LOCK (R419, R422). -/
def execExpertLock (m : Fin 1024) (s : State) : Res :=
  s.acpTurn m 0x13 [] fun c =>
    s.checked c [(m.val != 0, aeDenied, 0)]
      (let t := s.put Fld.glbExpert.UNLOCKED 0
       t.acpOk c (t.regBytes .glbExpert 0 1))

end Sys2Proof.Machine
end

