-- ==== Sys2Proof/Machine/AcpX.lean ====
section
/-!
DEFINITION. The expert-level ACP commands that set shared resources (R420, R421, R424, R500).
-/

namespace Sys2Proof.Machine

/-! ### Assignment -/

/-- The function that owns a group, as a GRP word gives it. -/
def grpOwner (w : Nat) : Option Nat := if bitsOf w 0 1 = 1 then some (bitsOf w 1 10) else none

/-- GRP_ASSIGN (R37, R420). -/
def execGrpAssign (m : Fin 1024) (s : State) : Res :=
  s.acpTurn m 0x40 [10] fun c =>
    let g := c.fld 0 0 12
    s.checked c [((List.range 16).any fun i => s.get (Fld.qctx.STATE (g * 16 + i)) != 0, aeState, 0)]
      (andThen (s.fwWrite ⟨.grp, g, 0⟩ (c.word 8)) fun t =>
        (t.assigned (grpOwner (s.reg ⟨.grp, g, 0⟩).toNat) (grpOwner (t.reg ⟨.grp, g, 0⟩).toNat)).acpOk c [])

/-- The function that owns a domain, none while it is not valid. -/
def State.domOwner (s : State) (d : Nat) : Option Nat :=
  if s.on (Fld.pdData.VALID d) then some (s.get (Fld.pdData.FUNC d)) else none

/-- DOM_SET (R203, R420, R424): a domain that was valid gets a domain-scope invalidation with STOP = 1. -/
def execDomSet (m : Fin 1024) (s : State) : Res :=
  s.acpTurn m 0x41 [20] fun c =>
    let d := c.fld 0 0 12
    if c.phase = 1 then (if s.inv.isSome then .next s else s.acpOk c [])
    else if s.stuTaken c then .next s
    else s.checked c [(decide (c.fld 8 11 5 > 16), aeField, 9), (s.libSel != 0 && c.fld 8 0 1 == 1 && !s.hostOk 0, aeHost, 0)]
      (andThen ((s.put Fld.pdSel.PDOM d).fwWrites
        [(⟨.pdData, d, 1⟩, c.word 16), (⟨.pdData, d, 2⟩, c.word 24), (⟨.pdData, d, 3⟩, c.word 32), (⟨.pdData, d, 0⟩, c.word 8)])
        fun t =>
          let u := (if s.on (Fld.pdData.VALID d) then t.libWrite d else t).reassigned (s.domOwner d) (t.domOwner d)
          if s.on (Fld.pdData.VALID d) then
            andThen (execInvalidation 1 true false (Fin.ofNat 4096 d) 0 u) fun v => v.acpWait c 1
          else u.acpOk c [])

/-- EVQ_ASSIGN (R420). -/
def execEvqAssign (m : Fin 1024) (s : State) : Res :=
  s.acpTurn m 0x42 [33] fun c =>
    let q := c.fld 0 0 12
    let f := c.fld 2 0 10
    s.checked c [(s.on (Fld.eqData.EN q), aeState, 0)]
      (let t := (s.put Fld.eqSel.EQ q).put (Fld.eqData.FUNC q) f
       (t.reassigned (some (s.get (Fld.eqData.FUNC q))) (some f)).acpOk c [])

/-! ### Device ports -/

/-- The reading of a descriptor that a PORT_PROPOSE of a window makes. -/
def proposeKey (win : Nat) : Nat := 65536 + win

/-- Port `i` of a discovery descriptor (R311): the register window and the data window, as base and size. -/
def descWindows (d : List Byte) (i : Nat) : List (Nat × Nat) :=
  let at_ (o n : Nat) : Nat := imgNum d (0x100 + 32 * i + o) n
  [(at_ 8 6, 2 ^ (12 + bitsOf (at_ 0 8) 16 3)), (at_ 0x10 6, at_ 0x18 6)]

/-- No two of some ranges meet. -/
def disjointAll : List (Nat × Nat) → Bool
  | [] => true
  | a :: r => (r.all fun b => a.2 == 0 || b.2 == 0 || decide (a.1 + a.2 ≤ b.1) || decide (b.1 + b.2 ≤ a.1)) && disjointAll r

/-- The checks of a discovery descriptor (R312). -/
def descOk (d : List Byte) : Bool :=
  let n := imgNum d 0xC 1 % 128
  d.length == 4096 && imgNum d 0 4 == 0x414F4C52 && imgNum d 4 1 == 1 && decide (n ≤ 119) &&
    decide (imgNum d 0xD 1 % 16 ≤ 8) &&
    imgNum d 0xFFC 4 == crcRefl 0x82F63B78 32 ((d.take 0xFFC).map BitVec.toNat) &&
    disjointAll ((List.range n).flatMap (descWindows d))

/-- The proposed entry of descriptor port `i`, in the layout of DP_DATA (R421). -/
def proposal (d : List Byte) (node i : Nat) : List Byte :=
  let at_ (o n : Nat) : Nat := imgNum d (0x100 + 32 * i + o) n
  toBytes 8 (node * 2 ^ 16 + bitsOf (at_ 0 8) 16 3 * 2 ^ 41) ++
    toBytes 8 (at_ 8 6 / 4096 * 4096 + bitsOf (at_ 0 8) 32 16 * 2 ^ 48) ++ toBytes 8 (at_ 0x10 6) ++ toBytes 8 (at_ 0x18 6)

/-- PORT_PROPOSE (R420, R421): in its first step firmware begins to read the node's descriptor again; in its second, once all of it
is there or a read has failed, the command answers. A step out of its turn does nothing. -/
def execPortPropose (m : Fin 1024) (first : Bool) (s : State) : Res :=
  s.acpTurn m 0x43 [] fun c =>
    let node := c.fld 0 0 16
    let start := c.fld 2 0 7
    let r := s.discOf (proposeKey c.win)
    if first ≠ (c.phase == 0) then .next s
    else if first then s.checked c [(!s.reachable node, aeState, 0)] ((s.discStart (proposeKey c.win) node).acpWait c 1)
    else if r.stage ≠ 3 ∧ r.stage ≠ 4 then .next s
    else if r.stage = 4 ∨ !descOk r.got then s.acpErr c aeDesc 0
    else
      let n := imgNum r.got 0xC 1 % 128
      let k := Nat.min 3 (n - start)
      s.acpOk c (toBytes 1 n ++ toBytes 7 k ++ (List.range k).flatMap fun i => proposal r.got node (start + i))

/-- The function that owns a port, none while it is not valid. -/
def State.portOwner (s : State) (p : Nat) : Option Nat :=
  if s.on (Fld.dpData.VALID p) then some (s.get (Fld.pdData.FUNC (s.get (Fld.dpData.PDOM p)))) else none

/-- A port that is valid is removed, unless it is already (R420). -/
def State.portFirst (s : State) (p : Nat) : Res :=
  if s.on (Fld.dpData.REMOVED p) then .next s else execPortRemove (Fin.ofNat 4096 p) s

/-- The port's answer: DP_CMD's result, or the entry's word 0 (R420). -/
def State.portAnswer (s : State) (c : AcpCmd) (p : Nat) (old : Option Nat) : Res :=
  (s.reassigned old (s.portOwner p)).acpOk c (s.regBytes .dpData p 1)

/-- PORT_SET (R315, R318, R319, R420). -/
def execPortSet (m : Fin 1024) (s : State) : Res :=
  s.acpTurn m 0x44 [20] fun c =>
    let p := c.fld 0 0 12
    let cmd := c.fld 2 0 2
    let port : Fin 4096 := Fin.ofNat 4096 p
    let old := s.portOwner p
    let t := s.put Fld.dpSel.PORT p
    let byCmd (r : Res) : Res := andThen r fun u =>
      if u.get Fld.dpCmd.RESULT ≠ 0 then u.acpErr c aeDevice (u.get Fld.dpCmd.RESULT) else u.portAnswer c p old
    let words (u : State) : Res := andThen (u.fwWrites
      [(⟨.dpData, p, 1⟩, c.word 16), (⟨.dpData, p, 2⟩, c.word 24), (⟨.dpData, p, 3⟩, c.word 32), (⟨.dpData, p, 0⟩, c.word 8)])
      fun v => v.portAnswer c p old
    match cmd with
    | 1 => byCmd (execPortRemove port t)
    | 2 => byCmd (execPortRestore port t)
    | 3 => s.acpErr c aeField 2
    | _ =>
      if !s.on (Fld.dpData.VALID p) then words t
      else if c.fld 8 0 1 = 0 then
        andThen (t.portFirst p) fun u => andThen (u.fwWrite ⟨.dpData, p, 0⟩ ((u.reg ⟨.dpData, p, 0⟩).toNat / 2 * 2)) words
      else
        let same := (List.range 4).all fun j =>
          maskBits (c.word (8 + 8 * j)) (cfgMask ⟨.dpData, p, j⟩) == maskBits (s.reg ⟨.dpData, p, j⟩).toNat (cfgMask ⟨.dpData, p, j⟩)
        if same then t.portAnswer c p old else (t.put Fld.dpStat.REJECT 1).acpErr c aeState 0

/-! ### Pools, extension units, banks, FIFOs, links -/

/-- The function that owns a pool, none while it is off. -/
def State.poolOwner (s : State) (p : Nat) : Option Nat :=
  if s.on (Fld.poolData.EN p) then some (s.get (Fld.pdData.FUNC (s.get (Fld.poolData.PDOM p)))) else none

/-- Pool words written until one is rejected: BPM_STAT.REJECT says so (R264). -/
def State.poolWrites (s : State) (p : Nat) : List (Nat × Nat) → Res
  | [] => .next s
  | (j, v) :: l =>
    if s.on Fld.bpmStat.REJECT then .next s else andThen (s.fwWrite ⟨.poolData, p, j⟩ v) fun t => t.poolWrites p l

/-- A command's words of the pool that would change something (log entry 28). -/
def State.poolNew (s : State) (p : Nat) (c : AcpCmd) : List (Nat × Nat) :=
  ((List.range 8).reverse.map fun j => (j, c.word (8 + 8 * j))).filter fun e =>
    let r : Reg := ⟨.poolData, p, e.1⟩
    e.1 == 5 || maskBits e.2 (cfgMask r) != maskBits (s.reg r).toNat (cfgMask r)

/-- POOL_SET (R255, R264, R420): EN is written last where it sets, and first where it clears. -/
def execPoolSet (m : Fin 1024) (s : State) : Res :=
  s.acpTurn m 0x45 [29] fun c =>
    let p := c.fld 0 0 12
    let was := s.get Fld.bpmStat.REJECT
    let t := (s.put Fld.poolSel.POOL p).put Fld.bpmStat.REJECT 0
    let off := if s.on (Fld.poolData.EN p) ∧ c.fld 8 0 1 = 0 then [(0, (s.reg ⟨.poolData, p, 0⟩).toNat / 2 * 2)] else []
    andThen (t.poolWrites p (off ++ s.poolNew p c)) fun u =>
      if u.on Fld.bpmStat.REJECT then u.acpErr c aeDevice (u.get Fld.bpmStat.REJ_CAUSE)
      else
        let v := u.put Fld.bpmStat.REJECT was
        (v.reassigned (s.poolOwner p) (v.poolOwner p)).acpOk c (v.regBytes .bpmStat 0 1)

/-- EXT_SET (R321, R420). -/
def execExtSet (m : Fin 1024) (s : State) : Res :=
  s.acpTurn m 0x46 [30] fun c =>
    let n := c.fld 0 0 3
    let t := s.put (Fld.extBind.VALID n) 0
    if t.extOut n ≠ 0 then t.acpWait c 1
    else andThen (t.fwWrite ⟨.extBind, n, 0⟩ (c.word 8)) fun u => u.acpOk c []

/-- BANK_SET (R355, R420). -/
def execBankSet (m : Fin 1024) (late : Bool) (s : State) : Res :=
  s.acpTurn m 0x47 [31] fun c =>
    let b := c.fld 0 0 10
    let cmd := c.fld 0 10 2
    let finish (t : State) : Res :=
      if c.fld 8 0 1 = 0 ∨ !t.on Fld.bankCmd.BUSY then t.acpOk c (t.regBytes .bankOwn b 1)
      else if late then t.acpEnd c aeTimeout 0 (t.regBytes .bankOwn b 1)
      else t.acpWait c 1
    if c.phase = 1 then finish s
    else andThen (s.writeBankCmd (c.fld 0 0 32) cmd) fun t =>
      let r := if cmd = 0 then (if b ≥ 528 then 3 else 0) else t.get Fld.bankCmd.RESULT
      if r ≠ 0 then t.acpErr c aeDevice r else finish t

/-- A value that its register calls unpredictable is refused (R418). -/
def badValue (r : Reg) (v : Nat) : Bool := (regBad r v).isSome

/-- FIFO_SET (R372, R420): FIFO_CFG and FIFO_WM are written, and then CMD is applied. -/
def execFifoSet (m : Fin 1024) (s : State) : Res :=
  s.acpTurn m 0x48 [32] fun c =>
    let f := c.fld 0 0 6
    s.checked c
      [(decide (c.fld 4 0 3 > 4), aeField, 4), (badValue ⟨.fifoCfg, f, 0⟩ (c.word 8), aeField, 9),
       (badValue ⟨.fifoWm, f, 0⟩ (c.word 16), aeField, 16)]
      (andThen ((s.put Fld.fifoSel.FIFO f).fwWrites [(⟨.fifoCfg, f, 0⟩, c.word 8), (⟨.fifoWm, f, 0⟩, c.word 16)]) fun t =>
       andThen (t.writeFifoCmd (c.fld 4 0 3)) fun u => u.acpOk c (u.regBytes .fifoStat f 1))

/-- LINK_SET (R277, R281, R420). -/
def execLinkSet (m : Fin 1024) (s : State) : Res :=
  s.acpTurn m 0x49 [1 + (s.acp.find? fun c => c.win == m.val).elim 0 fun c => c.fld 0 0 3] fun c =>
    let p : Fin 8 := Fin.ofNat 8 (c.fld 0 0 3)
    let finish (r : Res) : Res := andThen r fun t => t.acpOk c (t.regBytes .pluStat p.val 1)
    match c.fld 4 0 3 with
    | 0 => finish (execLinkEnable p s)
    | 1 => finish (execLinkDisable p s)
    | 2 => finish (execLinkRetrain p s)
    | 3 => finish (execLinkHold p s)
    | 4 => finish (execLinkHoldClear p s)
    | _ => s.acpErr c aeField 4

/-- LIB_INSTALL (R424). -/
def execLibInstall (m : Fin 1024) (s : State) : Res :=
  s.acpTurn m 0x4A [] fun c =>
    let base := c.fld 0 0 57
    let sel := c.fld 8 0 16
    s.checked c [(base % 65536 != 0, aeField, 0), (sel == 0, aeField, 8), (!s.hostOk 0, aeHost, 0)]
      (let t := { s with libSel := sel, libBase := base }.bulkWrite base ((List.range 65536).map Config.libByte)
       let ds := (s.regs.filter fun e => e.1.id == .pdData && e.1.j == 0 && e.2.getLsbD 0 && !s.selBad e.1.i sel).map (·.1.i)
       (forAll ds State.libWrite t).acpOk c (toBytes 4 ds.length))

/-- CFG_STATUS (R420). -/
def execCfgStatus (m : Fin 1024) (s : State) : Res :=
  s.acpTurn m 0x4E [] fun c =>
    s.acpOk c (toBytes 4 (s.slotVer s.activeSlot) ++ toBytes 4 (s.slotVer s.roles.prev) ++ toBytes 4 (s.slotVer s.roles.staged) ++
      toBytes 4 (s.get Fld.cfsStat.EPOCH + 256 * s.get Fld.cfsStat.STATE))

/-! ### Slots (R493, R495, R500) -/

/-- SLOT_SET with a SUB (R500): `go` says what an accepted command does, none where the slot's state does not accept it. -/
def State.slotSet (s : State) (m : Fin 1024) (sub : Nat) (go : Nat → State → Option State) : Res :=
  match s.acp.find? fun c => c.win == m.val && c.opc == 0x52 && c.fld 4 0 4 == sub with
  | none => .next s
  | some _ => s.acpTurn m 0x52 (if sub = 5 then [39] else []) fun c =>
    let n := c.fld 0 0 8
    if sub ≠ 0 ∧ !s.on (Fld.slotCfg.EN n) then s.acpErr c aeState 0
    else match go n s with
      | some t => t.acpOk c (t.regBytes .slotStat n 1)
      | none => s.acpErr c aeState 0

/-- SUB 0, read. -/
def execSlotRead (m : Fin 1024) (s : State) : Res := s.slotSet m 0 fun _ t => some t

/-- SUB 1, ON (R493). -/
def execSlotOn (m : Fin 1024) (s : State) : Res :=
  s.slotSet m 1 fun n t =>
    if (t.slot n = slOff ∧ t.on (Fld.slotStat.LATCH n)) ∨ t.slot n = slPendOn then some (t.setSlot n slPowering) else none

/-- SUB 2, OFF (R493, R495). -/
def execSlotOff (m : Fin 1024) (s : State) : Res :=
  s.slotSet m 2 fun n t =>
    if t.slot n = slOn ∨ t.slot n = slPendOff ∨ t.slot n = slOffReq then some (t.powerOff n)
    else if t.slot n = slPendOn then some (t.setSlot n slOff)
    else none

/-- SUB 3, CANCEL (R493), which a power-off that is under way does not accept (R495). -/
def execSlotCancel (m : Fin 1024) (s : State) : Res :=
  s.slotSet m 3 fun n t =>
    if (t.slot n = slPendOn ∨ t.slot n = slPendOff ∨ t.slot n = slOffReq) ∧ !NSet.has t.slotOffPend n then some (t.slotCancel n)
    else none

/-- SUB 4, CLEAR (R493). -/
def execSlotClear (m : Fin 1024) (s : State) : Res :=
  s.slotSet m 4 fun n t =>
    if t.slot n = slFault then some (t.setSlot n (if t.on (Fld.slotStat.PRES n) then slOff else slEmpty)) else none

/-- SUB 5, LED (R500): the argument's word of the request. -/
def execSlotLed (m : Fin 1024) (s : State) : Res :=
  s.slotSet m 5 fun n t =>
    match s.acp.find? fun c => c.win == m.val with
    | some c => some (t.setReg ⟨.slotLed, n, 0⟩ (wordOf (maskBits (c.word 8) (cfgMask ⟨.slotLed, n, 0⟩))))
    | none => none

end Sys2Proof.Machine
end

