-- ==== Sys2Proof/Machine/Ecdsa.lean ====
section
/-!
DEFINITION. ECDSA verification on brainpoolP384r1 (R448): the curve of RFC 5639 and the procedure of FIPS 186-5.
-/

namespace Sys2Proof.Machine

/-- The field's prime. -/
def ecP : Nat := 0x8CB91E82A3386D280F5D6F7E50E641DF152F7109ED5456B412B1DA197FB71123ACD3A729901D1A71874700133107EC53
/-- The coefficient of x. -/
def ecA : Nat := 0x7BC382C63D8C150C3C72080ACE05AFA0C2BEA28E4FB22787139165EFBA91F90F8AA5814A503AD4EB04A8C7DD22CE2826
/-- The constant term. -/
def ecB : Nat := 0x04A8C7DD22CE28268B39B55416F0447C2FB77DE107DCD2A62E880EA53EEB62D57CB4390295DBC9943AB78696FA504C11
/-- The order of the base point. -/
def ecN : Nat := 0x8CB91E82A3386D280F5D6F7E50E641DF152F7109ED5456B31F166E6CAC0425A7CF3AB6AF6B7FC3103B883202E9046565
/-- The base point. -/
def ecG : Option (Nat × Nat) :=
  some (0x1D1C64F068CF45FFA2A63A81B7C13F6B8847A3E77EF14FE3DB7FCAFE0CBD10E8E826E03436D646AAEF87B2E247D4AF1E,
    0x8ABE1D7520F9C2A45CB1EB8E95CFD55262B70B29FEEC5864E19C054FF99129280E4646217791811142820341263C5315)

/-- Powers modulo `m`; `n` counts the exponent's bits. -/
def powMod (m b e : Nat) : Nat → Nat
  | 0 => 1
  | n + 1 => (if e % 2 = 1 then b else 1) * powMod m (b * b % m) (e / 2) n % m

/-- An inverse modulo a prime of at most 384 bits. -/
def invMod (m a : Nat) : Nat := powMod m (a % m) (m - 2) 384

/-- A point lies on the curve. -/
def ecOn (x y : Nat) : Bool := decide (x < ecP) && decide (y < ecP) && y * y % ecP == (x * x * x + ecA * x + ecB) % ecP

/-- The point with a slope through a first point and a second point's x. -/
def ecLine (l x1 y1 x2 : Nat) : Nat × Nat :=
  let x := (l * l + 2 * ecP - x1 - x2) % ecP
  (x, (l * (x1 + ecP - x) + ecP - y1) % ecP)

/-- Addition of points; none is the point at infinity. -/
def ecAdd (a b : Option (Nat × Nat)) : Option (Nat × Nat) :=
  match a, b with
  | none, _ => b
  | _, none => a
  | some (x1, y1), some (x2, y2) =>
    if x1 = x2 then
      if (y1 + y2) % ecP = 0 then none
      else some (ecLine ((3 * x1 * x1 + ecA) * invMod ecP (2 * y1) % ecP) x1 y1 x2)
    else some (ecLine ((y2 + ecP - y1) * invMod ecP (x2 + ecP - x1) % ecP) x1 y1 x2)

/-- A multiple of a point; `n` counts the factor's bits. -/
def ecMul (k : Nat) (a : Option (Nat × Nat)) : Nat → Option (Nat × Nat)
  | 0 => none
  | n + 1 =>
    let r := ecMul (k / 2) (ecAdd a a) n
    if k % 2 = 1 then ecAdd a r else r

/-- (r, s) is a signature of a hash value under the key (x, y). -/
def ecdsaOk (x y r s : Nat) (hash : List Byte) : Bool :=
  ecOn x y && decide (1 ≤ r ∧ r < ecN ∧ 1 ≤ s ∧ s < ecN) &&
    let w := invMod ecN s
    match ecAdd (ecMul (beNum hash * w % ecN) ecG 384) (ecMul (r * w % ecN) (some (x, y)) 384) with
    | some p => p.1 % ecN == r
    | none => false

end Sys2Proof.Machine
end

