-- ==== Sys2Proof/Machine/Sig.lean ====
section
/-!
DEFINITION. Signature blocks (R447, R448) and the firmware slots (R445, R446, R449).
-/

namespace Sys2Proof.Machine

/-! ### Signature blocks -/

/-- A vendor key hash slot's hash, or an owner's (R443). -/
def State.keyHash (s : State) (owner : Bool) (k : Nat) : List Byte :=
  if owner then SMap.get s.fuses.okh [] k else Config.vendorHash k

/-- A key hash slot is programmed and not revoked (R448). -/
def State.keyLive (s : State) (owner : Bool) (k : Nat) : Bool :=
  if owner then s.fuses.okProg.testBit k && !s.fuses.okRev.testBit k else !s.fuses.vkRev.testBit k

/-- KEYIDX of a block. -/
def sigKey (blk : List Byte) : Nat := imgNum blk 4 1 % 4
/-- REVOKE of a block. -/
def sigRevoke (blk : List Byte) : Nat := imgNum blk 6 1 % 16
/-- CSVN of a block. -/
def sigCsvn (blk : List Byte) : Nat := imgNum blk 5 1

/-- A signature block of 256 bytes by the vendor or by an owner verifies over a message without the block's own first 16
bytes (R447, R448). -/
def State.sigOk (s : State) (owner : Bool) (blk m : List Byte) : Bool :=
  let part (o : Nat) : List Byte := (blk.drop o).take 48
  blk.length == 256 && imgNum blk 0 4 == 0x47534342 && (imgNum blk 4 1 / 4 % 2 == 1) == owner &&
    sha384 (part 0x10 ++ part 0x40) == s.keyHash owner (sigKey blk) && s.keyLive owner (sigKey blk) &&
    ecdsaOk (beNum (part 0x10)) (beNum (part 0x40)) (beNum (part 0x70)) (beNum (part 0xA0)) (sha384 (m ++ blk.take 16))

/-! ### Firmware images -/

/-- SVN of a firmware image (R446). -/
def fwSvn (img : List Byte) : Nat := imgNum img 0xC 2
/-- FW_VER. -/
def fwVerOf (img : List Byte) : Nat := imgNum img 8 4
/-- LENGTH. -/
def fwLen (img : List Byte) : Nat := imgNum img 0x10 4
/-- DIGEST. -/
def fwDigest (img : List Byte) : List Byte := (img.drop 0x20).take 48
/-- OWNER_SIGNED. -/
def fwOwned (img : List Byte) : Bool := imgNum img 5 1 % 2 == 1
/-- The vendor signature block. -/
def fwVendorBlk (img : List Byte) : List Byte := (img.drop (0x100 + fwLen img)).take 256
/-- The owner signature block. -/
def fwOwnerBlk (img : List Byte) : List Byte := (img.drop (0x200 + fwLen img)).take 256
/-- The body. -/
def fwBody (img : List Byte) : List Byte := (img.drop 0x100).take (fwLen img)

/-- The header's fields are in range and its reserved fields are 0 (R446, R449). -/
def fwHdrOk (img : List Byte) : Bool :=
  let len := fwLen img
  let load := imgNum img 0x14 4
  imgNum img 0 4 == 0x57464342 && imgNum img 4 1 == 1 && decide (imgNum img 5 3 ≤ 1) && decide (fwSvn img ≤ 64) &&
    imgNum img 0xE 2 == 0 && len % 256 == 0 && decide (256 ≤ len ∧ len ≤ 0x180000) && load % 4096 == 0 &&
    decide (load + len ≤ 0x200000) && decide (imgNum img 0x18 4 < len) && imgNum img 0x1C 4 == 0 &&
    ((img.drop 0x50).take 0xB0).all (· == 0) && (fwVendorBlk img).length == 256 &&
    (!fwOwned img || (fwOwnerBlk img).length == 256)

/-- The checks of a firmware image (R449), and the error that the first failure gives (R418, R452, R453): none where it is
valid. -/
def State.fwCheck (s : State) (img : List Byte) : Option Nat :=
  let hdr := img.take 0x100
  if !fwHdrOk img then some 3
  else if sha384 (fwBody img) != fwDigest img || !s.sigOk false (fwVendorBlk img) hdr then some 0xB
  else if fwSvn img < s.fuses.fwSvn then some 0xC
  else if (s.fuses.ownFw || fwOwned img) &&
      !(fwOwned img && s.sigOk true (fwOwnerBlk img) (hdr ++ fwVendorBlk img)) then some 0xB
  else none

/-- The image in a firmware slot. -/
def State.fwImg (s : State) (k : Nat) : List Byte := SMap.get s.fwSlot [] k

/-- A firmware slot is valid (R449): while it is written it counts as invalid (R452). -/
def State.fwValid (s : State) (k : Nat) : Bool := !NSet.has s.fwWriting k && (s.fwCheck (s.fwImg k)).isNone

/-- The bits of two REVOKE fields that both have, but for the keys that sign (R453). -/
def revokeBits (a b : List Byte) : Nat :=
  let both := sigRevoke a &&& sigRevoke b
  (List.range 4).foldl (fun m k => if both.testBit k && sigKey a != k && sigKey b != k then m ||| 2 ^ k else m) 0

/-- The counter and the revocations of firmware (R453). -/
def State.fwCommit (s : State) : State :=
  if s.fwValid 0 && s.fwValid 1 then
    let a := s.fwImg 0
    let b := s.fwImg 1
    let own := if fwOwned a && fwOwned b then revokeBits (fwOwnerBlk a) (fwOwnerBlk b) else 0
    { s with fuses := { s.fuses with
        fwSvn := Nat.max s.fuses.fwSvn (Nat.min (fwSvn a) (fwSvn b))
        vkRev := s.fuses.vkRev ||| revokeBits (fwVendorBlk a) (fwVendorBlk b)
        okRev := s.fuses.okRev ||| own } }
  else s

end Sys2Proof.Machine
end

