-- ==== Sys2Proof/Machine/CfgImg.lean ====
section
/-!
DEFINITION. Configuration images (R427, R429, R430, R434, R449): their header, their records, the version that they spell,
and the checks of staging.
-/

namespace Sys2Proof.Machine

/-! ### The image -/

/-- A record of a section (R430): the section's block, the record's place in the image, and its fields. -/
structure CfgRec where
  blk : Nat
  pos : Nat
  off : Nat
  w64 : Bool
  val : Nat
  zero : Bool
deriving DecidableEq, Repr

/-- The record that 16 bytes spell. -/
def cfgRec (blk pos : Nat) (b : List Byte) : CfgRec :=
  let w := imgNum b 0 4
  { blk := blk, pos := pos, off := bitsOf w 0 26, w64 := bitsOf w 26 1 == 1, val := imgNum b 8 8,
    zero := bitsOf w 27 5 == 0 && imgNum b 4 4 == 0 }

/-- `n` records, and the bytes after them; none where the image ends first. -/
def readRecs (blk pos : Nat) : Nat → List Byte → Option (List CfgRec × List Byte)
  | 0, l => some ([], l)
  | n + 1, l =>
    let b := l.take 16
    if b.length < 16 then none
    else match readRecs blk (pos + 16) n (l.drop 16) with
      | some (rs, r) => some (cfgRec blk pos b :: rs, r)
      | none => none

/-- A section: its place, its block, whether its reserved bits are 0, and its records. -/
structure CfgSect where
  pos : Nat
  blk : Nat
  zero : Bool
  recs : List CfgRec
deriving DecidableEq, Repr

/-- `n` sections that end where the image does. -/
def readSects (pos : Nat) : Nat → List Byte → Option (List CfgSect)
  | 0, l => if l.isEmpty then some [] else none
  | n + 1, l =>
    let h := l.take 16
    let k := imgNum h 4 4
    if h.length < 16 ∨ k > l.length then none
    else match readRecs (imgNum h 0 1) (pos + 16) k (l.drop 16) with
      | none => none
      | some (rs, r) =>
        match readSects (pos + 16 + 16 * k) n r with
        | none => none
        | some l' => some ({ pos := pos, blk := imgNum h 0 1, zero := imgNum h 1 3 == 0 && imgNum h 8 8 == 0, recs := rs } :: l')

/-- LENGTH (R429). -/
def cfgLen (img : List Byte) : Nat := imgNum img 0xC 4
/-- KIND. -/
def cfgKind (img : List Byte) : Nat := imgNum img 5 1
/-- SIGNED. -/
def cfgSigned (img : List Byte) : Bool := imgNum img 6 1 % 2 == 1
/-- VERSION. -/
def cfgVersion (img : List Byte) : Nat := imgNum img 8 4
/-- MODES. -/
def cfgModes (img : List Byte) : Nat := imgNum img 0x10 1 % 16
/-- DIGEST. -/
def cfgDigest (img : List Byte) : List Byte := (img.drop 0x20).take 48
/-- The sections. -/
def cfgSects (img : List Byte) : Option (List CfgSect) :=
  readSects 0x80 (imgNum img 0x14 2) ((img.take (cfgLen img)).drop 0x80)
/-- The owner signature block, which follows the sections (R429). -/
def cfgBlk (img : List Byte) : List Byte := (img.drop (cfgLen img)).take 256

/-! ### The version -/

/-- The block whose configuration a register word belongs to (R430). -/
def regBlk (r : Reg) : Option Nat :=
  match r.id with
  | .hpuCtl | .hpuPeer => some 0
  | .pluCtl => some (1 + r.i)
  | .fxbCtl | .fxbVc | .fxbIw | .rtCtl | .txnCtl | .nodeRt | .domRt => some 9
  | .grp | .qctx | .qctl | .qctxSel => some 10
  | .qscCtl | .clsW | .cluW | .kingQuota | .kstShadow | .qwSel | .qwData | .grpW => some 11
  | .pgmCtl | .semOwn | .gbtCtl | .gbtHsel => some (12 + r.i)
  | .pdData | .invCmd | .dpData | .dpCmd | .pdSel | .dpSel => some 20
  | .dmgCtl | .dmgCw => some (21 + r.i)
  | .poolData | .poolSel => some 29
  | .extBind => some 30
  | .spmCtl | .spmAper | .bankCmd => some 31
  | .fifoCfg | .fifoWm | .fifoSel => some 32
  | .eicCtl | .eqData | .srcCfg | .coreEq | .gebOwn | .eqSel | .srcSel => some 33
  | .mbArb => some 34
  | .cfsCtl => some 36
  | .pcmCtl | .pcmPlan | .eclkCeil | .pcmRet => some 37
  | .agmCtl | .agmTgt | .agmLife | .agmLrep => some 38
  | .hpcCtl | .slotCfg | .slotLed => some 39
  | .fclCtl | .fclReact => some 63
  | _ => none

/-- The bits of a register word that a version sets (R430). The heads of the cores' rings and the history words are what
the machine writes as it runs, and no configuration (log entry 7). -/
def verMask (r : Reg) : Nat :=
  match r.id with
  | .coreEq => if r.j = 1 then 0 else cfgMask r
  | .gbtHist => 0
  | .dpData => if r.j = 1 then 2 ^ 64 - 2 ^ 12 else cfgMask r
  | _ => if (regBlk r).isSome then cfgMask r else 0

/-- A configuration version: every configurable register word that is not at its reset value, the MODES word, and the banks
that it gives an owner (log entry 82), each with its owner code and, from 2^16 on, TEST_OK. -/
structure Ver where
  regs : AMap Reg Word := []
  modes : Nat := 0
  banks : SMap Nat := []
deriving DecidableEq, Repr

/-- A register word of a version. -/
def Ver.get (v : Ver) (r : Reg) : Nat := (AMap.get v.regs r.reset r).toNat
/-- A field of a version. -/
def Ver.fld (v : Ver) (f : Field) : Nat := bitsOf (v.get f.reg) f.lo f.w

/-- The register word that a record sets in a copy whose selectors stand as they do: a configurable register of the
record's block, of the record's width (R430, R434). -/
def State.recReg (t : State) (r : CfgRec) : Option Reg :=
  if r.off % 8 ≠ 0 ∨ blockAt r.off ≠ some r.blk then none
  else match t.place r.off with
    | some g => if verMask g ≠ 0 ∧ is32 g.id = !r.w64 then some g else none
    | none => none

/-- A record is applied to the copy as if it were a register write (R430). -/
def State.applyRec (t : State) (r : CfgRec) : State :=
  match t.recReg r with
  | some g => t.setReg g (wordOf (mergeBits (t.reg g).toNat (verMask g) r.val))
  | none => t

/-- A record of BANK_CMD gives the bank that it names an owner (R373, R436, log entry 82), unless the code is one that R352
rejects. -/
def bankRec (m : SMap Nat) (r : CfgRec) : SMap Nat :=
  let b := bitsOf r.val 0 10
  let o := bitsOf r.val 16 16
  if r.off = 0x21F0010 ∧ r.w64 ∧ b < 528 ∧ ownerOk false o then SMap.set m 0 b (o + 2 ^ 16 * bitsOf r.val 13 1) else m

/-- The version of an image: its records applied to the blocks' reset values, and the mode fields of R426. -/
def versionOf (img : List Byte) : Ver :=
  let l := (cfgSects img).getD []
  let t := l.foldl (fun t c => c.recs.foldl State.applyRec t) ({} : State)
  { regs := (t.put Fld.qscCtl.KING_EN (bitsOf (cfgModes img) 2 1)).regs
    modes := cfgModes img
    banks := l.foldl (fun m c => c.recs.foldl bankRec m) [] }

/-- The active version (R433): the reset configuration while none is active. -/
def State.activeVer (s : State) : Ver :=
  match s.activeSlot with | some k => versionOf (s.slotImg k) | none => {}

/-- A version's register words of a block that differ from their reset values. -/
def Ver.ofBlk (v : Ver) (blk : Nat) : List Reg := (v.regs.map (·.1)).filter fun r => regBlk r == some blk

/-- Two versions differ in a register word. -/
def differAt (a b : Ver) (r : Reg) : Bool := maskBits (a.get r) (verMask r) != maskBits (b.get r) (verMask r)

/-- Two versions differ in some configurable field of a block (R435), or at the SPM in a bank's owner. -/
def differIn (a b : Ver) (blk : Nat) : Bool :=
  (a.ofBlk blk ++ b.ofBlk blk).any (differAt a b) || (blk == 31 && a.banks != b.banks)

/-- The blocks in which two versions differ, as a bit map. -/
def partMap (a b : Ver) : Nat := bitMap (differIn a b)

/-! ### Integrity -/

/-- DIGEST is right (R429). -/
def cfgDigestOk (img : List Byte) : Bool :=
  sha384 (img.take 0x20 ++ List.replicate 96 0 ++ (img.take (cfgLen img)).drop 0x80) == cfgDigest img

/-- The security version of an image (R449, R475). -/
def cfgSvnOf (img : List Byte) : Nat :=
  if cfgKind img = 1 then imgNum img 0x1C 1 else if cfgSigned img then sigCsvn (cfgBlk img) else 0

/-- The owner block verifies (R448). -/
def State.cfgSigOk (s : State) (img : List Byte) : Bool :=
  cfgSigned img && s.sigOk true (cfgBlk img) (img.take (cfgLen img))

/-- The plan key's tag of a digest (R429, R454). -/
def planTag (digest : List Byte) : List Byte := hmac384 (hmac384 Config.uds (("PLAN".toList).map fun c => BitVec.ofNat 8 c.toNat)) digest

/-- DIGEST, and the signature or the tag that the image needs (R434, R449). -/
def State.cfgAuth (s : State) (img : List Byte) : Bool :=
  cfgDigestOk img &&
    (if cfgKind img = 1 then planTag (cfgDigest img) == (img.drop 0x50).take 48
     else (!cfgSigned img && !s.fuses.ownCfg) || s.cfgSigOk img)

/-! ### The checks of staging -/

/-- The header's fields (R429, R434, R475): the place of the first that is wrong. -/
def cfgHdrBad (img : List Byte) : Option Nat :=
  let bad : List (Bool × Nat) :=
    [(decide (img.length < 0x80) || imgNum img 0 4 != 0x47464342, 0),
     (imgNum img 4 1 != 1, 4), (decide (cfgKind img > 1), 5), (decide (imgNum img 6 2 > 1), 6),
     (decide (cfgVersion img = 0 ∨ cfgVersion img = 0xFFFFFFFF) || (cfgKind img == 0 && decide (cfgVersion img ≥ 2 ^ 31)), 8),
     (decide (cfgLen img < 0x80 ∨ cfgLen img > 0x400000 - (if cfgSigned img then 256 else 0)) ||
       decide (img.length < cfgLen img + (if cfgSigned img then 256 else 0)), 0xC),
     (decide (imgNum img 0x10 4 ≥ 16), 0x10), (decide (imgNum img 0x14 2 > 64), 0x14), (imgNum img 0x16 2 != 0, 0x16),
     (imgNum img 0x1D 3 != 0, 0x1D), (cfgKind img == 0 && imgNum img 0x1C 1 != 0, 0x1C),
     (cfgKind img == 0 && !((img.drop 0x50).take 48).all (· == 0), 0x50)]
  (bad.find? (·.1)).map (·.2)

/-- The first record that names no configurable register of its block, or sets a reserved bit. -/
def badRec : State → List CfgRec → Option Nat
  | _, [] => none
  | t, r :: l => if !r.zero || (t.recReg r).isNone then some r.pos else badRec (t.applyRec r) l

/-- The first section that is wrong: its header, a block named twice, or one of its records. -/
def badSect (seen : List Nat) : List CfgSect → Option Nat
  | [] => none
  | c :: l =>
    if !c.zero || seen.contains c.blk then some c.pos
    else match badRec ({} : State) c.recs with
      | some p => some p
      | none => badSect (c.blk :: seen) l

/-- The form of an image (the first row of R434): the place of its first fault. -/
def cfgFormBad (img : List Byte) : Option Nat :=
  match cfgHdrBad img with
  | some p => some p
  | none => match cfgSects img with
    | none => some 0xC
    | some l => badSect [] l

/-- The King count of a version (R427): the queues that are not Disabled and whose class in it is 0. -/
def State.kingCountIn (s : State) (v : Ver) : Nat :=
  ((s.regs.filter fun e => e.1.id == .qctx && e.1.j == 5 && bitsOf e.2.toNat 0 3 != 0).filter fun e =>
    v.fld (Fld.qctx.CLASS e.1.i) == 0).length

/-- The King checks of R427, at staging and again at the commit. -/
def State.kingBad (s : State) (old v : Ver) : Bool :=
  let n := s.kingCountIn v
  decide (n > 1024) || (v.fld Fld.qscCtl.KING_EN != old.fld Fld.qscCtl.KING_EN && n != 0)

/-- Route entry `b` of a version's table. -/
def Ver.rt (v : Ver) (id : RegId) (b : Nat) : Nat := bitsOf (v.get ⟨id, b / 8, 0⟩) (8 * (b % 8)) 8

/-- A version routes a domain to a link whose peer is in that domain, as its LID says: the word of the first such route (R292,
R434). -/
def State.routeToPeer (s : State) (v : Ver) : Option Reg :=
  ((List.range 256).find? fun d =>
    let p := v.rt .domRt d
    decide (p < 8) && (s.lState p == 3 || s.lState p == 4) && s.get (Fld.pluStat.PEER_NODE p) / 256 == d).map
      fun d => ⟨.domRt, d / 8, 0⟩

/-- A register word whose value its own rule calls unpredictable, that no write judges (R75, R84, R85, R191, R263, R392). -/
def verBad (v : Ver) (r : Reg) : Bool :=
  let x := v.get r
  (regBad r x).isSome ||
    (match r.id with
     | .qscCtl => decide (bitsOf x 1 5 < 8 ∨ bitsOf x 1 5 > 16)
     | .kingQuota => bitsOf x 0 11 == 0
     | .fxbCtl => decide (bitsOf x 0 4 < 6 ∨ bitsOf x 0 4 > 14)
     | .eicCtl => decide (bitsOf x 4 4 < 6 ∨ bitsOf x 4 4 > 14)
     | .pdData => r.j == 0 && decide (bitsOf x 11 5 > 16)
     | .eqData => r.j == 0 && bitsOf x 0 1 == 1 && ringLogOut (bitsOf x 3 5) 20
     | .coreEq => r.j == 0 && bitsOf x 0 1 == 1 && ringLogOut (bitsOf x 1 4) 10
     | _ => false)
where
  /-- A ring's size outside its range. -/
  ringLogOut (n top : Nat) : Bool := decide (n < 4 ∨ n > top)

/-- Of a numbered register enabled in both versions, the first of some words whose bits given with it change. -/
def fixedBad (a b : Ver) (en : Reg) (rs : List (Reg × Nat)) : Option Reg :=
  if a.get en % 2 == 1 && b.get en % 2 == 1 then
    (rs.find? fun e => maskBits (a.get e.1) e.2 != maskBits (b.get e.1) e.2).map (·.1)
  else none

/-- The rows of R434 about pools, FIFOs and links enabled in both versions: the first word that changes against them. -/
def liveBad (a b : Ver) : Option Reg :=
  (b.regs.findSome? fun e => if e.1.id == .poolData && e.1.j == 0 then
    fixedBad a b e.1 [(e.1, 0xFFFFE), (⟨.poolData, e.1.i, 1⟩, 2 ^ 64 - 1), (⟨.poolData, e.1.i, 2⟩, 2 ^ 64 - 1),
      (⟨.poolData, e.1.i, 3⟩, 2 ^ 64 - 1)] else none) <|>
  ((List.range 64).findSome? fun f => fixedBad a b ⟨.fifoCfg, f, 0⟩ [(⟨.fifoCfg, f, 0⟩, 0xFFFFFFFF01FFEF00)]) <|>
  ((List.range 8).findSome? fun p => fixedBad a b ⟨.pluCtl, p, 0⟩ [(⟨.pluCtl, p, 0⟩, 0xFF03F0)])

/-- The place of the last of some records that sets a register word. -/
def State.recAt (t : State) (w : Reg) (p : Option Nat) : List CfgRec → Option Nat
  | [] => p
  | r :: l => (t.applyRec r).recAt w (if t.recReg r == some w then some r.pos else p) l

/-- The place in an image of the record that gives a register word its value (R434). -/
def recPlace (img : List Byte) (w : Reg) : Option Nat :=
  ((cfgSects img).getD []).findSome? fun c => ({} : State).recAt w none c.recs

/-- The checks of CFG_STAGE in their order (R434, R453, R475): the error, and the place in the image where the spec gives
one. -/
def State.stageCheck (s : State) (img : List Byte) : Option (Nat × Option Nat) :=
  match cfgFormBad img with
  | some p => some (3, some p)
  | none =>
    let old := s.activeVer
    let v := versionOf img
    if cfgKind img = 1 then some (4, none)
    else if cfgSvnOf img > 64 then some (3, none)
    else if !s.cfgAuth img then some (0xB, none)
    else if cfgSvnOf img < s.fuses.cfgSvn then some (0xC, none)
    else if bitsOf v.modes 0 1 ≠ s.get Fld.hpuStat.MODE ∨ bitsOf v.modes 1 1 ≠ b2n s.ideEn then some (4, none)
    else if s.kingBad old v then some (3, none)
    else (s.routeToPeer v <|> liveBad old v <|> (v.regs.find? fun e => verBad v e.1).map (·.1)).map
      fun w => (3, recPlace img w)

/-- A slot's image is valid (R449): its form, its digest and signature, and its security version. -/
def State.cfgValid (s : State) (img : List Byte) : Bool :=
  (cfgFormBad img).isNone && decide (cfgSvnOf img ≤ 64) && s.cfgAuth img && decide (cfgSvnOf img ≥ s.fuses.cfgSvn)

/-- A slot's image checks for a boot load (R433): it is valid, and so are its modes. -/
def State.bootOk (s : State) (img : List Byte) : Bool :=
  s.cfgValid img &&
    cfgModes img % 4 != 3 &&
    (s.get Fld.glbReset.COUNT == 0 ||
      (bitsOf (cfgModes img) 0 1 == s.get Fld.hpuStat.MODE && bitsOf (cfgModes img) 1 1 == b2n s.ideEn))

/-- The counter and the revocations of configurations (R453): at a commit and at a boot load, from the Active and the
Previous version. -/
def State.cfgCommit (s : State) : State :=
  match s.roles.active, s.roles.prev with
  | some a, some p =>
    let x := s.slotImg a
    let y := s.slotImg p
    let own := if cfgSigned x && cfgSigned y then revokeBits (cfgBlk x) (cfgBlk y) else 0
    { s with fuses := { s.fuses with
        cfgSvn := Nat.max s.fuses.cfgSvn (Nat.min (cfgSvnOf x) (cfgSvnOf y))
        okRev := s.fuses.okRev ||| own } }
  | _, _ => s

end Sys2Proof.Machine
end

