-- ==== Sys2Proof/Machine/CfsOps.lean ====
section
/-!
DEFINITION. How a block takes a version's configuration (R430, R436), the boot load (R433), and castling: its start, its
commit, its rollback and its end (R435 to R439, R442).
-/

namespace Sys2Proof.Machine

/-! ### One block takes a version -/

/-- The state that an effect leaves, or the state as it was where the effect has none. -/
def okOr (r : Res) (s : State) : State := match r with | .next t => t | _ => s

/-- A register word takes a version's values in the bits of a mask, and makes them active where it is shadowed (R12). -/
def State.takeBits (s : State) (v : Ver) (r : Reg) (m : Nat) : State :=
  let t := s.setReg r (wordOf (mergeBits (s.reg r).toNat m (v.get r)))
  if (rowsOf r).any fun f => f.ty == .rwc then t.commit r else t

/-- The words of a block that the device or a version has away from their reset values. -/
def State.blkWords (s : State) (v : Ver) (blk : Nat) : List Reg :=
  (s.regs.map (·.1)).filter (fun r => regBlk r == some blk) ++ v.ofBlk blk

/-- Every configurable word of a block takes a version's values, but for the bits that `keep` gives. -/
def State.takeAll (s : State) (v : Ver) (blk : Nat) (keep : Reg → Nat) : State :=
  forAll (s.blkWords v blk) (fun t r => t.takeBits v r (verMask r - maskBits (verMask r) (keep r))) s

/-- The numbers of a register's copies among a block's words. -/
def copies (l : List Reg) (id : RegId) : List Nat := ((l.filter fun r => r.id == id).map (·.i)).eraseDups

/-- A peer link's PLU_CTL (R295, R436): its fields, HOLD, and EN as firmware writes it unless `boot`. -/
def State.takePlu (s : State) (v : Ver) (p : Nat) (boot : Bool) : State :=
  let q : Fin 8 := Fin.ofNat 8 p
  let s1 := s.takeBits v ⟨.pluCtl, p, 0⟩ 0xFF03F4
  let s2 := okOr (if v.fld (Fld.pluCtl.HOLD p) = 1 then execLinkHold q s1 else execLinkHoldClear q s1) s1
  if boot then s2 else okOr (if v.fld (Fld.pluCtl.EN p) = 1 then execLinkEnable q s2 else execLinkDisable q s2) s2

/-- The route tables become active through a bank swap (R288, R436), and the arbiters' weights and quotas count. DOMAIN, SELF and
HOST are written only while no link is in Init or Joined (R296). -/
def State.takeFxb (s : State) (v : Ver) : State :=
  let up := (List.range 8).any fun p => s.lState p == 3 || s.lState p == 4
  let s1 := s.takeAll v 9 fun r => if up ∧ r.id = .rtCtl then 2 ^ 24 - 1 else 0
  let t := okOr (execFxbCommit s1) s1
  { (t.arbClip fun a => a.kind == akFxbIn).swapRoutes with routesLoaded := true }

/-- Weights, quotas and the slot table of the QSC (R82, R95). -/
def State.takeQsc (s : State) (v : Ver) : State :=
  let t := s.takeAll v 11 fun _ => 0
  ((okOr (execQscCommit t) t).arbClip fun a => a.kind == akGroup).kstExchange

/-- A device-port entry (R315, R327): VALID that sets judges the node, VALID that clears removes the port first. -/
def State.takePort (s : State) (v : Ver) (p : Nat) : State :=
  let r : Reg := ⟨.dpData, p, 0⟩
  let words (t : State) : State := forAll (List.range 4) (fun u j => u.takeBits v ⟨.dpData, p, j⟩ (verMask ⟨.dpData, p, j⟩)) t
  let was := s.on (Fld.dpData.VALID p)
  let s1 := if was && v.get r % 2 == 0 then s.removePort p else s
  let s2 := words s1
  let s3 := if !was && s2.on (Fld.dpData.VALID p) then s2.put (Fld.dpData.REMOVED p) 0 else s2
  if s3.on (Fld.dpData.VALID p) ∧ !s3.reachable (s3.get (Fld.dpData.NODE p)) then s3.removePort p else s3

/-- The STU's domain and device-port entries; a domain that becomes valid gets the library's entry (R424). -/
def State.takeStu (s : State) (v : Ver) : State :=
  let t := s.takeAll v 20 fun r => if r.id == .dpData then 2 ^ 64 - 1 else 0
  let ports := (copies (s.blkWords v 20) .dpData).filter fun p => (List.range 4).any fun j =>
    maskBits (s.reg ⟨.dpData, p, j⟩).toNat (verMask ⟨.dpData, p, j⟩) != maskBits (v.get ⟨.dpData, p, j⟩) (verMask ⟨.dpData, p, j⟩)
  let u := forAll ports (fun u p => u.takePort v p) t
  forAll ((copies (s.blkWords v 20) .pdData).filter fun d => !s.on (Fld.pdData.VALID d)) State.libWrite u

/-- The pools (R264, R269): those that go off, the fields, those that come on. -/
def State.takeBpm (s : State) (v : Ver) : State :=
  let ps := copies (s.blkWords v 29) .poolData
  let want (p : Nat) : Bool := v.get ⟨.poolData, p, 0⟩ % 2 == 1
  let s1 := forAll (ps.filter fun p => s.on (Fld.poolData.EN p) && !want p) (fun t p => okOr (execPoolDisable (Fin.ofNat 4096 p) t) t) s
  let s2 := s1.takeAll v 29 fun r => if r.id == .poolData ∧ r.j = 0 then 1 else 0
  let s3 := forAll (ps.filter fun p => !s.on (Fld.poolData.EN p) && want p) (fun t p => okOr (execPoolEnable (Fin.ofNat 4096 p) t) t) s2
  forAll (ps.filter fun p => s3.on (Fld.poolData.EN p)) (fun t p => t.poolLow p) s3

/-- The banks whose owner a version changes (R373): a Failed bank keeps none. -/
def State.banksMoved (s : State) (v : Ver) : List Nat :=
  below 528 fun b => s.bankSt b != bankFailed &&
    (if s.bankSt b = bankFree then 0 else s.get (Fld.bankOwn.OWNER b)) != SMap.get v.banks 0 b % 2 ^ 16

/-- The SPM is handed a version (R373, R436): each owned bank that changes begins a HANDOVER without CLEAR. -/
def State.spmBegin (s : State) (v : Ver) : State :=
  forAll ((s.banksMoved v).filter fun b => s.bankSt b == bankOwned)
    (fun t b => (t.put (Fld.bankOwn.STATE b) bankReleasing).unborrow b) s

/-- The SPM's registers, and the banks' new owners (R373). -/
def State.takeSpm (s : State) (v : Ver) : State :=
  forAll (s.banksMoved v) (fun t b =>
    let w := SMap.get v.banks 0 b
    if w % 2 ^ 16 = 0 then t.putAll [(Fld.bankOwn.OWNER b, 0), (Fld.bankOwn.TEST_OK b, 0), (Fld.bankOwn.STATE b, bankFree)]
    else t.bankGrant b (w % 2 ^ 16) (decide (w ≥ 2 ^ 16))) (s.takeAll v 31 fun _ => 0)

/-- A rollback before the SPM has switched: the banks that it was about to hand over stay with their owners. -/
def State.spmBack (s : State) : State :=
  forAll (below 528 fun b => s.bankSt b == bankReleasing && (s.bankOp.map (·.bank)) != some b)
    (fun t b => t.put (Fld.bankOwn.STATE b) bankOwned) s

/-- The FIFOs (R371 to R373). -/
def State.takeEvf (s : State) (v : Ver) : State :=
  let fs := (copies (s.blkWords v 32) .fifoCfg ++ copies (s.blkWords v 32) .fifoWm).eraseDups
  let one (t : State) (f : Nat) : State :=
    let off := if v.get ⟨.fifoCfg, f, 0⟩ % 2 = 0 ∧ t.on (Fld.fifoCfg.EN f) then t.put (Fld.fifoCfg.EN f) 0 else t
    let a := okOr (off.writeFifoWm ⟨.fifoWm, f, 0⟩ (v.get ⟨.fifoWm, f, 0⟩)) off
    okOr (a.writeFifoCfg ⟨.fifoCfg, f, 0⟩ (v.get ⟨.fifoCfg, f, 0⟩)) a
  forAll fs one (s.takeBits v ⟨.fifoSel, 0, 0⟩ (verMask ⟨.fifoSel, 0, 0⟩))

/-- An event queue (R383, R392): one that goes off or changes what only EN = 0 lets change is disabled first. -/
def State.takeEq (s : State) (v : Ver) (q : Nat) : State :=
  let r0 : Reg := ⟨.eqData, q, 0⟩
  let r1 : Reg := ⟨.eqData, q, 1⟩
  let on := s.on (Fld.eqData.EN q)
  let want := v.get r0 % 2 == 1
  let fixed := maskBits (s.reg r0).toNat (verMask r0 - 1) == maskBits (v.get r0) (verMask r0 - 1) &&
    maskBits (s.reg r1).toNat (verMask r1) == maskBits (v.get r1) (verMask r1)
  let s1 := if on && !(want && fixed) then s.eqDisable q else s
  let s2 := forAll (List.range 4) (fun t j => t.takeBits v ⟨.eqData, q, j⟩ (verMask ⟨.eqData, q, j⟩ - b2n (j == 0))) s1
  if want && !s2.on (Fld.eqData.EN q) then okOr (execEventQueueEnable (Fin.ofNat 4096 q) s2) s2 else s2

/-- The EIC: queues, sources, cores' rings and the arbiter (R393). -/
def State.takeEic (s : State) (v : Ver) : State :=
  let l := s.blkWords v 33
  let s1 := s.takeAll v 33 fun r => if r.id == .eqData || r.id == .srcCfg || r.id == .coreEq then 2 ^ 64 - 1 else 0
  let s2 := forAll (copies l .eqData) (fun t q => t.takeEq v q) s1
  let s3 := forAll (copies l .srcCfg) (fun t k => t.srcCfg k (v.get ⟨.srcCfg, k, 0⟩)) s2
  let s4 := forAll (copies l .coreEq) (fun t c =>
    let w := v.get ⟨.coreEq, c, 0⟩
    let off := okOr (t.writeCoreEq ⟨.coreEq, c, 0⟩ (w / 2 * 2)) t
    okOr (off.writeCoreEq ⟨.coreEq, c, 0⟩ w) off) s3
  okOr (execEicCommit s4) s4

/-- A slot's configuration (R499, R501): one that goes off becomes Empty; a changed mapping takes the state anew (R497). -/
def State.takeSlot (s : State) (v : Ver) (n : Nat) : State :=
  let r : Reg := ⟨.slotCfg, n, 0⟩
  let old := (s.reg r).toNat
  let s1 := if v.get r % 2 = 0 then okOr (s.writeSlotCfg r (old / 2 * 2)) s else s
  let s2 := s1.takeBits v r (verMask r)
  if v.get r % 2 = 1 ∧ maskBits old 0x1FFFE ≠ maskBits (v.get r) 0x1FFFE then
    { s2 with
      slotDeb := s2.slotDeb.filter fun e => e.1 / 4 != n
      slotOffPend := NSet.del s2.slotOffPend n }.slotDerive n
  else s2

/-- The slots (R499). -/
def State.takeHpc (s : State) (v : Ver) : State :=
  forAll (copies (s.blkWords v 39) .slotCfg) (fun t n => t.takeSlot v n)
    (s.takeAll v 39 fun r => if r.id == .slotCfg then 2 ^ 64 - 1 else 0)

/-- The PCM's new values, under which VDD and the clocks begin to move (R471, R476, R481). -/
def State.takePcm (s : State) (v : Ver) : State :=
  ({ (s.takeAll v 37 fun _ => 0).effUpdate with pcmSw := 1 }).vddSettled

/-- The AGM's values: of the stress counts the larger stands (R481). -/
def State.takeAgm (s : State) (v : Ver) : State :=
  let h := s.get Fld.agmLife.STRESS_H
  let t := s.takeAll v 38 fun _ => 0
  t.put Fld.agmLife.STRESS_H (Nat.max h (v.fld Fld.agmLife.STRESS_H))

/-- A block takes a version's configuration, by its fault-source index (R436). -/
def State.switchBlk (s : State) (v : Ver) (blk : Nat) (boot : Bool) : State :=
  if 1 ≤ blk ∧ blk ≤ 8 then s.takePlu v (blk - 1) boot
  else if blk = 9 then s.takeFxb v
  else if blk = 11 then s.takeQsc v
  else if blk = 20 then s.takeStu v
  else if 21 ≤ blk ∧ blk ≤ 24 then
    let t := s.takeAll v blk fun _ => 0
    okOr (execDmgCommit (Fin.ofNat 4 (blk - 21)) t) t
  else if blk = 29 then s.takeBpm v
  else if blk = 31 then s.takeSpm v
  else if blk = 32 then s.takeEvf v
  else if blk = 33 then s.takeEic v
  else if blk = 34 then (s.takeAll v 34 fun _ => 0).arbClip fun a => a.kind == akMail
  else if blk = 37 then s.takePcm v
  else if blk = 38 then s.takeAgm v
  else if blk = 39 then s.takeHpc v
  else s.takeAll v blk fun _ => 0

/-- What the tables of a block make unpredictable together once it has taken a version, with the rule: windows of ports or
rings that overlap, and addresses beyond HOST in Roloa-native mode (R314, R337, R379). -/
def State.tableBad (s : State) (v : Ver) (blk : Nat) : Option Nat :=
  let want (id : RegId) : List Nat := (copies (s.blkWords v blk) id).filter fun q => v.get ⟨id, q, 0⟩ % 2 == 1
  if blk = 20 then (if s.validPorts.any s.portClash then some 314 else none)
  else if blk = 29 then (if (want .poolData).any s.poolFar then some 337 else none)
  else if blk = 33 then
    (if (want .eqData).any s.eqFar then some 337 else if (want .eqData).any s.eqClash then some 379 else none)
  else none

/-! ### Boot load (R433) -/

/-- The slot that the boot load takes, and whether it is the Previous one. -/
def State.bootSlot (s : State) : Option (Nat × Bool) :=
  let ok (k : Option Nat) : Option Nat := k.filter fun i => s.bootOk (s.slotImg i)
  match ok s.roles.active with
  | some k => some (k, false)
  | none => (ok s.roles.prev).map fun k => (k, true)

/-- A role's slot whose digest is wrong raises the CFS's line (R394). -/
def State.slotDigests (s : State) : State :=
  forAll ([s.roles.active, s.roles.prev].filterMap id) (fun t k =>
    if cfgDigestOk (t.slotImg k) then t else t.logErr 36 3 k 0) s

/-- The CFS loads the boot configuration (R433, R453): every block directly. -/
def State.bootLoad (s0 : State) : State :=
  let s := s0.slotDigests
  match s.bootSlot with
  | none => { s with cfgOn := false }
  | some (k, prev) =>
    let img := s.slotImg k
    let v := versionOf img
    let s1 := if prev then s.setRoles s.roles.prev s.roles.active s.roles.staged else s
    let s2 := forAll (List.range 64) (fun t b => t.switchBlk v b true) { s1 with cfgOn := true, bootPrev := prev }
    let s3 := { s2 with ideEn := bitsOf v.modes 1 1 == 1, pcmSw := 0 }.putAll
      [(Fld.hpuStat.MODE, bitsOf v.modes 0 1), (Fld.dvsec.MODE, bitsOf v.modes 0 1),
       (Fld.glbExpert.ALLOWED, bitsOf v.modes 3 1), (Fld.pcmStat.VDD_MV, s2.vddTarget)]
    s3.effUpdate.cfgCommit

/-! ### Castling -/

/-- All sixty-four bits. -/
def allBlocks : Nat := 2 ^ 64 - 1

/-- The version that a castling makes active. -/
def State.newVer (s : State) : Ver := match s.castle with | some c => versionOf (s.slotImg c.slot) | none => s.activeVer

/-- The version toward which the blocks switch: the new one, or at a rollback the active one (R435, R438). -/
def State.goalVer (s : State) : Ver := if s.get Fld.cfsStat.STATE = 2 then s.newVer else s.activeVer

/-- A version's domain entry differs from the one in force. -/
def State.domChanged (s : State) (v : Ver) (d : Nat) : Bool :=
  (List.range 2).any fun j =>
    maskBits (s.reg ⟨.pdData, d, j⟩).toNat (verMask ⟨.pdData, d, j⟩) != maskBits (v.get ⟨.pdData, d, j⟩) (verMask ⟨.pdData, d, j⟩)

/-- A port's entry differs. -/
def State.portChanged (s : State) (v : Ver) (p : Nat) : Bool :=
  (List.range 4).any fun j =>
    maskBits (s.reg ⟨.dpData, p, j⟩).toNat (verMask ⟨.dpData, p, j⟩) != maskBits (v.get ⟨.dpData, p, j⟩) (verMask ⟨.dpData, p, j⟩)

/-- The STU accepts the change (R436): each changed domain is invalidated with STOP = 0, and lookups in it wait. -/
def State.stuBegin (s : State) (v : Ver) : State :=
  let ds := (copies (s.blkWords v 20) .pdData).filter (s.domChanged v)
  let s1 := forAll ds (fun t d => t.invSteps { scope := 1, stop := false, notify := false, dom := d, sel := 0 }) s
  { s1 with stuHold := ds.foldl NSet.add [] }

/-- A context waits for the descriptor of a selector. -/
def Ctx.waitsSel (x : Ctx) (dom sel : Nat) : Bool :=
  x.live && x.pdom == dom && (match x.wait with
    | .prog sl _ | .lds _ _ sl | .far _ _ sl _ => sl == sel
    | _ => false)

/-- The held lookups read the table (R436), through the entries in force now: a context whose selector the new entry makes
invalid, because the domain is not valid, belongs to another function or has a smaller table, ends (R190, R194). The
invalidations of the changed domains are complete, and nobody sees the old entries any more (R203). -/
def State.stuRelease (s : State) : State :=
  let ks := (s.segRead.filter fun e => e.2 == 3).map (·.1)
  let s1 := { s with stuHold := [], pdOld := s.pdOld.filter fun (o : OldDom) => !NSet.has s.stuHold o.dom }
  forAll ks (fun t k =>
    let d := k / 65536
    let sel := k % 65536
    let t1 := forAll (t.liveCtx.filter fun c => (t.cx c).waitsSel d sel && !t.selOk c sel) (fun u c => u.takeDesc c d sel none) t
    if t1.liveCtx.any fun c => (t1.cx c).waitsSel d sel then
      { t1.readTable d sel with segRead := SMap.set t1.segRead 0 k 1 }
    else { t1 with segRead := SMap.set t1.segRead 0 k 0 }) s1

/-- What a block does when it is handed a configuration: the STU, the EXG, the SPM and the PCM begin; the others wait for their safe
points. -/
def State.handOver (s : State) (v : Ver) (blk : Nat) : State :=
  if blk = 20 then s.stuBegin v
  else if blk = 30 then
    { s with extHold := (below 8 fun n =>
        maskBits (s.reg ⟨.extBind, n, 0⟩).toNat (verMask ⟨.extBind, n, 0⟩) != maskBits (v.get ⟨.extBind, n, 0⟩) (verMask ⟨.extBind, n, 0⟩)) }
  else if blk = 31 then s.spmBegin v
  else if blk = 37 then s.takePcm v
  else s

/-- A context is bound to a port. -/
def State.boundTo (s : State) (p : Nat) : Bool :=
  s.liveCtx.any fun c => match (s.cx c).regs.bound with | some b => b.1 == p | none => false

/-- A version changes an event target: its own words, or a source that names it (R393). -/
def State.tgtChanged (s : State) (v : Ver) (t : Nat) : Bool :=
  let differs (r : Reg) : Bool := maskBits (s.reg r).toNat (verMask r) != maskBits (v.get r) (verMask r)
  (List.range 4).any (fun j => differs (if t < 4096 then ⟨.eqData, t, j⟩ else ⟨.coreEq, t - 4096, j⟩)) ||
    (copies (s.blkWords v 33) .srcCfg).any fun k => s.srcTgt k == t && differs ⟨.srcCfg, k, 0⟩

/-- The group of arbiters whose window start is a block's safe point (R95, R269, R436). -/
def winOf (blk : Nat) : Option WinId :=
  match blk with
  | 9 => some .fxb
  | 11 => some .qsc
  | 21 => some (.dmg 0)
  | 22 => some (.dmg 1)
  | 23 => some (.dmg 2)
  | 24 => some (.dmg 3)
  | 33 => some .eic
  | 34 => some .mailbox
  | _ => none

/-- A block is at its safe point (R95, R269, R393, R425, R436, R442): the blocks with a windowed arbiter while it stands at a
window start, the EIC besides while no target that changes has a record in entry, the BPM while no allocation waits for its ring
to be read, the SPM while no command of BANK_CMD runs. -/
def State.safePoint (s : State) (v : Ver) (blk : Nat) : Bool :=
  !s.fwHolds blk && (NSet.has s.rstSw blk ||
    (if blk = 20 then
      !(s.stuHold.any fun d => s.invBusy { scope := 1, stop := false, notify := false, dom := d, sel := 0 }) &&
        !((copies (s.blkWords v 20) .dpData).any fun p => s.portChanged v p && s.boundTo p)
    else if blk = 30 then s.extHold.all fun n => s.extOut n == 0
    else if blk = 37 then s.pcmSafe
    else if blk = 31 then s.bankOp.isNone
    else if blk = 29 then !(s.pool.any fun e => e.2.refill && !e.2.waiters.isEmpty)
    else (match winOf blk with
      | some g => s.atWindow g
      | none => true) && !(decide (blk = 33) && s.eic.any fun e => e.2.held.isSome && s.tgtChanged v e.1)))

/-- A block switches. -/
def State.blkSwitch (s : State) (v : Ver) (blk : Nat) : State :=
  if blk = 20 then ((s.switchBlk v 20 false).stuRelease)
  else if blk = 30 then { s.switchBlk v 30 false with extHold := [] }
  else if blk = 37 then s
  else s.switchBlk v blk false

/-- A castling starts (R435): the blocks that participate are handed the version of a slot. -/
def State.castleStart (s : State) (slot : Nat) (byRollback : Bool) (win : Option Nat) : State :=
  let v := versionOf (s.slotImg slot)
  let part := partMap s.activeVer v
  let s1 := { s with
    castle := some { slot := slot, byRollback := byRollback, startTs := s.time % 2 ^ 32, win := win }
    rstSw := [] }.putAll
    [(Fld.cfsStat.STATE, 2), (Fld.cfsPart.MAP, part), (Fld.cfsSwmap.MAP, allBlocks - part)]
  forAll (below 64 fun b => part.testBit b) (fun t b => t.handOver v b) s1

/-- The command that asked for the castling answers (R420, R438). -/
def State.castAnswer (s : State) (err : Nat) (rolled : Bool) : State :=
  match s.castle.bind (·.win) with
  | none => s
  | some w => match s.acp.find? fun c => c.win == w with
    | none => s
    | some c => s.acpAnswer c err 0 (toBytes 4 (s.get Fld.cfsStat.EPOCH + (if c.opc = 0x4C then 256 * b2n rolled else 0)))

/-- The castling is over. -/
def State.castleOver (s : State) : Res :=
  ({ s with castle := none, stuHold := [], extHold := [], rstSw := [] }.putAll
    [(Fld.cfsStat.STATE, 0), (Fld.cfsPart.MAP, 0), (Fld.cfsSwmap.MAP, 0)]).applyDeferred

/-- The epochs move down one place in EPOCH_LOG, and a new one enters (R432, R441). -/
def State.logEpoch (s : State) (fs : List (Field × Nat)) : State :=
  (forAll (List.range 15).reverse (fun t k =>
    (t.setReg ⟨.epochLog, k + 1, 0⟩ (t.reg ⟨.epochLog, k, 0⟩)).setReg ⟨.epochLog, k + 1, 1⟩ (t.reg ⟨.epochLog, k, 1⟩)) s).putAll fs

/-- The roles after a commit (R435, R439). -/
def State.castleRoles (s : State) (c : Castle) : State :=
  if c.byRollback then s.setRoles s.roles.prev s.roles.active s.roles.staged
  else s.setRoles s.roles.staged s.roles.active none

/-- The commit (R435): the QMU switches, the epoch rises, the roles move, and everyone is told. -/
def State.castleCommit (s : State) (c : Castle) : State :=
  let v := versionOf (s.slotImg c.slot)
  let e := (s.get Fld.cfsStat.EPOCH + 1) % 256
  let s1 := if (s.get Fld.cfsPart.MAP).testBit 10 then s.switchBlk v 10 false else s
  let s2 := { (s1.castleRoles c) with cfgOn := true }.putAll
    [(Fld.cfsSwmap.MAP, allBlocks), (Fld.cfsStat.EPOCH, e), (Fld.dvsec.EPOCH, e), (Fld.glbExpert.ALLOWED, bitsOf v.modes 3 1)]
  let s3 := if bitsOf v.modes 3 1 = 0 then s2.put Fld.glbExpert.UNLOCKED 0 else s2
  let s4 := s3.logEpoch
    [(Fld.epochLog.EPOCH 0, e), (Fld.epochLog.VALID 0, 1), (Fld.epochLog.BY_ROLLBACK 0, b2n c.byRollback),
     (Fld.epochLog.VERSION 0, cfgVersion (s.slotImg c.slot)), (Fld.epochLog.START_TS 0, c.startTs),
     (Fld.epochLog.COMMIT_TS 0, s.time % 2 ^ 32)]
  ((s4.noticeAll Fld.mbStat.N_CFG).raise 0x10410).cfgCommit.castAnswer 0 false

/-- Every bit of CFS_SWMAP but the QMU's is set (R435), and no command of firmware writes the QMU's registers (R425). -/
def State.allSwitched (s : State) : Bool := (s.get Fld.cfsSwmap.MAP ||| 2 ^ 10) == allBlocks && !s.fwHolds 10

/-- The last block is back (R438): the castling has been rolled back. -/
def State.rolledBack (s : State) : Res :=
  let failed := s.get Fld.cfsStat.STATE == 4
  let s1 := (if failed then s else s.castAnswer 0 true).put Fld.cfsStat.ROLLED_BACK 1
  let s2 := if failed && s1.get (Fld.errLog.KIND 36) == 10 then s1.put (Fld.errLog.VALID 36) 0 else s1
  (s2.raise 0x10410).castleOver

/-- The blocks that are still to switch back: a participant's CFS_SWMAP bit falls as it does. -/
def State.stillBack (s : State) : Bool := (s.get Fld.cfsSwmap.MAP &&& s.get Fld.cfsPart.MAP) != 0

/-- A rollback begins (R438): the blocks that have switched are handed the active version; one that has not keeps it. -/
def State.rollBack (s : State) (blk : Nat) : State :=
  let v := s.activeVer
  let part := s.get Fld.cfsPart.MAP
  let sw := s.get Fld.cfsSwmap.MAP
  let ts := match s.castle with | some c => c.startTs | none => 0
  let s1 := if s.on Fld.failLog.VALID then s
    else s.putAll [(Fld.failLog.VALID, 1), (Fld.failLog.BLOCK, blk), (Fld.failLog.START_TS, ts)]
  let s1 := if part.testBit 31 && !sw.testBit 31 then s1.spmBack else s1
  let s2 := { (if (part.testBit 20 && !sw.testBit 20) then s1.stuRelease else s1) with
    extHold := []
    rstSw := [] }.put Fld.cfsStat.STATE 3
  forAll (below 64 fun b => part.testBit b && (sw.testBit b || b == 37)) (fun t b => t.handOver v b) s2

/-- The lowest participant that has not switched (R441). -/
def State.notSwitched (s : State) : Nat :=
  ((below 64 fun b => (s.get Fld.cfsPart.MAP).testBit b && !(s.get Fld.cfsSwmap.MAP).testBit b).head?).getD 0

end Sys2Proof.Machine
end

