-- ==== Sys2Proof/Machine/AgmOps.lean ====
section
/-!
DEFINITION. Margin plans (R475 to R480): the planner, the image that it builds, its staging, and what a castling's end means
for it.
-/

namespace Sys2Proof.Machine

/-! ### The computation of R477 -/

/-- A cluster's DEG_MV. -/
def State.deg (s : State) (c : Nat) : Nat := s.get (Fld.agmDeg.DEG_MV c)

/-- need[c] at given ceilings. -/
def State.need (s : State) (ceil : List Nat) (c : Nat) : Nat :=
  s.vtab (ceil.getD c 0) + s.deg c + s.get Fld.agmCtl.RESERVE_MV

/-- The cluster whose ceiling the loop lowers: a non-King cluster, then a King cluster above step 8, then any. -/
def State.planPick (s : State) (ceil top : List Nat) : Option Nat :=
  (top.find? fun c => !s.kingCluster c) <|> (top.find? fun c => decide (ceil.getD c 0 > 8)) <|> top.head?

/-- The loop, at most `n` turns: the ceilings, VDD, and whether the plan stands at the rail limit. -/
def State.planLoop (s : State) (ceil : List Nat) : Nat → List Nat × Nat × Bool
  | 0 => (ceil, 850, true)
  | n + 1 =>
    let vdd := (List.range 8).foldl (fun m c => Nat.max m (s.need ceil c)) 0
    if vdd ≤ 850 then (ceil, vdd, false)
    else match s.planPick ceil ((List.range 8).filter fun c => s.need ceil c == vdd && decide (ceil.getD c 0 > 0)) with
      | none => (ceil, 850, true)
      | some c => s.planLoop (setAt ceil c (ceil.getD c 0 - 1)) n

/-- The plan's ceilings, GB_MV and LIMIT: AGM_TGT's bytes step down by one at most 255 times each. -/
def State.planCalc (s : State) : List Nat × Nat × Bool :=
  let r := s.planLoop ((List.range 8).map fun c => s.regByte .agmTgt 0 0 c) 2041
  (r.1, r.2.1 - s.vtab (r.1.foldl Nat.max 0), r.2.2)

/-! ### Lanes (R479) -/

/-- Eyes below the limit. -/
def State.eyeLow (s : State) (m : Nat) : Bool := decide (s.get (Fld.agmLeye.MIN_EYE m) < s.get Fld.agmCtl.LANE_MIN)

/-- A module's lane choices in a plan: AGM_LREP, and the worst lane where its eye is below the limit and a spare is left. -/
def State.planLanes (s : State) (m : Nat) : Nat :=
  let r := (s.reg ⟨.agmLrep, m, 0⟩).toNat
  if s.eyeLow m ∧ s.get (Fld.agmLeye.SPARES m) > 0 then putBits r (s.get (Fld.agmLeye.WORST m)) 1 1 else r

/-! ### The image (R475) -/

/-- A section of an image as bytes taken from it, with its number of records. -/
structure RawSect where
  blk : Nat
  recs : List (List Byte)
deriving DecidableEq, Repr

/-- A section's bytes. -/
def RawSect.bytes (c : RawSect) : List Byte :=
  toBytes 1 c.blk ++ toBytes 3 0 ++ toBytes 4 c.recs.length ++ toBytes 8 0 ++ c.recs.flatten

/-- The sections of an image, with each record's 16 bytes as they stand. -/
def rawSects (img : List Byte) : List RawSect :=
  ((cfgSects img).getD []).map fun c => { blk := c.blk, recs := c.recs.map fun r => (img.drop r.pos).take 16 }

/-- A 64-bit record of a register at a BAR0 offset. -/
def recBytes (off v : Nat) : List Byte := toBytes 4 (off + 2 ^ 26) ++ toBytes 4 0 ++ toBytes 8 v

/-- A section with a register's records replaced by their new value, or with a record of it appended. -/
def RawSect.setRec (c : RawSect) (off v : Nat) : RawSect :=
  let hit (b : List Byte) : Bool := bitsOf (imgNum b 0 4) 0 26 == off
  if c.recs.any hit then { c with recs := c.recs.map fun b => if hit b then recBytes off v else b }
  else { c with recs := c.recs ++ [recBytes off v] }

/-- The sections of a plan: a section that the Active version does not have is appended. -/
def planSects (l : List RawSect) (blk : Nat) (rs : List (Nat × Nat)) : List RawSect :=
  let l1 := if l.any fun c => c.blk == blk then l else l ++ [{ blk := blk, recs := [] }]
  l1.map fun c => if c.blk = blk then rs.foldl (fun c r => c.setRec r.1 r.2) c else c

/-- The plan's VERSION: the next plan sequence number after those in the slots. -/
def State.planVersion (s : State) : Nat :=
  let ks := (List.range 4).filter fun k => cfgKind (s.slotImg k) == 1
  0x80000000 + 1 + ks.foldl (fun m k => Nat.max m (cfgVersion (s.slotImg k) - 0x80000000)) 0

/-- The plan's image, built from the Active version's. -/
def State.planImage (s : State) (act : List Byte) (ceil : List Nat) (gb : Nat) : List Byte :=
  let pcm := [(0x2250010, ofBytes (ceil.map fun k => BitVec.ofNat 8 k)), (0x2250008, gb)]
  let lrep := (List.range 12).filterMap fun m =>
    if s.planLanes m = (versionOf act).get ⟨.agmLrep, m, 0⟩ then none else some (0x2260200 + 8 * m, s.planLanes m)
  let agm := lrep ++ [(0x2260018, s.get Fld.agmLife.STRESS_H)]
  let l := planSects (planSects (rawSects act) 37 pcm) 38 agm
  let body := l.flatMap RawSect.bytes
  let head := toBytes 4 0x47464342 ++ [1, 1, 0, 0] ++ toBytes 4 s.planVersion ++ toBytes 4 (0x80 + body.length) ++
    (act.drop 0x10).take 4 ++ toBytes 2 l.length ++ toBytes 2 0 ++ (act.drop 0x18).take 4 ++ toBytes 1 (cfgSvnOf act) ++ toBytes 3 0
  let dig := sha384 (head ++ List.replicate 96 0 ++ body)
  head ++ dig ++ planTag dig ++ body

/-! ### Staging -/

/-- The lowest Spare slot (R431). -/
def State.spareSlot (s : State) : Nat :=
  let r := s.roles
  ((below 4 fun k => some k != r.active && some k != r.prev && some k != r.staged).head?).getD 0

/-- A slot is written, by firmware or by the planner. -/
def State.writeSlot (s : State) (k : Nat) (img : List Byte) : State := { s with cfgSlot := SMap.set s.cfgSlot [] k img }

/-- The Staged slot holds a plan. -/
def State.stagedPlan (s : State) : Bool :=
  match s.roles.staged with | some k => cfgKind (s.slotImg k) == 1 | none => false

/-- The Active version is a plan. -/
def State.activePlan (s : State) : Bool :=
  match s.activeSlot with | some k => cfgKind (s.slotImg k) == 1 | none => false

/-- The key under which a plan's DEG_MV of a cluster is kept. -/
def degKey (ver c : Nat) : Nat := (ver - 0x80000000) * 8 + c

/-- Some King cluster's effective ceiling, as plan, cap and throttle give it, is below step 8. -/
def State.kingLow (s : State) : Bool := s.kingClusters.any fun c => decide (s.effTarget c < 8)

/-- A King cluster has fallen below the floor since `old`: AGM_EVENT, and CAUSE 6 (R478). -/
def State.floorNote (s old : State) : State :=
  if s.kingLow && !old.kingLow then (s.raise 0x10411).put Fld.agmPlan.CAUSE 6 else s

/-- A castling of a slot starts; a plan's shows in PSTATE (R480). -/
def State.castle1 (s : State) (k : Nat) (byRollback : Bool) (win : Option Nat) : State :=
  let t := (s.castleStart k byRollback win).floorNote s
  if !byRollback && cfgKind (s.slotImg k) == 1 then t.put Fld.agmPlan.PSTATE 4 else t

/-- The staged plan is castled where AUTO or an accept asks for it and castling is Idle. -/
def State.planCastle (s : State) : State :=
  match s.roles.staged with
  | some k => if s.stagedPlan ∧ s.castIdle then s.castle1 k false none else s
  | none => s

/-- The plan stands in the Staged slot: with AUTO and no deferral it is castled. -/
def State.staged1 (s : State) (k : Nat) (img : List Byte) : State :=
  let t := ({ s with planWait := [] }.writeSlot k img).putAll
    [(Fld.agmPlan.PSTATE, if s.planDefer then 3 else 2), (Fld.agmPlan.VERSION, cfgVersion img)]
  if s.on Fld.agmCtl.AUTO ∧ !s.planDefer then t.planCastle else t

/-- A built plan goes to the Staged slot, or waits for it (R480). -/
def State.planStage (s : State) (img : List Byte) : State :=
  match s.roles.staged with
  | some k =>
    if s.stagedPlan then s.staged1 k img
    else ({ s with planWait := img }.put Fld.agmPlan.PSTATE 5).raise 0x10411
  | none =>
    let k := s.spareSlot
    (s.setRoles s.roles.active s.roles.prev (some k)).staged1 k img

/-- The planner builds a plan with its cause (R477): none while no version is active, which a plan would differ from. -/
def State.planBuild (s : State) (cause : Nat) : State :=
  let s1 := { s with planWant := none }.put Fld.agmPlan.CAUSE cause
  match s1.activeSlot with
  | none => s1
  | some k =>
    let r := s1.planCalc
    let img := s1.planImage (s1.slotImg k) r.1 r.2.1
    let ver := cfgVersion img
    let s2 := { s1 with planDeg := (List.range 8).foldl (fun m c => SMap.set m 0 (degKey ver c) (s1.deg c)) s1.planDeg }
    (s2.put Fld.agmPlan.LIMIT (b2n r.2.2)).planStage img

/-- A trigger of R477: the planner waits for castling to be Idle (R442). -/
def State.planTrigger (s : State) (cause : Nat) : State :=
  if s.castIdle then s.planBuild cause else { s with planWant := some cause }

/-- What the planner does once castling is Idle: it builds the plan that waits, or stages the one that waited for the Staged
slot, built anew from what is Active now. -/
def State.planNow (s : State) : State :=
  if !s.castIdle then s
  else match s.planWant with
    | some cause => s.planBuild cause
    | none => if !s.planWait.isEmpty && s.roles.staged.isNone then s.planBuild (s.get Fld.agmPlan.CAUSE) else s

/-! ### A castling's end -/

/-- The DEG_MV that the active plan was built with; 0 where no plan is active. -/
def State.degUsed (s : State) (c : Nat) : Nat :=
  if s.activePlan then SMap.get s.planDeg 0 (degKey (s.slotVer s.activeSlot) c) else 0

/-- After a commit (R477, R480): a plan that has become Active ends its course; a KIND 0 version whose PCM or AGM fields
differ from the version it replaces asks for a new plan. -/
def State.planCommit (s : State) (old : Ver) : State :=
  if s.activePlan then s.put Fld.agmPlan.PSTATE 0
  else if differIn old s.activeVer 37 || differIn old s.activeVer 38 then { s with planWant := some 2 }
  else s

/-- After a rollback a plan stays Staged (R485). -/
def State.planBack (s : State) : State :=
  if s.get Fld.agmPlan.PSTATE = 4 then s.put Fld.agmPlan.PSTATE (if s.planDefer then 3 else 2) else s

end Sys2Proof.Machine
end

