-- ==== Sys2Proof/Machine/Agm.lean ====
section
/-!
DEFINITION. Ageing and margin planning: measurements, the throttle, the planner's timer, and the ACP commands MARGIN and
LIFE_REPORT (R472 to R484).
-/

namespace Sys2Proof.Machine

/-! ### Measurements (R473, R474, R476, R477) -/

/-- The weighted value of a measurement taken under load (R474); how its quarter is rounded is not stated. -/
def State.noisyDeg (s : State) (c mv : Nat) : Nat :=
  let x := 3 * s.deg c + mv
  if x % 4 = 0 then x / 4 else x / 4 + s.freeVal.toNat % 2

/-- A cap has engaged since `old`. -/
def State.capNew (s old : State) : Bool := (List.range 8).any fun c => decide (stepOr s.cap c 25 < stepOr old.cap c 25)

/-- The planner's trigger after a cluster's measurement: the floor, a new cap, or a drift of REPLAN_MV (R477). -/
def State.measTrigger (s old : State) : State :=
  if s.kingLow && !old.kingLow then (s.raise 0x10411).planTrigger 6
  else if s.capNew old then s.planTrigger 3
  else if (List.range 8).any fun c => decide (s.deg c ≥ s.degUsed c + s.get Fld.agmCtl.REPLAN_MV) then s.planTrigger 2
  else s

/-- A cluster's measurement. -/
def State.measCluster (s : State) (c mv : Nat) (noisy : Bool) : State :=
  let v := if noisy then s.noisyDeg c mv else mv
  let s1 := (if noisy then s.takeFree else s).putAll
    [(Fld.agmDeg.DEG_MV c, v), (Fld.agmDeg.NOISY c, b2n noisy), (Fld.agmDeg.SAMPLES c, s.get (Fld.agmDeg.SAMPLES c) + 1)]
  s1.capUpdate.measTrigger s

/-- A replica array's measurement: VDD_SRAM is 800 mV (R506); below VMIN the margin is not stated. -/
def State.measSram (s : State) (g vmin : Nat) : State :=
  let s1 := s.put (Fld.agmSram.VMIN_MV g) vmin
  if vmin ≤ 800 then s1.put (Fld.agmSram.MARGIN_MV g) (800 - vmin)
  else s1.takeFree.put (Fld.agmSram.MARGIN_MV g) s1.freeVal.toNat

/-- A module's measurement (R479): a lane below the limit is repaired by a plan, or SPARES_OUT sets. -/
def State.measLane (s : State) (m eye lane spares : Nat) : State :=
  let s1 := s.putAll [(Fld.agmLeye.MIN_EYE m, eye), (Fld.agmLeye.WORST m, lane), (Fld.agmLeye.SPARES m, spares)]
  if !s1.eyeLow m || (s1.reg ⟨.agmLrep, m, 0⟩).getLsbD lane then s1
  else if spares = 0 then (s1.put (Fld.agmLeye.SPARES_OUT m) 1).raise 0x10411
  else s1.planTrigger 4

/-- An ageing measurement completes (R473 to R477, R479). -/
def execMeasurement (x : Meas) (s : State) : Res :=
  match x with
  | .cluster c mv noisy => (s.measCluster c.val mv.toNat noisy).done
  | .sram g vmin => (s.measSram g.val vmin.toNat).done
  | .lane m eye lane spares => (s.measLane m.val eye.toNat lane.toNat spares.toNat).done

/-- REPLAN_H hours have passed since a plan was last made active (R477). -/
def execReplanTimer (s : State) : Res := (s.planTrigger 1).done

/-! ### The throttle (R472) -/

/-- The clusters that a throttle step lowers. -/
def State.throttled (s : State) : List Nat :=
  let others := (below 8 fun c => !s.kingCluster c && decide (s.effTarget c > 0))
  if others.isEmpty then below 8 fun c => s.kingCluster c && decide (s.effTarget c > 0) else others

/-- The throttle's 100 µs have passed, with the hottest junction at `tj` °C (R472): above T_THROT one more step, and else
the throttle ends. -/
def execThrottleStep (tj : BitVec 8) (s : State) : Res :=
  let s1 := s.put Fld.pcmStat.TJ tj.toNat
  if tj.toNat > s.get Fld.pcmCtl.T_THROT then
    let s2 := ({ s1 with throttle := s1.throttled.foldl (fun m c => SMap.set m 0 c (s1.effTarget c)) s1.throttle }.put
      Fld.pcmStat.THROTTLE 1).effUpdate
    (if s2.kingLow && !s.kingLow then (s2.raise 0x10411).planTrigger 6 else s2).done
  else (({ s1 with throttle := [] }.put Fld.pcmStat.THROTTLE 0).effUpdate).done

/-! ### MARGIN (R480) -/

/-- MARGIN with one of its subcommands. -/
def State.margin (s : State) (m : Fin 1024) (sub : Nat) (k : AcpCmd → Res) : Res :=
  s.acpTurn m 0x50 [] fun c => if c.fld 0 0 2 = sub then k c else .next s

/-- The plan status, which every subcommand answers. -/
def State.planStatus (s : State) : List Byte := toBytes 8 (s.reg ⟨.agmPlan, 0, 0⟩).toNat

/-- The staged plan is not the one that the command names. -/
def State.otherPlan (s : State) (c : AcpCmd) : Bool := s.slotVer s.roles.staged != c.fld 4 0 32

/-- MARGIN status. -/
def execMarginStatus (m : Fin 1024) (s : State) : Res := s.margin m 0 fun c => s.acpOk c s.planStatus

/-- MARGIN defer. -/
def execMarginDefer (m : Fin 1024) (s : State) : Res :=
  s.margin m 1 fun c => s.checked c [(!s.stagedPlan || s.otherPlan c, aeState, 0)]
    (let t := { s with planDefer := true }.put Fld.agmPlan.PSTATE (if s.get Fld.agmPlan.PSTATE = 4 then 4 else 3)
     t.acpOk c t.planStatus)

/-- MARGIN accept: with no plan staged the planner builds one (R477). -/
def execMarginAccept (m : Fin 1024) (s : State) : Res :=
  s.margin m 2 fun c => s.checked c [(s.stagedPlan && (s.otherPlan c || !s.castIdle), aeState, 0)]
    (let s1 := { s with planDefer := false }
     let t := if s.stagedPlan then s1.planCastle else s1.planTrigger 5
     t.acpOk c t.planStatus)

/-- MARGIN roll back: plans wait afterwards. -/
def execMarginRollBack (m : Fin 1024) (s : State) : Res :=
  s.margin m 3 fun c =>
    match s.roles.prev.filter fun k => s.cfgValid (s.slotImg k) with
    | none => s.acpErr c aeState 0
    | some k => s.checked c [(!s.activePlan || !s.castIdle, aeState, 0)]
      (let t := { s with planDefer := true }.castle1 k true none
       t.acpOk c t.planStatus)

/-! ### LIFE_REPORT (R482) -/

/-- A projection in hours: while fewer than 24 stress-hours are recorded it is all ones, and else the fit that R482 leaves to
fused values. -/
def State.hours (s : State) (k : Nat) : Nat :=
  if s.get Fld.agmLife.STRESS_H < 24 then 0xFFFFFFFF else (Config.freeWord (s.freeCnt + k)).toNat % 2 ^ 32

/-- The SRAM group with the worst VMIN. -/
def State.worstSram (s : State) : Nat :=
  (List.range 6).foldl (fun b g => if s.get (Fld.agmSram.VMIN_MV g) > s.get (Fld.agmSram.VMIN_MV b) then g else b) 0

/-- The projections with their kind and index: the clusters, the worst SRAM group, the modules. -/
def State.projections (s : State) : List (Nat × Nat × Nat) :=
  ((List.range 8).map fun c => (s.hours c, 0, c)) ++ [(s.hours 20, 1, s.worstSram)] ++
    (List.range 12).map fun m => (s.hours (8 + m), 2, m)

/-- The lowest of them. -/
def State.limiter (s : State) : Nat × Nat × Nat :=
  s.projections.foldl (fun b x => if x.1 < b.1 then x else b) (s.hours 0, 0, 0)

/-- The bits set in a word. -/
def popBits (v : Nat) : Nat := ((List.range 64).filter fun i => v.testBit i).length

/-- The report's 304 bytes. -/
def State.lifeReport (s : State) : List Byte :=
  let lim := s.limiter
  toBytes 4 0x4546494C ++ toBytes 4 1 ++ toBytes 4 (s.get Fld.agmLife.STRESS_H) ++ toBytes 4 lim.1 ++
    toBytes 1 lim.2.1 ++ toBytes 1 lim.2.2 ++ toBytes 2 0 ++ toBytes 2 (s.get Fld.pcmStat.VDD_MV) ++ toBytes 42 0 ++
    ((List.range 8).flatMap fun c =>
      toBytes 2 (s.deg c) ++ toBytes 2 (ofSigned 16 (toSigned 12 (s.get (Fld.agmDeg.HEAD_MV c)))) ++ toBytes 4 (s.effStep c) ++
        toBytes 8 (s.hours c)) ++
    ((List.range 12).flatMap fun m =>
      toBytes 1 (s.get (Fld.agmLeye.MIN_EYE m)) ++ toBytes 1 (popBits (SMap.get s.laneRep 0 m)) ++
        toBytes 2 (s.get (Fld.agmLeye.SPARES m)) ++ toBytes 4 (s.hours (8 + m))) ++
    toBytes 2 (s.get (Fld.agmSram.VMIN_MV s.worstSram)) ++ toBytes 2 (s.get (Fld.agmSram.MARGIN_MV s.worstSram)) ++
    toBytes 4 (s.hours 20) ++ toBytes 8 0

/-- LIFE_REPORT (R482). -/
def execLifeReport (m : Fin 1024) (s : State) : Res :=
  s.acpTurn m 0x51 [] fun c =>
    s.checked c [(!s.hostOk 0, aeHost, 0)]
      (let t := { (s.bulkWrite (c.fld 0 0 57) s.lifeReport) with freeCnt := s.freeCnt + 21 }
       (t.put Fld.agmLife.REMAIN_H s.limiter.1).acpOk c (toBytes 4 304))

end Sys2Proof.Machine
end

