-- ==== Sys2Proof/Machine/Alu.lean ====
section
/-!
DEFINITION. The meanings of the move, address-register, arithmetic, logic, multiply, divide and accumulator
instructions (R163, R165 to R173).
-/

namespace Sys2Proof.Machine

/-- Prefixes of most register instructions: W N P L. -/
def opWNPL (rd : List Nat) (cf : Bool := false) : Op :=
  { w := true, nib := true, rep := true, lock := true, rd := rd, cf := cf }

/-- An instruction that writes Dx and CF from Dx and src at its width (R165). -/
def alu (h : Hdr) (d : Fin 16) (src : Src) (usesCF : Bool) (s : State)
    (f : Flags → Nat → Word → Word → AluOut) (writes : Bool := true) : Res :=
  simple (opWNPL (d.val :: usesSrc src) usesCF) h s fun x =>
    let r := f x.regs.cf (widthBits h.width) (x.dreg d.val) (x.src src)
    (if writes then x.setD d.val r.val else x).setCF r.cf

/-- MOV (R163). -/
def execMov (h : Hdr) (d : Fin 16) (src : Src) (s : State) : Res :=
  simple (opWNPL (usesSrc src)) h s fun x => x.setD d.val (BitVec.ofNat 64 (zx (widthBits h.width) (x.src src)))

/-- MOVA (R163). -/
def execMova (h : Hdr) (a : Fin 16) (src : Src) (s : State) : Res :=
  simple { rep := !(usesSrc src).isEmpty, lock := true, rd := usesSrc src } h s fun x => x.setA a.val (x.src src)

/-- MOVD Dx, Ay (R163). -/
def execMovd (h : Hdr) (d : Fin 16) (a : Fin 16) (s : State) : Res :=
  simple { lock := true } h s fun x => x.setD d.val (x.areg a.val)

/-- ADDA (R163): modulo 2^64, no flags. -/
def execAdda (h : Hdr) (a : Fin 16) (src : Src) (s : State) : Res :=
  simple { rep := true, lock := true, rd := usesSrc src } h s fun x => x.setA a.val (x.areg a.val + x.src src)

/-- SUBA (R163). -/
def execSuba (h : Hdr) (a : Fin 16) (src : Src) (s : State) : Res :=
  simple { rep := true, lock := true, rd := usesSrc src } h s fun x => x.setA a.val (x.areg a.val - x.src src)

/-- CMPA's second operand. -/
def Ctx.asrc (x : Ctx) : ASrc → Word
  | .areg a => x.areg a.val
  | .dreg d => x.dreg d.val

/-- The D registers CMPA reads. -/
def usesASrc : ASrc → List Nat
  | .areg _ => []
  | .dreg d => [d.val]

/-- CMPA (R163): Z and C only. -/
def execCmpa (h : Hdr) (a : Fin 16) (src : ASrc) (s : State) : Res :=
  simple { lock := true, rd := usesASrc src } h s fun x =>
    let y := x.asrc src
    x.setZC (x.areg a.val == y) (decide ((x.areg a.val).toNat < y.toNat))

/-- The special registers that MOVS reads (R149); a product or quotient still pending is unpredictable and reads a
free value. -/
def State.special (s : State) (c n : Nat) : Word :=
  let x := s.cx c
  match n with
  | 0 => BitVec.ofNat 64 (x.regs.cpc.sel * 2 ^ 48 + x.regs.cpc.off)
  | 1 => x.regs.cf.word
  | 2 => if x.regs.mul.isSome then s.freeVal else x.regs.mh
  | 3 => if x.regs.mul.isSome then s.freeVal else x.regs.ml
  | 4 => BitVec.ofNat 64 x.regs.mst
  | 5 => if x.regs.div.isSome then s.freeVal else x.regs.dq
  | 6 => if x.regs.div.isSome then s.freeVal else x.regs.dm
  | 7 => x.regs.repc
  | 9 => BitVec.ofNat 64 x.qid
  | 10 => BitVec.ofNat 64 c
  | 11 => match x.clock with | some k => BitVec.ofNat 64 k | none => BitVec.ofNat 64 (2 ^ 64 - 1)
  | 12 => BitVec.ofNat 64 x.epoch
  | 13 => BitVec.ofNat 64 s.time
  | _ => 0

/-- A read of that special register draws a free value (R149, R170). -/
def State.specialFree (s : State) (c n : Nat) : Bool :=
  let r := (s.cx c).regs
  ((n == 2 || n == 3) && r.mul.isSome) || ((n == 5 || n == 6) && r.div.isSome)

/-- MOVS Dx, special (R149, R163); numbers 14 and 15 end the program with 0x13 (R147). -/
def execMovs (h : Hdr) (d : Fin 16) (sp : Fin 16) (s : State) : Res :=
  issue { lock := true, cf := sp.val == 1, cls := decide (sp.val ≥ 14) } h s fun s1 =>
    let v := s1.special h.ctx.val sp.val
    let s2 := if s1.specialFree h.ctx.val sp.val then s1.takeFree else s1
    .next (s2.updCx h.ctx.val fun x => (x.setD d.val v).iterate h)

/-- MOVS CF, Dy (R163). -/
def execMovsCf (h : Hdr) (e : Fin 16) (s : State) : Res :=
  simple { lock := true, rd := [e.val] } h s fun x => x.setCF (Flags.ofWord (x.dreg e.val))

/-- XCHG (R163). -/
def execXchg (h : Hdr) (d : Fin 16) (e : Fin 16) (s : State) : Res :=
  simple { lock := true, rd := [d.val, e.val], at_ := 1 } h s fun x =>
    (x.setD d.val (x.dreg e.val)).setD e.val (x.dreg d.val)

/-- ADD (R165). -/
def execAdd (h : Hdr) (d : Fin 16) (src : Src) (s : State) : Res := alu h d src false s fun f w a b => addF f w a b 0
/-- ADC (R165). -/
def execAdc (h : Hdr) (d : Fin 16) (src : Src) (s : State) : Res := alu h d src true s fun f w a b => addF f w a b (b2n f.c)
/-- SUB (R165). -/
def execSub (h : Hdr) (d : Fin 16) (src : Src) (s : State) : Res := alu h d src false s fun f w a b => subF f w a b 0
/-- SBB (R165). -/
def execSbb (h : Hdr) (d : Fin 16) (src : Src) (s : State) : Res := alu h d src true s fun f w a b => subF f w a b (b2n f.c)
/-- AND (R165). -/
def execAndI (h : Hdr) (d : Fin 16) (src : Src) (s : State) : Res := alu h d src false s fun f w a b => logicF f w (a &&& b).toNat
/-- OR (R165). -/
def execOrI (h : Hdr) (d : Fin 16) (src : Src) (s : State) : Res := alu h d src false s fun f w a b => logicF f w (a ||| b).toNat
/-- XOR (R165). -/
def execXorI (h : Hdr) (d : Fin 16) (src : Src) (s : State) : Res := alu h d src false s fun f w a b => logicF f w (a ^^^ b).toNat
/-- CMP (R165): nothing written but CF. -/
def execCmp (h : Hdr) (d : Fin 16) (src : Src) (s : State) : Res := alu h d src false s (fun f w a b => subF f w a b 0) false
/-- TEST (R165): nothing written but CF. -/
def execTestI (h : Hdr) (d : Fin 16) (src : Src) (s : State) : Res := alu h d src false s (fun f w a b => logicF f w (a &&& b).toNat) false
/-- NEG (R165). -/
def execNeg (h : Hdr) (d : Fin 16) (s : State) : Res := alu h d (.reg d) false s fun f w a _ => negF f w a
/-- NOT (R165). -/
def execNotI (h : Hdr) (d : Fin 16) (s : State) : Res := alu h d (.reg d) false s fun f w a _ => logicF f w (~~~a).toNat
/-- SHL (R167): the count is the full 64-bit value. -/
def execShl (h : Hdr) (d : Fin 16) (src : Src) (s : State) : Res := alu h d src false s fun f w a b => shiftF f .shl w a b.toNat
/-- SHR (R167). -/
def execShr (h : Hdr) (d : Fin 16) (src : Src) (s : State) : Res := alu h d src false s fun f w a b => shiftF f .shr w a b.toNat
/-- SAR (R167). -/
def execSar (h : Hdr) (d : Fin 16) (src : Src) (s : State) : Res := alu h d src false s fun f w a b => shiftF f .sar w a b.toNat
/-- ROL (R167). -/
def execRol (h : Hdr) (d : Fin 16) (src : Src) (s : State) : Res := alu h d src false s fun f w a b => shiftF f .rol w a b.toNat
/-- ROR (R167). -/
def execRor (h : Hdr) (d : Fin 16) (src : Src) (s : State) : Res := alu h d src false s fun f w a b => shiftF f .ror w a b.toNat
/-- MIN, signed at width (R165). -/
def execMinI (h : Hdr) (d : Fin 16) (e : Fin 16) (s : State) : Res :=
  alu h d (.reg e) false s fun f w a b => logicF f w (if sx w a ≤ sx w b then zx w a else zx w b)
/-- MAX, signed at width (R165). -/
def execMaxI (h : Hdr) (d : Fin 16) (e : Fin 16) (s : State) : Res :=
  alu h d (.reg e) false s fun f w a b => logicF f w (if sx w a ≥ sx w b then zx w a else zx w b)
/-- MINU, unsigned at width (R165). -/
def execMinu (h : Hdr) (d : Fin 16) (e : Fin 16) (s : State) : Res :=
  alu h d (.reg e) false s fun f w a b => logicF f w (Nat.min (zx w a) (zx w b))
/-- MAXU, unsigned at width (R165). -/
def execMaxu (h : Hdr) (d : Fin 16) (e : Fin 16) (s : State) : Res :=
  alu h d (.reg e) false s fun f w a b => logicF f w (Nat.max (zx w a) (zx w b))

/-- An instruction on Dx, Dy with its own prefix rules (R165). -/
def alu2 (op : Op) (h : Hdr) (d e : Fin 16) (s : State) (f : Flags → Nat → Word → AluOut) : Res :=
  simple { op with rd := [e.val] } h s fun x =>
    let r := f x.regs.cf (widthBits h.width) (x.dreg e.val)
    (x.setD d.val r.val).setCF r.cf

/-- SEXT (R165): sign-extends from the width of its prefix, which it requires (R144). -/
def execSext (h : Hdr) (d : Fin 16) (e : Fin 16) (s : State) : Res :=
  alu2 { opWNPL [] with bad := h.width == .w64 } h d e s fun f w b => logicF f 64 (ofSigned 64 (sx w b))
/-- ZEXT (R165). -/
def execZext (h : Hdr) (d : Fin 16) (e : Fin 16) (s : State) : Res :=
  alu2 { opWNPL [] with bad := h.width == .w64 } h d e s fun f w b => logicF f 64 (zx w b)
/-- POPC (R165). -/
def execPopc (h : Hdr) (d : Fin 16) (e : Fin 16) (s : State) : Res :=
  alu2 (opWNPL []) h d e s fun f w b => countF f w b (popc w (zx w b))
/-- CLZ (R165). -/
def execClz (h : Hdr) (d : Fin 16) (e : Fin 16) (s : State) : Res :=
  alu2 (opWNPL []) h d e s fun f w b => countF f w b (clz w (zx w b))
/-- CTZ (R165). -/
def execCtz (h : Hdr) (d : Fin 16) (e : Fin 16) (s : State) : Res :=
  alu2 (opWNPL []) h d e s fun f w b => countF f w b (ctz w (zx w b))
/-- BSWAP (R165): W8 and NIB are illegal (R144); no flags. -/
def execBswap (h : Hdr) (d : Fin 16) (e : Fin 16) (s : State) : Res :=
  simple { opWNPL [e.val] with bad := h.width == .w8 || h.width == .w4 } h s fun x =>
    x.setD d.val (BitVec.ofNat 64 (bswap (widthBits h.width) (zx (widthBits h.width) (x.dreg e.val))))

/-- MUL and MULU (R168, R171): one product pending at a time; while one is pending the next is not issued. -/
def mulOp (signed : Bool) (h : Hdr) (d e : Fin 16) (s : State) : Res :=
  issue { w := true, lock := true, rd := [d.val, e.val] } h s fun s1 =>
    if (s1.cx h.ctx.val).regs.mul.isSome then .next s
    else .next (s1.updCx h.ctx.val fun x =>
      (x.upd fun r => { r with mul := some (multiply signed (widthBits h.width) (x.dreg d.val) (x.dreg e.val)) }).iterate h)

/-- MUL (R168). -/
def execMul (h : Hdr) (d : Fin 16) (e : Fin 16) (s : State) : Res := mulOp true h d e s
/-- MULU (R168). -/
def execMulu (h : Hdr) (d : Fin 16) (e : Fin 16) (s : State) : Res := mulOp false h d e s

/-- DIV and DIVU (R169, R171): DZ and V are set at issue, the results land later. -/
def divOp (signed : Bool) (h : Hdr) (d e : Fin 16) (s : State) : Res :=
  issue { w := true, lock := true, rd := [d.val, e.val] } h s fun s1 =>
    if (s1.cx h.ctx.val).regs.div.isSome then .next s
    else .next (s1.updCx h.ctx.val fun x =>
      let r := divide signed (widthBits h.width) (x.dreg d.val) (x.dreg e.val)
      ((x.upd fun g => { g with div := some r.1, cf := { g.cf with dz := r.2.1, v := r.2.2 } })).iterate h)

/-- DIV (R169). -/
def execDiv (h : Hdr) (d : Fin 16) (e : Fin 16) (s : State) : Res := divOp true h d e s
/-- DIVU (R169). -/
def execDivu (h : Hdr) (d : Fin 16) (e : Fin 16) (s : State) : Res := divOp false h d e s

/-- The product lands in MH:ML and MBUSY clears (R168). -/
def execProductLands (ctx : Fin 1024) (s : State) : Res :=
  match (s.cx ctx.val).regs.mul with
  | some (hi, lo) => .next (s.updCx ctx.val fun x => x.upd fun r => { r with mh := hi, ml := lo, mul := none })
  | none => .next s

/-- The quotient and the remainder land in DQ and DM and DBUSY clears (R169). -/
def execQuotientLands (ctx : Fin 1024) (s : State) : Res :=
  match (s.cx ctx.val).regs.div with
  | some (q, m) => .next (s.updCx ctx.val fun x => x.upd fun r => { r with dq := q, dm := m, div := none })
  | none => .next s

/-- An accumulator instruction: a number above 3 ends the program with 0x13 (R147). -/
def accOp (op : Op) (h : Hdr) (n : Nat) (s : State) (f : Ctx → Ctx) : Res :=
  issue { op with lock := true, acc := [n], rd := if h.rpt == .once then op.rd else 15 :: op.rd, cls := decide (n > 3) } h s
    fun s1 => .next (s1.updCx h.ctx.val fun x => (f x).iterate h)

/-- The prefixes of ACCADD and its like (R151, R172). -/
def opAcc (e : Fin 16) : Op := { w := true, rep := true, rd := [e.val] }

/-- A 256-bit accumulator as a signed number. -/
def accSigned (v : Nat) : Int := toSigned 256 v

/-- ACCCLR (R172). -/
def execAccclr (h : Hdr) (n : Fin 16) (s : State) : Res := accOp {} h n.val s fun x => x.setAcc n.val 0
/-- ACCADD (R172). -/
def execAccadd (h : Hdr) (n e : Fin 16) (s : State) : Res := accOp (opAcc e) h n.val s fun x =>
  x.setAcc n.val (ofSigned 256 (accSigned (x.accVal n.val) + sx (widthBits h.width) (x.dreg e.val)))
/-- ACCCNT (R172). -/
def execAcccnt (h : Hdr) (n e : Fin 16) (s : State) : Res := accOp (opAcc e) h n.val s fun x =>
  x.setAcc n.val (x.accVal n.val + popc 64 (zx (widthBits h.width) (x.dreg e.val)))
/-- ACCMIN (R172). -/
def execAccmin (h : Hdr) (n e : Fin 16) (s : State) : Res := accOp (opAcc e) h n.val s fun x =>
  let b := sx (widthBits h.width) (x.dreg e.val)
  x.setAcc n.val (ofSigned 256 (if accSigned (x.accVal n.val) ≤ b then accSigned (x.accVal n.val) else b))
/-- ACCMAX (R172). -/
def execAccmax (h : Hdr) (n e : Fin 16) (s : State) : Res := accOp (opAcc e) h n.val s fun x =>
  let b := sx (widthBits h.width) (x.dreg e.val)
  x.setAcc n.val (ofSigned 256 (if accSigned (x.accVal n.val) ≥ b then accSigned (x.accVal n.val) else b))
/-- ACCMINU (R172). -/
def execAccminu (h : Hdr) (n e : Fin 16) (s : State) : Res := accOp (opAcc e) h n.val s fun x =>
  x.setAcc n.val (Nat.min (x.accVal n.val) (zx (widthBits h.width) (x.dreg e.val)))
/-- ACCMAXU (R172). -/
def execAccmaxu (h : Hdr) (n e : Fin 16) (s : State) : Res := accOp (opAcc e) h n.val s fun x =>
  x.setAcc n.val (Nat.max (x.accVal n.val) (zx (widthBits h.width) (x.dreg e.val)))

/-- CRCSTEP (R173). A width m outside 8 to 64 leaves an unpredictable value in ACCn.0, a free value. -/
def execCrcstep (h : Hdr) (n e : Fin 16) (s : State) : Res :=
  let x0 := s.cx h.ctx.val
  let m := bitsOf (x0.piece n.val 2).toNat 0 7
  if n.val ≤ 3 ∧ (m < 8 ∨ m > 64) then
    issue { opAcc e with lock := true, acc := [n.val], rd := if h.rpt == .once then [e.val] else [15, e.val] } h s
      fun s1 => .next (s1.takeFree.updCx h.ctx.val fun x => (x.setPiece n.val 0 s1.freeVal).iterate h)
  else accOp (opAcc e) h n.val s fun x =>
    x.setPiece n.val 0 (BitVec.ofNat 64 (crcBits (widthBits h.width) ((x.piece n.val 0).toNat % 2 ^ m)
      ((x.piece n.val 1).toNat % 2 ^ m) (x.dreg e.val).toNat))

/-- FOLD (R172). -/
def execFold (h : Hdr) (d : Fin 16) (n : Fin 16) (s : State) : Res := accOp {} h n.val s fun x =>
  let t := (x.piece n.val 0).toNat + (x.piece n.val 1).toNat + (x.piece n.val 2).toNat + (x.piece n.val 3).toNat
  let r := foldRound (foldRound (foldRound t))
  (x.setD d.val (BitVec.ofNat 64 r)).setCF { x.regs.cf.zn 64 r with c := false, v := false }

/-- MOVD Dx, ACCn.k (R172); the field's bits [3:2] hold n and [1:0] hold k (R147), so n never exceeds 3. -/
def execMovdAcc (h : Hdr) (d : Fin 16) (nk : Fin 16) (s : State) : Res :=
  accOp {} h (nk.val / 4) s fun x => x.setD d.val (x.piece (nk.val / 4) (nk.val % 4))
/-- MOVACC ACCn.k, Dy (R172). -/
def execMovacc (h : Hdr) (nk e : Fin 16) (s : State) : Res :=
  accOp { rd := [e.val] } h (nk.val / 4) s fun x => x.setPiece (nk.val / 4) (nk.val % 4) (x.dreg e.val)

end Sys2Proof.Machine
end

