-- ==== Sys2Proof/Machine/Cfs.lean ====
section
/-!
DEFINITION. Staging, castling and rollback: the ACP commands CFG_STAGE, CFG_CASTLE and CFG_ROLLBACK, and the events of a
castling (R434 to R439, R442).
-/

namespace Sys2Proof.Machine

/-! ### Staging (R434) -/

/-- A staging that has failed: the roles stay, and castling is Idle again. -/
def State.stageFail (s : State) (c : AcpCmd) (err detail : Nat) : Res := ((s.put Fld.cfsStat.STATE 0).planNow).acpErr c err detail

/-- The staged slot's image becomes Staged; a staged plan is discarded (R480). -/
def State.stageDone (s : State) (c : AcpCmd) (img : List Byte) : Res :=
  let k := s.spareSlot
  let s1 := if s.stagedPlan then s.put Fld.agmPlan.PSTATE 0 else s
  let s2 := ((s1.writeSlot k img).setRoles s.roles.active s.roles.prev (some k)).put Fld.cfsStat.STATE 0
  s2.planNow.acpOk c (toBytes 4 (cfgVersion img))

/-- CFG_STAGE (R434, R437): `img` is what the bulk read returns. -/
def execCfgStage (m : Fin 1024) (img : Option (List Byte)) (s : State) : Res :=
  s.acpTurn m 0x4B [] fun c =>
    let len := c.fld 8 0 32
    if c.phase = 0 then
      if c.aborted then s.acpErr c aeAborted 0
      else s.checked c [(!s.castIdle, aeState, 0), (!s.hostOk 0, aeHost, 0)]
        (((s.put Fld.cfsStat.STATE 1).bulkRead (c.fld 0 0 57) len).acpWait c 1)
    else if c.aborted then s.stageFail c aeAborted 0
    else match img with
      | none => s.stageFail c aeHost 0
      | some b =>
        let im := (b.take len).take 0x400000
        match s.stageCheck im with
        | none => s.stageDone c im
        | some (e, some p) => s.stageFail c e p
        | some (e, none) => s.takeFree.stageFail c e s.freeVal.toNat

/-! ### The commands that castle -/

/-- CFG_CASTLE (R435): its answer comes with the commit, or with the end of the rollback. -/
def execCfgCastle (m : Fin 1024) (s : State) : Res :=
  s.acpTurn m 0x4C [] fun c =>
    if c.phase ≠ 0 then .next s
    else s.checked c
      [(decide (c.fld 4 0 16 > 400), aeField, 4),
       (!s.castIdle || s.roles.staged.isNone || s.slotVer s.roles.staged != c.fld 0 0 32, aeState, 0)]
      (match s.roles.staged with
       | none => .next s
       | some k => (s.castle1 k false (some m.val)).acpWait c 1)

/-- The Previous slot, where it is valid (R449). -/
def State.validPrev (s : State) : Option Nat := s.roles.prev.filter fun k => s.cfgValid (s.slotImg k)

/-- CFG_ROLLBACK (R439). -/
def execCfgRollback (m : Fin 1024) (s : State) : Res :=
  s.acpTurn m 0x4D [] fun c =>
    if c.phase ≠ 0 then .next s
    else match s.validPrev with
      | none => s.acpErr c aeState 0
      | some k => s.checked c [(!s.castIdle, aeState, 0)] ((s.castle1 k true (some m.val)).acpWait c 1)

/-! ### The events of a castling -/

/-- A rollback has begun or gone on: when the last block is back it is over (R438). -/
def State.backDone (s : State) : Res :=
  if s.stillBack then s.done else andThen s.rolledBack fun t => t.planBack.planNow.done

/-- A block reaches its safe point and switches, or at a rollback switches back (R436, R438). -/
def execBlockSwitch (blk : Fin 64) (s : State) : Res :=
  let b := blk.val
  let sw := s.get Fld.cfsSwmap.MAP
  let part := (s.get Fld.cfsPart.MAP).testBit b
  let st := s.get Fld.cfsStat.STATE
  if st = 2 ∧ part ∧ b ≠ 10 ∧ !sw.testBit b ∧ s.safePoint s.newVer b then
    match (s.blkSwitch s.newVer b).tableBad s.newVer b with
    | some rule => .fault (.unpredictable rule)
    | none => (((s.blkSwitch s.newVer b).put Fld.cfsSwmap.MAP (sw ||| 2 ^ b)).floorNote s).done
  else if st ≥ 3 ∧ part ∧ sw.testBit b ∧ s.safePoint s.activeVer b then
    (((s.blkSwitch s.activeVer b).put Fld.cfsSwmap.MAP (putBits sw b 1 0)).floorNote s).backDone
  else .next s

/-- Every other block has switched (R435): the King checks again, then the commit, or the rollback with block 10. -/
def State.commitTry (s : State) (c : Castle) : Res :=
  if s.kingBad s.activeVer s.newVer then ((s.rollBack 10).floorNote s).backDone
  else andThen ((s.castleCommit c).planCommit s.activeVer).castleOver fun t => t.planNow.done

/-- The commit (R435). -/
def execCastlingCommit (s : State) : Res :=
  match s.castle with
  | some c => if s.get Fld.cfsStat.STATE = 2 ∧ s.allSwitched then s.commitTry c else .next s
  | none => .next s

/-- Flag fall before the commit (R438); a commit in the same cycle wins (R442). -/
def execCastlingFlagFall (s : State) : Res :=
  match s.castle with
  | some c =>
    if s.get Fld.cfsStat.STATE ≠ 2 then .next s
    else if s.allSwitched then s.commitTry c
    else ((s.rollBack s.notSwitched).floorNote s).backDone
  | none => .next s

/-- The second flag fall (R438): CFG_CASTLE answers TIMEOUT, and the error line rises. -/
def execRollbackFlagFall (s : State) : Res :=
  if s.get Fld.cfsStat.STATE = 3 then
    (((s.castAnswer aeTimeout true).put Fld.cfsStat.STATE 4).logErr 36 10 0 0).done
  else .next s

end Sys2Proof.Machine
end

