-- ==== Sys2Proof/Machine/Device.lean ====
section
/-!
DEFINITION. The meanings of the device-port instructions BIND, UNBIND, DRD, DWR, DCMD, DCMD.C, WAITC (R107 to R113, R177,
R207, R316) and of EXT0 to EXT7 (R154, R321 to R324).
-/

namespace Sys2Proof.Machine

/-- What SEGV_LOG records of a device port (R204). -/
def portInfo (p : Nat) : EndInfo := { sel := p, port := true }

/-- BIND (R107, R108, R317): the cluster loads the port's status image. -/
def execBind (h : Hdr) (d : Fin 16) (s : State) : Res :=
  let c := h.ctx.val
  issue { stop := true, rd := [d.val] } h s fun s1 =>
    let x := s1.cx c
    let p := (x.dreg d.val).toNat % 4096
    if !s1.on (Fld.dpData.VALID p) then s1.trap c 0x22 (portInfo p)
    else if s1.get (Fld.dpData.PDOM p) ≠ x.pdom then s1.trap c 0x21 (portInfo p)
    else if s1.on (Fld.dpData.REMOVED p) then s1.trap c 0x31 (portInfo p)
    else
      let s2 := { s1 with imgCopy := (List.range 8).foldl (fun m k =>
        SMap.set m 0 ((clusterOf c * 4096 + p) * 8 + k) (s1.reg ⟨.dpImage, p, k⟩)) s1.imgCopy }
      .next (s2.updCx c fun y =>
        (y.upd fun r => { r with bound := some (p, s1.get (Fld.dpData.GEN p)) }).retire h)

/-- UNBIND (R108). -/
def execUnbind (h : Hdr) (s : State) : Res :=
  issue { stop := true } h s fun s1 =>
    .next (s1.updCx h.ctx.val fun y => (y.upd fun r => { r with bound := none }).retire h)

/-- A register index (R109): the immediate, or the whole D register. -/
def Ctx.index (x : Ctx) : SelSrc → Nat
  | .imm v => v.toNat
  | .reg d => (x.dreg d.val).toNat

/-- The lock step of an access to a bound port. -/
def State.portLock (s : State) (c p : Nat) : LockStep :=
  match s.portRes p with
  | some r => s.lockStep c r
  | none => .go s

/-- The front of a device access: the binding checks, and its lock (R109, R187, R313). With no port bound there is no number that
SEGV_LOG.SEL could show; the model's is 0 (R204, log entry 59). -/
def portFront (op : Op) (h : Hdr) (s : State) (win : Ctx → Option Nat) (k : Nat → Nat → State → Res) : Res :=
  let c := h.ctx.val
  issue op h s fun s1 =>
    let x := s1.cx c
    match x.regs.bound with
    | none => s1.trap c 0x22 (portInfo 0)
    | some (p, gen) =>
      if !s1.portLive p gen then s1.trap c 0x31 (portInfo p)
      else if (match win x with | some i => decide (8 * i ≥ 2 ^ (12 + s1.get (Fld.dpData.REG_LOG2 p))) | none => false) then
        s1.trap c 0x20 (portInfo p)
      else if op.lock then
        match s1.portLock c p with
        | .bad => s1.trap c 0x11
        | .wait => .next s
        | .go s2 => k p gen s2
      else k p gen s1

/-- A register lies in an idempotent page (R316). -/
def State.idemReg (s : State) (p i : Nat) : Bool :=
  let n := 8 * i / 4096
  decide (n < 16) && bitsOf (s.get (Fld.dpData.IDEM p)) n 1 == 1

/-- DRD (R109, R207, R212, R214, R316). -/
def execDrd (h : Hdr) (d : Fin 16) (ix : SelSrc) (s : State) : Res :=
  let c := h.ctx.val
  portFront { lock := true, spec := true, king := true, rd := usesSel ix } h s (fun x => some (x.index ix)) fun p gen s1 =>
    let x := s1.cx c
    let i := x.index ix
    let full := match x.ckpts.getLast? with | some k => decide (k.verify.length ≥ 16) | none => false
    if x.speculating && (!s1.idemReg p i || full) then .next (s.pause c)
    else
      let vc := s1.devVc c h.king
      let node := s1.get (Fld.dpData.NODE p)
      let a := s1.regBase p + 8 * i
      match s1.portReq p gen (.drd c) (mrdPkt node a 8 vc x.seqCount.isSome) 8 with
      | .dead st => s1.trap c st (portInfo p)
      | .later => .next s
      | .sent s2 tag =>
        let s3 := if x.speculating then s2.recordRead c
          { key := 2 * tag + 1, host := none, node := node, addr := a, n := 8, vc := vc, data := none, again := none,
            sent := false } else s2
        let w : Wait := .drd h.len d.val p i tag
        let known := x.vbuf.find? fun e => e.1 == p && e.2.1 == i
        match (if s3.predicts c h.spec then known else none) with
        | some e => .next (s3.openCkpt c w h.lock (.drd e.2.2) fun y => (y.setD d.val e.2.2).retire h)
        | none => .next (s3.beginWait c w h.lock h.spec)

/-- DWR (R109, R177): non-posted; it waits for the acknowledge. -/
def execDwr (h : Hdr) (ix : SelSrc) (d : Fin 16) (s : State) : Res :=
  let c := h.ctx.val
  portFront { lock := true, king := true, stop := true, rd := d.val :: usesSel ix } h s (fun x => some (x.index ix))
    fun p gen s1 =>
    let x := s1.cx c
    let pk := mwrPkt 0x61 (s1.get (Fld.dpData.NODE p)) (s1.regBase p + 8 * x.index ix) (toBytes 8 (x.dreg d.val).toNat)
      (s1.devVc c h.king) x.seqCount.isSome
    match s1.portReq p gen (.dwr c) pk 0 with
    | .dead st => s1.trap c st (portInfo p)
    | .later => .next s
    | .sent s2 tag => .next (s2.updCx c fun y => { y with wait := .dwr h.len tag, waitLock := h.lock })

/-- DCMD (R110, R111, R207): behind the context's chained commands for the same port; sent outside speculation. -/
def execDcmd (h : Hdr) (d : Fin 16) (e : Fin 16) (s : State) : Res :=
  let c := h.ctx.val
  portFront { lock := true, spec := true, king := true, stop := true, rd := [d.val] } h s (fun _ => none) fun p gen s1 =>
    let x := s1.cx c
    let word := x.dreg d.val
    let king := h.king && s1.memVc c == 0
    if x.chain.any (·.port == p) then
      .next (s1.beginWait c (.dcmd h.len e.val p word king none) h.lock h.spec)
    else match s1.portReq p gen (.dcmd c) (s1.dcmdPkt p word king x.seqCount.isSome) 0 with
      | .dead st => s1.trap c st (portInfo p)
      | .later => .next s
      | .sent s2 tag => .next (s2.dcmdSent c h.len e.val p word king tag h.lock h.spec)

/-- DCMD.C (R111, R112): a 17th chained command waits; one to a port whose chain has failed is dropped and counted. -/
def execDcmdC (h : Hdr) (d : Fin 16) (s : State) : Res :=
  let c := h.ctx.val
  portFront { king := true, stop := true, rd := [d.val] } h s (fun _ => none) fun p gen s1 =>
    let x := s1.cx c
    if x.fails.any (·.port == p) then
      .next (s1.updCx c fun y =>
        let y1 := { y with fails := y.fails.map fun (f : ChainFail) =>
          if f.port == p then { f with dropped := f.dropped + 1 } else f }
        (y1.upd fun r => { r with chainPos := r.chainPos + 1 }).retire h)
    else if x.chain.length ≥ 16 then .next s1
    else
      let e : Chained := { port := p, gen := gen, word := x.dreg d.val, pos := x.regs.chainPos, sent := none
                           king := h.king && s1.memVc c == 0 }
      ((s1.updCx c fun y => ({ y with chain := y.chain ++ [e] }.upd
        fun r => { r with chainPos := r.chainPos + 1 }).retire h).sendChain c).done

/-- WAITC (R113, R207). -/
def execWaitc (h : Hdr) (d : Fin 16) (s : State) : Res :=
  let c := h.ctx.val
  issue { spec := true } h s fun s1 =>
    let x := s1.cx c
    let w : Wait := .waitc h.len d.val
    if x.chain.isEmpty then
      .next ((s1.beginWait c w h.lock h.spec).resolveLive c (.waitc x.fails.isEmpty) x.fails.isEmpty)
    else if s1.predicts c h.spec then
      .next (s1.openCkpt c w h.lock (.waitc true) fun y =>
        (({ y with fails := [] }.upd fun r => { r with chainPos := 0 }).setZ true).retire h)
    else .next (s1.beginWait c w h.lock h.spec)

/-! ### Extension units -/

/-- The most requests of a binding (R321). -/
def State.extMax (s : State) (n : Nat) : Nat :=
  let m := s.get (Fld.extBind.MAX_OUT n)
  if m = 0 then 64 else m

/-- The timeout of a binding's requests (R321). -/
def State.extTmo (s : State) (n : Nat) : Nat :=
  let t := s.get (Fld.extBind.TMO_US n)
  if t = 0 then 100 else t

/-- The XREQ of an EXTn (R322). -/
def State.xreqPkt (s : State) (c n fn : Nat) (a b : Word) (locked : Bool) : Pkt :=
  { type := 0x70, vc := 1, locked := locked, dst := s.get (Fld.extBind.NODE n), src := 0, len := 4, fbe := 15, lbe := 15,
    aux := fn + s.get (Fld.extBind.UNIT n) * 2 ^ 16 + n * 2 ^ 19 + c * 2 ^ 22 + (s.cx c).pdom * 2 ^ 32,
    data := toBytes 8 a.toNat ++ toBytes 8 b.toNat }

/-- An EXT opcode is defined: a unit is bound to it (R154), or its binding switches and decides later (R321). -/
def State.extKnown (s : State) (n : Nat) : Bool := s.on (Fld.extBind.VALID n) || NSet.has s.extHold n

/-- EXT0 to EXT7 (R154, R321, R322, R324). -/
def execExt (h : Hdr) (n : Fin 8) (d e : Fin 16) (fn : BitVec 16) (s : State) : Res :=
  let c := h.ctx.val
  issue { lock := true, stop := true, rd := [d.val, e.val], undef := if s.extKnown n.val then none else some 0 } h s fun s1 =>
    let x := s1.cx c
    if NSet.has s1.extHold n.val then .next s
    else if s1.on (Fld.extBind.DOM_EN n.val) && s1.get (Fld.extBind.PDOM n.val) != x.pdom then s1.trap c 0x21
    else match s1.lockStep c { kind := 3, blk := 30, num := n.val } with
      | .bad => s1.trap c 0x11
      | .wait => .next s
      | .go s2 =>
        if s2.extOut n.val ≥ s2.extMax n.val ∨ NSet.has s.masked 30 then .next s
        else if !s2.reachable (s2.get (Fld.extBind.NODE n.val)) then (s2.extFail c n.val 0x12 0 false).done
        else match s2.request (.ext c n.val) (s2.xreqPkt c n.val fn.toNat (x.dreg d.val) (x.dreg e.val) x.seqCount.isSome)
            0 none true (s2.extTmo n.val) with
          | none => .next s
          | some (s3, tag) => .next (s3.updCx c fun y => { y with wait := .ext h.len d.val n.val tag, waitLock := h.lock })

end Sys2Proof.Machine
end

