-- ==== Sys2Proof/Machine/Hpc.lean ====
section
/-!
DEFINITION. The hot-plug controller's events (R487 to R493): frames, expander reads and refreshes, and the slot timers.
-/

namespace Sys2Proof.Machine

/-- An expander has failed (R489). -/
def State.expanderFailed (s : State) (bus addr kind : Nat) : State :=
  s.logFirst Fld.hpcErr.VALID Fld.hpcErr.OVF [(Fld.hpcErr.BUS, bus), (Fld.hpcErr.ADDR, addr), (Fld.hpcErr.KIND, kind)]

/-- One more of a run of failures, three of which are an expander failure (R489): the run's new length. -/
def runOf3 (n : Nat) : Nat := if n + 1 ≥ 3 then 0 else n + 1

/-- A chain runs, and the last position it carries (R487, R499). -/
def State.sgEn (s : State) (c : Nat) : Bool := if c = 0 then s.on Fld.hpcCtl.SG0_EN else s.on Fld.hpcCtl.SG1_EN
/-- The last position of a chain. -/
def State.sgLen (s : State) (c : Nat) : Nat := if c = 0 then s.get Fld.hpcCtl.SG_LEN0 else s.get Fld.hpcCtl.SG_LEN1

/-- The slots of a chain that a frame carries. -/
def State.frameSlots (s : State) (c : Nat) : List Nat :=
  (s.busSlots c).filter fun n => decide (s.get (Fld.slotCfg.POS n) ≤ s.sgLen c)

/-- The inputs of a frame (R489, R491): a frame of ones alone is discarded, another is sampled. -/
def State.frameIn (s : State) (c t : Nat) (frame : List Byte) : State :=
  if frame.all (· == 0xFF) then
    let n := SMap.get s.sgOnes 0 c
    let s1 := { s with sgOnes := SMap.set s.sgOnes 0 c (runOf3 n) }
    if n + 1 ≥ 3 then s1.expanderFailed c 0 2 else s1
  else
    let s1 := { s with sgOnes := SMap.set s.sgOnes 0 c 0 }
    forAll (s1.frameSlots c) (fun u n => u.slotSample n t (frame.getD (s1.get (Fld.slotCfg.POS n)) 0)) s1

/-- An SGPIO frame completes at time `t` in microseconds (R487): its inputs, and the outputs that it carries. -/
def execSgpioFrame (chain : Fin 2) (t : Nat) (frame : List Byte) (s : State) : Res :=
  let c := chain.val
  if !s.sgEn c || frame.length != s.sgLen c + 1 then .next s
  else
    let s1 := s.frameIn c t frame
    (forAll (s1.frameSlots c) (fun u n => u.slotOutput n t) s1).done

/-- The slots of an expander (R488). -/
def State.expSlots (s : State) (bus addr : Nat) : List Nat :=
  (s.busSlots bus).filter fun n => s.get (Fld.slotCfg.ADDR n) == addr

/-- An access to an expander is acknowledged or not (R489). -/
def State.expAck (s : State) (bus addr : Nat) (ok : Bool) : State :=
  let k := bus * 128 + addr
  let n := SMap.get s.i3cNack 0 k
  if ok then { s with i3cNack := SMap.set s.i3cNack 0 k 0 }
  else
    let s1 := { s with i3cNack := SMap.set s.i3cNack 0 k (runOf3 n) }
    if n + 1 ≥ 3 then s1.expanderFailed bus addr 1 else s1

/-- The input bytes of an expander's slots are read, or the read is not acknowledged (R488, R489); in Sleep the read waits
(R490). -/
def State.expRead (s : State) (bus addr t : Nat) (r : Option (List Byte)) : Res :=
  if s.get Fld.pcmStat.DSTATE = 2 then .next s
  else match r with
    | none => (s.expAck bus addr false).done
    | some bs =>
      let s1 := s.expAck bus addr true
      (forAll (s1.expSlots bus addr) (fun u n => u.slotSample n t (bs.getD (s1.get (Fld.slotCfg.POS n) % 16) 0)) s1).done

/-- An expander's in-band interrupt makes the HPC read it (R488). -/
def execI3cIbi (bus : Fin 2) (addr : Fin 128) (t : Nat) (r : Option (List Byte)) (s : State) : Res :=
  s.expRead (2 + bus.val) addr.val t r

/-- The periodic read of an expander (R488). -/
def execI3cPoll (bus : Fin 2) (addr : Fin 128) (t : Nat) (r : Option (List Byte)) (s : State) : Res :=
  s.expRead (2 + bus.val) addr.val t r

/-- An expander's outputs are written (R488). -/
def execI3cOutputRefresh (bus : Fin 2) (addr : Fin 128) (t : Nat) (ok : Bool) (s : State) : Res :=
  let b := 2 + bus.val
  if s.get Fld.pcmStat.DSTATE = 2 then .next s
  else
    let s1 := s.expAck b addr.val ok
    (if ok then forAll (s1.expSlots b addr.val) (fun u n => u.slotOutput n t) s1 else s1).done

/-- The window ends (R493), unless a power-off is under way (R495). -/
def execWindowExpiry (slot : Fin 256) (s : State) : Res :=
  let n := slot.val
  if NSet.has s.slotOffPend n then .next s
  else if s.slot n = slPendOn then (s.setSlot n slPowering).done
  else if s.slot n = slPendOff then (s.setSlot n slOffReq).done
  else .next s

/-- OFF_GRACE has passed in OffReq (R493, R495). -/
def execOffGraceExpiry (slot : Fin 256) (s : State) : Res :=
  let n := slot.val
  if s.slot n = slOffReq ∧ s.on (Fld.slotCfg.AUTO_OFF n) then (s.powerOff n).done else .next s

/-- PWR_T has passed in Powering without a power fault (R493). -/
def execPoweringTimer (slot : Fin 256) (s : State) : Res :=
  let n := slot.val
  if s.slot n = slPowering ∧ !s.on (Fld.slotStat.PFAULT n) then (s.setSlot n slOn).done else .next s

end Sys2Proof.Machine
end

