-- ==== Sys2Proof/Machine/Izgen.lean ====
section
/-!
DEFINITION. The byte-by-byte decode checks of Izgen (R135 to R145, R147, R151, R153, R154), and the end of a program at bytes
that form no defined instruction (R138).
-/

namespace Sys2Proof.Machine

/-- The bytes after an opcode (R142); `movCf` and `wait` are forms R and RH with a field of their own. -/
inductive IzForm where
  | n | r | ri | rb | rh | wait | movCf | h | rm | rx | x | xt | j8 | j32 | t
deriving DecidableEq, Repr

/-- An opcode's row: its form, its Prefixes column, and the width rules of SEXT, ZEXT and BSWAP. -/
structure IzRow where
  form : IzForm
  pfx : List Char := []
  needW : Bool := false
  noW8 : Bool := false
deriving DecidableEq, Repr

/-- A row of the maps. -/
def izRow (f : IzForm) (p : String) : Option IzRow := some { form := f, pfx := p.toList }

/-- The one-byte opcode map (R151, R154). -/
def izMap (b : Nat) : Option IzRow :=
  if 0x10 ≤ b ∧ b ≤ 0x1F then izRow .j8 ""
  else if 0x20 ≤ b ∧ b ≤ 0x2F then izRow .j32 ""
  else if 0x40 ≤ b ∧ b ≤ 0x4F then izRow .r "WNPL"
  else if 0x50 ≤ b ∧ b ≤ 0x5F then (if b = 0x59 ∨ b = 0x5A then none else izRow .ri "WNPL")
  else if 0x60 ≤ b ∧ b ≤ 0x63 then izRow .r "WL"
  else if b = 0x68 ∨ b = 0x69 then some { form := .r, pfx := "WNPL".toList, needW := true }
  else if b = 0x6D then some { form := .r, pfx := "WPL".toList, noW8 := true }
  else if 0x64 ≤ b ∧ b ≤ 0x6C then izRow .r "WNPL"
  else if 0x91 ≤ b ∧ b ≤ 0x97 then izRow .r "WPL"
  else if 0xF8 ≤ b then izRow .rh "L"
  else match b with
    | 0x01 => izRow .n "L"
    | 0x02 | 0x04 | 0x05 | 0x81 => izRow .n ""
    | 0x03 => izRow .rb ""
    | 0x06 | 0x08 => izRow .j32 ""
    | 0x07 => izRow .j8 ""
    | 0x09 | 0x0B => izRow .t ""
    | 0x0A | 0x0C | 0x0D | 0x80 | 0x8B | 0x8D => izRow .r ""
    | 0x30 => izRow .r "WNPL"
    | 0x31 => izRow .ri "WNPL"
    | 0x32 => izRow .rm "WNPLG"
    | 0x33 => izRow .rm "WPLG"
    | 0x34 | 0x37 | 0x39 => izRow .r "PL"
    | 0x35 => izRow .ri "L"
    | 0x38 | 0x3A => izRow .ri "PL"
    | 0x36 | 0x3B | 0x3C | 0x3E | 0x3F => izRow .r "L"
    | 0x3D => izRow .rh "L"
    | 0x70 | 0x71 | 0x72 | 0x73 | 0x79 | 0x7A => izRow .h "L"
    | 0x74 | 0x75 => izRow .rh "L"
    | 0x76 | 0x77 | 0x78 | 0x7B | 0x7C | 0x7F => izRow .r "L"
    | 0x7D | 0x7E => izRow .wait "S"
    | 0x82 => izRow .rh "LSK"
    | 0x83 | 0x86 => izRow .r "LSK"
    | 0x84 => izRow .rh "LK"
    | 0x85 => izRow .r "LK"
    | 0x87 => izRow .r "K"
    | 0x88 => izRow .r "S"
    | 0x89 => izRow .x "KG"
    | 0x8A => izRow .xt "KG"
    | 0x8C => izRow .rh ""
    | 0x8E | 0x8F => izRow .rm "KG"
    | 0x90 | 0x98 | 0x99 | 0x9A => izRow .r "L"
    | 0xA0 => izRow .movCf "L"
    | _ => none

/-- The two-byte map behind 0xF0 (R153). -/
def izMap2 (b : Nat) : Option IzRow :=
  match b with
  | 0x00 => izRow .rx "WNPLG"
  | 0x01 => izRow .rx "WPLG"
  | 0x02 | 0x04 => izRow .r "L"
  | 0x03 => izRow .h "L"
  | _ => none

/-- What a decode reads: the bytes from CPC on, its offset, the segment's limit, and the EXT opcodes with a unit bound. -/
structure IzEnv where
  bytes : List Byte
  off : Nat
  limit : Nat
  bound : Nat → Bool

/-- The next byte is examined: beyond the limit it ends the program with 0x20; where the bytes given end, nothing is
decided. -/
def IzEnv.byte (e : IzEnv) (i : Nat) (k : Nat → Option Nat) : Option Nat :=
  if e.off + i ≥ e.limit then some 0x20
  else match e.bytes[i]? with
    | none => none
    | some b => k b.toNat

/-- `n` bytes that any value may stand in: displacements, immediates, targets. -/
def IzEnv.skip (e : IzEnv) (i n : Nat) : Option Nat := if e.off + i + n > e.limit then some 0x20 else none

/-- The prefixes of a block: the lead byte and the prefix byte; 0xE0 and 0 without one. -/
structure IzPfx where
  lead : Nat := 0xE0
  val : Nat := 0
deriving DecidableEq, Repr

/-- WID. -/
def IzPfx.wid (p : IzPfx) : Nat := p.val % 8

/-- A prefix that the opcode's row does not admit (R144). -/
def IzPfx.bad (p : IzPfx) (r : IzRow) : Bool :=
  let no (c : Char) : Bool := !r.pfx.contains c
  (decide (1 ≤ p.wid ∧ p.wid ≤ 3) && no 'W') || (p.wid == 4 && no 'N') || (bitsOf p.val 3 2 != 0 && no 'P') ||
    (bitsOf p.val 5 1 == 1 && no 'L') || (bitsOf p.val 6 1 == 1 && no 'K') || (p.lead == 0xE2 && no 'S') ||
    (r.needW && p.wid == 0) || (r.noW8 && (p.wid == 3 || p.wid == 4))

/-- A memory selector, its segment byte and its displacement (R140, R145). -/
def IzEnv.mem (e : IzEnv) (r : IzRow) (p : IzPfx) (i : Nat) : Option Nat :=
  e.byte i fun m =>
    let disp := if bitsOf m 4 2 = 3 then 4 else bitsOf m 4 2
    if bitsOf m 6 1 = 1 ∧ p.wid ≠ 4 then some 0x10
    else if bitsOf m 7 1 = 0 then e.skip (i + 1) disp
    else if !r.pfx.contains 'G' then some 0x11
    else e.byte (i + 1) fun g => if g ≥ 16 then some 0x10 else e.skip (i + 2) disp

/-- The transform selector of form XT (R237): judged at its last byte. -/
def IzEnv.tsel (e : IzEnv) (xt : Bool) (i : Nat) : Option Nat :=
  if !xt then none
  else e.byte i fun a => e.byte (i + 1) fun b => e.byte (i + 2) fun c => e.byte (i + 3) fun d =>
    if tselOk (a + 256 * b + 65536 * c + 16777216 * d) then none else some 0x10

/-- Forms X and XT (R142, R145). -/
def IzEnv.xfer (e : IzEnv) (xt : Bool) (i : Nat) : Option Nat :=
  e.byte i fun s0 => e.byte (i + 1) fun s1 =>
    let sk := bitsOf s1 1 1 = 1
    let dso := bitsOf s1 2 1
    let sso := bitsOf s1 3 1
    if sk ∧ (s0 ≥ 16 ∨ dso = 1) then some 0x10
    else if dso = 0 ∧ sso = 0 then e.tsel xt (i + 2)
    else e.byte (i + 2) fun g =>
      if (dso = 0 ∧ g % 16 ≠ 0) ∨ (sso = 0 ∧ g ≥ 16) then some 0x10 else e.tsel xt (i + 3)

/-- The bytes after the opcode, by the form. -/
def IzEnv.form (e : IzEnv) (r : IzRow) (p : IzPfx) (i : Nat) : Option Nat :=
  match r.form with
  | .n => none
  | .r => e.skip i 1
  | .ri => e.byte i fun s => if s % 16 > 3 then some 0x10 else e.skip (i + 1) (2 ^ (s % 16))
  | .rb => e.skip i 2
  | .rh => e.skip i 3
  | .wait => e.byte i fun s => if bitsOf s 1 3 ≠ 0 then some 0x10 else e.skip (i + 1) 2
  | .movCf => e.byte i fun s => if s / 16 = 1 then none else some 0x13
  | .h => e.skip i 2
  | .rm => e.byte i fun s => if s % 16 ≠ 0 then some 0x10 else e.mem r p (i + 1)
  | .rx => e.byte i fun _ => e.mem r p (i + 1)
  | .x => e.xfer false i
  | .xt => e.xfer true i
  | .j8 => e.skip i 1
  | .j32 => e.skip i 4
  | .t => e.skip i 8

/-- The opcode's last byte: its row, and the prefixes against it. -/
def IzEnv.op (e : IzEnv) (r : Option IzRow) (p : IzPfx) (i : Nat) : Option Nat :=
  match r with
  | none => some 0x10
  | some r => if p.bad r then some 0x11 else e.form r p i

/-- An opcode byte, after a prefix block or at the start. -/
def IzEnv.opcode (e : IzEnv) (blk : Bool) (p : IzPfx) (i : Nat) : Option Nat :=
  e.byte i fun b =>
    if 0xE0 ≤ b ∧ b ≤ 0xE2 ∧ blk then some 0x11
    else if b = 0xF0 then e.byte (i + 1) fun b2 => e.op (izMap2 b2) p (i + 2)
    else if b ≥ 0xF8 ∧ !e.bound (b - 0xF8) then some 0x10
    else e.op (izMap b) p (i + 1)

/-- The status of the first byte at which a check fails (R138): none where the bytes form a defined instruction. -/
def IzEnv.decode (e : IzEnv) : Option Nat :=
  e.byte 0 fun b =>
    if 0xE0 ≤ b ∧ b ≤ 0xE2 then
      e.byte 1 fun v =>
        if v % 8 ≥ 5 ∨ bitsOf v 3 2 = 3 ∨ v ≥ 128 then some 0x10
        else if bitsOf v 5 1 = 1 ∧ (bitsOf v 3 2 ≠ 0 ∨ b = 0xE2) then some 0x11
        else e.opcode true { lead := b, val := v } 2
    else e.opcode false {} 0

/-- Bytes that form no defined instruction (R138): the program ends with the status of the first check that fails. -/
def execUndefinedOpcode (ctx : Fin 1024) (bytes : List Byte) (s : State) : Res :=
  let c := ctx.val
  let p := (s.cx c).regs.cpc
  if !s.canIssue c then .next s
  else if !p.seg.live then s.trap c 0x22 { sel := p.sel }
  else if p.seg.inval then s.trap c 0x23 { sel := p.sel }
  else
    let e : IzEnv := { bytes := bytes, off := p.off, limit := p.seg.limit, bound := fun n => s.on (Fld.extBind.VALID n) }
    match e.decode with
    | some st => s.trap c st { sel := p.sel }
    | none => .next s

end Sys2Proof.Machine
end

