-- ==== Sys2Proof/Machine/Regs.lean ====
section
/-!
DEFINITION. Accesses to registers that have no command of their own (R12 to R20, R422).
-/

namespace Sys2Proof.Machine

/-- The first offset above BAR0: from here up stand the configuration-space fields (log entry 6). -/
def cfgSpaceBase : Nat := 2 ^ 26

/-- A write of `bytes` bytes at an offset of the accessor's BAR0, or of a configuration-space field (R12, R15, R19, R20). -/
def execRegisterWrite (acc : Accessor) (off : Nat) (bytes : Nat) (val : BitVec 64) (s : State) : Res :=
  if off ≥ cfgSpaceBase then s.writeCfgSpace (accFunc acc) (off - cfgSpaceBase) val.toNat
  else s.barWrite acc off bytes val.toNat

/-- What a read of a configuration-space field of a function returns (R331, R332, R339, R341, R342), at the model's own numbers for
these fields (log entry 6): the four fields that writes reach, the third with the size of the MSI-X table less 1; then the identity, the
Birmon DVSEC, the cache size in units of 64 KiB, SR-IOV's numbers, the depth of the ATS invalidation queue, Transactions Pending, the
power state with No_Soft_Reset, Bus Master Enable, and DOE Error with the IDE stream's secure state. -/
def State.cfgSpace (s : State) (f k : Nat) : Nat :=
  match k with
  | 0 => b2n (NSet.has s.atsEn f)
  | 1 => b2n s.vfEn
  | 2 => (if f = 0 then 2047 else 63) + b2n (NSet.has s.msixFmask f) * 2 ^ 14 + b2n (NSet.has s.msixEn f) * 2 ^ 15
  | 3 => s.get Fld.dvsec.VF_BAR_LOG2
  | 4 => Config.vendorId.toNat + (if f = 0 then 0x9600 else 0x9601) * 2 ^ 16
  | 5 => 0x0B4000 * 2 ^ 8
  | 6 => match s.activeSlot with | some i => imgNum (s.slotImg i) 0x18 4 | none => 0
  | 7 => bitsOf (s.reg ⟨.dvsec, 0, 1⟩).toNat 32 32
  | 8 => bitsOf (s.reg ⟨.dvsec, 0, 2⟩).toNat 0 32
  | 9 => bitsOf (s.reg ⟨.dvsec, 0, 2⟩).toNat 32 32
  | 10 => 36
  | 11 => 1023
  | 12 => 1 + 1 * 2 ^ 16
  | 13 => 32
  | 14 => b2n (NSet.has s.flr f)
  | 15 => (if NSet.has s.d3hot f then 3 else 0) + 2 ^ 3
  | 16 => b2n (NSet.has s.bme f)
  | 17 => b2n s.doeErr + b2n s.ideSecure * 2
  | _ => 0

/-- A read of the accessor's BAR0 (R19, R422), or of a configuration-space field, which CXL mode has (R331): the answer leaves the
device. -/
def execExpertWindowRead (acc : Accessor) (off : Nat) (bytes : Nat) (s : State) : Res :=
  if !s.reaches acc then .next s
  else if off ≥ cfgSpaceBase then
    if s.on Fld.hpuStat.MODE then .next s else .next (s.emit (.rdata off (s.cfgSpace (accFunc acc) (off - cfgSpaceBase))))
  else if off + bytes > cfgSpaceBase then .next s
  else
    let r := s.barRead acc off bytes
    .next (r.2.emit (.rdata off (ofBytes r.1)))

end Sys2Proof.Machine
end

