-- ==== Sys2Proof/Machine/Roloa.lean ====
section
/-!
DEFINITION. Received Roloa packets: the receiver's checks, the source check, routing, requests that the device's own node
answers, forwarded requests to the host, status updates, responses and timeouts; and the device-port commands (R271 to
R274, R285 to R291, R298 to R325, R335, R337, R349).
-/

namespace Sys2Proof.Machine

/-! ### The rules of requests -/

/-- A request of an assigned type that breaks a rule of R298, R299 or R322 (R305): its VC, its LEN, its byte enables, a boundary of
512 bytes, or an attribute that its type does not have. -/
def reqBad (p : Pkt) : Bool :=
  let cross := decide (p.addr * 4 % 512 + 4 * p.len > 512)
  let mem := p.vc == 2 || p.len == 0 || cross || p.fbe == 0 || (decide (p.len > 1) && p.lbe == 0)
  match p.type with
  | 0x20 | 0x61 => mem || p.attr != 0
  | 0x60 => mem || p.attr != 0 || p.locked
  | 0x62 => !(p.vc == 0 || p.vc == 1) || p.len != 2 || p.fbe != 15 || p.lbe != 15 || cross || p.attr != 0
  | 0x68 => p.vc != 1 || decide (p.len > 16) || p.fbe == 0 || (decide (p.len > 1) && p.lbe == 0) || cross || p.attr != 0 || p.locked
  | 0x70 => p.vc != 1 || p.len != 4 || p.fbe != 15 || p.lbe != 15 || p.attr != 0 || bitsOf p.aux 44 2 != 0
  | _ => false

/-! ### Responses that reach the device -/

/-- A CST value not listed is CA (R301). -/
def cstOf (c : Nat) : Nat :=
  if c = 0 ∨ c = 1 ∨ c = 0x10 ∨ c = 0x11 ∨ c = 0x12 ∨ c = 0x13 ∨ c = 0x14 ∨ c = 0x20 then c else 0x11

/-- A transaction's record replaced. -/
def State.setTxn (s : State) (tag : Nat) (t : Txn) : State := { s with txn := AMap.set natLt s.txn noTxn tag t }

/-- The value of a register read arrives (R109, R207 to R209, R214). With no value known for the register there is neither "the
predicted value" nor "a different value" of R208; the counter falls (log entry 69). -/
def State.drdData (s : State) (c tag : Nat) (bs : List Byte) : State :=
  let v := BitVec.ofNat 64 (ofBytes bs)
  let s1 := s.gotFirst c (2 * tag + 1) bs
  let x := s1.cx c
  let mine (w : Wait) : Bool := match w with | .drd _ _ _ _ t => t == tag | _ => false
  let fill (p ix : Nat) (t : State) : State := t.updCx c fun y => y.remember p ix v
  match x.ckOf mine with
  | some k => match x.ckpts[k]?.map Ckpt.wait with
    | some (.drd _ _ p ix _) => ((fill p ix s1).resolveCk c k (.drd v)).kick c
    | _ => s1
  | none => match x.wait with
    | .drd _ _ p ix t =>
      if t = tag then
        let up := x.vbuf.any fun e => e.1 == p && e.2.1 == ix && e.2.2 == v
        ((fill p ix s1).resolveLive c (.drd v) up).kick c
      else s1
    | _ => s1

/-- A device command's completion arrives with its DSTAT (R110, R207). -/
def State.dcmdDone (s : State) (c tag status : Nat) : State :=
  let x := s.cx c
  let mine (w : Wait) : Bool := match w with | .dcmd _ _ _ _ _ (some t) => t == tag | _ => false
  match x.ckOf mine with
  | some k => (s.resolveCk c k (.dcmd status)).kick c
  | none => if mine x.wait then (s.resolveLive c (.dcmd status) (status == 0)).kick c else s

/-- A request that needed no data has been done (R177, R110, R111). -/
def State.ackTxn (s0 : State) (tag dstat : Nat) (t : Txn) : State :=
  let s := s0.dropTxn tag
  match t.purp with
  | .dwr c => (s.updCx c fun y => y.retireAt (match y.wait with | .dwr len _ => len | _ => 0) y.waitLock).kick c
  | .dcmd c => s.dcmdDone c tag dstat
  | .chain c pos => s.chainDone c pos dstat
  | _ => s

/-- The whole data of a read is there (R302). -/
def State.readDone (s0 : State) (tag : Nat) (t : Txn) (bs : List Byte) : State :=
  let s := s0.dropTxn tag
  match t.purp with
  | .load c k => s.loadData c k true bs
  | .drd c => s.drdData c tag bs
  | .desc c => s.descData c bs
  | .mover k => (s.feed k bs).goXf k
  | .verify c k i => s.gotRead c k i true bs
  | .host id => match (s.hreqOf id).purp with
    | .ring p => (s.dropHreq id).ringData p ((List.range (bs.length / 4)).map fun i => ofBytes ((bs.drop (4 * i)).take 4))
    | p => if p.isGone then s.lateRead id else s.hostData id (s.hreqOf id) bs State.descData
  | .disc key => s.discData key bs
  | _ => s

/-- What the last piece of a read of host memory in Roloa-native mode makes unpredictable, with the rule. -/
def State.cplBad (s : State) (p : Pkt) : Option Nat :=
  match s.txnOf p.tag with
  | some t => match t.purp with
    | .host id =>
      let bs := ((t.got ++ p.data).drop t.lo).take t.n
      let r := s.hreqOf id
      if p.type = 0xC0 ∧ p.last ∧ p.cst = 0 ∧ !p.poison ∧ 4 * p.woff = t.got.length ∧ bs.length = t.n then
        match r.purp with
        | .ring q => if ((List.range (bs.length / 4)).map fun i => ofBytes ((bs.drop (4 * i)).take 4)) ≠
            (s.pl q).ring.take (bs.length / 4) then some 258 else none
        | _ => s.dataBad r.purp bs
      else none
    | _ => none
  | none => none

/-- An outstanding request ends with an error CST (R301); one that reads host memory in Roloa-native mode ends that read. -/
def State.txnEnd (s : State) (tag cst : Nat) (tmo : Bool) : State :=
  match (s.txnOf tag).map Txn.purp with
  | some (.host id) => (s.dropTxn tag).hostReadFail id
  | _ => s.txnFail tag cst tmo

/-- A read ends in error before its last piece: the rest of its pieces are discarded as they come (R302, R327). -/
def State.readBroken (s : State) (tag cst : Nat) (last : Bool) (t : Txn) : State :=
  let s1 := s.txnEnd tag cst false
  if last then s1 else s1.setTxn tag { t with purp := .gone }

/-- A mover's read has its data end (R303): only in a port's data window. Of a STRIPE or GATHER the whole rows before the end are
written (log entry 62). -/
def State.readEod (s : State) (tag : Nat) (t : Txn) (bs : List Byte) : State :=
  match t.purp with
  | .mover k =>
    if t.port.isSome then ((s.dropTxn tag).endOfData k ((bs.drop t.lo).take t.n)).goXf k
    else s.txnEnd tag 0x11 false
  | _ => s.txnEnd tag 0x11 false

/-- A completion without data (R300, R301, R303). -/
def State.onCpl (s : State) (t : Txn) (p : Pkt) : State :=
  let cst := cstOf p.cst
  match t.type with
  | 0x20 => if cst = 1 ∧ t.got.isEmpty then s.readEod p.tag t [] else s.txnEnd p.tag (if cst ≤ 1 then 0x11 else cst) false
  | 0x61 => if cst = 0 then s.ackTxn p.tag 0 t else s.txnEnd p.tag (if cst = 1 then 0x11 else cst) false
  | 0x62 => if cst = 0 then s.ackTxn p.tag (bitsOf p.aux 14 32) t else s.txnEnd p.tag (if cst = 1 then 0x11 else cst) false
  | _ => s.txnEnd p.tag cst false

/-- The valid bytes of the last word of a piece with EOD (R300). -/
def eodBytes (p : Pkt) : List Byte := p.data.take (p.data.length - 4 + (highBit p.fbe + 1))

/-- Poisoned data of a read (R234, R304): a mover writes the beats before the piece. -/
def State.readPoison (s : State) (tag : Nat) (t : Txn) (last : Bool) : State :=
  match t.purp with
  | .mover k =>
    let g := goodBeats (4 * t.addr + t.lo) ((t.got.drop t.lo).take t.n)
    let s0 := if last then s.dropTxn tag else s.setTxn tag { t with purp := .gone }
    if g.isEmpty || (s.xg k).stripe.isSome then s0.readFail k 2 0x30
    else
      let s1 := s0.feed k g
      if (s1.xg k).links.isEmpty then s1 else s1.readFail k 2 0x30
  | .host id =>
    let s0 := if last then s.dropTxn tag else s.setTxn tag { t with purp := .gone }
    match (s0.hreqOf id).purp with
    | .mover k =>
      let g := goodBeats (s0.hreqOf id).addr ((t.got.drop t.lo).take t.n)
      let s1 := s0.dropHreq id
      if g.isEmpty || (s1.xg k).stripe.isSome then s1.readFail k 2 0x30
      else
        let s2 := s1.feed k g
        if (s2.xg k).links.isEmpty then s2 else s2.readFail k 2 0x30
    | _ => s0.hostReadFail id true
  | _ => s.readBroken tag 0x13 last t

/-- A piece of data (R302 to R304). -/
def State.onCpld (s : State) (t : Txn) (p : Pkt) : State :=
  let cst := cstOf p.cst
  if t.type ≠ 0x20 then s.readBroken p.tag 0x11 p.last t
  else if p.poison then s.readPoison p.tag t p.last
  else if cst = 1 then
    (if p.last then s.readEod p.tag t (t.got ++ eodBytes p) else s.readBroken p.tag 0x11 p.last t)
  else if cst ≠ 0 ∨ 4 * p.woff ≠ t.got.length then s.readBroken p.tag (if cst = 0 then 0x11 else cst) p.last t
  else
    let got := t.got ++ p.data
    if !p.last then s.setTxn p.tag { t with got := got }
    else
      let bs := (got.drop t.lo).take t.n
      if bs.length = t.n then s.readDone p.tag t bs else s.txnEnd p.tag 0x11 false

/-- An extension response (R323). -/
def State.onXrsp (s0 : State) (t : Txn) (p : Pkt) : State :=
  match t.purp with
  | .ext c n =>
    let s := s0.dropTxn p.tag
    if cstOf p.cst = 0 ∧ p.len = 2 ∧ !p.poison then
      s.updCx c fun y => match y.wait with
        | .ext len d _ _ =>
          let y1 := y.setD d (BitVec.ofNat 64 (ofBytes p.data))
          let y2 := match p.flags with
            | some f => y1.setCF { y1.regs.cf with
                z := bitsOf f 0 1 == 1, n := bitsOf f 1 1 == 1, c := bitsOf f 2 1 == 1, v := bitsOf f 3 1 == 1 }
            | none => y1
          y2.retireAt len y.waitLock
        | _ => y
    else s.extFail c n (cstOf p.cst) (bitsOf p.aux 14 32) false
  | _ => s0.readBroken p.tag 0x11 true t

/-- A response reaches the device (R308, R309, R323): one that is late, or whose tag is not outstanding, is discarded and counted; the
last of it frees the tag. -/
def State.takeResponse (s : State) (p : Pkt) : State :=
  let late (t : State) : State := if p.type = 0xC4 then t.incSat Fld.extCnt.LATE else t
  match s.txnOf p.tag with
  | none => late (s.incSat Fld.txnStat.LATE_RSP)
  | some t =>
    if t.purp.isGone then
      let s1 := if t.purp == .late then s.incSat Fld.txnStat.LATE_RSP else s
      if p.type ≠ 0xC0 ∨ p.last then late (s1.dropTxn p.tag) else s1
    else match p.type with
      | 0x80 => s.onCpl t p
      | 0xC0 => s.onCpld t p
      | _ => s.onXrsp t p

/-- A response of the device's own node to a request that came in at a port: 9 stands for the device itself. -/
def State.reply (s : State) (link : Nat) (p : Pkt) : State :=
  if link = 9 then s.takeResponse p else s.sendRouted p

/-- A completion with a status for a request. -/
def State.answer (s : State) (link : Nat) (p : Pkt) (cst : Nat) : State :=
  s.reply link (s.cplPkt p.type p.src p.tag p.vc cst)

/-- The data of a read is sent to its requester in pieces (R302). -/
def State.sendData (s : State) (link : Nat) (p : Pkt) (a : Nat) (bs : List Byte) : State :=
  forAll (s.dataPkts p.src p.tag p.vc p.addr p.len a bs) (fun t q => t.reply link q) (s.dataTaken p.len bs)

/-! ### Requests to the device's own node -/

/-- The owner code of a requester: the peer link, or the program whose request it is (R352). -/
def State.ownerOf (s : State) (link tag : Nat) : Nat :=
  if link = 9 then
    match (s.txnOf tag).map Txn.purp with
    | some (.drd c) | some (.dwr c) | some (.dcmd c) | some (.chain c _) | some (.verify c _ _) =>
      ownProgram (s.cx c).pdom
    | _ => ownProgram 0
  else ownLink link

/-- A request that breaks a rule is counted, and answered when it is non-posted (R305). -/
def State.badReq (s : State) (link : Nat) (p : Pkt) : State :=
  let s1 := s.incSat Fld.txnStat.BAD_REQ
  if nonPostedTy p.type then s1.answer link p 0x11 else s1

/-- A memory read of the device's own node (R302, R349); the host link reaches BAR0 alone (R337). -/
def State.selfRead (s : State) (link : Nat) (p : Pkt) : State :=
  let (a, n) := pktSpan p
  if link = 8 then
    if a + n ≤ 2 ^ 26 then
      let r := s.barRead .pf a n
      r.2.sendData link p a r.1
    else s.answer link p 0x11
  else match s.selfAcc (s.ownerOf link p.tag) p.src a n none with
    | .ok bs s1 => s1.sendData link p a bs
    | .refused s1 => s1.answer link p 0x11
    | .devErr s1 => s1.answer link p 0x14
    | .outside => s.answer link p 0x11

/-- A memory write of the device's own node; `np` when it is answered (R304, R349). -/
def State.selfWrite (s : State) (link : Nat) (p : Pkt) (np : Bool) : Res :=
  let (a, n) := pktSpan p
  let bs := (p.data.drop (a - 4 * p.addr)).take n
  let back (t : State) (cst : Nat) : State := if np then t.answer link p cst else t
  if p.poison then (back s 0x13).done
  else if link = 8 then
    if a + n ≤ 2 ^ 26 then
      match s.barWrite .pf a n (ofBytes bs) with
      | .next s1 => (back s1 0).done
      | r => r
    else (back s 0x11).done
  else match s.selfAcc (s.ownerOf link p.tag) p.src a n (some bs) with
    | .ok _ s1 => (back s1 0).done
    | .refused s1 => (back s1 0x11).done
    | .devErr s1 => (back s1 0x14).done
    | .outside => (back s 0x11).done

/-- A status update reaches the STU (R317): it is applied once the posted writes on VC1 that its source sent before it have left
(R307). -/
def State.applySupd (s : State) (p : Pkt) : Res :=
  if (s.supdPorts p).length > 1 then .fault (.unpredictable 314)
  else
    let ahead := s.postedAhead p.src
    if ahead.isEmpty ∧ !(s.supdQ.any fun w => w.1.src == p.src) then .next (s.supdNow p)
    else .next { s with supdQ := s.supdQ ++ [(p, ahead)] }

/-- A packet for the device's own node. -/
def atSelf (link : Nat) (p : Pkt) (s : State) : Res :=
  if responseTy p.type then (match s.cplBad p with | some rule => .fault (.unpredictable rule) | none => (s.takeResponse p).done)
  else if reqBad p then (s.badReq link p).done
  else match p.type with
    | 0x20 => (s.selfRead link p).done
    | 0x60 => s.selfWrite link p false
    | 0x61 => s.selfWrite link p true
    | 0x68 => s.applySupd p
    | _ => (s.answer link p 0x10).done

/-! ### Packets for others -/

/-- A packet passes on towards the requester's answer: a non-posted one is awaited at the link it left by (R294). -/
def State.await (s : State) (l : Nat) (p : Pkt) : State :=
  if nonPostedTy p.type then s.setLk l { s.lk l with fwd := (s.lk l).fwd ++ [(p.src, p.tag, p.vc, p.type)] } else s

/-- A packet of a peer for the host (R335); in CXL mode the HPU is its completer (R305), and a write that cannot reach the host is
answered DEVERR (log entry 63). In Roloa-native mode a host whose link is down cannot be reached (R329). -/
def State.toHost (s : State) (link : Nat) (p : Pkt) : State :=
  let say (t : State) (cst : Nat) : State := if nonPostedTy p.type then t.answer link p cst else t
  let drop (cst : Nat) : State := say (s.incSat Fld.hpuStat.PEER_DROP) cst
  if link < 8 ∧ !s.on (Fld.hpuPeer.EN link) then drop 0x11
  else if link < 8 ∧ p.type ≠ 0x20 ∧ p.type ≠ 0x60 ∧ p.type ≠ 0x61 then drop 0x10
  else if s.on Fld.hpuStat.MODE then
    if s.hostCut then say s 0x12 else (s.sendPkt 8 p).await 8 p
  else if reqBad p then say s 0x11
  else
    let f := s.get (Fld.hpuPeer.FUNC link)
    let (a, n) := pktSpan p
    if p.type = 0x20 then s.hostRead (.peer p.src p.tag p.vc p.addr p.len) f .io a n p.vc
    else if p.poison then say s 0x13
    else
      let s1 := s.hostWrite f a ((p.data.drop (a - 4 * p.addr)).take n)
      say s1 (if s.hostOk f then 0 else 0x14)

/-- A response that passes a link is no longer awaited there. -/
def State.fwdDone (s : State) (link : Nat) (p : Pkt) : State :=
  if responseTy p.type && (p.type != 0xC0 || p.last) then
    s.setLk link { s.lk link with fwd := (s.lk link).fwd.filter fun f => !(f.1 == p.dst && f.2.1 == p.tag) }
  else s

/-- A packet leaves by another link, unchanged but for HOPS (R274, R287). -/
def State.forward (s : State) (l hops : Nat) (p : Pkt) : State := (s.sendPkt l { p with hops := hops }).await l p

/-- A payload above the MPS of the peer on a link, or of the host in Roloa-native mode (R284, R337). -/
def State.tooLong (s : State) (l : Nat) (p : Pkt) : Bool :=
  decide (p.data.length > 64 * 2 ^ (if l = 8 then s.hostLink.mps else s.get (Fld.pluStat.PEER_MPS l)))

/-- An unroutable or hop-exhausted packet (R291). -/
def State.noRoute (s : State) (link : Nat) (hop : Bool) (p : Pkt) : State :=
  let s1 := if link = 8 then s.incSat Fld.hpuStat.UNROUTED
    else s.incSat (if hop then Fld.pluCnt.HOP_DROP link else Fld.pluCnt.UNROUTED link)
  if nonPostedTy p.type then s1.sendRouted (s1.cplPkt p.type p.src p.tag p.vc 0x12) else s1

/-- A packet is routed at its ingress (R287). One whose payload the next peer does not accept is handled as unroutable (R284, log
entry 64). -/
def routePkt (link : Nat) (p : Pkt) (s0 : State) : Res :=
  let s := s0.fwdDone link p
  match s.route p.dst p.hops link with
  | .self => atSelf link p s
  | .host => (if s.on Fld.hpuStat.MODE && s.tooLong 8 p then s.noRoute link false p else s.toHost link p).done
  | .link l hops => (if s.tooLong l p then s.noRoute link false p else s.forward l hops p).done
  | .unroutable => (s.noRoute link false p).done
  | .hopExhausted => (s.noRoute link true p).done

/-- The source check (R289); the host may only speak as itself (R337). -/
def State.srcOk (s : State) (link src : Nat) : Bool :=
  if link = 8 then src == s.hostNode
  else if s.on (Fld.pluStat.PEER_SW link) then src / 256 != s.get Fld.rtCtl.DOMAIN && s.rtEntry .domRtA (src / 256) == link
  else s.inGrant link src

/-- A packet whose source check fails is discarded and recorded (R289). -/
def State.srcViol (s : State) (link : Nat) (p : Pkt) : State :=
  let s1 := s.incSat (Fld.pluCnt.SRC_VIOL link)
  if s1.on (Fld.srcLog.VALID link) then s1
  else s1.putAll [(Fld.srcLog.VALID link, 1), (Fld.srcLog.SRC link, p.src), (Fld.srcLog.DST link, p.dst),
    (Fld.srcLog.TYPE link, p.type)]

/-- The device has a packet of its own for its own node on its way, and awaits the answer. -/
def State.ownPending (s : State) (p : Pkt) : Bool := s.out.contains (.pkt 9 p) && (s.txnOf p.tag).isSome

/-- A packet of a type arrives: at peer link 0 to 7, at the host link (8), or from the device itself (9). -/
def arrive (ty : Nat) (link : Fin 10) (q : Pkt) (s : State) : Res :=
  let i := link.val
  let p := { q with type := ty }
  if !pktShape p then .next s
  else if i = 9 then (if s.ownPending p then atSelf 9 p s else .next s)
  else if i = 8 then
    if s.hostLink.st ≠ 4 then .next s
    else if (malformedWord p).isSome then s.hostLost.done
    else match s.owe 8 p.vc (dataCredits p) with
      | none => s.hostLost.done
      | some s1 => if s1.srcOk 8 p.src then routePkt 8 p s1.leaveDoze else .next s1.leaveDoze
  else if s.lState i ≠ 4 then .next s
  else match malformedWord p with
    | some w => s.malformed i w
    | none => match s.owe i p.vc (dataCredits p) with
      | none => ((s.linkDown i 6 0 false).fabricCheck).done
      | some s1 =>
        let s2 := s1.leaveDoze
        if s2.srcOk i p.src then routePkt i p s2 else .next (s2.srcViol i p)

/-- A memory read request arrives (R298, R302). -/
def execMrd (link : Fin 10) (p : Pkt) (s : State) : Res := arrive 0x20 link p s
/-- A posted memory write arrives. -/
def execMwr (link : Fin 10) (p : Pkt) (s : State) : Res := arrive 0x60 link p s
/-- A non-posted memory write arrives. -/
def execMwrn (link : Fin 10) (p : Pkt) (s : State) : Res := arrive 0x61 link p s
/-- A device-command packet arrives. -/
def execDcmdPacket (link : Fin 10) (p : Pkt) (s : State) : Res := arrive 0x62 link p s
/-- A status update arrives (R317). -/
def execSupd (link : Fin 10) (p : Pkt) (s : State) : Res := arrive 0x68 link p s
/-- An extension request arrives. -/
def execXreq (link : Fin 10) (p : Pkt) (s : State) : Res := arrive 0x70 link p s
/-- A completion without data arrives (R300, R301). -/
def execCpl (link : Fin 10) (p : Pkt) (s : State) : Res := arrive 0x80 link p s
/-- A piece of data arrives (R302). -/
def execCpld (link : Fin 10) (p : Pkt) (s : State) : Res := arrive 0xC0 link p s
/-- An extension response arrives (R323). -/
def execXrsp (link : Fin 10) (p : Pkt) (s : State) : Res := arrive 0xC4 link p s

/-- A request's timer expires (R308, R309): it ends as with CST DEVERR, and its tag stays in use until the late response has been
discarded. -/
def execTransactionTimeout (tag : Fin 4096) (s : State) : Res :=
  match s.txnOf tag.val with
  | none => .next s
  | some t =>
    if t.purp = .late then .next s
    else (((s.incSat Fld.txnStat.TIMEOUTS).txnEnd tag.val 0x14 true).setTxn tag.val { t with purp := .late }).done

end Sys2Proof.Machine
end

