-- ==== Sys2Proof/Machine/Sec.lean ====
section
/-!
DEFINITION. Boot, Recovery, firmware images and readiness (R443 to R458), and the SPDM responder (R455, R456).
-/

namespace Sys2Proof.Machine

/-! ### The jump (R450, R454) -/

/-- Forty-eight zero bytes. -/
def noHash : List Byte := List.replicate 48 0

/-- The hash of the owner key that signed an image, or zeros (R454). -/
def State.ownerHash (s : State) (img : List Byte) : List Byte :=
  if fwOwned img then s.keyHash true (sigKey (fwOwnerBlk img)) else noHash

/-- The ROM loads a body at LOAD, derives the identity, has the CFS load the boot configuration, locks the UDS and jumps
(R450, R454). -/
def State.romJump (s : State) (run : Nat) (img : List Byte) : State :=
  let own := s.ownerHash img
  let s1 := { s with
    msram := Memory.writeL s.msram (imgNum img 0x14 4) (fwBody img)
    cdi := hmac384 Config.uds (Config.cdiMsg Config.romVer (fwDigest img) (fwSvn img) own s.fuses.ownFw s.fuses.ownCfg)
    fwOwner := own
    boot := .firmware }
  s1.bootLoad.putAll [(Fld.secStat.RUN_SLOT, run), (Fld.secStat.UDS_LOCKED, 1)]

/-- The slot that the ROM tries first, and the other (R451): one whose FAIL bit alone is set comes second, then the greater
pair (SVN, FW_VER) comes first, and a tie goes to slot 0. -/
def State.romOrder (s : State) : List Nat :=
  let pair (k : Nat) : Nat := fwSvn (s.fwImg k) * 2 ^ 32 + fwVerOf (s.fwImg k)
  let f0 := s.on Fld.secStat.FAIL0
  let f1 := s.on Fld.secStat.FAIL1
  if (if f0 != f1 then f1 else decide (pair 0 ≥ pair 1)) then [0, 1] else [1, 0]

/-- Recovery is entered with its cause. -/
def State.recover (s : State) (cause : Nat) : State := { s with boot := .recovery }.put Fld.secStat.RCV_CAUSE cause

/-- The PCM takes control of VDD over AVSBus (R470, R506). -/
def State.avsTake (s : State) : State := (s.put Fld.pcmStat.VDD_MV s.vddTarget).effUpdate

/-- The fuse check and the ROM (R443, R444, R450, R451). -/
def execRomBoot (fuseOk : Bool) (s : State) : Res :=
  if s.boot ≠ .rom then .next s
  else if !fuseOk then
    let s1 := s.put Fld.secStat.FUSE_BAD 1
    if (s.get Fld.fclFsw.FSW).testBit 35 then ({ s1 with boot := .halted }.put Fld.secStat.RCV_CAUSE 2).done
    else (s1.logErr 35 3 0 0).done
  else
    let s1 := s.avsTake
    if s1.on Fld.glbBoot.RCV_REQ then ((s1.put Fld.glbBoot.RCV_REQ 0).recover 1).done
    else match s1.romOrder.find? s1.fwValid with
      | some k => (s1.romJump k (s1.fwImg k)).done
      | none => (s1.recover 0).done

/-- The boot watchdog expires (R451). -/
def execBootWatchdogExpiry (s : State) : Res :=
  if s.boot ≠ .firmware then .next s
  else
    let r := s.get Fld.secStat.RUN_SLOT
    let s1 := if r = 0 then s.put Fld.secStat.FAIL0 1 else if r = 1 then s.put Fld.secStat.FAIL1 1 else s
    (s1.chipAsk 4).done

/-- ACP firmware sets EN for the links that the active configuration names, and FW_READY (R408, R453, R515); CFS_EVENT follows
a boot load from the Previous slot (R433). -/
def execFwReady (s : State) : Res :=
  if s.boot ≠ .firmware then .next s
  else
    let v := s.activeVer
    let s1 := forAll (below 8 fun p => v.fld (Fld.pluCtl.EN p) == 1)
      (fun t p => okOr (execLinkEnable (Fin.ofNat 8 p) t) t) { s with boot := .ready }
    let s2 := (s1.put Fld.dvsec.FW_READY 1).fabricCheck.fwCommit
    let s3 := if s2.bootPrev then { s2 with bootPrev := false }.raise 0x10410 else s2
    s3.done

/-! ### Firmware images into flash (R452, R457) -/

/-- An image's bulk read is issued. -/
def State.imgRead (s : State) (c : AcpCmd) : Res :=
  s.checked c [(!s.hostOk 0, aeHost, 0)] ((s.bulkRead (c.fld 0 0 57) (c.fld 8 0 32)).acpWait c 1)

/-- An image that has been read is checked (R449), and `k` goes on with it where it is valid. -/
def State.imgCheck (s : State) (c : AcpCmd) (img : Option (List Byte)) (k : List Byte → Res) : Res :=
  match img with
  | none => s.acpErr c aeHost 0
  | some b =>
    let im := b.take (c.fld 8 0 32)
    match s.fwCheck im with
    | some 3 => s.takeFree.acpErr c aeField s.freeVal.toNat
    | some e => s.acpErr c e 0
    | none => k im

/-- A slot begins to be written: it counts as invalid (R452). -/
def State.fwBegin (s : State) (k : Nat) (img : List Byte) : State :=
  { s with fwSlot := SMap.set s.fwSlot [] k img, fwWriting := NSet.add s.fwWriting k }

/-- A slot has been written; it is read back and checked again, and the answer says so. -/
def State.fwEnd (s : State) (c : AcpCmd) (k : Nat) (pay : List Byte) : Res :=
  let s1 := { s with fwWriting := NSet.del s.fwWriting k }
  match s1.fwCheck (s1.fwImg k) with
  | none => (if s1.fwReady then s1.fwCommit else s1).acpOk c pay
  | some e => s1.acpErr c e 0

/-- The slot that is not running: slot 0 while an image runs from SRAM. -/
def State.fwOther (s : State) : Nat := if s.get Fld.secStat.RUN_SLOT = 0 then 1 else 0

/-- FW_UPDATE (R452): `img` is what the bulk read returns. -/
def execFwUpdate (m : Fin 1024) (img : Option (List Byte)) (s : State) : Res :=
  s.acpTurn m 0x4F [] fun c =>
    let k := s.fwOther
    if c.aborted then (if c.phase = 2 then s.fwTorn else s).acpErr c aeAborted 0
    else if c.phase = 0 then s.imgRead c
    else if c.phase = 1 then s.imgCheck c img fun im => (s.fwBegin k im).acpWait c 2
    else (s.put (if k = 0 then Fld.secStat.FAIL0 else Fld.secStat.FAIL1) 0).fwEnd c k (toBytes 4 k)

/-! ### Recovery (R457) -/

/-- A recovery command that window 0 has brought: in the halt of the fuse check none but RCV_INFO is accepted (R444). -/
def State.rcv (s : State) (opc : Nat) (k : AcpCmd → Res) : Res :=
  s.acpTurn 0 opc [] fun c =>
    if s.boot = .recovery ∨ opc = 0x80 then k c else s.acpErr c aeState 0

/-- RCV_INFO. -/
def execRcvInfo (s : State) : Res :=
  s.rcv 0x80 fun c =>
    s.acpOk c (s.regBytes .secStat 0 1 ++ toBytes 8 (b2n (s.fwValid 0) + 2 * b2n (s.fwValid 1)))

/-- RCV_LOAD: the image runs from SRAM. -/
def execRcvLoad (img : Option (List Byte)) (s : State) : Res :=
  s.rcv 0x81 fun c =>
    if c.phase = 0 then s.imgRead c
    else s.imgCheck c img fun im =>
      (({ s with fwSlot := SMap.set s.fwSlot [] 2 im }.acpAnswer c 0 0 []).romJump 2 im).done

/-- RCV_FLASH. -/
def execRcvFlash (img : Option (List Byte)) (s : State) : Res :=
  s.rcv 0x82 fun c =>
    let k := c.fld 0xC 0 1
    if c.phase = 0 then s.imgRead c
    else if c.phase = 1 then s.imgCheck c img fun im => (s.fwBegin k im).acpWait c 2
    else s.fwEnd c k []

/-- RCV_OWNER_KEY: the policy bits are taken with the first owner key. -/
def execRcvOwnerKey (s : State) : Res :=
  s.rcv 0x83 fun c =>
    let k := c.fld 0 0 2
    let f := s.fuses
    s.checked c [(f.okProg.testBit k, aeState, 0)]
      (({ s with fuses := { f with
          okh := SMap.set f.okh [] k (toBytes 48 (c.fld 8 0 384))
          okProg := f.okProg ||| 2 ^ k
          ownFw := if f.okProg = 0 then c.fld 0 8 1 == 1 else f.ownFw
          ownCfg := if f.okProg = 0 then c.fld 0 9 1 == 1 else f.ownCfg } }).acpOk c [])

/-- RCV_RESET: the response is written, and a chip reset follows. -/
def execRcvReset (s : State) : Res := s.rcv 0x84 fun c => ((s.acpAnswer c 0 0 []).chipAsk 5).done

/-! ### SPDM (R455, R456) -/

/-- A response of the SPDM responder. -/
def State.spdmSay (s : State) (code : Nat) (vals : List Nat) : Res := .next (s.emit (.spdm code vals))

/-- The ERROR codes of DSP0274. -/
def spdmInvalid : Nat := 1
/-- UnexpectedRequest. -/
def spdmUnexpected : Nat := 4
/-- SessionLimitExceeded. -/
def spdmLimit : Nat := 0xA

/-- An ERROR response. -/
def State.spdmErr (s : State) (e : Nat) : Res := s.spdmSay 0x7F [e]

/-- A request reaches the responder: firmware answers it (R455), over the PF's DOE, which configuration space of MODE 0 has
(R331). It has its effect where the order of the requests and its fields allow it, and otherwise gets an ERROR. -/
def State.spdmReq (s : State) (allowed : Bool) (err : Nat) (k : Res) : Res :=
  if !s.fwReady || s.on Fld.hpuStat.MODE then .next s else if allowed then k else s.spdmErr err

/-- The negotiation is complete. -/
def Spdm.open (x : Spdm) : Bool := x.ver && x.caps && x.algs

/-- GET_VERSION: the negotiation begins anew. -/
def execGetVersion (s : State) : Res :=
  s.spdmReq true 0 ({ s with spdm := { s.spdm with ver := true, caps := false, algs := false } }.spdmSay 4 [0x12])

/-- GET_CAPABILITIES. -/
def execGetCapabilities (s : State) : Res :=
  s.spdmReq s.spdm.ver spdmUnexpected ({ s with spdm := { s.spdm with caps := true, algs := false } }.spdmSay 0x61 [])

/-- NEGOTIATE_ALGORITHMS. -/
def execNegotiateAlgorithms (s : State) : Res :=
  s.spdmReq (s.spdm.ver && s.spdm.caps) spdmUnexpected ({ s with spdm := { s.spdm with algs := true } }.spdmSay 0x63 [])

/-- GET_DIGESTS: slot 0 alone is provisioned. -/
def execGetDigests (s : State) : Res := s.spdmReq s.spdm.open spdmUnexpected (s.spdmSay 1 [0])

/-- A request that names a certificate slot: none but slot 0 is provisioned. -/
def State.spdmSlot (s : State) (slot : Nat) (k : Res) : Res :=
  s.spdmReq s.spdm.open spdmUnexpected (if slot = 0 then k else s.spdmErr spdmInvalid)

/-- GET_CERTIFICATE. -/
def execGetCertificate (slot : BitVec 8) (s : State) : Res := s.spdmSlot slot.toNat (s.spdmSay 2 [0])

/-- CHALLENGE, signed with the Attestation key. -/
def execChallenge (slot : BitVec 8) (s : State) : Res := s.spdmSlot slot.toNat (s.spdmSay 3 [0])

/-- What a measurement block is taken over (R456): its index, and the values as they stand. -/
def State.measBlock (s : State) (i : Nat) : List Nat :=
  let run := s.fwImg (s.get Fld.secStat.RUN_SLOT)
  match i with
  | 1 => [1, Config.romVer]
  | 2 => 2 :: ((fwDigest run ++ run.take 0x100).map (·.toNat))
  | 3 => [3, s.fuses.fwSvn, s.fuses.cfgSvn]
  | 4 =>
    let act := match s.activeSlot with | some k => s.slotImg k | none => []
    4 :: ((cfgDigest act).map (·.toNat)) ++ [s.slotVer s.activeSlot, s.get Fld.cfsStat.EPOCH]
  | 5 => [5, s.fuses.okProg, s.fuses.okRev, s.fuses.vkRev, b2n s.fuses.ownFw, b2n s.fuses.ownCfg]
  | 6 => 6 :: (s.fwOwner.map (·.toNat))
  | _ => []

/-- GET_MEASUREMENTS (R456): index 0 asks how many blocks there are, 0xFF for all of them. -/
def execGetMeasurements (index : BitVec 8) (s : State) : Res :=
  let i := index.toNat
  s.spdmReq s.spdm.open spdmUnexpected
    (if i = 0 then s.spdmSay 0x60 [6]
     else if i = 0xFF then s.spdmSay 0x60 ((List.range 6).flatMap fun k => s.measBlock (k + 1))
     else if i ≤ 6 then s.spdmSay 0x60 (s.measBlock i)
     else s.spdmErr spdmInvalid)

/-- KEY_EXCHANGE: one session at a time. -/
def execKeyExchange (slot : BitVec 8) (s : State) : Res :=
  s.spdmSlot slot.toNat
    (if s.spdm.sess = 0 then { s with spdm := { s.spdm with sess := 1 } }.spdmSay 0x64 [] else s.spdmErr spdmLimit)

/-- FINISH. -/
def execFinish (s : State) : Res :=
  s.spdmReq (s.spdm.sess == 1) spdmUnexpected ({ s with spdm := { s.spdm with sess := 2 } }.spdmSay 0x65 [])

/-- HEARTBEAT. -/
def execHeartbeat (s : State) : Res := s.spdmReq (s.spdm.sess == 2) spdmUnexpected (s.spdmSay 0x68 [])

/-- KEY_UPDATE. -/
def execKeyUpdate (s : State) : Res := s.spdmReq (s.spdm.sess == 2) spdmUnexpected (s.spdmSay 0x69 [])

/-- END_SESSION: programmed IDE keys stay in force. -/
def execEndSession (s : State) : Res :=
  s.spdmReq (s.spdm.sess == 2) spdmUnexpected ({ s with spdm := { s.spdm with sess := 0 } }.spdmSay 0x6C [])

end Sys2Proof.Machine
end

