-- ==== Sys2Proof/Machine/Dispatch.lean ====
section
/-!
DEFINITION. One arm for every command: its meaning.
-/

namespace Sys2Proof.Machine

def exec (i : Instr) (s : State) : Host.Outcome State Fault Refusal :=
  match i with
  | .doorbell func qid val => Sys2Proof.Machine.execDoorbell func qid val s
  | .kingPipeDecision => Sys2Proof.Machine.execKingPipeDecision s
  | .generalPipeDecision => Sys2Proof.Machine.execGeneralPipeDecision s
  | .entryReturn ctx e => Sys2Proof.Machine.execEntryReturn ctx e s
  | .hostReadCompletion req r => Sys2Proof.Machine.execHostReadCompletion req r s
  | .ringAccessFailure qid cause addr ctx => Sys2Proof.Machine.execRingAccessFailure qid cause addr ctx s
  | .completionWrite qid => Sys2Proof.Machine.execCompletionWrite qid s
  | .enableQ qid notify => Sys2Proof.Machine.execEnableQ qid notify s
  | .drainQ qid notify => Sys2Proof.Machine.execDrainQ qid notify s
  | .drainAbort qid notify => Sys2Proof.Machine.execDrainAbort qid notify s
  | .suspend qid notify => Sys2Proof.Machine.execSuspend qid notify s
  | .resume qid notify => Sys2Proof.Machine.execResume qid notify s
  | .resetQ qid notify => Sys2Proof.Machine.execResetQ qid notify s
  | .grpWrite n val => Sys2Proof.Machine.execGrpWrite n val s
  | .clrForeign => Sys2Proof.Machine.execClrForeign s
  | .functionLevelReset func => Sys2Proof.Machine.execFunctionLevelReset func s
  | .flrComplete func => Sys2Proof.Machine.execFlrComplete func s
  | .registerWrite acc off bytes val => Sys2Proof.Machine.execRegisterWrite acc off bytes val s
  | .arbiterWindowStart g => Sys2Proof.Machine.execArbiterWindowStart g s
  | .arbiterDecision a reqs cost => Sys2Proof.Machine.execArbiterDecision a reqs cost s
  | .qscCommit => Sys2Proof.Machine.execQscCommit s
  | .fxbCommit => Sys2Proof.Machine.execFxbCommit s
  | .dmgCommit g => Sys2Proof.Machine.execDmgCommit g s
  | .eicCommit => Sys2Proof.Machine.execEicCommit s
  | .kstSwap => Sys2Proof.Machine.execKstSwap s
  | .clrOverq => Sys2Proof.Machine.execClrOverq s
  | .chessClockFlagFall ctx => Sys2Proof.Machine.execChessClockFlagFall ctx s
  | .stalemateScan cluster => Sys2Proof.Machine.execStalemateScan cluster s
  | .pgmStatClr cluster => Sys2Proof.Machine.execPgmStatClr cluster s
  | .nop h => Sys2Proof.Machine.execNop h s
  | .halt h => Sys2Proof.Machine.execHalt h s
  | .post h status d => Sys2Proof.Machine.execPost h status d s
  | .spt h => Sys2Proof.Machine.execSpt h s
  | .ret h => Sys2Proof.Machine.execRet h s
  | .call h rel => Sys2Proof.Machine.execCall h rel s
  | .jmp h t => Sys2Proof.Machine.execJmp h t s
  | .jcc h cc rel => Sys2Proof.Machine.execJcc h cc rel s
  | .tic h t => Sys2Proof.Machine.execTic h t s
  | .callf h t => Sys2Proof.Machine.execCallf h t s
  | .mov h d src => Sys2Proof.Machine.execMov h d src s
  | .ld h d m => Sys2Proof.Machine.execLd h d m s
  | .ldi h d m k => Sys2Proof.Machine.execLdi h d m k s
  | .st h m d => Sys2Proof.Machine.execSt h m d s
  | .sti h m k d => Sys2Proof.Machine.execSti h m k d s
  | .mova h a src => Sys2Proof.Machine.execMova h a src s
  | .movd h d a => Sys2Proof.Machine.execMovd h d a s
  | .adda h a src => Sys2Proof.Machine.execAdda h a src s
  | .suba h a src => Sys2Proof.Machine.execSuba h a src s
  | .cmpa h a src => Sys2Proof.Machine.execCmpa h a src s
  | .lds h sr sel => Sys2Proof.Machine.execLds h sr sel s
  | .segmentTableRead dom sel r => Sys2Proof.Machine.execSegmentTableRead dom sel r s
  | .movs h d sp => Sys2Proof.Machine.execMovs h d sp s
  | .movsCf h e => Sys2Proof.Machine.execMovsCf h e s
  | .xchg h d e => Sys2Proof.Machine.execXchg h d e s
  | .add h d src => Sys2Proof.Machine.execAdd h d src s
  | .adc h d src => Sys2Proof.Machine.execAdc h d src s
  | .sub h d src => Sys2Proof.Machine.execSub h d src s
  | .sbb h d src => Sys2Proof.Machine.execSbb h d src s
  | .andI h d src => Sys2Proof.Machine.execAndI h d src s
  | .orI h d src => Sys2Proof.Machine.execOrI h d src s
  | .xorI h d src => Sys2Proof.Machine.execXorI h d src s
  | .cmp h d src => Sys2Proof.Machine.execCmp h d src s
  | .testI h d src => Sys2Proof.Machine.execTestI h d src s
  | .neg h d => Sys2Proof.Machine.execNeg h d s
  | .notI h d => Sys2Proof.Machine.execNotI h d s
  | .shl h d src => Sys2Proof.Machine.execShl h d src s
  | .shr h d src => Sys2Proof.Machine.execShr h d src s
  | .sar h d src => Sys2Proof.Machine.execSar h d src s
  | .rol h d src => Sys2Proof.Machine.execRol h d src s
  | .ror h d src => Sys2Proof.Machine.execRor h d src s
  | .mul h d e => Sys2Proof.Machine.execMul h d e s
  | .mulu h d e => Sys2Proof.Machine.execMulu h d e s
  | .div h d e => Sys2Proof.Machine.execDiv h d e s
  | .divu h d e => Sys2Proof.Machine.execDivu h d e s
  | .productLands ctx => Sys2Proof.Machine.execProductLands ctx s
  | .quotientLands ctx => Sys2Proof.Machine.execQuotientLands ctx s
  | .minI h d e => Sys2Proof.Machine.execMinI h d e s
  | .maxI h d e => Sys2Proof.Machine.execMaxI h d e s
  | .minu h d e => Sys2Proof.Machine.execMinu h d e s
  | .maxu h d e => Sys2Proof.Machine.execMaxu h d e s
  | .sext h d e => Sys2Proof.Machine.execSext h d e s
  | .zext h d e => Sys2Proof.Machine.execZext h d e s
  | .popc h d e => Sys2Proof.Machine.execPopc h d e s
  | .clz h d e => Sys2Proof.Machine.execClz h d e s
  | .ctz h d e => Sys2Proof.Machine.execCtz h d e s
  | .bswap h d e => Sys2Proof.Machine.execBswap h d e s
  | .btst h b => Sys2Proof.Machine.execBtst h b s
  | .bset h b => Sys2Proof.Machine.execBset h b s
  | .bclr h b => Sys2Proof.Machine.execBclr h b s
  | .bnot h b => Sys2Proof.Machine.execBnot h b s
  | .bld h d bit => Sys2Proof.Machine.execBld h d bit s
  | .bst h bit d => Sys2Proof.Machine.execBst h bit d s
  | .sema h b => Sys2Proof.Machine.execSema h b s
  | .semr h b => Sys2Proof.Machine.execSemr h b s
  | .semt h b => Sys2Proof.Machine.execSemt h b s
  | .waitb h bit val t => Sys2Proof.Machine.execWaitb h bit val t s
  | .twaitb h bit val t => Sys2Proof.Machine.execTwaitb h bit val t s
  | .bitWaitSatisfied ctx => Sys2Proof.Machine.execBitWaitSatisfied ctx s
  | .waitTimeout ctx => Sys2Proof.Machine.execWaitTimeout ctx s
  | .bind h d => Sys2Proof.Machine.execBind h d s
  | .unbind h => Sys2Proof.Machine.execUnbind h s
  | .drd h d ix => Sys2Proof.Machine.execDrd h d ix s
  | .dwr h ix d => Sys2Proof.Machine.execDwr h ix d s
  | .dcmd h d e => Sys2Proof.Machine.execDcmd h d e s
  | .dcmdC h d => Sys2Proof.Machine.execDcmdC h d s
  | .waitc h d => Sys2Proof.Machine.execWaitc h d s
  | .xfer h x => Sys2Proof.Machine.execXfer h x s
  | .xfert h x tsel => Sys2Proof.Machine.execXfert h x tsel s
  | .waitx h d => Sys2Proof.Machine.execWaitx h d s
  | .balloc h sr d imm => Sys2Proof.Machine.execBalloc h sr d imm s
  | .bfree h d => Sys2Proof.Machine.execBfree h d s
  | .stripe h m d => Sys2Proof.Machine.execStripe h m d s
  | .gather h m d => Sys2Proof.Machine.execGather h m d s
  | .accclr h n => Sys2Proof.Machine.execAccclr h n s
  | .accadd h n e => Sys2Proof.Machine.execAccadd h n e s
  | .acccnt h n e => Sys2Proof.Machine.execAcccnt h n e s
  | .accmin h n e => Sys2Proof.Machine.execAccmin h n e s
  | .accmax h n e => Sys2Proof.Machine.execAccmax h n e s
  | .accminu h n e => Sys2Proof.Machine.execAccminu h n e s
  | .accmaxu h n e => Sys2Proof.Machine.execAccmaxu h n e s
  | .crcstep h n e => Sys2Proof.Machine.execCrcstep h n e s
  | .fold h d n => Sys2Proof.Machine.execFold h d n s
  | .movdAcc h d nk => Sys2Proof.Machine.execMovdAcc h d nk s
  | .movacc h nk e => Sys2Proof.Machine.execMovacc h nk e s
  | .ext h n d e fn => Sys2Proof.Machine.execExt h n d e fn s
  | .checkpointRetire ctx => Sys2Proof.Machine.execCheckpointRetire ctx s
  | .squashComplete ctx => Sys2Proof.Machine.execSquashComplete ctx s
  | .horizonExpiry ctx => Sys2Proof.Machine.execHorizonExpiry ctx s
  | .snoop func line => Sys2Proof.Machine.execSnoop func line s
  | .gbtClr cluster => Sys2Proof.Machine.execGbtClr cluster s
  | .invalidation scope stop notify dom sel => Sys2Proof.Machine.execInvalidation scope stop notify dom sel s
  | .invalidationComplete => Sys2Proof.Machine.execInvalidationComplete s
  | .atsInvalidation func page => Sys2Proof.Machine.execAtsInvalidation func page s
  | .atsInvalidationComplete func page => Sys2Proof.Machine.execAtsInvalidationComplete func page s
  | .translationResponse func page r => Sys2Proof.Machine.execTranslationResponse func page r s
  | .transferAdmit g => Sys2Proof.Machine.execTransferAdmit g s
  | .transferSpill cluster => Sys2Proof.Machine.execTransferSpill cluster s
  | .laneGrant mover => Sys2Proof.Machine.execLaneGrant mover s
  | .transferComplete ctx slot => Sys2Proof.Machine.execTransferComplete ctx slot s
  | .transferFailure ctx slot cause shard lost => Sys2Proof.Machine.execTransferFailure ctx slot cause shard lost s
  | .groupClockGate g => Sys2Proof.Machine.execGroupClockGate g s
  | .ballocWaitExpiry ctx => Sys2Proof.Machine.execBallocWaitExpiry ctx s
  | .freeRingRefill pool ix => Sys2Proof.Machine.execFreeRingRefill pool ix s
  | .bpmHfree handle => Sys2Proof.Machine.execBpmHfree handle s
  | .poolEnable pool => Sys2Proof.Machine.execPoolEnable pool s
  | .poolDisable pool => Sys2Proof.Machine.execPoolDisable pool s
  | .linkEnable p => Sys2Proof.Machine.execLinkEnable p s
  | .linkDisable p => Sys2Proof.Machine.execLinkDisable p s
  | .linkHold p => Sys2Proof.Machine.execLinkHold p s
  | .linkHoldClear p => Sys2Proof.Machine.execLinkHoldClear p s
  | .linkRetrain p => Sys2Proof.Machine.execLinkRetrain p s
  | .pluClrCnt p => Sys2Proof.Machine.execPluClrCnt p s
  | .linkTrained p rate => Sys2Proof.Machine.execLinkTrained p rate s
  | .trainingTimeout p => Sys2Proof.Machine.execTrainingTimeout p s
  | .peerTimeout p => Sys2Proof.Machine.execPeerTimeout p s
  | .initTimeout p => Sys2Proof.Machine.execInitTimeout p s
  | .retryHoldExpiry p => Sys2Proof.Machine.execRetryHoldExpiry p s
  | .lidResend p => Sys2Proof.Machine.execLidResend p s
  | .lid p hi => Sys2Proof.Machine.execLid p hi s
  | .lcap p hi => Sys2Proof.Machine.execLcap p hi s
  | .linit p hi => Sys2Proof.Machine.execLinit p hi s
  | .lasn p hi => Sys2Proof.Machine.execLasn p hi s
  | .lcrd p hi => Sys2Proof.Machine.execLcrd p hi s
  | .lcrdDue p vc => Sys2Proof.Machine.execLcrdDue p vc s
  | .linkLoss p => Sys2Proof.Machine.execLinkLoss p s
  | .routeSwap => Sys2Proof.Machine.execRouteSwap s
  | .fabricReady => Sys2Proof.Machine.execFabricReady s
  | .mrd link p => Sys2Proof.Machine.execMrd link p s
  | .mwr link p => Sys2Proof.Machine.execMwr link p s
  | .mwrn link p => Sys2Proof.Machine.execMwrn link p s
  | .dcmdPacket link p => Sys2Proof.Machine.execDcmdPacket link p s
  | .supd link p => Sys2Proof.Machine.execSupd link p s
  | .xreq link p => Sys2Proof.Machine.execXreq link p s
  | .cpl link p => Sys2Proof.Machine.execCpl link p s
  | .cpld link p => Sys2Proof.Machine.execCpld link p s
  | .xrsp link p => Sys2Proof.Machine.execXrsp link p s
  | .transactionTimeout tag => Sys2Proof.Machine.execTransactionTimeout tag s
  | .txnStatClr => Sys2Proof.Machine.execTxnStatClr s
  | .extCntClr => Sys2Proof.Machine.execExtCntClr s
  | .dpDataWrite word val => Sys2Proof.Machine.execDpDataWrite word val s
  | .portRemove port => Sys2Proof.Machine.execPortRemove port s
  | .portRestore port => Sys2Proof.Machine.execPortRestore port s
  | .hostLinkUp mods rate => Sys2Proof.Machine.execHostLinkUp mods rate s
  | .hostLinkDown => Sys2Proof.Machine.execHostLinkDown s
  | .hostRetrain => Sys2Proof.Machine.execHostRetrain s
  | .hpuStatClr => Sys2Proof.Machine.execHpuStatClr s
  | .cacheEnableWrite val => Sys2Proof.Machine.execCacheEnableWrite val s
  | .busMasterEnableChange func val => Sys2Proof.Machine.execBusMasterEnableChange func val s
  | .vfEnableClear => Sys2Proof.Machine.execVfEnableClear s
  | .atsEnableClear func => Sys2Proof.Machine.execAtsEnableClear func s
  | .dStateChange func d3 => Sys2Proof.Machine.execDStateChange func d3 s
  | .ideFailure => Sys2Proof.Machine.execIdeFailure s
  | .msixUnmask func vec => Sys2Proof.Machine.execMsixUnmask func vec s
  | .apertureAccess off n w => Sys2Proof.Machine.execApertureAccess off n w s
  | .bankGrant bank owner testOk notify => Sys2Proof.Machine.execBankGrant bank owner testOk notify s
  | .bankRelease bank clear notify => Sys2Proof.Machine.execBankRelease bank clear notify s
  | .bankHandover bank owner clear testOk notify => Sys2Proof.Machine.execBankHandover bank owner clear testOk notify s
  | .bankReleaseComplete => Sys2Proof.Machine.execBankReleaseComplete s
  | .testStep bad urgent => Sys2Proof.Machine.execTestStep bad urgent s
  | .spmStatClr => Sys2Proof.Machine.execSpmStatClr s
  | .fifoPush f req src off data => Sys2Proof.Machine.execFifoPush f req src off data s
  | .fifoPop f req off n => Sys2Proof.Machine.execFifoPop f req off n s
  | .fifoPeek f req => Sys2Proof.Machine.execFifoPeek f req s
  | .groupPop g req off n => Sys2Proof.Machine.execGroupPop g req off n s
  | .fifoMark f req => Sys2Proof.Machine.execFifoMark f req s
  | .fifoRewind f req => Sys2Proof.Machine.execFifoRewind f req s
  | .fifoRelease f req => Sys2Proof.Machine.execFifoRelease f req s
  | .fifoReset f => Sys2Proof.Machine.execFifoReset f s
  | .fifoEnable f => Sys2Proof.Machine.execFifoEnable f s
  | .fifoCntClr f => Sys2Proof.Machine.execFifoCntClr f s
  | .xoffHoldExpiry l => Sys2Proof.Machine.execXoffHoldExpiry l s
  | .hardwareFault blk kind unit loc ctx => Sys2Proof.Machine.execHardwareFault blk kind unit loc ctx s
  | .eicSelect tgt => Sys2Proof.Machine.execEicSelect tgt s
  | .recordIssue tgt maskRace => Sys2Proof.Machine.execRecordIssue tgt maskRace s
  | .moderationExpiry eq => Sys2Proof.Machine.execModerationExpiry eq s
  | .recordWriteError eq src cnt addr => Sys2Proof.Machine.execRecordWriteError eq src cnt addr s
  | .srcRaise src => Sys2Proof.Machine.execSrcRaise src s
  | .srcAck src => Sys2Proof.Machine.execSrcAck src s
  | .srcClear src => Sys2Proof.Machine.execSrcClear src s
  | .srcCfgWrite src val => Sys2Proof.Machine.execSrcCfgWrite src val s
  | .eqDb func val => Sys2Proof.Machine.execEqDb func val s
  | .eventQueueEnable eq => Sys2Proof.Machine.execEventQueueEnable eq s
  | .eventQueueDisable eq => Sys2Proof.Machine.execEventQueueDisable eq s
  | .coreEqEnable core => Sys2Proof.Machine.execCoreEqEnable core s
  | .eicStatClr => Sys2Proof.Machine.execEicStatClr s
  | .fswClear mask => Sys2Proof.Machine.execFswClear mask s
  | .blockResetComplete blk => Sys2Proof.Machine.execBlockResetComplete blk s
  | .faultPinHoldExpiry => Sys2Proof.Machine.execFaultPinHoldExpiry s
  | .heldRelease blk => Sys2Proof.Machine.execHeldRelease blk s
  | .reactClrCnt blk => Sys2Proof.Machine.execReactClrCnt blk s
  | .mailboxGo m => Sys2Proof.Machine.execMailboxGo m s
  | .mailboxAbort m => Sys2Proof.Machine.execMailboxAbort m s
  | .mailboxSelect => Sys2Proof.Machine.execMailboxSelect s
  | .firmwareRestart => Sys2Proof.Machine.execFirmwareRestart s
  | .info m => Sys2Proof.Machine.execInfo m s
  | .echo m => Sys2Proof.Machine.execEcho m s
  | .grpList m => Sys2Proof.Machine.execGrpList m s
  | .queueSet m => Sys2Proof.Machine.execQueueSet m s
  | .queueGet m => Sys2Proof.Machine.execQueueGet m s
  | .queueCmd m late => Sys2Proof.Machine.execQueueCmd m late s
  | .domGet m => Sys2Proof.Machine.execDomGet m s
  | .segSet m => Sys2Proof.Machine.execSegSet m s
  | .segGet m data => Sys2Proof.Machine.execSegGet m data s
  | .evqSet m => Sys2Proof.Machine.execEvqSet m s
  | .srcSet m => Sys2Proof.Machine.execSrcSet m s
  | .keyLoad m => Sys2Proof.Machine.execKeyLoad m s
  | .keyClear m => Sys2Proof.Machine.execKeyClear m s
  | .bufFree m => Sys2Proof.Machine.execBufFree m s
  | .poolGet m => Sys2Proof.Machine.execPoolGet m s
  | .portGet m => Sys2Proof.Machine.execPortGet m s
  | .libInfo m => Sys2Proof.Machine.execLibInfo m s
  | .expertUnlock m => Sys2Proof.Machine.execExpertUnlock m s
  | .expertLock m => Sys2Proof.Machine.execExpertLock m s
  | .grpAssign m => Sys2Proof.Machine.execGrpAssign m s
  | .domSet m => Sys2Proof.Machine.execDomSet m s
  | .evqAssign m => Sys2Proof.Machine.execEvqAssign m s
  | .portPropose m first => Sys2Proof.Machine.execPortPropose m first s
  | .portSet m => Sys2Proof.Machine.execPortSet m s
  | .poolSet m => Sys2Proof.Machine.execPoolSet m s
  | .extSet m => Sys2Proof.Machine.execExtSet m s
  | .bankSet m late => Sys2Proof.Machine.execBankSet m late s
  | .fifoSet m => Sys2Proof.Machine.execFifoSet m s
  | .linkSet m => Sys2Proof.Machine.execLinkSet m s
  | .libInstall m => Sys2Proof.Machine.execLibInstall m s
  | .cfgStage m img => Sys2Proof.Machine.execCfgStage m img s
  | .cfgCastle m => Sys2Proof.Machine.execCfgCastle m s
  | .cfgRollback m => Sys2Proof.Machine.execCfgRollback m s
  | .cfgStatus m => Sys2Proof.Machine.execCfgStatus m s
  | .fwUpdate m img => Sys2Proof.Machine.execFwUpdate m img s
  | .marginStatus m => Sys2Proof.Machine.execMarginStatus m s
  | .marginDefer m => Sys2Proof.Machine.execMarginDefer m s
  | .marginAccept m => Sys2Proof.Machine.execMarginAccept m s
  | .marginRollBack m => Sys2Proof.Machine.execMarginRollBack m s
  | .lifeReport m => Sys2Proof.Machine.execLifeReport m s
  | .slotRead m => Sys2Proof.Machine.execSlotRead m s
  | .slotOn m => Sys2Proof.Machine.execSlotOn m s
  | .slotOff m => Sys2Proof.Machine.execSlotOff m s
  | .slotCancel m => Sys2Proof.Machine.execSlotCancel m s
  | .slotClear m => Sys2Proof.Machine.execSlotClear m s
  | .slotLed m => Sys2Proof.Machine.execSlotLed m s
  | .rcvInfo => Sys2Proof.Machine.execRcvInfo s
  | .rcvLoad img => Sys2Proof.Machine.execRcvLoad img s
  | .rcvFlash img => Sys2Proof.Machine.execRcvFlash img s
  | .rcvOwnerKey => Sys2Proof.Machine.execRcvOwnerKey s
  | .rcvReset => Sys2Proof.Machine.execRcvReset s
  | .blockSwitch blk => Sys2Proof.Machine.execBlockSwitch blk s
  | .castlingCommit => Sys2Proof.Machine.execCastlingCommit s
  | .castlingFlagFall => Sys2Proof.Machine.execCastlingFlagFall s
  | .rollbackFlagFall => Sys2Proof.Machine.execRollbackFlagFall s
  | .romBoot fuseOk => Sys2Proof.Machine.execRomBoot fuseOk s
  | .bootWatchdogExpiry => Sys2Proof.Machine.execBootWatchdogExpiry s
  | .fwReady => Sys2Proof.Machine.execFwReady s
  | .getVersion => Sys2Proof.Machine.execGetVersion s
  | .getCapabilities => Sys2Proof.Machine.execGetCapabilities s
  | .negotiateAlgorithms => Sys2Proof.Machine.execNegotiateAlgorithms s
  | .getDigests => Sys2Proof.Machine.execGetDigests s
  | .getCertificate slot => Sys2Proof.Machine.execGetCertificate slot s
  | .challenge slot => Sys2Proof.Machine.execChallenge slot s
  | .getMeasurements index => Sys2Proof.Machine.execGetMeasurements index s
  | .keyExchange slot => Sys2Proof.Machine.execKeyExchange slot s
  | .finish => Sys2Proof.Machine.execFinish s
  | .heartbeat => Sys2Proof.Machine.execHeartbeat s
  | .keyUpdate => Sys2Proof.Machine.execKeyUpdate s
  | .endSession => Sys2Proof.Machine.execEndSession s
  | .engineClockGate eng => Sys2Proof.Machine.execEngineClockGate eng s
  | .enginePowerGate eng => Sys2Proof.Machine.execEnginePowerGate eng s
  | .engineOff eng => Sys2Proof.Machine.execEngineOff eng s
  | .engineWakeComplete eng => Sys2Proof.Machine.execEngineWakeComplete eng s
  | .dozeEntry => Sys2Proof.Machine.execDozeEntry s
  | .sleepReq => Sys2Proof.Machine.execSleepReq s
  | .sleepEntry => Sys2Proof.Machine.execSleepEntry s
  | .sleepL2Timeout => Sys2Proof.Machine.execSleepL2Timeout s
  | .wakeEvent src => Sys2Proof.Machine.execWakeEvent src s
  | .wakeComplete periods => Sys2Proof.Machine.execWakeComplete periods s
  | .vddStep => Sys2Proof.Machine.execVddStep s
  | .eclkStep cluster => Sys2Proof.Machine.execEclkStep cluster s
  | .avsbusFailure => Sys2Proof.Machine.execAvsbusFailure s
  | .throttleStep tj => Sys2Proof.Machine.execThrottleStep tj s
  | .thermalTrip => Sys2Proof.Machine.execThermalTrip s
  | .measurement x => Sys2Proof.Machine.execMeasurement x s
  | .replanTimer => Sys2Proof.Machine.execReplanTimer s
  | .sgpioFrame chain t frame => Sys2Proof.Machine.execSgpioFrame chain t frame s
  | .i3cIbi bus addr t r => Sys2Proof.Machine.execI3cIbi bus addr t r s
  | .i3cPoll bus addr t r => Sys2Proof.Machine.execI3cPoll bus addr t r s
  | .i3cOutputRefresh bus addr t ok => Sys2Proof.Machine.execI3cOutputRefresh bus addr t ok s
  | .windowExpiry slot => Sys2Proof.Machine.execWindowExpiry slot s
  | .offGraceExpiry slot => Sys2Proof.Machine.execOffGraceExpiry slot s
  | .poweringTimer slot => Sys2Proof.Machine.execPoweringTimer slot s
  | .coldReset => Sys2Proof.Machine.execColdReset s
  | .pwrGoodFall => Sys2Proof.Machine.execPwrGoodFall s
  | .resetRelease => Sys2Proof.Machine.execResetRelease s
  | .pllLock => Sys2Proof.Machine.execPllLock s
  | .glbResetChip confirm => Sys2Proof.Machine.execGlbResetChip confirm s
  | .chipReset => Sys2Proof.Machine.execChipReset s
  | .bootStart => Sys2Proof.Machine.execBootStart s
  | .tapReset => Sys2Proof.Machine.execTapReset s
  | .undefinedOpcode ctx bytes => Sys2Proof.Machine.execUndefinedOpcode ctx bytes s
  | .flitCrcError p => Sys2Proof.Machine.execFlitCrcError p s
  | .malformedWordArrival p w => Sys2Proof.Machine.execMalformedWordArrival p w s
  | .pwrGoodRise => Sys2Proof.Machine.execPwrGoodRise s
  | .pwrGoodHoldExpiry => Sys2Proof.Machine.execPwrGoodHoldExpiry s
  | .ideKm key => Sys2Proof.Machine.execIdeKm key s
  | .doeError dwords => Sys2Proof.Machine.execDoeError dwords s
  | .extest cells => Sys2Proof.Machine.execExtest cells s
  | .expertWindowRead acc off bytes => Sys2Proof.Machine.execExpertWindowRead acc off bytes s

end Sys2Proof.Machine
end

