-- ==== Sys2Proof/Machine/Tick.lean ====
section
/-!
DEFINITION. One FCLK cycle with no command waiting (log entry 8): the timestamp counts, the chess clocks and the timeouts of
bit waits count down, and the planner takes up what waited for castling to end.
-/

namespace Sys2Proof.Machine

/-- A bit wait's timeout counts one cycle (R120). -/
def Wait.tick : Wait → Wait
  | .bit len addr val strict (some k) => .bit len addr val strict (some (k - 1))
  | w => w

/-- A context's clock and its waits count one cycle (R120, R127), unless it is parked. A wait on a speculative path has not
begun; the waits under its checkpoints have. -/
def Ctx.tick (x : Ctx) : Ctx :=
  if x.live && !x.parked then
    { x with
      clock := x.clock.map (· - 1)
      wait := if x.ckpts.isEmpty then x.wait.tick else x.wait
      ckpts := x.ckpts.map fun k => { k with wait := k.wait.tick } }
  else x

/-- One idle cycle (R52, R149); the arbiters decide on the requests that are raised (R72). In Sleep FCLK stands still, and what
the timestamp misses is added on wake (R461, R467). -/
def State.tick (s : State) : State :=
  if s.get Fld.pcmStat.DSTATE = 2 then s
  else
    { s with
      fclk := s.fclk + 1
      ctx := s.ctx.map fun (e : Nat × Ctx) => (e.1, e.2.tick) }.planNow.retry

end Sys2Proof.Machine
end

