-- ==== Sys2Proof/Machine/Step.lean ====
section
/-!
DEFINITION. One step of the block: the command at the front of the queue acts on the state without it, and with none waiting
one cycle passes.
-/

namespace Sys2Proof.Machine

/-- One step. With a command waiting, the front command is taken and executed on the state with the queue's rest; with none,
one FCLK cycle passes (log entry 8). -/
def step (s : State) : Host.Outcome State Fault Refusal :=
  match s.pending with
  | [] => .next s.tick
  | c :: rest => exec c { s with pending := rest }

/-- The table gives no row bits, so no word spells a command and the state is unchanged (log entry 2). -/
def State.withFetchWord (s : State) (_nbits _w : Nat) : State := s

end Sys2Proof.Machine
end

