-- ==== Sys2Proof/Safety.lean ====
section
/-!
DEFINITION. What counts as a safe step and a safe run: the machine neither stops with a fault nor refuses, and what the spec
says only ever rises does so.
-/

namespace Sys2Proof.Machine

/-- A command has run: neither a fault nor a refusal. -/
def ran (r : Res) : Bool := match r with | .next _ => true | _ => false

/-- The on-die memories are in their canonical form. -/
def State.memWf (s : State) : Bool := Memory.wf s.spm && Memory.wf s.msram

/-- Fuses only ever rise (R443, R453, R457): counters do not fall, a programmed or revoked key slot stays so, its hash does not
change, and the policy bits do not change once an owner key stands. -/
def fusesRise (a b : Fuses) : Prop :=
  a.fwSvn ≤ b.fwSvn ∧ a.cfgSvn ≤ b.cfgSvn ∧
    (∀ k, a.vkRev.testBit k = true → b.vkRev.testBit k = true) ∧
    (∀ k, a.okRev.testBit k = true → b.okRev.testBit k = true) ∧
    (∀ k, a.okProg.testBit k = true → b.okProg.testBit k = true ∧ SMap.get b.okh [] k = SMap.get a.okh [] k) ∧
    (a.okProg ≠ 0 → b.ownFw = a.ownFw ∧ b.ownCfg = a.ownCfg)

/-! ### What statements about one command speak of -/

/-- Nothing is about to happen at a command's end on its own account: no error line is about to rise; no watched line has been
hit; no SEMA waits at a semaphore bit that is clear; no device command and no descriptor read of a STRIPE or GATHER waits to be
issued; in Roloa-native mode no read of host memory does; firmware has no read of a port descriptor to issue; no mover has a
read or a write to issue; and no speculative path is paused on a full watch set. -/
def Quiet (s : State) : Prop :=
  s.rises = [] ∧ s.hits = [] ∧ s.semFree = [] ∧ s.stalled = [] ∧ (s.on Fld.hpuStat.MODE = true → ∀ e ∈ s.hreq, e.2.held = false) ∧
    (∀ e ∈ s.disc, e.2.stage ≠ 1) ∧ s.canGo = [] ∧ (∀ e ∈ s.ctx, e.2.watchStop = false)

/-- The state without its registers and without what the end of a command follows up: the misrouted episodes and FAULT_N. -/
def State.besides (s : State) : State := { s with regs := [], misEp := [], faultLow := false, faultHold := false }

/-- Only the tables `ids` differ among the registers, and beside them what the end of a command follows up: the King bound, and
the two event sources it and the fault collector raise. -/
def RegsKept (ids : List RegId) (s t : State) : Prop :=
  ∀ r : Reg, r.id ∉ ids → r.id ≠ .kingStat → (r.id = .srcStat → r.i ≠ 0x10402 ∧ r.i ≠ 0x10407) → t.reg r = s.reg r

/-- Only registers of the tables `ids` differ. -/
def OnlyRegs (ids : List RegId) (s t : State) : Prop := t.besides = s.besides ∧ RegsKept ids s t

/-- An instruction whose opcode is described by `op` executes now, once: its context can issue, its bytes lie in the program
segment with legal prefixes, no register it reads is still to be written, and it is not held back on a speculative path. -/
def Ready (op : Op) (h : Hdr) (s : State) : Prop :=
  s.canIssue h.ctx.val = true ∧ fetchCheck op h (s.cx h.ctx.val).regs.cpc = none ∧ s.interlocked h.ctx.val op = false ∧
    ((s.cx h.ctx.val).speculating && (op.stop || h.spec == .nospec || (h.lock && (s.cx h.ctx.val).seqCount.isNone))) = false ∧
    h.rpt = .once ∧ (s.cx h.ctx.val).due = 0

/-- Nothing but one context differs. -/
def OnlyCtx (c : Nat) (s t : State) : Prop := { t with ctx := s.ctx } = s ∧ ∀ c', c' ≠ c → t.cx c' = s.cx c'

/-- A context after an instruction that has retired: nothing but its restorable registers, the loads it awaits and its locked
sequence differs, and CPC has moved past the instruction. -/
def Retired (h : Hdr) (x y : Ctx) : Prop :=
  y = { x with regs := y.regs, loads := y.loads, seqCount := y.seqCount, lock := y.lock } ∧
    y.regs.cpc = { x.regs.cpc with off := (x.regs.cpc.off + h.len) % 2 ^ 48 }

/-- The flags of an arithmetic result `r` at width `w` (R162), with its carry and overflow; DZ stays. -/
def Flags.after (f : Flags) (w r : Nat) (c v : Bool) : Flags :=
  { z := decide (r % 2 ^ w = 0), n := decide (r / 2 ^ (w - 1) % 2 = 1), c := c, v := v, dz := f.dz }

/-- A context has nothing outstanding: no load, transfer, chained command, checkpoint or squash, no failure that no WAITC has
examined, no buffer of its own, no lock, no stop that waits for its next instruction. -/
def Unburdened (x : Ctx) : Prop :=
  x.loads = [] ∧ x.slots = [] ∧ x.chain = [] ∧ x.fails = [] ∧ x.ckpts = [] ∧ x.squash = none ∧ x.regs.allocs = [] ∧
    x.regs.freesHeld = [] ∧ x.lock = none ∧ x.regs.chainOpen = none ∧ x.due = 0

/-- The program of context `c` has ended: the context is free, the other contexts are as they were, nothing has left the device,
and the completion entries waiting for the QMU are as they were but for what `more` adds. -/
def Ended (c : Nat) (s t : State) (more : List Cpl) : Prop :=
  t.cx c = {} ∧ (∀ c', c' ≠ c → t.cx c' = s.cx c') ∧ t.out = s.out ∧ t.cpl = s.cpl ++ more

/-- A request for node `d` with `n` data credits leaves at once by peer link `l`, with hop count `k` and tag `tag`: the route leads
there, both credits are held, nothing waits before it, and the tag is the lowest free one. -/
def Leaves (s : State) (d vc n l k tag : Nat) : Prop :=
  s.route d 15 9 = .link l k ∧ SMap.get (s.lk l).txq [] vc = [] ∧ 1 ≤ s.get (Fld.pluCred.TX_HDR l vc) ∧
    n ≤ s.get (Fld.pluCred.TX_DATA l vc) ∧ s.freeTag vc = some tag

/-- A packet reaches the device itself over peer link `i`: the link is Joined, the header is well formed, its credits had been
advertised, its source lies behind the link and its destination is the device. -/
def Arriving (i : Fin 10) (p : Pkt) (s : State) : Prop :=
  i.val < 8 ∧ pktShape p = true ∧ s.lState i.val = 4 ∧ malformedWord p = none ∧ (s.owe i.val p.vc (dataCredits p)).isSome = true ∧
    s.srcOk i.val p.src = true ∧ s.route p.dst p.hops i.val = .self

/-- A saturating count one higher. -/
def State.more (s : State) (f : Field) : Nat := if s.get f + 1 < 2 ^ f.w then s.get f + 1 else s.get f

/-- The program of context `c`, with nothing else outstanding, has ended with status `st` and one entry of AUTO 0 (R103). -/
def EndedWith (c st : Nat) (s t : State) : Prop :=
  let x := s.cx c
  Ended c s t [{ qid := x.qid, tag := x.tag, status := st, epoch := x.epoch, residual := s.residualOf c, auto := false,
                 ioc := x.ioc, result := 0, order := x.order }]

/-- CPC has moved past an instruction, and its repeat is over. -/
def Ctx.past (x : Ctx) (h : Hdr) : CtxRegs :=
  { x.regs with cpc := { x.regs.cpc with off := (x.regs.cpc.off + h.len) % 2 ^ 48 }, repOn := false }

/-- A rise of the error line of index `i` is only recorded: its line and its FSW bit are low, nothing holds the line down, and its
reaction set has neither a block reset nor a chip reset (R395, R399, R403). -/
def Watched (i : Nat) (s : State) : Prop :=
  (s.get Fld.fclFsw.FSW).testBit i = false ∧ s.fltLine i = false ∧ NSet.has s.inReset i = false ∧ s.get (Fld.fclReact.HELD i) = 0 ∧
    s.get (Fld.fclReact.BLOCK_RESET i) = 0 ∧ s.get (Fld.fclReact.CHIP_RESET i) = 0

/-- The line of index `i` alone has risen (R396). -/
def Rose (i : Nat) (s t : State) : Prop :=
  t.get Fld.fclFsw.FSW = s.get Fld.fclFsw.FSW + 2 ^ i ∧ t.get Fld.fclFirst.FIRST_V = 1 ∧
    t.get Fld.fclFirst.FIRST = (if s.on Fld.fclFirst.FIRST_V then s.get Fld.fclFirst.FIRST else i) ∧
    t.get Fld.fclFirst.OVF = (if s.on Fld.fclFirst.FIRST_V then 1 else s.get Fld.fclFirst.OVF)

/-- Firmware has selected the ACP command `c`, whose framing is right, and it is its turn: no other command of the window runs, no
command before it touches the same resource, and no castling holds a block (R411 to R413, R425). -/
def Serving (opc : Nat) (c : AcpCmd) (s : State) : Prop :=
  c ∈ s.acp ∧ (∀ d ∈ s.acp, d.win = c.win → d = c) ∧ c.opc = opc ∧ acpFrame c.win c.hdr c.pay = none ∧ c.pay < 2 ^ 832 ∧ c.hdr < 2 ^ 64 ∧
    s.acpBarred c = false ∧ ∀ b, s.holds b = false

/-- A window carries a response (R411, R412): its header with OPC, SEQ, LEN, ERR and DETAIL, its payload, SEQ, BUSY 0 and DONE 1; the
mailbox source is raised when asked for. -/
def Response (m hdr err detail : Nat) (pay : List Byte) (s t : State) : Prop :=
  t.get ⟨⟨.mbRsp, m, 0⟩, 0, 64⟩ = hdr % 2 ^ 16 + pay.length * 2 ^ 16 + err * 2 ^ 24 + detail * 2 ^ 32 ∧
    (∀ k b, pay[k]? = some b → t.get ⟨⟨.mbRsp, m, 1 + k / 8⟩, 8 * (k % 8), 8⟩ = b.toNat) ∧
    t.get (Fld.mbStat.SEQ m) = hdr / 256 % 256 ∧ t.get (Fld.mbStat.BUSY m) = 0 ∧ t.get (Fld.mbStat.DONE m) = 1 ∧
    (s.get (Fld.mbCfg.IRQ_DONE m) = 1 → t.get (Fld.srcStat.PEND (0x10000 + m)) = 1)

/-- The command `c` is answered, and is the only one that ends (R412). -/
def Answered (c : AcpCmd) (err detail : Nat) (pay : List Byte) (s t : State) : Prop :=
  Response c.win c.hdr err detail pay s t ∧ (t.acp = s.acp.filter fun d => d.win != c.win) ∧ t.mbAbort = NSet.del s.mbAbort c.win

/-- An ACP command has changed no register but its window's response and the tables `ids`, and beside the registers only what `g`
leaves out. -/
def AcpOnly (ids : List RegId) (g : State → State) (s t : State) : Prop :=
  RegsKept (ids ++ [.mbRsp, .mbStat, .srcStat]) s t ∧
    g { t.besides with acp := [], mbAbort := [] } = g { s.besides with acp := [], mbAbort := [] }

end Sys2Proof.Machine
end

