-- ==== Sys2Proof/Certificates/Slice0/Obligations.lean ====
section
/-!
DEFINITION. The statements for the provers, one for every group of commands and for every kind of state, and the rules that hold
over every step.
-/

open Sys2Proof Sys2Proof.Machine

/-- A step runs the command at the front of the queue with the rest of the queue; with none waiting one FCLK cycle passes (log entry 8). -/
def Obligations.StepRunsTheFrontCommandOrOneCyclePasses : Prop :=
  (∀ (c : Instr) (rest : List Instr) (s : State), s.pending = c :: rest → step s = exec c { s with pending := rest }) ∧
  (∀ s : State, s.pending = [] → ∃ t, step s = .next t ∧ t.fclk = (if s.get Fld.pcmStat.DSTATE = 2 then s.fclk else s.fclk + 1) ∧ t.pending = [])

/-- ADD, ADC, SUB, SBB, AND, OR, XOR, CMP, TEST, NEG and NOT complete with the result, the flags and the frame of R165. -/
def Obligations.ArithmeticAndLogicResults : Prop :=
  ∀ (h : Hdr) (d : Fin 16) (src : Src) (s : State),
    Ready { w := true, nib := true, rep := true, lock := true, rd := d.val :: usesSrc src, cf := true } h s →
      let x := s.cx h.ctx.val
      let f := x.regs.cf
      let w := widthBits h.width
      let a := (x.dreg d.val).toNat % 2 ^ w
      let b := (x.src src).toNat % 2 ^ w
      let sa := toSigned w a
      let sb := toSigned w b
      let did (o : Res) (r : Nat) (c v writes : Bool) : Prop := ∃ t, o = .next t ∧ OnlyCtx h.ctx.val s t ∧
        Retired h x (t.cx h.ctx.val) ∧ (t.cx h.ctx.val).regs.cf = f.after w r c v ∧
        (∀ n, (t.cx h.ctx.val).dreg n = if writes ∧ n = d.val then BitVec.ofNat 64 (r % 2 ^ w) else x.dreg n) ∧
        (t.cx h.ctx.val).regs = { x.regs with
          d := (t.cx h.ctx.val).regs.d, cf := f.after w r c v, cpc := (t.cx h.ctx.val).regs.cpc, repOn := false }
      did (exec (.add h d src) s) (a + b) (decide (a + b ≥ 2 ^ w)) (overflows w (sa + sb)) true ∧
      did (exec (.adc h d src) s) (a + b + b2n f.c) (decide (a + b + b2n f.c ≥ 2 ^ w)) (overflows w (sa + sb + b2n f.c)) true ∧
      did (exec (.sub h d src) s) (a + 2 ^ w - b) (decide (b > a)) (overflows w (sa - sb)) true ∧
      did (exec (.sbb h d src) s) (a + 2 ^ (w + 1) - b - b2n f.c) (decide (b + b2n f.c > a)) (overflows w (sa - sb - b2n f.c)) true ∧
      did (exec (.andI h d src) s) (a &&& b) (false) (false) true ∧
      did (exec (.orI h d src) s) (a ||| b) (false) (false) true ∧
      did (exec (.xorI h d src) s) (a ^^^ b) (false) (false) true ∧
      did (exec (.cmp h d src) s) (a + 2 ^ w - b) (decide (b > a)) (overflows w (sa - sb)) false ∧
      did (exec (.testI h d src) s) (a &&& b) (false) (false) false ∧
      did (exec (.neg h d) s) (2 ^ w - a) (decide (a ≠ 0)) (decide (a = 2 ^ (w - 1))) true ∧
      did (exec (.notI h d) s) (2 ^ w - 1 - a) (false) (false) true

/-- SHL, SHR, SAR, ROL and ROR complete with the result and the carry of R167 for every count. -/
def Obligations.ShiftResults : Prop :=
  ∀ (h : Hdr) (d : Fin 16) (src : Src) (s : State),
    Ready { w := true, nib := true, rep := true, lock := true, rd := d.val :: usesSrc src } h s →
      let x := s.cx h.ctx.val
      let w := widthBits h.width
      let a := (x.dreg d.val).toNat % 2 ^ w
      let c := (x.src src).toNat
      let did (o : Res) (bit : Nat → Bool) (carry : Bool) : Prop := ∃ t r, o = .next t ∧ OnlyCtx h.ctx.val s t ∧
        Retired h x (t.cx h.ctx.val) ∧ r < 2 ^ w ∧ (∀ i, i < w → r.testBit i = bit i) ∧
        (t.cx h.ctx.val).regs.cf = x.regs.cf.after w r carry false ∧
        (∀ n, (t.cx h.ctx.val).dreg n = if n = d.val then BitVec.ofNat 64 r else x.dreg n) ∧
        (t.cx h.ctx.val).regs = { x.regs with
          d := (t.cx h.ctx.val).regs.d, cf := (t.cx h.ctx.val).regs.cf, cpc := (t.cx h.ctx.val).regs.cpc, repOn := false }
      did (exec (.shl h d src) s) (fun i => decide (c ≤ i) && a.testBit (i - c))
        (decide (1 ≤ c ∧ c ≤ w) && a.testBit (w - c)) ∧
      did (exec (.shr h d src) s) (fun i => a.testBit (i + c))
        (decide (1 ≤ c ∧ c ≤ w) && a.testBit (c - 1)) ∧
      did (exec (.sar h d src) s) (fun i => if i + c < w then a.testBit (i + c) else a.testBit (w - 1))
        (if c = 0 then false else if c < w then a.testBit (c - 1) else a.testBit (w - 1)) ∧
      did (exec (.rol h d src) s) (fun i => a.testBit ((i + (w - c % w)) % w))
        (decide (c ≠ 0) && a.testBit ((w - c % w) % w)) ∧
      did (exec (.ror h d src) s) (fun i => a.testBit ((i + c) % w))
        (decide (c ≠ 0) && a.testBit ((w - 1 + c) % w))

/-- MIN, MAX, MINU, MAXU, SEXT, ZEXT, POPC, CLZ, CTZ and BSWAP complete with the results and flags of R165. -/
def Obligations.MinMaxExtendAndCountResults : Prop :=
  ∀ (h : Hdr) (d e : Fin 16) (s : State),
    Ready { w := true, nib := true, rep := true, lock := true, rd := [d.val, e.val] } h s →
      let x := s.cx h.ctx.val
      let w := widthBits h.width
      let a := (x.dreg d.val).toNat % 2 ^ w
      let b := (x.dreg e.val).toNat % 2 ^ w
      let sa := toSigned w a
      let sb := toSigned w b
      let did (o : Res) (v : Nat) (f : Flags) : Prop := ∃ t, o = .next t ∧ OnlyCtx h.ctx.val s t ∧
        Retired h x (t.cx h.ctx.val) ∧ (t.cx h.ctx.val).regs.cf = f ∧
        (∀ n, (t.cx h.ctx.val).dreg n = if n = d.val then BitVec.ofNat 64 v else x.dreg n) ∧
        (t.cx h.ctx.val).regs = { x.regs with
          d := (t.cx h.ctx.val).regs.d, cf := (t.cx h.ctx.val).regs.cf, cpc := (t.cx h.ctx.val).regs.cpc, repOn := false }
      let logic (v : Nat) : Flags := x.regs.cf.after w v false false
      let count : Flags := { x.regs.cf with z := decide (b = 0), n := false, c := false, v := false }
      did (exec (.minI h d e) s) (if sa ≤ sb then a else b) (logic (if sa ≤ sb then a else b)) ∧
      did (exec (.maxI h d e) s) (if sb ≤ sa then a else b) (logic (if sb ≤ sa then a else b)) ∧
      did (exec (.minu h d e) s) (if a ≤ b then a else b) (logic (if a ≤ b then a else b)) ∧
      did (exec (.maxu h d e) s) (if b ≤ a then a else b) (logic (if b ≤ a then a else b)) ∧
      (h.width ≠ .w64 → did (exec (.sext h d e) s) (sb % 2 ^ 64).toNat (x.regs.cf.after 64 (sb % 2 ^ 64).toNat false false) ∧
        did (exec (.zext h d e) s) b (x.regs.cf.after 64 b false false)) ∧
      did (exec (.popc h d e) s) ((List.range w).countP fun i => b.testBit i) count ∧
      (∃ k, k ≤ w ∧ (∀ i, w - k ≤ i → i < w → b.testBit i = false) ∧ (k < w → b.testBit (w - 1 - k) = true) ∧
        did (exec (.clz h d e) s) k count) ∧
      (∃ k, k ≤ w ∧ (∀ i, i < k → b.testBit i = false) ∧ (k < w → b.testBit k = true) ∧ did (exec (.ctz h d e) s) k count) ∧
      (h.width ≠ .w8 → h.width ≠ .w4 → ∃ v, v < 2 ^ w ∧
        (∀ i, i < w / 8 → bitsOf v (8 * i) 8 = bitsOf b (8 * (w / 8 - 1 - i)) 8) ∧ did (exec (.bswap h d e) s) v x.regs.cf)

/-- MOV, MOVA, MOVD, ADDA, SUBA, CMPA, MOVS, MOVS CF and XCHG complete with the effect of R163 and nothing else. -/
def Obligations.MoveAndAddressResults : Prop :=
  ∀ (h : Hdr) (d e : Fin 16) (a : Fin 16) (src : Src) (asrc : ASrc) (sp : Fin 16) (s : State),
    Ready { w := true, nib := true, rep := true, lock := true, rd := d.val :: e.val :: (usesSrc src ++ usesASrc asrc), cf := true } h s →
      let x := s.cx h.ctx.val
      let w := widthBits h.width
      let did (o : Res) (dd aa : Nat → Option Word) (f : Flags) : Prop := ∃ t, o = .next t ∧
        OnlyCtx h.ctx.val s t ∧ Retired h x (t.cx h.ctx.val) ∧
        (∀ n, (t.cx h.ctx.val).dreg n = (dd n).getD (x.dreg n)) ∧ (∀ n, (t.cx h.ctx.val).areg n = (aa n).getD (x.areg n)) ∧
        (t.cx h.ctx.val).regs = { x.regs with d := (t.cx h.ctx.val).regs.d, a := (t.cx h.ctx.val).regs.a, cf := f,
                                              cpc := (t.cx h.ctx.val).regs.cpc, repOn := false }
      let f := x.regs.cf
      let one (n : Fin 16) (v : Word) (k : Nat) : Option Word := if k = n.val then some v else none
      let none' (_ : Nat) : Option Word := none
      let y := x.asrc asrc
      did (exec (.mov h d src) s) (one d (BitVec.ofNat 64 ((x.src src).toNat % 2 ^ w))) none' f ∧
      (h.width = .w64 →
        did (exec (.mova h a src) s) none' (one a (x.src src)) f ∧
        did (exec (.movd h d a) s) (one d (x.areg a.val)) none' f ∧
        did (exec (.adda h a src) s) none' (one a (x.areg a.val + x.src src)) f ∧
        did (exec (.suba h a src) s) none' (one a (x.areg a.val - x.src src)) f ∧
        did (exec (.cmpa h a asrc) s) none' none'
          { f with z := decide (x.areg a.val = y), c := decide ((x.areg a.val).toNat < y.toNat) } ∧
        did (exec (.movsCf h e) s) none' none'
          { z := (x.dreg e.val).getLsbD 0, n := (x.dreg e.val).getLsbD 1, c := (x.dreg e.val).getLsbD 2,
            v := (x.dreg e.val).getLsbD 3, dz := (x.dreg e.val).getLsbD 4 } ∧
        did (exec (.xchg h d e) s)
          (fun k => if k = e.val then some (x.dreg d.val) else if k = d.val then some (x.dreg e.val) else none) none' f ∧
        (sp.val < 14 → ∃ t, exec (.movs h d sp) s = .next t ∧ OnlyCtx h.ctx.val s { t with freeCnt := s.freeCnt } ∧
          Retired h x (t.cx h.ctx.val) ∧ (t.cx h.ctx.val).regs.cf = f ∧
          (∀ n, n ≠ d.val → (t.cx h.ctx.val).dreg n = x.dreg n) ∧
          (x.regs.mul = none → x.regs.div = none → t.freeCnt = s.freeCnt ∧ (t.cx h.ctx.val).dreg d.val =
            (match sp.val with
              | 0 => BitVec.ofNat 64 (x.regs.cpc.sel * 2 ^ 48 + x.regs.cpc.off)
              | 1 => BitVec.ofNat 64 (b2n f.z + 2 * b2n f.n + 4 * b2n f.c + 8 * b2n f.v + 16 * b2n f.dz)
              | 2 => x.regs.mh
              | 3 => x.regs.ml
              | 4 => 0
              | 5 => x.regs.dq
              | 6 => x.regs.dm
              | 7 => x.regs.repc
              | 8 => 0
              | 9 => BitVec.ofNat 64 x.qid
              | 10 => BitVec.ofNat 64 h.ctx.val
              | 11 => (match x.clock with | some k => BitVec.ofNat 64 k | none => -1)
              | 12 => BitVec.ofNat 64 x.epoch
              | _ => BitVec.ofNat 64 (s.fclk / 64)))))

/-- MUL, MULU, DIV and DIVU start and PRODUCT_LANDS and QUOTIENT_LANDS deliver the results of R168 and R169. -/
def Obligations.MultiplyAndDivideResults : Prop :=
  (∀ (h : Hdr) (d e : Fin 16) (s : State), Ready { w := true, lock := true, rd := [d.val, e.val] } h s →
      let x := s.cx h.ctx.val
      let w := widthBits h.width
      let a := (x.dreg d.val).toNat % 2 ^ w
      let b := (x.dreg e.val).toNat % 2 ^ w
      let sa := toSigned w a
      let sb := toSigned w b
      let did (o : Res) (m dv : Option (Word × Word)) (f : Flags) : Prop := ∃ t, o = .next t ∧ OnlyCtx h.ctx.val s t ∧
        Retired h x (t.cx h.ctx.val) ∧ (t.cx h.ctx.val).regs = { x.regs with
          mul := m, div := dv, cf := f, cpc := (t.cx h.ctx.val).regs.cpc, repOn := false }
      let pair (p : Nat) : Option (Word × Word) := some (BitVec.ofNat 64 (p / 2 ^ 64), BitVec.ofNat 64 (p % 2 ^ 64))
      let quot (q r : Nat) : Option (Word × Word) := some (BitVec.ofNat 64 q, BitVec.ofNat 64 r)
      let ok : Flags := { x.regs.cf with dz := false, v := false }
      (x.regs.mul = none →
        did (exec (.mul h d e) s) (pair (ofSigned (2 * w) (sa * sb))) x.regs.div x.regs.cf ∧
        did (exec (.mulu h d e) s) (pair (a * b)) x.regs.div x.regs.cf) ∧
      (x.regs.mul ≠ none → exec (.mul h d e) s = .next s ∧ exec (.mulu h d e) s = .next s) ∧
      (x.regs.div = none →
        (b = 0 → did (exec (.div h d e) s) x.regs.mul (quot (2 ^ w - 1) a) { x.regs.cf with dz := true, v := false } ∧
          did (exec (.divu h d e) s) x.regs.mul (quot (2 ^ w - 1) a) { x.regs.cf with dz := true, v := false }) ∧
        (b ≠ 0 → did (exec (.divu h d e) s) x.regs.mul (quot (a / b) (a % b)) ok) ∧
        (b = 2 ^ w - 1 → a = 2 ^ (w - 1) →
          did (exec (.div h d e) s) x.regs.mul (quot (2 ^ (w - 1)) 0) { x.regs.cf with dz := false, v := true }) ∧
        (b ≠ 0 → ¬(b = 2 ^ w - 1 ∧ a = 2 ^ (w - 1)) →
          did (exec (.div h d e) s) x.regs.mul (quot (ofSigned w (sa.tdiv sb)) (ofSigned w (sa.tmod sb))) ok)) ∧
      (x.regs.div ≠ none → exec (.div h d e) s = .next s ∧ exec (.divu h d e) s = .next s)) ∧
  ∀ (c : Fin 1024) (s : State) (p q : Word),
    ((s.cx c.val).regs.mul = some (p, q) → ∃ t, exec (.productLands c) s = .next t ∧ OnlyCtx c.val s t ∧
      t.cx c.val = { s.cx c.val with regs := { (s.cx c.val).regs with mh := p, ml := q, mul := none } }) ∧
    ((s.cx c.val).regs.div = some (p, q) → ∃ t, exec (.quotientLands c) s = .next t ∧ OnlyCtx c.val s t ∧
      t.cx c.val = { s.cx c.val with regs := { (s.cx c.val).regs with dq := p, dm := q, div := none } })

/-- ACCCLR, ACCADD, ACCCNT, ACCMIN, ACCMAX, ACCMINU, ACCMAXU, CRCSTEP, FOLD, MOVD and MOVACC complete with the effect of R172. -/
def Obligations.AccumulatorResults : Prop :=
  ∀ (h : Hdr) (n d e : Fin 16) (k : Fin 4) (s : State), n.val ≤ 3 → h.width ≠ .w4 →
    Ready { w := true, rep := true, lock := true, rd := [d.val, e.val], acc := [n.val] } h s →
      let x := s.cx h.ctx.val
      let w := widthBits h.width
      let A := x.accVal n.val
      let sA := toSigned 256 A
      let b := (x.dreg e.val).toNat % 2 ^ w
      let sb := toSigned w b
      let nk : Fin 16 := ⟨4 * (n.val % 4) + k.val, by omega⟩
      let did (o : Res) (acc : Nat) : Prop := ∃ t, o = .next t ∧ OnlyCtx h.ctx.val s t ∧ Retired h x (t.cx h.ctx.val) ∧
        (t.cx h.ctx.val).accVal n.val = acc ∧ (∀ m j, m ≠ n.val → j < 4 → (t.cx h.ctx.val).piece m j = x.piece m j) ∧
        (t.cx h.ctx.val).regs = { x.regs with acc := (t.cx h.ctx.val).regs.acc, cpc := (t.cx h.ctx.val).regs.cpc, repOn := false }
      let sum := (x.piece n.val 0).toNat + (x.piece n.val 1).toNat + (x.piece n.val 2).toNat + (x.piece n.val 3).toNat
      let m := (x.piece n.val 2).toNat % 2 ^ 7
      (h.width = .w64 → did (exec (.accclr h n) s) 0) ∧
      did (exec (.accadd h n e) s) ((sA + sb) % 2 ^ 256).toNat ∧
      did (exec (.acccnt h n e) s) ((A + (List.range w).countP fun i => b.testBit i) % 2 ^ 256) ∧
      did (exec (.accmin h n e) s) ((if sA ≤ sb then sA else sb) % 2 ^ 256).toNat ∧
      did (exec (.accmax h n e) s) ((if sb ≤ sA then sA else sb) % 2 ^ 256).toNat ∧
      did (exec (.accminu h n e) s) (if A ≤ b then A else b) ∧
      did (exec (.accmaxu h n e) s) (if b ≤ A then A else b) ∧
      (∃ t, exec (.crcstep h n e) s = .next t ∧ OnlyCtx h.ctx.val s { t with freeCnt := s.freeCnt } ∧
        Retired h x (t.cx h.ctx.val) ∧ (t.cx h.ctx.val).regs.cf = x.regs.cf ∧
        (∀ i j, j < 4 → (i, j) ≠ (n.val, 0) → (t.cx h.ctx.val).piece i j = x.piece i j) ∧
        (∀ i, (t.cx h.ctx.val).dreg i = x.dreg i) ∧
        (8 ≤ m → m ≤ 64 → t.freeCnt = s.freeCnt ∧ ((t.cx h.ctx.val).piece n.val 0).toNat =
          (List.range w).foldl (fun crc i =>
            if crc.testBit 0 != b.testBit i then (crc / 2) ^^^ ((x.piece n.val 1).toNat % 2 ^ m) else crc / 2)
            ((x.piece n.val 0).toNat % 2 ^ m))) ∧
      (h.width = .w64 →
        (∃ t r, exec (.fold h d n) s = .next t ∧ OnlyCtx h.ctx.val s t ∧ Retired h x (t.cx h.ctx.val) ∧ r < 2 ^ 64 ∧
          r % (2 ^ 64 - 1) = sum % (2 ^ 64 - 1) ∧ (sum ≠ 0 → r ≠ 0) ∧ (sum < 2 ^ 64 → r = sum) ∧
          (t.cx h.ctx.val).regs.cf = x.regs.cf.after 64 r false false ∧
          (∀ i, (t.cx h.ctx.val).dreg i = if i = d.val then BitVec.ofNat 64 r else x.dreg i) ∧
          (t.cx h.ctx.val).regs.acc = x.regs.acc) ∧
        (∃ t, exec (.movdAcc h d nk) s = .next t ∧ OnlyCtx h.ctx.val s t ∧ Retired h x (t.cx h.ctx.val) ∧
          (∀ i, (t.cx h.ctx.val).dreg i = if i = d.val then x.piece n.val k.val else x.dreg i) ∧
          (t.cx h.ctx.val).regs = { x.regs with d := (t.cx h.ctx.val).regs.d, cpc := (t.cx h.ctx.val).regs.cpc, repOn := false }) ∧
        (∃ t, exec (.movacc h nk e) s = .next t ∧ OnlyCtx h.ctx.val s t ∧ Retired h x (t.cx h.ctx.val) ∧
          (∀ i j, j < 4 → (t.cx h.ctx.val).piece i j = if (i, j) = (n.val, k.val) then x.dreg e.val else x.piece i j) ∧
          (t.cx h.ctx.val).regs = { x.regs with acc := (t.cx h.ctx.val).regs.acc, cpc := (t.cx h.ctx.val).regs.cpc, repOn := false }))

/-- NOP, JMP, Jcc, CALL, RET, TIC, CALLF and SPT complete with the CPC and the call stack of the spec. -/
def Obligations.ControlTransferResults : Prop :=
  ∀ (h : Hdr) (d : Fin 16) (cc : Fin 16) (rel : BitVec 32) (far : FarTo) (s : State),
    Ready { lock := true, rd := d.val :: (match far with | .reg e => [e.val] | .imm _ => []), cf := true } h s →
    h.lock = false → (s.cx h.ctx.val).ckpts = [] →
      let c := h.ctx.val
      let x := s.cx c
      let f := x.regs.cf
      let lim := x.regs.cpc.seg.limit
      let next : Nat := (x.regs.cpc.off + h.len) % 2 ^ 48
      let jrel : Nat := (((next : Int) + toSigned 32 rel.toNat) % (2 ^ 48 : Nat)).toNat
      let jreg := (x.dreg d.val).toNat % 2 ^ 48
      let cond : Bool := match cc.val with
        | 0 => f.z | 1 => !f.z | 2 => f.c | 3 => !f.c | 4 => f.n | 5 => !f.n | 6 => f.v | 7 => !f.v
        | 8 => f.dz | 9 => !f.dz | 10 => !f.c && !f.z | 11 => f.c || f.z | 12 => f.n == f.v | 13 => f.n != f.v
        | 14 => !f.z && (f.n == f.v) | _ => f.z || (f.n != f.v)
      let did (o : Res) (p : Cpc) (st : List Cpc) : Prop := ∃ t, o = .next t ∧ OnlyCtx c s t ∧
        (t.cx c).regs = { x.regs with cpc := p, stack := st, repOn := false } ∧
        t.cx c = { x with regs := (t.cx c).regs, seqCount := (t.cx c).seqCount, lock := (t.cx c).lock }
      let at_ (o : Nat) : Cpc := { x.regs.cpc with off := o }
      let far' := match far with | .imm v => v.toNat | .reg e => (x.dreg e.val).toNat
      let sel := far' / 2 ^ 48
      let off := far' % 2 ^ 48
      did (exec (.nop h) s) (at_ next) x.regs.stack ∧
      (jrel < lim → did (exec (.jmp h (.rel rel)) s) (at_ jrel) x.regs.stack) ∧
      (jreg < lim → did (exec (.jmp h (.reg d)) s) (at_ jreg) x.regs.stack) ∧
      (cond = false → did (exec (.jcc h cc rel) s) (at_ next) x.regs.stack) ∧
      (cond = true → jrel < lim → did (exec (.jcc h cc rel) s) (at_ jrel) x.regs.stack) ∧
      (jrel < lim → x.regs.stack.length < 16 → did (exec (.call h rel) s) (at_ jrel) (at_ next :: x.regs.stack)) ∧
      (∀ p rest, x.regs.stack = p :: rest → s.selOk c p.sel = true → p.seg.x = true → p.off < p.seg.limit → p.seg.inval = false →
        did (exec (.ret h) s) p rest) ∧
      (∀ g, s.selOk c sel = true → s.lookup x.pdom sel = (some g, s) → g.x = true → off < g.limit →
        did (exec (.tic h far) s) { sel := sel, off := off, seg := g } x.regs.stack ∧
        (x.regs.stack.length < 16 →
          did (exec (.callf h far) s) { sel := sel, off := off, seg := g } (at_ next :: x.regs.stack))) ∧
      (s.on (Fld.qctx.SUSP_REQ x.qid) = false → did (exec (.spt h) s) (at_ next) x.regs.stack) ∧
      (s.on (Fld.qctx.SUSP_REQ x.qid) = true → ∃ t, exec (.spt h) s = .next t ∧ (t.cx c).parked = true ∧
        (t.cx c).regs = { x.regs with cpc := at_ next, repOn := false } ∧ (∀ c', c' ≠ c → t.cx c' = s.cx c') ∧ t.out = s.out)

/-- HALT, POST, a second POST, flag fall and an undefined opcode end or post with the entry the spec gives. -/
def Obligations.ProgramEndsAndPosts : Prop :=
  ∀ (h : Hdr) (status : BitVec 8) (d : Fin 16) (bytes : List Byte) (st : Nat) (s : State),
    Quiet s → Ready { rd := [d.val], stop := true } h s → Unburdened (s.cx h.ctx.val) →
      let c := h.ctx.val
      let x := s.cx c
      let entry (st : Nat) (auto : Bool) (r : Word) : Cpl :=
        { qid := x.qid, tag := x.tag, status := st, epoch := x.epoch, residual := s.residualOf c, auto := auto, ioc := x.ioc,
          result := r, order := x.order }
      let plus1 (f : Field) : Nat := if s.get f + 1 < 2 ^ f.w then s.get f + 1 else s.get f
      let env : IzEnv := { bytes := bytes, off := x.regs.cpc.off, limit := x.regs.cpc.seg.limit, bound := fun n => s.on (Fld.extBind.VALID n) }
      (x.posted = false → ∃ t, exec (.halt h) s = .next t ∧ Ended c s t [entry (if x.lastShort then 1 else 0) true 0]) ∧
      (x.posted = true → ∃ t, exec (.halt h) s = .next t ∧ Ended c s t []) ∧
      (x.posted = false → ∃ t, exec (.post h status d) s = .next t ∧
        t.cpl = s.cpl ++ [entry status.toNat false (x.dreg d.val)] ∧ (t.cx c).posted = true ∧ (t.cx c).wait = .none ∧
        (t.cx c).regs = { x.regs with cpc := { x.regs.cpc with off := (x.regs.cpc.off + h.len) % 2 ^ 48 }, repOn := false } ∧
        (∀ c', c' ≠ c → t.cx c' = s.cx c') ∧ t.out = s.out) ∧
      (x.posted = true → ∃ t, exec (.post h status d) s = .next t ∧ Ended c s t [] ∧
        t.get (Fld.pgmStat.POST_AGAIN (clusterOf c)) = plus1 (Fld.pgmStat.POST_AGAIN (clusterOf c))) ∧
      (x.clock.isSome = true → x.posted = false → ∃ t, exec (.chessClockFlagFall h.ctx) s = .next t ∧
        Ended c s t [entry 0x40 false 0] ∧
        t.get (Fld.pgmStat.FLAG_FALLS (clusterOf c)) = plus1 (Fld.pgmStat.FLAG_FALLS (clusterOf c))) ∧
      (x.clock.isSome = true → x.posted = true → ∃ t, exec (.chessClockFlagFall h.ctx) s = .next t ∧ Ended c s t [] ∧
        t.get (Fld.pgmStat.SILENT_FALLS (clusterOf c)) = plus1 (Fld.pgmStat.SILENT_FALLS (clusterOf c))) ∧
      (x.posted = false → env.decode = some st →
        ∃ t, exec (.undefinedOpcode h.ctx bytes) s = .next t ∧ Ended c s t [entry st false 0]) ∧
      (bytes = [0] → x.regs.cpc.off < x.regs.cpc.seg.limit → env.decode = some 0x10)

/-- An instruction that fails a check ends its program with the status of the check, writes the entry and changes nothing else. -/
def Obligations.AutomaticEndsOfInstructions : Prop :=
  ∀ (h : Hdr) (d n : Fin 16) (sp : Fin 16) (rel : BitVec 32) (t0 : BitVec 64) (s : State),
    Quiet s → s.canIssue h.ctx.val = true → Unburdened (s.cx h.ctx.val) → (s.cx h.ctx.val).posted = false →
    h.rpt = .once → (s.cx h.ctx.val).regs.cpc.seg.live = true →
      let c := h.ctx.val
      let x := s.cx c
      let p := x.regs.cpc
      let ends (o : Res) (st : Nat) : Prop := ∃ t, o = .next t ∧
        Ended c s t [{ qid := x.qid, tag := x.tag, status := st, epoch := x.epoch, residual := s.residualOf c, auto := false,
                       ioc := x.ioc, result := 0, order := x.order }] ∧
        (0x20 ≤ st → st ≤ 0x23 → t.on Fld.segvLog.VALID = true ∧ (s.on Fld.segvLog.VALID = false →
          t.get Fld.segvLog.CTX = c ∧ t.get Fld.segvLog.STATUS = st))
      let next : Nat := (p.off + h.len) % 2 ^ 48
      let jrel : Nat := (((next : Int) + toSigned 32 rel.toNat) % (2 ^ 48 : Nat)).toNat
      (h.blk = false → p.seg.inval = false → p.seg.limit < p.off + h.len → ends (exec (.nop h) s) 0x20) ∧
      (p.seg.inval = true → ends (exec (.nop h) s) 0x23) ∧
      (fetchCheck {} h p = none →
        (p.seg.limit ≤ jrel → ends (exec (.jmp h (.rel rel)) s) 0x20 ∧ ends (exec (.call h rel) s) 0x20) ∧
        (p.seg.limit ≤ (x.dreg d.val).toNat % 2 ^ 48 → ends (exec (.jmp h (.reg d)) s) 0x20) ∧
        (jrel < p.seg.limit → x.regs.stack.length = 16 → ends (exec (.call h rel) s) 0x14) ∧
        (x.regs.stack = [] → ends (exec (.ret h) s) 0x14) ∧
        (s.selOk c (t0.toNat / 2 ^ 48) = false → ends (exec (.tic h (.imm t0)) s) 0x22) ∧
        (14 ≤ sp.val → ends (exec (.movs h d sp) s) 0x13) ∧
        (3 < n.val → ends (exec (.accclr h n) s) 0x13)) ∧
      (h.blk = true → h.lock = true → h.spec = .plain → h.king = false → h.width = .w64 → p.seg.inval = false → p.off + 2 < p.seg.limit →
        ends (exec (.jmp h (.rel rel)) s) 0x11)

/-- LD and LDI issue the reads of R148 to host memory, and the returned data lands in Dx with Z and N. -/
def Obligations.LoadsReadHostMemoryAndDeliver : Prop :=
  ∀ (h : Hdr) (d k : Fin 16) (m : Mem) (s : State) (i : Instr) (o : Nat),
    Quiet s → Ready { w := true, nib := true, rep := true, lock := true, rd := [k.val] } h s →
      let c := h.ctx.val
      let x := s.cx c
      let g := x.sreg (memSreg m)
      let n := widthBytes h.width
      let w := widthBits h.width
      let func := s.get (Fld.pdData.FUNC x.pdom)
      let vc := if x.cls = 0 ∧ s.on Fld.qscCtl.KING_EN then 0 else 1
      let a := g.base + o
      let id := s.hreqNext
    (i = .ld h d m ∧ o = (x.areg m.a.val + m.disp).toNat ∨ i = .ldi h d m k ∧ o = (x.areg m.a.val + m.disp + x.dreg k.val).toNat) →
    x.ckpts = [] → x.loads = [] → SMap.get s.held [] (clusterOf c) = [] → SMap.wf s.hreq noReq = true →
    (∀ r ∈ s.hreq, r.1 < id) →
    g.live = true → g.inval = false → g.kind = 0 → g.r = true → o + n ≤ g.limit → o + n ≤ 2 ^ 64 →
    (m.nsel = true → h.width = .w4) → s.hostOk func = true → s.on Fld.hpuStat.MODE = false → s.atsOn func = false → s.on Fld.hpuStat.CACHE_EN = true →
      ∃ t, exec i s = .next t ∧ (t.cx c).regs = { x.regs with
          cpc := { x.regs.cpc with off := (x.regs.cpc.off + h.len) % 2 ^ 48 }, repOn := false } ∧
        (∀ c', c' ≠ c → t.cx c' = s.cx c') ∧ t.regs = s.regs ∧
        (a % n ≠ 0 → t.out = .hostRead (id + 1) func .rdCurr false (a + (n - a % n)) (a % n) vc ::
          .hostRead id func .rdCurr false a (n - a % n) vc :: s.out) ∧
        (a % n = 0 → t.out = .hostRead id func .rdCurr false a n vc :: s.out ∧
          ∀ bs : List Byte, bs.length = n → ∃ u, exec (.hostReadCompletion id (.data bs)) t = .next u ∧
            let v := if h.width = .w4 then (if m.nsel then ofBytes bs / 16 else ofBytes bs % 16) else ofBytes bs
            (∀ j, (u.cx c).dreg j = if j = d.val then BitVec.ofNat 64 v else x.dreg j) ∧
            (u.cx c).regs.cf = { x.regs.cf with z := decide (v = 0), n := v.testBit (w - 1) } ∧
            (u.cx c).loads = [] ∧ (u.cx c).regs.cpc = (t.cx c).regs.cpc)

/-- ST and STI issue the writes of R148 to host memory and change no register. -/
def Obligations.StoresWriteHostMemory : Prop :=
  ∀ (h : Hdr) (d k : Fin 16) (m : Mem) (s : State) (i : Instr) (o : Nat), h.width ≠ .w4 → m.nsel = false → Quiet s →
    Ready { w := true, rep := true, lock := true, rd := [k.val, d.val] } h s →
      let c := h.ctx.val
      let x := s.cx c
      let g := x.sreg (memSreg m)
      let n := widthBytes h.width
      let func := s.get (Fld.pdData.FUNC x.pdom)
      let a := g.base + o
      let bytes := toBytes n (x.dreg d.val).toNat
    (i = .st h m d ∧ o = (x.areg m.a.val + m.disp).toNat ∨ i = .sti h m k d ∧ o = (x.areg m.a.val + m.disp + x.dreg k.val).toNat) →
    x.ckpts = [] → s.readOverlaps c func a n = false → s.watchHits (some c) func (linesOf a n) = [] →
    g.live = true → g.inval = false → g.kind = 0 → g.w = true → o + n ≤ g.limit → o + n ≤ 2 ^ 64 →
    s.hostOk func = true → s.on Fld.hpuStat.MODE = false → s.atsOn func = false →
      ∃ t, exec i s = .next t ∧ (t.cx c).regs = { x.regs with
          cpc := { x.regs.cpc with off := (x.regs.cpc.off + h.len) % 2 ^ 48 }, repOn := false } ∧
        (∀ c', c' ≠ c → t.cx c' = s.cx c') ∧ OnlyRegs [] { s with ctx := t.ctx, out := t.out } t ∧
        (a % n = 0 → t.out = .hostWrite func false a bytes :: s.out) ∧
        (a % n ≠ 0 → t.out = .hostWrite func false (a + (n - a % n)) (bytes.drop (n - a % n)) ::
          .hostWrite func false a (bytes.take (n - a % n)) :: s.out)

/-- LDS takes the cached descriptor, or waits for SEGMENT_TABLE_READ, which loads the descriptor of the entry it returns. -/
def Obligations.SegmentLoadsTakeTheTableEntry : Prop :=
  ∀ (h : Hdr) (sr : Fin 16) (sel : SelSrc) (s : State) (e : SegEntry), Quiet s →
    Ready { lock := true, rd := usesSel sel } h s → (s.cx h.ctx.val).ckpts = [] →
      let c := h.ctx.val
      let x := s.cx c
      let sl := x.sel sel
      let p := x.pdom
      let past : Cpc := { x.regs.cpc with off := (x.regs.cpc.off + h.len) % 2 ^ 48 }
      let loaded (t : State) (g : Desc) : Prop := (∀ j, (t.cx c).sreg j = if j = sr.val then g else x.sreg j) ∧
        (t.cx c).regs = { x.regs with seg := (t.cx c).regs.seg, cpc := past, repOn := false } ∧ (t.cx c).wait = .none
    s.selOk c sl = true → (∀ o ∈ s.pdOld, o.dom ≠ p) →
      (∀ g, s.lookup p sl = (some g, s) → ∃ t, exec (.lds h sr sel) s = .next t ∧ OnlyCtx c s t ∧ loaded t g) ∧
      (p < 4096 → (∀ r ∈ s.segCache, r.1 ≠ segKey p sl) → SMap.get s.segRead 0 (segKey p sl) = 0 → NSet.has s.stuHold p = false →
        (∀ r ∈ s.hreq, r.1 < s.hreqNext ∧ r.2.purp ≠ .table p sl) → SMap.wf s.hreq noReq = true →
        (∀ c', c' ≠ c → (s.cx c').live = true → (s.cx c').wait = .none) → SMap.wf s.ctx {} = true →
        s.hostOk 0 = true → s.on Fld.hpuStat.MODE = false → s.atsOn 0 = false →
        ∃ t, exec (.lds h sr sel) s = .next t ∧ (t.cx c).wait ≠ .none ∧ (t.cx c).regs = x.regs ∧
          t.out = .hostRead s.hreqNext 0 .io false (s.get (Fld.pdData.ST_BASE p) * 4096 + sl * 32) 32 1 :: s.out ∧
          (e.w0.getLsbD 0 = true → bitsOf e.w0.toNat 1 2 < 3 → bitsOf e.w0.toNat 7 9 = 0 → bitsOf e.w0.toNat 44 20 = 0 →
            e.base.toNat < 2 ^ 57 → e.limit.toNat < 2 ^ 57 →
            (bitsOf e.w0.toNat 1 2 = 0 → e.base.toNat + e.limit.toNat ≤ 2 ^ 57) →
            (bitsOf e.w0.toNat 1 2 = 1 → e.base.toNat + e.limit.toNat ≤ 2 ^ 48) →
            ∃ u, exec (.segmentTableRead (Fin.ofNat 4096 p) (BitVec.ofNat 16 sl) (some e)) t = .next u ∧
              loaded u { live := true, kind := bitsOf e.w0.toNat 1 2, r := e.w0.getLsbD 3, w := e.w0.getLsbD 4,
                         x := e.w0.getLsbD 5 && decide (bitsOf e.w0.toNat 1 2 = 0), idem := e.w0.getLsbD 6,
                         node := bitsOf e.w0.toNat 16 16, pool := bitsOf e.w0.toNat 32 12,
                         base := bitsOf e.base.toNat 0 57, limit := bitsOf e.limit.toNat 0 57, dom := p, sel := sl }))

/-- BTST, BLD, BSET, BCLR, BNOT and BST read the old bit of their range into Z and C and write it where the range may be written. -/
def Obligations.BitInstructionResults : Prop :=
  ∀ (h : Hdr) (b : BitSrc) (bit : BitVec 16) (d : Fin 16) (s : State),
    Ready { lock := true, rd := d.val :: usesBit b } h s → (s.cx h.ctx.val).ckpts = [] → (s.cx h.ctx.val).lock = none →
      let c := h.ctx.val
      let x := s.cx c
      let cl := clusterOf c
      let f := x.regs.cf
      let a := x.bitAddr b
      let mirror : Bool := match a with
        | 0x100 => f.z | 0x101 => f.n | 0x102 => f.c | 0x103 => f.v | 0x104 => f.dz
        | 0x110 => s.on (Fld.qctx.SUSP_REQ x.qid) | 0x111 => !x.chain.isEmpty | 0x112 => !x.slots.isEmpty
        | 0x113 => x.regs.bound.isSome | 0x114 => x.regs.mst % 2 == 1 | 0x115 => h.lock || x.seqCount.isSome | _ => false
      let old : Bool := if a < 0x100 then NSet.has x.regs.bits a else if a < 0x200 then mirror
        else if a < 0x400 then s.portBit cl x.regs.bound a else if a < 0x1000 then (s.semBit cl a).set
        else NSet.has s.evbCopy (cl * 8192 + a)
      let sem := (a - 0x400) / 64
      let geb := (a - 0x1000) / 64
      let allowed (write : Bool) : Prop :=
        (0x400 ≤ a → a < 0x1000 → s.get (Fld.semOwn.RESTRICT cl sem) = 0 ∨ s.get (Fld.semOwn.PDOM cl sem) = x.pdom ∨
          (write = false ∧ s.get (Fld.semOwn.RO_OTHERS cl sem) = 1)) ∧
        (0x1000 ≤ a → s.get (Fld.gebOwn.RESTRICT geb) = 0 ∨ s.get (Fld.gebOwn.PDOM geb) = x.pdom ∨
          (write = false ∧ s.get (Fld.gebOwn.RO_OTHERS geb) = 1))
      let did (o : Res) (dv : Option Word) (wr : Bool) (v : Bool) : Prop := ∃ t, o = .next t ∧ Retired h x (t.cx c) ∧
        (t.cx c).regs = { x.regs with cpc := (t.cx c).regs.cpc, repOn := false, bits := (t.cx c).regs.bits,
                                      d := (t.cx c).regs.d, cf := { f with z := !old, c := old } } ∧
        (∀ j, (t.cx c).dreg j = match dv with | some w => if j = d.val then w else x.dreg j | none => x.dreg j) ∧
        (∀ k, NSet.has (t.cx c).regs.bits k = if k = a ∧ a < 0x100 then v else NSet.has x.regs.bits k) ∧
        (∀ cl' k, k < 4096 → (t.semBit cl' k).set =
          if cl' = cl ∧ k = a ∧ 0x400 ≤ a ∧ a < 0x1000 then v else (s.semBit cl' k).set) ∧
        (∀ k, NSet.has t.evb k = if k = a ∧ 0x1000 ≤ a ∧ wr = true then v else NSet.has s.evb k) ∧
        (∀ cl' k, cl' < 8 → k < 8192 → NSet.has t.evbCopy (cl' * 8192 + k) =
          if k = a ∧ 0x1000 ≤ a ∧ wr = true then v else NSet.has s.evbCopy (cl' * 8192 + k)) ∧
        { t with ctx := s.ctx, sem := s.sem, evb := s.evb, evbCopy := s.evbCopy } = s ∧ (∀ c', c' ≠ c → t.cx c' = s.cx c')
      a < 0x2000 → x.pendBit a = false → s.lockedByOther c (semRes c a) = false → s.semWaiters cl a = [] →
        (allowed false → did (exec (.btst h b) s) none false old ∧
          (b = .imm bit → did (exec (.bld h d bit) s) (some (if old then 1 else 0)) false old)) ∧
        (allowed true → (a < 0x100 ∨ 0x400 ≤ a) →
          did (exec (.bset h b) s) none true true ∧ did (exec (.bclr h b) s) none true false ∧
          did (exec (.bnot h b) s) none true (!old) ∧
          (b = .imm bit → did (exec (.bst h bit d) s) none true ((x.dreg d.val).getLsbD 0)))

/-- SEMA, SEMT and SEMR acquire, wait for and release a cluster semaphore bit with its owner record and Z. -/
def Obligations.SemaphoreResults : Prop :=
  ∀ (h : Hdr) (b : BitSrc) (s : State), Ready { lock := true, rd := usesBit b } h s →
      let c := h.ctx.val
      let x := s.cx c
      let cl := clusterOf c
      let a := x.bitAddr b
      let f := x.regs.cf
      let blk := (a - 0x400) / 64
      let moved (y : Ctx) (z : Bool) : Prop := Retired h x y ∧
        y.regs = { x.regs with cpc := y.regs.cpc, repOn := false, cf := { f with z := z } }
      let sems (t : State) (v : SemBit) : Prop := ∀ cl' k, k < 4096 →
        t.semBit cl' k = if cl' = cl ∧ k = a then v else s.semBit cl' k
      let kept (t : State) : Prop := { t with ctx := s.ctx, sem := s.sem, arb := s.arb } = s
      x.ckpts = [] → x.lock = none → h.lock = false → (∀ e ∈ s.ctx, e.2.lock = none) → 0x400 ≤ a → a < 0x1000 →
      (s.get (Fld.semOwn.RESTRICT cl blk) = 0 ∨ s.get (Fld.semOwn.PDOM cl blk) = x.pdom) →
        ((s.semBit cl a).set = false →
          (∃ t, exec (.sema h b) s = .next t ∧ moved (t.cx c) true ∧ sems t { set := true, owner := some c } ∧ kept t ∧
            ∀ c', c' ≠ c → t.cx c' = s.cx c') ∧
          (∃ t, exec (.semt h b) s = .next t ∧ moved (t.cx c) true ∧ sems t { set := true, owner := some c } ∧ kept t ∧
            ∀ c', c' ≠ c → t.cx c' = s.cx c')) ∧
        ((s.semBit cl a).set = true →
          (∃ t, exec (.semt h b) s = .next t ∧ moved (t.cx c) false ∧ OnlyCtx c s t) ∧
          (x.seqCount.isSome = true → ∃ t, exec (.sema h b) s = .next t ∧ moved (t.cx c) false ∧ OnlyCtx c s t) ∧
          (x.seqCount = none → ∃ t, exec (.sema h b) s = .next t ∧ t.cx c = { x with wait := .sema h.len a, waitLock := false } ∧
            OnlyCtx c s t)) ∧
        (s.semWaiters cl a = [] →
          ∃ t, exec (.semr h b) s = .next t ∧ moved (t.cx c) ((s.semBit cl a).owner == some c) ∧ sems t {} ∧ kept t ∧
            ∀ c', c' ≠ c → t.cx c' = s.cx c') ∧
        (∀ r len, s.semWaiters cl a = [r] → r < 128 → cl * 128 + r ≠ c → (s.cx (cl * 128 + r)).wait = .sema len a →
          s.isMasked { kind := akSem, i := cl } r = false →
          ∃ t, exec (.semr h b) s = .next t ∧ moved (t.cx c) ((s.semBit cl a).owner == some c) ∧
            sems t { set := true, owner := some (cl * 128 + r) } ∧ kept t ∧
            (let w := s.cx (cl * 128 + r)
             (t.cx (cl * 128 + r)).wait = .none ∧ (t.cx (cl * 128 + r)).regs = { w.regs with
               cpc := { w.regs.cpc with off := (w.regs.cpc.off + len) % 2 ^ 48 }, repOn := false, cf := { w.regs.cf with z := true } }) ∧
            ∀ c', c' ≠ c → c' ≠ cl * 128 + r → t.cx c' = s.cx c')

/-- WAITB and TWAITB complete at once, wait, or end by the bit or by the timeout; Z tells TWAITB which, and WAITB ends with 0x41. -/
def Obligations.BitWaitsBeginAndEnd : Prop :=
  ∀ (h : Hdr) (bit : BitVec 16) (v strict : Bool) (dt : Fin 16) (s : State),
      let c := h.ctx.val
      let x := s.cx c
      let a := bit.toNat
      let op := if strict then Instr.waitb h bit v dt else Instr.twaitb h bit v dt
      let n := (x.dreg dt.val).toNat % 2 ^ 32 * 64
      let wait : Wait := .bit h.len a v strict (if n = 0 then none else some n)
      let on (t : State) (z : Bool) : Prop := OnlyCtx c s t ∧ (t.cx c).wait = .none ∧ (t.cx c).regs = { x.regs with
        cpc := { x.regs.cpc with off := (x.regs.cpc.off + h.len) % 2 ^ 48 }, repOn := false,
        cf := if strict then x.regs.cf else { x.regs.cf with z := z } }
      (Ready { spec := true, rd := [dt.val] } h s → s.eligible c = false → x.ckpts = [] → a < 0x2000 →
        s.bitBarred c a false = false → (x.seqCount = none ∨ a ≠ 0x115) →
        x.pendBit a = false → (∀ p g, x.regs.bound = some (p, g) → s.portLive p g = true) →
        (s.bitVal c a = v → ∃ t, exec op s = .next t ∧ on t true) ∧
        (s.bitVal c a ≠ v → s.on (Fld.qctx.SUSP_REQ x.qid) = false →
          ∃ t, exec op s = .next t ∧ OnlyCtx c s t ∧ (t.cx c).wait = wait ∧ (t.cx c).regs = x.regs ∧ (t.cx c).parked = false) ∧
        (s.bitVal c a ≠ v → s.on (Fld.qctx.SUSP_REQ x.qid) = true →
          ∃ t, exec op s = .next t ∧ (t.cx c).wait = wait ∧ (t.cx c).regs = x.regs ∧ (t.cx c).parked = true ∧
            (∀ c', c' ≠ c → t.cx c' = s.cx c') ∧ t.out = s.out)) ∧
      (∀ tmo, x.live = true → x.parked = false → x.ckpts = [] → x.squash = none → x.seqCount = none →
        x.wait = .bit h.len a v strict tmo → x.elig = false →
        (s.bitVal c a = v → (∃ t, exec (.bitWaitSatisfied h.ctx) s = .next t ∧ on t true) ∧
          (Quiet s → tmo.isSome = true → ∃ t, exec (.waitTimeout h.ctx) s = .next t ∧ OnlyRegs [] { s with ctx := t.ctx } t ∧
            on { s with ctx := t.ctx } true)) ∧
        (s.bitVal c a ≠ v → exec (.bitWaitSatisfied h.ctx) s = .next s ∧
          (Quiet s → tmo.isSome = true → strict = false → ∃ t, exec (.waitTimeout h.ctx) s = .next t ∧
            OnlyRegs [] { s with ctx := t.ctx } t ∧ on { s with ctx := t.ctx } false) ∧
          (Quiet s → tmo.isSome = true → strict = true → Unburdened x → x.posted = false →
            ∃ t, exec (.waitTimeout h.ctx) s = .next t ∧
              Ended c s t [{ qid := x.qid, tag := x.tag, status := 0x41, epoch := x.epoch, residual := s.residualOf c, auto := false,
                             ioc := x.ioc, result := 0, order := x.order }])))

/-- BIND binds a valid port of the domain and loads its status image, UNBIND ends the binding, and the checks of R107 end the program. -/
def Obligations.BindingResults : Prop :=
  ∀ (h : Hdr) (d e : Fin 16) (ix : SelSrc) (s : State),
      let c := h.ctx.val
      let x := s.cx c
      let p := (x.dreg d.val).toNat % 4096
      let ends (o : Res) (st : Nat) : Prop := ∃ t, o = .next t ∧
        Ended c s t [{ qid := x.qid, tag := x.tag, status := st, epoch := x.epoch, residual := s.residualOf c, auto := false,
                       ioc := x.ioc, result := 0, order := x.order }]
      (Ready { stop := true, rd := [d.val] } h s →
        (s.get (Fld.dpData.VALID p) = 1 → s.get (Fld.dpData.PDOM p) = x.pdom → s.get (Fld.dpData.REMOVED p) = 0 →
          ∃ t, exec (.bind h d) s = .next t ∧ Retired h x (t.cx c) ∧
            (t.cx c).regs = { x.regs with cpc := (t.cx c).regs.cpc, repOn := false, bound := some (p, s.get (Fld.dpData.GEN p)) } ∧
            (∀ k, k < 8 → SMap.get t.imgCopy 0 ((clusterOf c * 4096 + p) * 8 + k) = s.reg ⟨.dpImage, p, k⟩) ∧
            (∀ j, j / 8 ≠ clusterOf c * 4096 + p → SMap.get t.imgCopy 0 j = SMap.get s.imgCopy 0 j) ∧
            { t with ctx := s.ctx, imgCopy := s.imgCopy } = s ∧ (∀ c', c' ≠ c → t.cx c' = s.cx c')) ∧
        (Quiet s → Unburdened x → x.posted = false →
          (s.get (Fld.dpData.VALID p) = 0 → ends (exec (.bind h d) s) 0x22) ∧
          (s.get (Fld.dpData.VALID p) = 1 → s.get (Fld.dpData.PDOM p) ≠ x.pdom → ends (exec (.bind h d) s) 0x21) ∧
          (s.get (Fld.dpData.VALID p) = 1 → s.get (Fld.dpData.PDOM p) = x.pdom → s.get (Fld.dpData.REMOVED p) = 1 →
            ends (exec (.bind h d) s) 0x31))) ∧
      (Ready { stop := true } h s → ∃ t, exec (.unbind h) s = .next t ∧ Retired h x (t.cx c) ∧ OnlyCtx c s t ∧
        (t.cx c).regs = { x.regs with cpc := (t.cx c).regs.cpc, repOn := false, bound := none }) ∧
      (Ready { lock := true, king := true, stop := true, rd := d.val :: usesSel ix } h s → h.spec = .plain → Quiet s → Unburdened x →
        x.posted = false → x.regs.bound = none → ends (exec (.drd h e ix) s) 0x22 ∧ ends (exec (.dwr h ix d) s) 0x22 ∧
          ends (exec (.dcmd h d e) s) 0x22)

/-- DRD and DWR send one request to the node of the bound port, and complete when the response returns, DRD with its 64 bits in Dx. -/
def Obligations.DeviceRegisterAccesses : Prop :=
  ∀ (h : Hdr) (d : Fin 16) (ix : SelSrc) (p g l k tag : Nat) (s : State),
      let c := h.ctx.val
      let x := s.cx c
      let i := x.index ix
      let node := s.get (Fld.dpData.NODE p)
      let vc := if h.king && x.cls == 0 && s.on Fld.qscCtl.KING_EN then 0 else 1
      let locked := h.lock || x.seqCount.isSome
      let a := s.get (Fld.dpData.REG_BASE p) + 8 * i
      let on (u : State) (v : Option Word) : Prop := (u.cx c).wait = .none ∧ (∀ c', c' ≠ c → u.cx c' = s.cx c') ∧
        (u.cx c).regs = { x.regs with cpc := { x.regs.cpc with off := (x.regs.cpc.off + h.len) % 2 ^ 48 }, repOn := false,
                                      d := (u.cx c).regs.d } ∧
        (∀ j, (u.cx c).dreg j = match v with | some w => if j = d.val then w else x.dreg j | none => x.dreg j)
      let sent (t : State) (w : Wait) (q : Pkt) : Prop := (t.cx c).wait = w ∧ (t.cx c).regs = x.regs ∧
        t.out = .pkt l { q with src := s.selfNode, tag := tag, hops := k } :: s.out ∧ (∀ c', c' ≠ c → t.cx c' = s.cx c')
      Quiet s → x.ckpts = [] → x.lock = none → x.chain = [] → s.eligible c = false → x.regs.bound = some (p, g) →
      s.portLive p g = true → 8 * i < 2 ^ (12 + s.get (Fld.dpData.REG_LOG2 p)) → s.lockedByOther c ⟨2, 1 + l, p⟩ = false →
        (Ready { lock := true, spec := true, king := true, rd := usesSel ix } h s → Leaves s node vc 0 l k tag →
          ∃ t, exec (.drd h d ix) s = .next t ∧ sent t (.drd h.len d.val p i tag) (mrdPkt node a 8 vc locked) ∧
            ∀ (r : Fin 10) (q : Pkt), Arriving r q t → q.type = 0xC0 → q.tag = tag → q.cst = 0 → q.woff = 0 → q.last = true →
              q.poison = false → a % 4 = 0 → q.len = 2 →
              ∃ u, exec (.cpld r q) t = .next u ∧ on u (some (BitVec.ofNat 64 (ofBytes q.data)))) ∧
        (Ready { lock := true, king := true, stop := true, rd := d.val :: usesSel ix } h s → Leaves s node vc 1 l k tag →
          ∃ t, exec (.dwr h ix d) s = .next t ∧
            sent t (.dwr h.len tag) (mwrPkt 0x61 node a (toBytes 8 (x.dreg d.val).toNat) vc locked) ∧
            ∀ (r : Fin 10) (q : Pkt), Arriving r q t → q.type = 0x80 → q.tag = tag → q.cst = 0 →
              ∃ u, exec (.cpl r q) t = .next u ∧ on u none)

/-- DCMD, DCMD.C and WAITC send device commands, deliver the status, and examine the chain with the word of R113. -/
def Obligations.DeviceCommands : Prop :=
  ∀ (h : Hdr) (d e : Fin 16) (p g l k tag : Nat) (s : State),
      let c := h.ctx.val
      let x := s.cx c
      let node := s.get (Fld.dpData.NODE p)
      let king := h.king && x.cls == 0 && s.on Fld.qscCtl.KING_EN
      let past : Cpc := { x.regs.cpc with off := (x.regs.cpc.off + h.len) % 2 ^ 48 }
      let pk (locked : Bool) : Pkt := { type := 0x62, vc := if king then 0 else 1, locked := locked, dst := node, src := s.selfNode,
                                        tag := tag, hops := k, addr := (s.get (Fld.dpData.REG_BASE p)) / 4, len := 2, data := toBytes 8 (x.dreg d.val).toNat }
      let dstat (q : Pkt) : Nat := q.aux / 2 ^ 14 % 2 ^ 32
      let done (q : Pkt) : Prop := q.type = 0x80 ∧ q.tag = tag ∧ q.cst = 0
      let rest (u : State) : Prop := ∀ c', c' ≠ c → u.cx c' = s.cx c'
      Quiet s → x.ckpts = [] → s.eligible c = false →
        (Ready { lock := true, spec := true, king := true, stop := true, rd := [d.val] } h s → x.regs.bound = some (p, g) →
          s.portLive p g = true → Leaves s node (if king then 0 else 1) 1 l k tag → x.chain = [] → x.lock = none →
          s.lockedByOther c ⟨2, 1 + l, p⟩ = false →
          ∃ t, exec (.dcmd h d e) s = .next t ∧ t.out = .pkt l (pk (h.lock || x.seqCount.isSome)) :: s.out ∧ rest t ∧
            (t.cx c).regs = x.regs ∧ (t.cx c).wait = .dcmd h.len e.val p (x.dreg d.val) king (some tag) ∧
            ∀ r q, Arriving r q t → done q → ∃ u, exec (.cpl r q) t = .next u ∧ rest u ∧ (u.cx c).wait = .none ∧
              (u.cx c).regs = { x.regs with cpc := past, repOn := false, d := (u.cx c).regs.d,
                                            cf := { x.regs.cf with z := decide (dstat q = 0) } } ∧
              ∀ j, (u.cx c).dreg j = if j = e.val then BitVec.ofNat 64 (dstat q) else x.dreg j) ∧
        (Ready { king := true, stop := true, rd := [d.val] } h s → x.regs.bound = some (p, g) → s.portLive p g = true →
          Leaves s node (if king then 0 else 1) 1 l k tag → s.lockedByOther c ⟨2, 1 + l, p⟩ = false → s.reachable node = true → x.chain.length < 16 →
          (∀ f ∈ x.chain, f.port ≠ p ∧ f.sent.isSome = true) → (∀ f ∈ x.chain, f.pos < x.regs.chainPos) → (∀ f ∈ x.fails, f.port ≠ p) →
          ∃ t, exec (.dcmdC h d) s = .next t ∧ t.out = .pkt l (pk false) :: s.out ∧ rest t ∧
            (t.cx c).regs = { x.regs with cpc := past, repOn := false, chainPos := x.regs.chainPos + 1 } ∧ (t.cx c).fails = x.fails ∧
            (t.cx c).chain = x.chain ++ [{ port := p, gen := g, word := x.dreg d.val, pos := x.regs.chainPos, sent := some tag, king := king }] ∧
            ∀ r q, Arriving r q t → done q → ∃ u, exec (.cpl r q) t = .next u ∧ rest u ∧ (u.cx c).regs = (t.cx c).regs ∧
              (u.cx c).chain = x.chain ∧ (u.cx c).fails = x.fails ++
                (if dstat q = 0 then [] else [{ port := p, pos := x.regs.chainPos, status := dstat q, dropped := 0, examined := false }])) ∧
        (Ready { spec := true } h s → x.chain = [] →
          (x.fails = [] → ∃ t, exec (.waitc h d) s = .next t ∧ OnlyCtx c s t ∧ (t.cx c).wait = .none ∧ (t.cx c).fails = [] ∧
            (t.cx c).regs = { x.regs with cpc := past, repOn := false, chainPos := 0, cf := { x.regs.cf with z := true } }) ∧
          (∀ f fs, x.fails = f :: fs → (∀ o ∈ fs, f.pos < o.pos) → ∃ t, exec (.waitc h d) s = .next t ∧ OnlyCtx c s t ∧
            (t.cx c).wait = .none ∧ (t.cx c).fails = [] ∧
            (t.cx c).regs = { x.regs with cpc := past, repOn := false, chainPos := 0, cf := { x.regs.cf with z := false },
                                          d := (t.cx c).regs.d } ∧
            ∀ j, (t.cx c).dreg j = if j = d.val then BitVec.ofNat 64 (f.status % 2 ^ 32 + f.port % 4096 * 2 ^ 32 +
              f.pos % 16 * 2 ^ 48 + (x.fails.map (·.dropped)).sum % 4096 * 2 ^ 52) else x.dreg j)) ∧
        (Ready { spec := true } h s → x.chain ≠ [] → ∃ t, exec (.waitc h d) s = .next t ∧ OnlyCtx c s t ∧
          (t.cx c).wait = .waitc h.len d.val ∧ (t.cx c).regs = x.regs ∧ (t.cx c).chain = x.chain)

/-- EXT0 to EXT7 send one request to the bound unit, and its response delivers Dx and the flags. -/
def Obligations.ExtensionRequests : Prop :=
  ∀ (h : Hdr) (n : Fin 8) (d e : Fin 16) (fn : BitVec 16) (l k tag : Nat) (s : State), Quiet s →
    Ready { lock := true, stop := true, rd := [d.val, e.val] } h s →
      let c := h.ctx.val
      let x := s.cx c
      let node := s.get (Fld.extBind.NODE n.val)
      let past : Cpc := { x.regs.cpc with off := (x.regs.cpc.off + h.len) % 2 ^ 48 }
      x.ckpts = [] → x.lock = none → NSet.has s.extHold n.val = false → s.get (Fld.extBind.VALID n.val) = 1 →
      (s.get (Fld.extBind.DOM_EN n.val) = 1 → s.get (Fld.extBind.PDOM n.val) = x.pdom) →
      s.lockedByOther c ⟨3, 30, n.val⟩ = false → s.extOut n.val < s.extMax n.val → NSet.has s.masked 30 = false →
      Leaves s node 1 1 l k tag →
        ∃ t, exec (.ext h n d e fn) s = .next t ∧ (t.cx c).regs = x.regs ∧ (t.cx c).wait = .ext h.len d.val n.val tag ∧
          (∀ c', c' ≠ c → t.cx c' = s.cx c') ∧
          t.out = .pkt l { type := 0x70, vc := 1, locked := h.lock || x.seqCount.isSome, dst := node, src := s.selfNode, tag := tag,
                           hops := k, len := 4, aux := fn.toNat + s.get (Fld.extBind.UNIT n.val) * 2 ^ 16 + n.val * 2 ^ 19 + c * 2 ^ 22 + x.pdom * 2 ^ 32,
                           data := toBytes 8 (x.dreg d.val).toNat ++ toBytes 8 (x.dreg e.val).toNat } :: s.out ∧
          ∀ r q, Arriving r q t → q.type = 0xC4 → q.tag = tag → q.cst = 0 → q.len = 2 → q.poison = false →
            ∃ u, exec (.xrsp r q) t = .next u ∧ (∀ c', c' ≠ c → u.cx c' = s.cx c') ∧ (u.cx c).wait = .none ∧
              (∀ j, (u.cx c).dreg j = if j = d.val then BitVec.ofNat 64 (ofBytes q.data) else x.dreg j) ∧
              (u.cx c).regs = { x.regs with cpc := past, repOn := false, d := (u.cx c).regs.d, cf := match q.flags with
                                            | some f => { x.regs.cf with z := f.testBit 0, n := f.testBit 1, c := f.testBit 2, v := f.testBit 3 }
                                            | none => x.regs.cf }

/-- XFER and XFERT put a checked transfer into its cluster queue and go on; a count of 0 moves nothing; WAITX delivers the residual. -/
def Obligations.TransfersIssueIntoTheirQueue : Prop :=
  ∀ (h : Hdr) (o : XOpnd) (tsel : BitVec 32) (d : Fin 16) (sl : Nat) (i : Instr) (s : State), Quiet s →
      let c := h.ctx.val
      let x := s.cx c
      let l := x.linkOf o
      let ts := tsel.toNat
      let k := 4 * c + sl
      let acc (n : Nat) : Nat := (x.piece (ts / 2 ^ 27 % 4) n).toNat
      let past : Cpc := { x.regs.cpc with off := (x.regs.cpc.off + h.len) % 2 ^ 48 }
      let king := h.king && x.cls == 0 && s.on Fld.qscCtl.KING_EN
      x.ckpts = [] → x.regs.chainOpen = none →
        ((i = .xfer h o ∧ ts = 0 ∨ i = .xfert h o tsel) →
          Ready { king := true, stop := true, rd := [o.cnt.val], acc := s.xferAcc c ts } h s → tselOk ts = true →
          ¬(l.skip = true ∧ tRdst ts = 2) →
          (l.n = 0 → ∃ t, exec i s = .next t ∧ OnlyCtx c s t ∧ Retired h x (t.cx c) ∧
            (t.cx c).regs = { x.regs with cpc := past, repOn := false }) ∧
          (0 < l.n → l.n < 2 ^ 40 → linkCheck ts l (!o.dc) = none → s.keyCheck x.pdom ts = none → l.n % piIn ts = 0 →
            (3 ≤ tCiph ts → cipherIn ts l.n ≤ bitsOf (acc 2) 32 16 + (2 ^ 36 - 32)) → (o.dc = false → endLenBad ts (acc 2) l.n = false) →
            x.freeSlot = some sl →
            ∃ t, exec i s = .next t ∧
              t.cx c = { x with slots := NSet.add x.slots sl, lastXfer := some sl, seqCount := none, lock := none,
                                regs := { x.regs with cpc := past, repOn := false, chainOpen := if o.dc then some sl else none } } ∧
              (∀ c', c' ≠ c → t.cx c' = s.cx c') ∧
              t.xg k = { ctx := c, slot := sl, dom := x.pdom, func := s.get (Fld.pdData.FUNC x.pdom), links := [l], closed := !o.dc,
                         tsel := ts, a1 := acc 1, a2 := acc 2, a3 := acc 3, key := s.keyBytes ts, vc0 := king, order := s.xferNext } ∧
              (∀ k', k' ≠ k → t.xg k' = s.xg k') ∧
              SMap.get t.xq [] (clusterOf c) = SMap.get s.xq [] (clusterOf c) ++ [k] ∧
              (∀ cl, cl ≠ clusterOf c → SMap.get t.xq [] cl = SMap.get s.xq [] cl) ∧
              OnlyRegs [] { s with ctx := t.ctx, xfer := t.xfer, xq := t.xq, xferNext := s.xferNext + 1, gatedGrp := t.gatedGrp, pwrGrp := t.pwrGrp } t)) ∧
        (Ready {} h s →
          (x.slots = [] → x.chain = [] → ∃ t, exec (.waitx h d) s = .next t ∧ (∀ c', c' ≠ c → t.cx c' = s.cx c') ∧
            (t.cx c).wait = .none ∧ (t.cx c).shortAny = false ∧ t.out = s.out ∧
            (t.cx c).regs = { x.regs with cpc := past, repOn := false, d := (t.cx c).regs.d, cf := { x.regs.cf with z := !x.shortAny } } ∧
            ∀ j, (t.cx c).dreg j = if j = d.val then BitVec.ofNat 64 x.residual else x.dreg j) ∧
          (x.slots ≠ [] → x.chain = [] → ∃ t, exec (.waitx h d) s = .next t ∧ (t.cx c).wait = .waitx h.len d.val ∧
            (t.cx c).regs = x.regs ∧ (∀ c', c' ≠ c → t.cx c' = s.cx c') ∧ t.out = s.out))

/-- A plain transfer is admitted by its group, reads its source, writes the bytes to its destination, ends and frees its slot. -/
def Obligations.PlainTransferRunsToItsEnd : Prop :=
  ∀ (g : Fin 4) (c : Fin 1024) (sl : Fin 4) (cl i e : Nat) (l : Link) (s : State),
      let k := 4 * c.val + sl.val
      let x := s.xg k
      let f := s.get (Fld.pdData.FUNC x.dom)
      let y := s.cx c.val
      let id := s.hreqNext
    Quiet s → NSet.has s.masked (21 + g.val) = false → NSet.has s.masked (12 + cl) = false → s.admitReqs g.val = [cl] → s.xqHead cl = some k →
    s.placeIn g.val x = some (i, e) →
    x = { ctx := c.val, slot := sl.val, dom := x.dom, func := x.func, links := [l], closed := true, a1 := x.a1, a2 := x.a2, a3 := x.a3,
          key := x.key, vc0 := x.vc0, spill := x.spill, order := x.order } →
    l.skip = false → l.src.kind = 0 → l.dst.kind = 0 → 0 < l.n → (l.src.base + l.sOff) % 512 + l.n ≤ 512 →
    (l.dst.base + l.dOff) % 512 + l.n ≤ 512 →
    (l.src.base + l.sOff + l.n ≤ l.dst.base + l.dOff ∨ l.dst.base + l.dOff + l.n ≤ l.src.base + l.sOff) → s.hostOk f = true → s.atsOn f = false → (∀ r ∈ s.hreq, r.1 < id) →
    SMap.wf s.hreq noReq = true → SMap.wf s.xfer {} = true → y.wait = .none → y.chain = [] → y.live = true → y.lastXfer = some sl.val →
    SMap.get s.held [] (clusterOf c.val) = [] → (∀ w ∈ s.watch, w.2 = []) → s.on Fld.hpuStat.MODE = false →
    (∀ z ∈ s.xfer, z.2.stuck = false ∧ (z.2.mover.isSome = true → s.wantsRead z.2 = false)) →
      ∃ t, exec (.transferAdmit g) s = .next t ∧ (∀ n, t.cx n = s.cx n) ∧ SMap.get t.xq [] cl = (SMap.get s.xq [] cl).tail ∧
        (t.xg k).mover = some (g.val, i) ∧ (t.xg k).entry = e ∧
        t.out = .hostRead id f .io false (l.src.base + l.sOff) l.n (if x.vc0 then 0 else 1) :: s.out ∧
        ∀ bs : List Byte, bs.length = l.n →
          ∃ u, exec (.hostReadCompletion id (.data bs)) t = .next u ∧ (∀ n, u.cx n = s.cx n) ∧
            u.out = .hostWrite f false (l.dst.base + l.dOff) bs :: t.out ∧
            ∃ v, exec (.transferComplete c sl) u = .next v ∧ v.xf k = none ∧ v.out = u.out ∧ (∀ n, n ≠ c.val → v.cx n = s.cx n) ∧
              v.cx c.val = { y with slots := NSet.del y.slots sl.val, lastXfer := none, residual := 0, lastShort := false }

/-- A lane is granted to the mover that waits first, a head transfer is offered to all groups, a failure ends the program, idle groups gate. -/
def Obligations.LanesSpillAndFailuresOfTransfers : Prop :=
  ∀ (m : Fin 16) (cluster : Fin 8) (gate : Fin 8) (c : Fin 1024) (sl : Fin 4) (cause : Fin 16) (k lane : Nat) (s : State), Quiet s →
      let kk := 4 * c.val + sl.val
      let x := s.xg kk
      let y := s.cx c.val
      let g := match x.mover with | some n => n.1 | none => c.val / 128 / 2
      let freeLane (l : Nat) : Prop := NSet.has s.masked (25 + l / 2) = false ∧ ∀ e ∈ s.lanes, e.1 ≠ l
      (∀ l, s.laneWait.head? = some m.val → s.laneFirst m.val = some k → (s.xg k).mover = some (m.val / 4, m.val % 4) →
        (s.xg k).stripe = none → (s.xg k).req = false → (s.xg k).stuck = false → (s.xg k).eod = false → (s.xg k).links[(s.xg k).linkIx]? = some l →
        (s.xg k).rd < l.n → l.src.kind = 0 → s.hostOk (s.get (Fld.pdData.FUNC (s.xg k).dom)) = true → s.on Fld.hpuStat.MODE = false →
        s.atsOn (s.get (Fld.pdData.FUNC (s.xg k).dom)) = false → SMap.wf s.xfer {} = true →
        (∀ e ∈ s.xfer, e.2.mover = (s.xg k).mover → e.2.stuck = false ∧ s.wantsRead e.2 = false) →
        (freeLane lane ∧ (lane = 2 * (m.val / 4) ∨ lane = 2 * (m.val / 4) + 1 ∧ ¬freeLane (2 * (m.val / 4)) ∨
          lane < 8 ∧ ¬freeLane (2 * (m.val / 4)) ∧ ¬freeLane (2 * (m.val / 4) + 1) ∧ ∀ l, l < lane → ¬freeLane l)) →
        ∃ t, exec (.laneGrant m) s = .next t ∧ t.lanes = s.lanes ++ [(lane, m.val)] ∧ (t.xg k).lane = some lane ∧
          t.laneWait = s.laneWait.filter (· != m.val) ∧ t.ctx = s.ctx ∧
          (let a := l.src.base + (l.sOff + (s.xg k).rd)
           t.out = .hostRead s.hreqNext (s.get (Fld.pdData.FUNC (s.xg k).dom)) .io false a (Nat.min (l.n - (s.xg k).rd) (512 - a % 512))
             (if (s.xg k).vc0 then 0 else 1) :: s.out)) ∧
      (s.xqHead cluster.val = some k → ∃ t, exec (.transferSpill cluster) s = .next t ∧ (t.xg k) = { s.xg k with spill := true } ∧
        (∀ k', k' ≠ k → t.xg k' = s.xg k') ∧ (∀ n, NSet.has t.gatedGrp n = (NSet.has s.gatedGrp n && decide (4 ≤ n))) ∧
        (∀ n, NSet.has t.pwrGrp n = (NSet.has s.pwrGrp n && decide (4 ≤ n))) ∧
        { t with xfer := s.xfer, gatedGrp := s.gatedGrp, pwrGrp := s.pwrGrp } = s) ∧
      (s.xf kk = some x → x.ctx = c.val → x.links ≠ [] → x.stripe = none → (cause.val ∈ [3, 5, 6, 7, 8, 9, 10, 13]) →
        Unburdened { y with slots := [] } → y.slots = [sl.val] → y.live = true → y.posted = false → y.wait = .none → g < 4 →
        (∀ e ∈ s.xfer, e.1 ≠ kk → e.2.mover.isSome = true → s.wantsRead e.2 = false) →
        let st := match cause.val with | 5 => 0x21 | 6 => 0x23 | 10 => 0x22 | _ => 0x30
        ∃ t, exec (.transferFailure c sl cause 0 0) s = .next t ∧ t.xf kk = none ∧
          Ended c.val s t [{ qid := y.qid, tag := y.tag, status := st, epoch := y.epoch, residual := x.residual, auto := false,
                             ioc := y.ioc, result := 0, order := y.order }] ∧
          (s.on (Fld.xferLog.VALID g) = false → t.on (Fld.xferLog.VALID g) = true ∧ t.get (Fld.xferLog.CTX g) = c.val ∧
            t.get (Fld.xferLog.CAUSE g) = cause.val ∧ t.on (Fld.xferLog.QUEUED g) = x.mover.isNone)) ∧
      ((gate.val < 4 → (∀ e ∈ s.xfer, e.2.mover.isSome = true → e.2.group ≠ gate.val) ∧ s.xqHead (2 * gate.val) = none ∧
          s.xqHead (2 * gate.val + 1) = none) → (4 ≤ gate.val → ∀ e ∈ s.lanes, e.1 / 2 ≠ gate.val - 4) →
        exec (.groupClockGate gate) s = .next { s with gatedGrp := NSet.add s.gatedGrp gate.val })

/-- STRIPE and GATHER read their descriptor piece by piece, check it, and enter the transfer queue. -/
def Obligations.StripeAndGatherReadTheirDescriptor : Prop :=
  ∀ (h : Hdr) (m : Mem) (d : Fin 16) (gather : Bool) (s : State), Quiet s →
      let c := h.ctx.val
      let x := s.cx c
      let f := s.get (Fld.pdData.FUNC x.pdom)
      let vc := if x.cls = 0 ∧ s.on Fld.qscCtl.KING_EN then 0 else 1
      let id := s.hreqNext
      let read (a n : Nat) : Out := .hostRead id f .io false a (Nat.min n (512 - a % 512)) vc
      s.hostOk f = true → s.on Fld.hpuStat.MODE = false → s.atsOn f = false → (∀ r ∈ s.hreq, r.1 < id) → SMap.wf s.hreq noReq = true →
      (∀ e ∈ s.txn, e.2.purp ≠ .desc c) →
        (let g := x.sreg (memSreg m)
         let off := (x.areg m.a.val + m.disp).toNat
         Ready { king := true, stop := true, rd := [d.val] } h s → x.ckpts = [] → m.nsel = false → g.live = true → g.inval = false →
         g.r = true → g.kind = 0 → off + 32 ≤ g.limit → off + 32 ≤ 2 ^ 64 → x.freeSlot.isSome = true → (∀ r ∈ s.hreq, r.2.purp ≠ .desc c) →
           ∃ t, exec (if gather then .gather h m d else .stripe h m d) s = .next t ∧ t.out = read (g.base + off) 32 :: s.out ∧
             (t.cx c).regs = x.regs ∧ (t.cx c).wait = .stripe h gather g off (x.dreg d.val).toNat [] ∧ (t.hreqOf id).purp = .desc c ∧
             ∀ n, n ≠ c → t.cx n = s.cx n) ∧
        (∀ (g : Desc) (off size : Nat) (part bs : List Byte) (e : Nat × HReq), x.wait = .stripe h gather g off size part → e ∈ s.hreq →
         e.2.purp = .desc c → e.2.held = false → e.2.dead = false → e.2.n = bs.length → (∀ r ∈ s.hreq, r.2.purp = .desc c → r = e) →
         g.live = true → g.inval = false → g.r = true → g.kind = 0 →
           let all := part ++ bs
           let past : Cpc := { x.regs.cpc with off := (x.regs.cpc.off + h.len) % 2 ^ 48 }
           let b := x.sreg (sBsreg all)
           off + descLen all ≤ g.limit → off + descLen all ≤ 2 ^ 64 → (32 ≤ all.length → 1 ≤ sK all ∧ sK all ≤ 32 ∧ sK all + sM all ≤ 40) →
             (all.length < descLen all → ∃ u, exec (.hostReadCompletion e.1 (.data bs)) s = .next u ∧
               u.out = read (g.base + (off + all.length)) (descLen all - all.length) :: s.out ∧ (u.cx c).regs = x.regs ∧
               (u.cx c).wait = .stripe h gather g off size all ∧ (u.hreqOf id).purp = .desc c ∧ ∀ n, n ≠ c → u.cx n = s.cx n) ∧
             (32 ≤ all.length → all.length = descLen all → s.pendAcc c (tAcc (sTsel all)) = false → stripeFields gather all = true →
               bufCheck b (if gather then .w else .r) (sBoff all) (sK all * size) = none → s.shardPorts x.pdom gather all size = none →
               s.keyCheck x.pdom (sTsel all) = none →
               (size = 0 → ∃ v, exec (.hostReadCompletion e.1 (.data bs)) s = .next v ∧ v.out = s.out ∧ (v.cx c).wait = .none ∧
                 (v.cx c).regs = { x.regs with cpc := past, repOn := false } ∧ (v.cx c).slots = x.slots ∧ ∀ n, n ≠ c → v.cx n = s.cx n) ∧
               (∀ sl, 0 < size → stripeSizeBad (sTsel all) size = false → x.freeSlot = some sl →
                 ∃ v, exec (.hostReadCompletion e.1 (.data bs)) s = .next v ∧ v.out = s.out ∧ (v.cx c).wait = .none ∧
                 (v.cx c).regs = { x.regs with cpc := past, repOn := false } ∧ (v.cx c).slots = NSet.add x.slots sl ∧
                 (∀ n, n ≠ c → v.cx n = s.cx n) ∧
                 (v.xg (4 * c + sl)).stripe = some (gather, all) ∧ (v.xg (4 * c + sl)).tsel = sTsel all ∧
                 (v.xg (4 * c + sl)).links = [{ skip := false, src := b, sOff := sBoff all, dst := b, dOff := sBoff all, n := size }] ∧
                 SMap.get v.xq [] (clusterOf c) = SMap.get s.xq [] (clusterOf c) ++ [4 * c + sl])))

/-- BALLOC takes the newest cached buffer, else the next fresh one, waits or ends with 0x90 when none is free. -/
def Obligations.PoolAllocationResults : Prop :=
  ∀ (h : Hdr) (sr d : Fin 16) (imm : BitVec 16) (ix : Nat) (s : State), Quiet s →
      let c := h.ctx.val
      let x := s.cx c
      let p := imm.toNat
      let q := s.pl p
      let free := s.get (Fld.poolData.FREE p)
      let size := 2 ^ (12 + s.get (Fld.poolData.BUF_LOG2 p))
      let wm := s.get (Fld.poolData.LOW_WM p)
      let falls := free - 1 < wm ∧ s.get (Fld.poolData.LOW p) = 0
      (Ready {} h s → p < 4096 → s.get (Fld.poolData.EN p) = 1 → s.get (Fld.poolData.PDOM p) = x.pdom → x.ckpts = [] →
        x.regs.allocs.length < 16 → q.waiters = [] →
        (0 < free → (q.cache ≠ [] ∧ q.cache.head? = some ix ∨
            q.cache = [] ∧ q.ringTail ≤ q.ringHead ∧ ix = s.get (Fld.poolData.FRESH p) ∧ ix < s.get (Fld.poolData.NBUF p)) →
          ∃ t, exec (.balloc h sr d imm) s = .next t ∧ (∀ c', c' ≠ c → t.cx c' = s.cx c') ∧ t.out = s.out ∧
            (t.cx c).wait = .none ∧ (∀ j, (t.cx c).dreg j = if j = d.val then BitVec.ofNat 64 (ix + p * 2 ^ 32) else x.dreg j) ∧
            (∀ j, (t.cx c).sreg j = if j = sr.val then
              { live := true, kind := 2, r := true, w := true, pool := p, base := ix * size, limit := size,
                dom := x.pdom, sel := 0, handle := some (ix + p * 2 ^ 32) } else x.sreg j) ∧
            (∀ a, NSet.has (t.cx c).regs.allocs a = (NSet.has x.regs.allocs a || a == ix + p * 2 ^ 32)) ∧
            (t.cx c).regs = { x.past h with d := (t.cx c).regs.d, seg := (t.cx c).regs.seg, allocs := (t.cx c).regs.allocs } ∧
            t.get (Fld.poolData.FREE p) = free - 1 ∧ (t.pl p).cache = q.cache.tail ∧
            (q.cache = [] → t.get (Fld.poolData.FRESH p) = (ix + 1) % 2 ^ 31) ∧
            t.get (Fld.poolData.LOW p) = (if free - 1 < wm then 1 else if wm + 16 ≤ free - 1 then 0 else s.get (Fld.poolData.LOW p)) ∧
            t.get (Fld.poolData.LO_SEEN p) = (if falls then 1 else s.get (Fld.poolData.LO_SEEN p)) ∧
            (falls → s.get (Fld.poolData.LO_SEEN p) = 0 → t.get (Fld.srcStat.PEND 0x10404) = 1)) ∧
        (free = 0 → s.get (Fld.poolData.WAIT_LIMIT p) ≠ 0 → ∃ t, exec (.balloc h sr d imm) s = .next t ∧
          (t.cx c).wait = .balloc h.len sr.val d.val p ∧ (t.cx c).regs = x.regs ∧ (t.pl p) = { q with waiters := [c] } ∧
          (∀ c', c' ≠ c → t.cx c' = s.cx c') ∧ t.out = s.out) ∧
        (free = 0 → s.get (Fld.poolData.WAIT_LIMIT p) = 0 → Unburdened x → x.posted = false →
          ∃ t, exec (.balloc h sr d imm) s = .next t ∧ EndedWith c 0x90 s t ∧
            t.get (Fld.poolData.EXHAUST p) = s.more (Fld.poolData.EXHAUST p) ∧ (t.pl p).waiters = [])) ∧
      (x.wait = .balloc h.len sr.val d.val p → Unburdened x → x.posted = false → free = 0 →
        ∃ t, exec (.ballocWaitExpiry h.ctx) s = .next t ∧ EndedWith c 0x90 s t ∧
          t.get (Fld.poolData.EXHAUST p) = s.more (Fld.poolData.EXHAUST p) ∧ (t.pl p).waiters = q.waiters.filter (· != c))

/-- BFREE and BPM_HFREE return a buffer to the cache or the free ring, and a ring read refills the cache in ring order. -/
def Obligations.PoolFreesAndRefills : Prop :=
  ∀ (h : Hdr) (d : Fin 16) (pool : Fin 4096) (hd : BitVec 64) (s : State),
      let c := h.ctx.val
      let x := s.cx c
      let p := hd.toNat / 2 ^ 32 % 4096
      let ix := hd.toNat % 2 ^ 30
      let q := s.pl p
      let n := s.get (Fld.poolData.NBUF p)
      let at_ := s.get (Fld.poolData.FREE_BASE p) * 4096 + 4 * (q.ringTail % n)
      let room : Prop := q.cache.length + (if q.refill then 8 else 0) < 16
      let returned (t : State) : Prop := t.get (Fld.poolData.FREE p) = (s.get (Fld.poolData.FREE p) + 1) % 2 ^ 31 ∧
        (room → t.pl p = { q with cache := ix :: q.cache } ∧ t.out = s.out) ∧
        (¬room → t.pl p = { q with ringTail := q.ringTail + 1, ring := q.ring ++ [ix] } ∧
          t.out = .hostWrite 0 false at_ (toBytes 4 ix) :: s.out)
      (Quiet s → s.get (Fld.poolData.EN p) = 1 → ix < n → s.alreadyFree p ix = false → q.waiters = [] → s.hostOk 0 = true →
        s.on Fld.hpuStat.MODE = false → s.atsOn 0 = false → (room ∨ s.watchHits none 0 (linesOf at_ 4) = []) →
        (Ready { rd := [d.val] } h s → x.dreg d.val = hd → s.get (Fld.poolData.PDOM p) = x.pdom → x.ckpts = [] →
          ∃ t, exec (.bfree h d) s = .next t ∧ returned t ∧ (∀ c', c' ≠ c → t.cx c' = s.cx c') ∧
            (t.cx c).regs = { x.past h with seg := (t.cx c).regs.seg, allocs := NSet.del x.regs.allocs (ix + p * 2 ^ 32) } ∧
            ∀ j, (t.cx c).sreg j = if (x.sreg j).handle = some (ix + p * 2 ^ 32) then { x.sreg j with inval := true } else x.sreg j) ∧
        (∃ t, exec (.bpmHfree hd) s = .next t ∧ returned t ∧ t.ctx = s.ctx)) ∧
      ((s.get (Fld.poolData.EN p) = 0 ∨ n ≤ ix) → ∃ t, exec (.bpmHfree hd) s = .next t ∧
        t.get Fld.bpmStat.HFREE_REJ = s.more Fld.bpmStat.HFREE_REJ ∧ OnlyRegs [.bpmStat] s t) ∧
      (∀ (id : Nat) (rq : HReq) (ixs : List (BitVec 32)), s.hreq = [(id, rq)] → rq.purp = .ring pool.val → rq.held = false →
        rq.dead = false → s.on Fld.hpuStat.MODE = false → rq.n = 4 * ixs.length → ixs.map (·.toNat) = (s.pl pool.val).ring.take ixs.length →
        (s.pl pool.val).waiters = [] → (s.pl pool.val).cache = [] →
        ∃ t, exec (.freeRingRefill pool ixs) s = .next t ∧ t.ctx = s.ctx ∧ t.out = s.out ∧
          t.pl pool.val = { s.pl pool.val with cache := (ixs.map (·.toNat)).reverse, ring := (s.pl pool.val).ring.drop ixs.length,
                                               ringHead := (s.pl pool.val).ringHead + ixs.length, refill := false })

/-- Setting EN opens an empty pool with every buffer free, a bad one is rejected with its cause, and clearing EN drops what it held. -/
def Obligations.PoolsOpenAndClose : Prop :=
  ∀ (pool : Fin 4096) (cause : Nat) (s : State), Quiet s →
      let p := pool.val
      let n := s.get (Fld.poolData.NBUF p)
      let wm := s.get (Fld.poolData.LOW_WM p)
      (s.get (Fld.poolData.EN p) = 0 → s.poolReject p = none → s.poolFar p = false → ∃ t, exec (.poolEnable pool) s = .next t ∧
        t.get (Fld.poolData.EN p) = 1 ∧ t.get (Fld.poolData.FREE p) = n ∧ t.get (Fld.poolData.FRESH p) = 0 ∧
        t.get (Fld.poolData.CACHED p) = 0 ∧ t.get (Fld.poolData.EXHAUST p) = 0 ∧ t.get (Fld.poolData.NBUF p) = n ∧
        t.get Fld.bpmStat.TOTAL_BUF = (s.get Fld.bpmStat.TOTAL_BUF + n) % 2 ^ 31 ∧
        t.get Fld.bpmStat.POOLS_EN = (s.get Fld.bpmStat.POOLS_EN + 1) % 2 ^ 13 ∧ t.pl p = {} ∧ (n < wm → t.get (Fld.poolData.LOW p) = 1) ∧
        (∀ r : Reg, (r.id = .poolData → r.i ≠ p) → r.id ≠ .bpmStat → r.id ≠ .srcStat → t.reg r = s.reg r) ∧ t.ctx = s.ctx ∧ t.out = s.out ∧
        (∀ p', p' ≠ p → t.pl p' = s.pl p')) ∧
      (s.get (Fld.poolData.EN p) = 0 → s.poolReject p = some cause → ∃ t, exec (.poolEnable pool) s = .next t ∧
        t.get Fld.bpmStat.REJECT = 1 ∧ t.get Fld.bpmStat.REJ_CAUSE = cause ∧ OnlyRegs [.bpmStat] s t) ∧
      ((s.get (Fld.poolData.BACKING p) = 3 ∨ 10 < s.get (Fld.poolData.BUF_LOG2 p) ∨ n = 0 ∨ 2 ^ 30 < n) → s.poolReject p = some 4) ∧
      (s.get (Fld.poolData.EN p) = 1 → (s.pl p).waiters = [] → (∀ c, (s.cx c).ckpts = []) → SMap.wf s.ctx {} = true →
        (∀ e ∈ s.xfer, ∀ tg k m, s.nextRead e.2 = some (tg, k, m) → s.pageLacks tg = false) →
        ∃ t, exec (.poolDisable pool) s = .next t ∧ t.get (Fld.poolData.EN p) = 0 ∧
        t.get Fld.bpmStat.TOTAL_BUF = s.get Fld.bpmStat.TOTAL_BUF - n ∧ t.get Fld.bpmStat.POOLS_EN = s.get Fld.bpmStat.POOLS_EN - 1 ∧
        t.pl p = {} ∧ t.out = s.out ∧ RegsKept [.poolData, .bpmStat] s t ∧
        ∀ c, (s.cx c).live = true → (t.cx c).regs = { (s.cx c).regs with
          allocs := (s.cx c).regs.allocs.filter fun a => a / 2 ^ 32 % 4096 != p
          freesHeld := (s.cx c).regs.freesHeld.filter fun e => e.1 / 2 ^ 32 % 4096 != p })

/-- A confirmed checkpoint retires and its stores drain, a horizon or a snoop squashes it, and a squash ends in the saved state. -/
def Obligations.GambitCheckpoints : Prop :=
  ∀ (c : Fin 1024) (func : Fin 1024) (line : BitVec 51) (k : Ckpt) (s : State),
      let x := s.cx c.val
      let cl := clusterOf c.val
      let others (t : State) : Prop := ∀ c', c' ≠ c.val → t.cx c' = s.cx c'
      let gone (t : State) : Prop := (t.cx c.val).regs = k.saved ∧ (t.cx c.val).ckpts = [] ∧ (t.cx c.val).wait = k.wait ∧
        (t.cx c.val).loads = k.loads ∧ (t.cx c.val).fails = k.fails ∧ (t.cx c.val).squash = some k.outcome ∧ others t ∧
        ∀ h ∈ SMap.get t.held [] cl, h.ctx ≠ c.val
      (Quiet s → x.ckpts = [k] → x.squash = none → k.outcome = some k.predicted → k.verify = [] → x.wait = .none → x.chain = [] →
        x.regs.freesHeld = [] → SMap.get s.watch [] cl = [] →
        (SMap.get s.held [] cl = [] → ∃ t, exec (.checkpointRetire c) s = .next t ∧ (t.cx c.val).ckpts = [] ∧
          (t.cx c.val).regs = x.regs ∧ others t ∧ t.out = s.out ∧
          t.get (Fld.gbtCnt0.RETIRED cl) = (s.get (Fld.gbtCnt0.RETIRED cl) + 1) % 2 ^ 32) ∧
        (∀ f o bs ln vc sel, SMap.get s.held [] cl = [{ func := f, line := ln, bytes := (List.range bs.length).zip bs |>.map fun e => (o + e.1, e.2),
                                                        vc := vc, ctx := c.val, ckpt := 1, sel := sel }] → bs ≠ [] → o + bs.length ≤ 64 → s.hostOk f = true → s.on Fld.hpuStat.MODE = false → s.atsOn f = false →
          s.readOverlaps c.val f (ln * 64 + o) bs.length = false → (∀ w ∈ s.watch, w.2 = []) →
          ∃ t, exec (.checkpointRetire c) s = .next t ∧ (t.cx c.val).ckpts = [] ∧ (t.cx c.val).regs = x.regs ∧ others t ∧
            t.out = .hostWrite f false (ln * 64 + o) bs :: s.out ∧ SMap.get t.held [] cl = [] ∧
            t.get (Fld.gbtCnt3.DRAINED cl) = (s.get (Fld.gbtCnt3.DRAINED cl) + 1) % 2 ^ 32)) ∧
      (Quiet s → x.ckpts = [k] → k.outcome = none → k.late = false → k.predicted = .bit true → k.verify = [] → k.allocs = [] →
        (∀ h ∈ SMap.get s.held [] cl, h.ctx = c.val → h.ckpt = 1) → (∀ l a v st m, k.wait = .bit l a v st m →
          (s.bitWith c.val k.saved.bound a = v → ∃ t, exec (.horizonExpiry c) s = .next t ∧
            t.cx c.val = { x with ckpts := [{ k with outcome := some (.bit true) }] } ∧ others t ∧ t.out = s.out) ∧
          (s.bitWith c.val k.saved.bound a ≠ v → (∀ q, x.wait ≠ .balloc q q q q) → (∀ l2 sr dd q, x.wait ≠ .balloc l2 sr dd q) →
            ∃ t, exec (.horizonExpiry c) s = .next t ∧ gone t ∧
              t.get (Fld.gbtCnt1.SQ_HORIZON cl) = (s.get (Fld.gbtCnt1.SQ_HORIZON cl) + 1) % 2 ^ 32))) ∧
      (Quiet s → x.live = true → x.ckpts = [] → x.chain = [] → s.get (Fld.qctx.SUSP_REQ x.qid) = 0 → ∀ l a v st m, x.wait = .bit l a v st m →
        (x.squash = some none → ∃ t, exec (.squashComplete c) s = .next t ∧ t.cx c.val = { x with squash := none, missed := false } ∧ others t ∧ t.out = s.out) ∧
        (x.squash = some (some (.bit true)) → x.seqCount = none → ∃ t, exec (.squashComplete c) s = .next t ∧ (t.cx c.val).squash = none ∧ (t.cx c.val).wait = .none ∧
          (t.cx c.val).regs = { x.regs with cpc := { x.regs.cpc with off := (x.regs.cpc.off + l) % 2 ^ 48 }, repOn := false,
                                            cf := if st then x.regs.cf else { x.regs.cf with z := true } } ∧ others t ∧ t.out = s.out)) ∧
      (Quiet s → s.watchHits none func.val [line.toNat] = [] → ∃ t, exec (.snoop func line) s = .next t ∧
        t.out = .reply 1 [line.toNat] :: s.out ∧ t.ctx = s.ctx) ∧
      (Quiet s → x.live = true → x.ckpts = [k] → k.allocs = [] → k.wait.counted = true →
        (∀ h ∈ SMap.get s.held [] cl, h.ctx = c.val → h.ckpt = 1) → (∀ l2 sr dd q, x.wait ≠ .balloc l2 sr dd q) →
        s.watchHits none func.val [line.toNat] = [(c.val, 1)] → ∃ t, exec (.snoop func line) s = .next t ∧ gone t ∧
          t.out = .reply 1 [line.toNat] :: s.out ∧
          t.get (Fld.gbtCnt2.SQ_CONFLICT cl) = (s.get (Fld.gbtCnt2.SQ_CONFLICT cl) + 1) % 2 ^ 32)

/-- Segment invalidations empty their scope and complete; translation responses release reads; ATS invalidations drop a page and complete. -/
def Obligations.InvalidationsAndTranslationsStep : Prop :=
  (∀ (scope : Fin 4) (stop notify : Bool) (dom : Fin 4096) (sel : BitVec 16) (s : State), Quiet s →
      let inTag (d l : Nat) : Bool := match scope.val with | 0 => d == dom.val && l == sel.toNat | 1 => d == dom.val | _ => true
      let inDesc (g : Desc) : Bool := g.live && (match scope.val with
        | 0 => g.handle.isNone && g.dom == dom.val && g.sel == sel.toNat | 1 => g.dom == dom.val | _ => true)
      let mark (g : Desc) : Desc := if inDesc g then { g with inval := true } else g
      (s.inv = none → scope.val < 3 → (stop = true → ∀ e ∈ s.xfer, ∀ l ∈ e.2.links, inDesc l.src = false ∧ inDesc l.dst = false) → (∀ c, (s.cx c).ckpts = []) → SMap.wf s.ctx {} = true →
        ∃ t, exec (.invalidation scope stop notify dom sel) s = .next t ∧
          t.get Fld.invStat.BUSY = 1 ∧ t.get Fld.invStat.STOPPED = 0 ∧ t.out = s.out ∧ RegsKept [.invCmd, .invStat] s t ∧
          t.segCache = s.segCache.filter (fun e => !inTag (e.1 / 65536) (e.1 % 65536)) ∧
          (∀ c, (s.cx c).live = true → (∀ j, (t.cx c).sreg j = mark ((s.cx c).sreg j)) ∧
            (t.cx c).regs = { (s.cx c).regs with
              seg := (t.cx c).regs.seg
              cpc := { (s.cx c).regs.cpc with seg := mark (s.cx c).regs.cpc.seg }
              stack := (s.cx c).regs.stack.map fun p => { p with seg := mark p.seg } }) ∧
          (∀ c, (s.cx c).live = false → t.cx c = s.cx c) ∧
          (∀ scope' stop' notify' dom' sel', ∃ u, exec (.invalidation scope' stop' notify' dom' sel') t = .next u ∧
            u.get Fld.invStat.REJECTED = 1 ∧ OnlyRegs [.invStat] t u) ∧
          ((∀ e ∈ s.xfer, ∀ l ∈ e.2.links, inDesc l.src = false ∧ inDesc l.dst = false) →
            (∀ e ∈ s.hreq, stop = true ∧ e.2.purp.isGone = true ∨ inDesc e.2.seg = false) →
            (∀ e ∈ s.txn, stop = true ∧ e.2.purp.isGone = true ∨ inDesc e.2.seg = false) →
            (∀ e ∈ s.ctx, ∀ h m f p l, e.2.wait ≠ .xlate h m f p l) →
            ∃ u, exec .invalidationComplete t = .next u ∧ u.get Fld.invStat.BUSY = 0 ∧ u.get Fld.invStat.DONE = 1 ∧ u.inv = none ∧
              u.ctx = t.ctx ∧ u.out = t.out ∧ (notify = true → u.get (Fld.srcStat.PEND 0x10403) = 1))) ∧
      (s.inv = none → scope.val = 3 → ∃ t, exec (.invalidation scope stop notify dom sel) s = .next t ∧
        t.get Fld.invStat.REJECTED = 1 ∧ OnlyRegs [.invStat] s t)) ∧
  (∀ (func : Fin 1024) (page phys : BitVec 45) (size : Fin 46) (id : Nat) (r : HReq) (s : State),
      let key := func.val * 2 ^ 45 + page.toNat
      let n := 2 ^ size.val
      (NSet.has s.atsPend key = false → exec (.translationResponse func page (some (phys, size))) s = .next s) ∧
      (Quiet s → NSet.has s.atsPend key = true → s.hreq = [(id, r)] → r.held = true → r.purp.isGone = false → r.purp.ofPeer = false →
        r.func = func.val → 0 < r.n → r.addr / 4096 / n = page.toNat / n → (r.addr + r.n - 1) / 4096 / n = page.toNat / n → s.xfer = [] →
        (∀ c h m f p l, (s.cx c).wait ≠ .xlate h m f p l) → s.hostOk func.val = true → s.on Fld.hpuStat.MODE = false →
        s.atsOn func.val = true → (r.op ≠ .io → s.on Fld.hpuStat.CACHE_EN = true) →
        ∃ t, exec (.translationResponse func page (some (phys, size))) s = .next t ∧
          t.atc = { func := func.val, page := page.toNat, log2 := size.val, phys := phys.toNat } :: s.atc ∧ NSet.has t.atsPend key = false ∧
          t.out = .hostRead id func.val r.op true ((phys.toNat / n * n + r.addr / 4096 % n) * 4096 + r.addr % 4096) r.n r.vc :: s.out ∧
          t.ctx = s.ctx ∧ t.hreq = [(id, { r with held := false })]) ∧
      (∃ t, exec (.atsInvalidation func (page, size)) s = .next t ∧ (func.val, page.toNat, size.val) ∈ t.atsInv ∧
        { t with atc := s.atc, atsInv := s.atsInv } = s ∧
        (∀ a, a ∈ t.atc ↔ a ∈ s.atc ∧ (a.func ≠ func.val ∨
          a.page / 2 ^ Nat.max a.log2 size.val ≠ page.toNat / 2 ^ Nat.max a.log2 size.val)) ∧
        ((∀ z ∈ t.atsInv, z.1 = func.val → z.2.1 = page.toNat → s.atsUsed z = false) →
          ∃ u, exec (.atsInvalidationComplete func page) t = .next u ∧ u.out = .atsDone func.val page.toNat :: s.out ∧
            (∀ k, (func.val, page.toNat, k) ∉ u.atsInv) ∧ { u with out := t.out, atsInv := t.atsInv } = t)))

/-- The King pipe and the general pipe dispatch an eligible queue to its slot context or to the lowest free context and read its entry. -/
def Obligations.DispatchDecisions : Prop :=
  ∀ s : State, Quiet s → s.on Fld.hpuStat.LINK_UP = true → s.on Fld.hpuStat.MODE = false → s.on Fld.hpuStat.CACHE_EN = true →
    s.atsEn = [] → NSet.has s.masked 10 = false → NSet.has s.masked 11 = false →
      let dispatched (t : State) (q c : Nat) (slot : Option Nat) : Prop :=
        let ix := s.get (Fld.qctx.SQ_HEAD q)
        let lim := s.get (Fld.qctx.CLOCK_LIMIT q)
        let f := s.get (Fld.grp.FUNC (q / 16))
        t.cx c = { live := true, fresh := true, gambit := s.on (Fld.qctx.GAMBIT_EN q), qid := q, epoch := s.get Fld.cfsStat.EPOCH, func := f, pdom := s.get (Fld.qctx.PDOM q),
                   cls := s.get (Fld.qctx.CLASS q), kingSlot := slot, order := s.order, sqIdx := ix,
                   clock := if lim = 0 then none else some (lim * 1024), wait := .entry } ∧
        (∀ c', c' ≠ c → t.cx c' = s.cx c') ∧
        t.get (Fld.qctx.SQ_HEAD q) = (ix + 1) % 2 ^ s.get (Fld.qctx.SQ_LOG2 q) % 2 ^ 20 ∧
        t.get (Fld.qctx.IN_FLIGHT q) = (s.get (Fld.qctx.IN_FLIGHT q) + 1) % 2 ^ 5 ∧
        t.out = .hostRead s.hreqNext f .rdCurr false (s.get (Fld.qctx.SQ_BASE q) * 4096 + ix * 64) 64
          (if s.get (Fld.qctx.CLASS q) = 0 ∧ s.on Fld.qscCtl.KING_EN then 0 else 1) :: s.out
      let king (q : Nat) : Prop := q ∈ s.enabledQueues ∧ s.qEligible q = true ∧ s.get (Fld.qctx.CLASS q) = 0
      let general (q : Nat) : Prop := q ∈ s.enabledQueues ∧ s.qEligible q = true ∧
        (s.get (Fld.qctx.CLASS q) ≠ 0 ∨ s.on Fld.qscCtl.KING_EN = false)
      (s.on Fld.qscCtl.KING_EN = true → (∃ q, king q) → (∀ q, king q → s.freeSlots (s.get (Fld.grp.FUNC (q / 16))) ≠ []) →
        (s.ar { kind := akKing }).quotaMask = false →
        ∃ t q k, exec .kingPipeDecision s = .next t ∧ king q ∧
          (s.freeSlots (s.get (Fld.grp.FUNC (q / 16)))).head? = some k ∧ k < 128 ∧
          dispatched t q (k / 16 * 128 + (14 + k / 8 % 2) * 8 + k % 8) (some k)) ∧
      ((∃ q, general q) → (∃ cl, cl < 8 ∧ (s.generalCtx cl).isSome = true) →
        ∃ t q cl c, exec .generalPipeDecision s = .next t ∧ general q ∧ cl < 8 ∧ s.generalCtx cl = some c ∧ dispatched t q c none)

/-- An arbiter grants its high-priority requester within quota, else the most remaining credit in rotation; windows reload, commits activate. -/
def Obligations.ArbitersGrantByRemainingCredit : Prop :=
  ∀ (a : ArbId) (reqs : List Nat) (beats : Nat) (g : WinId) (d : Fin 4) (s : State),
      let n := arbN a
      let x := s.ar a
      let wins (r : Nat) : Prop := r < n ∧ ∃ q ∈ reqs, q % 65536 = r
      let hp (r : Nat) : Prop :=
        if a.kind = akKing ∨ a.kind = akPath ∨ a.kind = akFxbVc then r = 0
        else if a.kind = akEngine then (s.cx (a.i * 8 + r)).fresh = true
        else (a.kind = akPort ∨ a.kind = akTag ∨ a.kind = akEic) ∧ 65536 + r ∈ reqs
      let cost := if a.kind = akFxbIn ∨ a.kind = akFxbVc then Nat.max 1 beats else 1
      let cnt (r : Nat) : Nat := s.arbW a r - SMap.get x.spent 0 r
      let charged (t : State) (w : Nat) : Prop := ∀ r, SMap.get (t.ar a).spent 0 r =
        if r = w then Nat.min (s.arbW a w) (SMap.get x.spent 0 w + cost) else SMap.get x.spent 0 r
      let granted (t : State) (w : Nat) : Prop := t.out = .grant a w :: s.out ∧
        (∀ c, t.cx c = if a.kind = akEngine ∧ c = a.i * 8 + w then { s.cx c with fresh := false } else s.cx c) ∧
        (∀ b, b ≠ a → t.ar b = s.ar b) ∧ { t with arb := s.arb, out := s.out, ctx := s.ctx } = s
      ((∀ r, wins r → s.isMasked a r = false) → SMap.wf x.spent 0 = true → AMap.wf ArbId.lt (fun _ => {}) s.arb = true →
        (∀ o, s.arbOwner a = some o → x.quotaMask = false →
          (wins o → ∃ t, exec (.arbiterDecision a reqs beats) s = .next t ∧ granted t o ∧ charged t o ∧
            (t.ar a).ptr = x.ptr ∧ (t.ar a).hpUsed = x.hpUsed) ∧
          (¬wins o → exec (.arbiterDecision a reqs beats) s = .next s)) ∧
        (s.arbOwner a = none →
          ((∃ r, wins r ∧ hp r) → x.quotaMask = false → ∃ t w, exec (.arbiterDecision a reqs beats) s = .next t ∧ wins w ∧ hp w ∧
            granted t w ∧ (t.ar a).hpUsed = x.hpUsed + cost ∧ (t.ar a).hpPtr = (w + 1) % n ∧ (t.ar a).spent = x.spent ∧
            (t.ar a).ptr = x.ptr ∧ (∀ q, s.arbQuota a = some q → (t.ar a).quotaMask = decide (q ≤ x.hpUsed + cost))) ∧
          ((∃ r, wins r ∧ ¬hp r) → (∀ r, wins r → hp r → x.quotaMask = true) →
            ∃ t w, exec (.arbiterDecision a reqs beats) s = .next t ∧ wins w ∧ ¬hp w ∧ granted t w ∧ charged t w ∧
            (∀ r, wins r → ¬hp r → cnt r ≤ cnt w) ∧
            (∀ r, wins r → ¬hp r → cnt r = cnt w → if x.ptr ≤ w then r < x.ptr ∨ w ≤ r else r < x.ptr ∧ w ≤ r) ∧
            (t.ar a).ptr = (w + 1) % n ∧ (t.ar a).hpUsed = x.hpUsed) ∧
          ((∀ r, wins r → hp r ∧ x.quotaMask = true) → exec (.arbiterDecision a reqs beats) s = .next s))) ∧
      (AMap.wf ArbId.lt (fun _ => {}) s.arb = true →
        let reloaded (t : State) : Prop :=
          ∀ b, t.ar b = if WinIdHas g b then { s.ar b with spent := [], hpUsed := 0, quotaMask := false } else s.ar b
        ((g ≠ .qsc ∨ s.swapAt = none) → ∃ t, exec (.arbiterWindowStart g) s = .next t ∧ reloaded t ∧ { t with arb := s.arb } = s) ∧
        (∀ t0, g = .qsc → s.swapAt = some t0 → s.fclk < t0 + 2 →
          ∃ t, exec (.arbiterWindowStart g) s = .next t ∧ reloaded t ∧ { t with arb := s.arb } = s) ∧
        (∀ t0, Quiet s → g = .qsc → s.swapAt = some t0 → t0 + 2 ≤ s.fclk → ∃ t, exec (.arbiterWindowStart g) s = .next t ∧ reloaded t ∧
          (∀ k, k < 128 → t.reg ⟨.kstActive, k, 0⟩ = s.reg ⟨.kstShadow, k, 0⟩) ∧ t.get Fld.kstCtl.SWAP = 0 ∧
          OnlyRegs [.kstActive, .kstCtl] { s with arb := t.arb, waking := t.waking, swapAt := none } t)) ∧
      (∃ t, exec .kstSwap s = .next t ∧ t.get Fld.kstCtl.SWAP = 1 ∧ t.swapAt = some (s.swapAt.getD s.fclk) ∧
        OnlyRegs [.kstCtl] { s with swapAt := t.swapAt } t) ∧
      (8 ≤ s.get Fld.qscCtl.WIN_LOG2 → s.get Fld.qscCtl.WIN_LOG2 ≤ 16 → s.get Fld.kingQuota.QUOTA ≠ 0 →
        ∃ t, exec .qscCommit s = .next t ∧ { t with act := s.act, arb := s.arb } = s ∧
          t.getA Fld.qscCtl.WIN_LOG2 = s.get Fld.qscCtl.WIN_LOG2 ∧ t.getA Fld.kingQuota.QUOTA = s.get Fld.kingQuota.QUOTA ∧
          t.getA Fld.clsW.W_KING = s.get Fld.clsW.W_KING ∧ t.getA Fld.clsW.W_KNIGHT = s.get Fld.clsW.W_KNIGHT ∧
          t.getA Fld.clsW.W_BISHOP = s.get Fld.clsW.W_BISHOP ∧ t.getA Fld.clsW.W_PAWN = s.get Fld.clsW.W_PAWN ∧
          (∀ cl, cl < 8 → t.actByte .cluW 0 0 cl = s.regByte .cluW 0 0 cl) ∧
          (∀ q b, q < 4096 → b < 16 → t.actByte .qwData q (b / 8) (b % 8) = s.regByte .qwData q (b / 8) (b % 8))) ∧
      (6 ≤ s.get Fld.fxbCtl.WIN_LOG2 → s.get Fld.fxbCtl.WIN_LOG2 ≤ 14 → ∃ t, exec .fxbCommit s = .next t ∧
        { t with act := s.act, arb := s.arb } = s ∧ t.getA Fld.fxbVc.W_VC1 = s.get Fld.fxbVc.W_VC1 ∧
          t.getA Fld.fxbVc.W_VC2 = s.get Fld.fxbVc.W_VC2 ∧ t.getA Fld.fxbVc.W_VC3 = s.get Fld.fxbVc.W_VC3 ∧
          t.getA Fld.fxbVc.VC0_QUOTA = s.get Fld.fxbVc.VC0_QUOTA ∧ t.getA Fld.fxbCtl.WIN_LOG2 = s.get Fld.fxbCtl.WIN_LOG2) ∧
      (6 ≤ s.get Fld.eicCtl.WIN_LOG2 → s.get Fld.eicCtl.WIN_LOG2 ≤ 14 → ∃ t, exec .eicCommit s = .next t ∧
        { t with act := s.act, arb := s.arb } = s ∧ t.getA Fld.eicCtl.WIN_LOG2 = s.get Fld.eicCtl.WIN_LOG2 ∧
          t.getA Fld.eicCtl.HPQ = s.get Fld.eicCtl.HPQ) ∧
      (6 ≤ s.get (Fld.dmgCtl.WIN_LOG2 d.val) → s.get (Fld.dmgCtl.WIN_LOG2 d.val) ≤ 14 → ∃ t, exec (.dmgCommit d) s = .next t ∧
        { t with act := s.act, arb := s.arb } = s ∧ t.getA (Fld.dmgCtl.WIN_LOG2 d.val) = s.get (Fld.dmgCtl.WIN_LOG2 d.val) ∧
        t.getA (Fld.dmgCtl.SPILL d.val) = s.get (Fld.dmgCtl.SPILL d.val) ∧
        ∀ cl, cl < 8 → t.actByte .dmgCw d.val 0 cl = s.regByte .dmgCw d.val 0 cl)

/-- A cycle that two consecutive scans find costs its victim the program with 0x71, its bits are free, and the stalemate is recorded. -/
def Obligations.StalematesAreBrokenOnTheSecondScan : Prop :=
  ∀ (cluster : Fin 8) (l : List (Nat × Nat)) (s : State), Quiet s → s.on (Fld.pgmCtl.STALE_EN cluster.val) = true →
      let cl := cluster.val
      s.cycles cl = [l] →
      (SMap.get s.staleSeen [] cl = [] → ∃ t, exec (.stalemateScan cluster) s = .next t ∧ SMap.get t.staleSeen [] cl = l ∧
        OnlyRegs [] { s with staleSeen := t.staleSeen } t) ∧
      (SMap.get s.staleSeen [] cl = l → (∀ e ∈ l, Unburdened (s.cx e.1) ∧ (s.cx e.1).posted = false) →
        ∃ t v, exec (.stalemateScan cluster) s = .next t ∧ v ∈ l ∧ t.cx v.1 = {} ∧ SMap.get t.staleSeen [] cl = [] ∧
          (∀ e ∈ l, e.1 = v.1 ∨ (s.cx e.1).cls < (s.cx v.1).cls ∨ ((s.cx e.1).cls = (s.cx v.1).cls ∧
            ((s.cx e.1).order < (s.cx v.1).order ∨ ((s.cx e.1).order = (s.cx v.1).order ∧ e.1 < v.1)))) ∧
          (let x := s.cx v.1
           t.cpl = s.cpl ++ [{ qid := x.qid, tag := x.tag, status := 0x71, epoch := x.epoch, residual := s.residualOf v.1,
                               auto := false, ioc := x.ioc, result := 0, order := x.order }]) ∧
          (∀ b, b < 4096 → (t.semBit cl b).owner ≠ some v.1) ∧
          t.get (Fld.pgmStat.STALE_VICTIMS cl) = s.more (Fld.pgmStat.STALE_VICTIMS cl) ∧
          (s.on (Fld.staleLog.VALID cl) = false → t.on (Fld.staleLog.VALID cl) = true ∧ t.get (Fld.staleLog.VICTIM cl) = v.1 % 2 ^ 10 ∧
            t.get (Fld.staleLog.BIT cl) = v.2 % 2 ^ (Fld.staleLog.BIT cl).w ∧ t.get (Fld.staleLog.LENGTH cl) = l.length % 2 ^ (Fld.staleLog.LENGTH cl).w))

/-- A doorbell of the owning function for an enabled queue sets the named indices and STATE follows; the others are discarded and counted. -/
def Obligations.DoorbellsMoveTheRingIndices : Prop :=
  ∀ (func : Fin 1024) (qid : BitVec 16) (val : BitVec 64) (s : State), Quiet s →
      let q := qid.toNat
      let v := val.toNat
      let tail := v % 2 ^ 20
      let head := v / 2 ^ 32 % 2 ^ 20
      let n := 2 ^ s.get (Fld.qctx.CQ_LOG2 q)
      let owned := s.on (Fld.grp.ASSIGNED (q / 16)) = true ∧ s.get (Fld.grp.FUNC (q / 16)) = func.val
      let awake (t : State) : Prop := t.get Fld.pcmStat.DSTATE = if s.get Fld.pcmStat.DSTATE = 1 then 0 else s.get Fld.pcmStat.DSTATE
      let off : Prop := s.reaches (ownAcc func) = false
      (off → exec (.doorbell func qid val) s = .next s) ∧
      (¬off → ¬owned → ∃ t, exec (.doorbell func qid val) s = .next t ∧ t.get Fld.qmuStat.DB_FOREIGN = s.more Fld.qmuStat.DB_FOREIGN ∧
        awake t ∧ OnlyRegs [.qmuStat, .pcmStat, .srcStat] s t) ∧
      (¬off → owned → (s.get (Fld.qctx.STATE q) = 0 ∨ s.get (Fld.qctx.STATE q) = 6) →
        ∃ t, exec (.doorbell func qid val) s = .next t ∧ t.get (Fld.qctx.DB_DROPPED q) = s.more (Fld.qctx.DB_DROPPED q) ∧
          (∀ f : Field, f.reg.id = .qctx → f.reg ≠ (Fld.qctx.DB_DROPPED q).reg → t.get f = s.get f) ∧
          t.get (Fld.qctx.COMPLETIONS q) = s.get (Fld.qctx.COMPLETIONS q) ∧
          awake t ∧ OnlyRegs [.qctx, .pcmStat, .srcStat] s t) ∧
      (¬off → owned → 1 ≤ s.get (Fld.qctx.STATE q) → s.get (Fld.qctx.STATE q) ≤ 5 →
        v / 2 ^ 21 % 2 ^ 11 = 0 → v / 2 ^ 53 = 0 → v.testBit 20 = false → v.testBit 52 = false → exec (.doorbell func qid val) s = .next s) ∧
      (¬off → owned → 1 ≤ s.get (Fld.qctx.STATE q) → s.get (Fld.qctx.STATE q) ≤ 5 → (v.testBit 20 || v.testBit 52) = true →
        (v.testBit 20 = true → tail < 2 ^ s.get (Fld.qctx.SQ_LOG2 q)) →
        (v.testBit 52 = true → head < n ∧ (s.get (Fld.qctx.CQ_TAIL q) + n - head) % n ≤ s.cqUsed q) → v / 2 ^ 21 % 2 ^ 11 = 0 → v / 2 ^ 53 = 0 →
        ∃ t, exec (.doorbell func qid val) s = .next t ∧
          t.get (Fld.qctx.SQ_TAIL q) = (if v.testBit 20 then tail else s.get (Fld.qctx.SQ_TAIL q)) ∧
          t.get (Fld.qctx.CQ_HEAD q) = (if v.testBit 52 then head else s.get (Fld.qctx.CQ_HEAD q)) ∧
          (s.get (Fld.qctx.STATE q) ≤ 3 → s.get (Fld.qctx.SUSP_REQ q) = 0 →
            t.get (Fld.qctx.STATE q) = if 0 < s.get (Fld.qctx.IN_FLIGHT q) then 3 else if 0 < t.sqPending q then 2 else 1) ∧
          (s.get (Fld.qctx.STATE q) = 4 → s.get (Fld.qctx.SUSP_REQ q) = 1 → t.get (Fld.qctx.STATE q) = 4) ∧
          (s.get (Fld.qctx.STATE q) = 5 → 0 < s.get (Fld.qctx.IN_FLIGHT q) → t.get (Fld.qctx.STATE q) = 5) ∧
          (∀ f : Field, f.reg.id = .qctx → f.reg ≠ (Fld.qctx.SQ_TAIL q).reg → f.reg ≠ (Fld.qctx.CQ_HEAD q).reg →
            f.reg ≠ (Fld.qctx.STATE q).reg → t.get f = s.get f) ∧
          t.get (Fld.qctx.SQ_HEAD q) = s.get (Fld.qctx.SQ_HEAD q) ∧ t.get (Fld.qctx.CQ_TAIL q) = s.get (Fld.qctx.CQ_TAIL q) ∧
          t.get (Fld.qctx.CQ_PHASE q) = s.get (Fld.qctx.CQ_PHASE q) ∧ t.get (Fld.qctx.IN_FLIGHT q) = s.get (Fld.qctx.IN_FLIGHT q) ∧
          awake t ∧ OnlyRegs [.qctx, .pcmStat, .srcStat] { s with qdyn := t.qdyn, waking := t.waking } t)

/-- An entry starts its program with its parameters; completion entries go to the ring as laid out; a ring failure puts the queue in Error. -/
def Obligations.QueuesExchangeEntriesWithTheHost : Prop :=
  ∀ s : State, Quiet s →
      (∀ (c : Fin 1024) (e : Entry) (id : Nat) (r : HReq) (g : Desc), s.hreq.find? (fun r => r.2.purp == .entry c.val) = some (id, r) →
        r.held = false → r.dead = false → (s.cx c.val).live = true → e.w1.toNat / 2 ^ 21 = 0 →
        let x := s.cx c.val
        let sel := e.w0.toNat % 2 ^ 16
        let off := e.w0.toNat / 2 ^ 16
        let co := e.w1.toNat / 2 ^ 18 % 4
        s.selOk c.val sel = true → (∀ o ∈ s.pdOld, o.dom ≠ x.pdom) → s.segCache.find? (fun k => k.1 == segKey x.pdom sel) = some (segKey x.pdom sel, g) → g.x = true → off < g.limit →
        ∃ t, exec (.entryReturn c e) s = .next t ∧
          t.cx c.val = { ([(0, e.p0), (1, e.p1), (2, e.p2), (3, e.p3), (4, e.p4), (5, e.p5)].foldl (fun (y : Ctx) k => y.putD k.1 k.2) x) with
                         tag := e.w1.toNat % 2 ^ 16, ioc := e.w1.toNat.testBit 16, ga := e.w1.toNat.testBit 17,
                         cls := if e.w1.toNat.testBit 20 then Nat.max co x.cls else x.cls, started := true, wait := .none,
                         regs := { ([(0, e.p0), (1, e.p1), (2, e.p2), (3, e.p3), (4, e.p4), (5, e.p5)].foldl (fun (y : Ctx) k => y.putD k.1 k.2) x).regs with
                                   cpc := { sel := sel, off := off, seg := g } } } ∧
          (∀ c', c' ≠ c.val → t.cx c' = s.cx c') ∧ t.out = s.out ∧ t.cpl = s.cpl ∧ SMap.get t.hreq noReq id = noReq) ∧
      (∀ (qid : BitVec 16) (e : Cpl),
        let q := qid.toNat
        let n := 2 ^ s.get (Fld.qctx.CQ_LOG2 q)
        let tl := s.get (Fld.qctx.CQ_TAIL q)
        let f := s.get (Fld.grp.FUNC (q / 16))
        let a := s.get (Fld.qctx.CQ_BASE q) * 4096 + tl * 32
        let reuse := ((s.qd q).reads.head?).getD (s.get (Fld.qctx.SQ_HEAD q))
        s.cpl.find? (fun e => e.qid == q) = some e → s.hostOk f = true → s.on Fld.hpuStat.MODE = false → s.translated f a = true → s.watchHits none f (linesOf a 32) = [] →
        s.get (Fld.qctx.CQ_LOG2 q) ≤ 20 →
        ∃ t, exec (.completionWrite qid) s = .next t ∧
          t.out = .hostWrite f (s.hostAddr f a).1 (s.hostAddr f a).2 (toBytes 2 e.tag ++ toBytes 1 e.status ++ toBytes 1 e.epoch ++ toBytes 5 e.residual ++
            toBytes 1 (s.get (Fld.qctx.CQ_PHASE q) + if e.auto then 2 else 0) ++ toBytes 2 0 ++ toBytes 4 reuse ++ toBytes 4 s.time ++
            toBytes 4 0 ++ toBytes 8 (if e.auto then 0 else e.result.toNat)) :: s.out ∧
          t.get (Fld.qctx.CQ_TAIL q) = (tl + 1) % n ∧
          t.get (Fld.qctx.CQ_PHASE q) = (if (tl + 1) % n = 0 then 1 - s.get (Fld.qctx.CQ_PHASE q) else s.get (Fld.qctx.CQ_PHASE q)) ∧
          t.get (Fld.qctx.LAST_EPOCH q) = e.epoch % 2 ^ 8 ∧ t.get (Fld.qctx.COMPLETIONS q) = (s.get (Fld.qctx.COMPLETIONS q) + 1) % 2 ^ 32 ∧
          t.cpl = dropFirst q s.cpl ∧ t.ctx = s.ctx ∧
          (e.ioc = true → t.on (Fld.srcStat.PEND q) = true ∧ t.get (Fld.srcStat.CNT q) = s.more (Fld.srcStat.CNT q)) ∧
          (e.ioc = false → t.reg (Fld.srcStat.CNT q).reg = s.reg (Fld.srcStat.CNT q).reg) ∧
          OnlyRegs [.qctx, .srcStat] { s with out := t.out, cpl := t.cpl, qdyn := t.qdyn, waking := t.waking } t) ∧
      (∀ (qid : BitVec 16) (cause : Fin 16) (addr : BitVec 57),
        let q := qid.toNat
        1 ≤ cause.val → cause.val ≤ 4 → 1 ≤ s.get (Fld.qctx.STATE q) → s.get (Fld.qctx.STATE q) ≤ 5 → (s.qd q).stopping ≠ stopReset →
        (∀ c, (s.cx c).live = true → (s.cx c).qid = q → Unburdened (s.cx c)) →
        ∃ t, exec (.ringAccessFailure qid cause addr none) s = .next t ∧ t.get (Fld.qctx.STATE q) = 6 ∧
          t.get (Fld.qctx.ERR_CAUSE q) = cause.val ∧ t.get (Fld.qctx.ERR_ADDR q) = addr.toNat ∧
          t.on (Fld.srcStat.PEND 0x10401) = true ∧ t.get (Fld.srcStat.CNT 0x10401) = s.more (Fld.srcStat.CNT 0x10401) ∧
          (∀ c, (s.cx c).live = true → (s.cx c).qid = q → t.cx c = {}) ∧ (∀ c, (s.cx c).live = true → (s.cx c).qid ≠ q → t.cx c = s.cx c) ∧
          t.cpl = s.cpl.filter (fun e => e.qid != q) ∧ t.out = s.out ∧
          ∀ f : Field, f.reg.id = .qctx → f.reg.i ≠ q → t.get f = s.get f)

/-- A write of a register changes each field by its type; a locked expert window reads 0, takes no write and counts both. -/
def Obligations.RegisterWritesFollowTheFieldTypes : Prop :=
  ∀ (acc : Accessor) (off bytes : Nat) (val : BitVec 64) (r : Reg) (s : State), Quiet s →
      (acc = .firmware ∨ acc = .pf) → s.reaches acc = true → 33554432 ≤ off → off + bytes ≤ 37748736 →
      (bytes = 4 ∨ bytes = 8) → off % bytes = 0 →
      let at_ := 8 * (off % 8)
      let inside (f : FieldRow) : Prop := at_ ≤ f.lo ∧ f.lo + f.w ≤ at_ + 8 * bytes
      let given (f : FieldRow) : Nat := val.toNat / 2 ^ (f.lo - at_) % 2 ^ f.w
      let fld (f : FieldRow) : Field := ⟨r, f.lo, f.w⟩
      (s.place (off / 8 * 8) = some r →
        r.id ∈ [RegId.clsW, .cluW, .qwData, .kingQuota, .fxbCtl, .fxbVc, .kstShadow, .gbtCtl, .hpuPeer, .spmAper, .dmgCtl, .dmgCw, .segvLog, .ownLog,
          .staleLog, .srcLog, .lockbrk, .extLog, .eccLog, .ptrLog, .pluErr, .hpcErr] →
        (acc = .pf → s.on Fld.glbExpert.UNLOCKED = true ∧ s.get Fld.cfsStat.STATE < 2 ∧ (∀ b, s.fwHolds b = false) ∧ s.deferred = []) → (is32 r.id = true → off % 8 = 0 ∧ bytes = 4) →
        (reservedSet r (accMask off bytes) (accVal off bytes val.toNat) = false →
          ∃ t, exec (.registerWrite acc off bytes val) s = .next t ∧
            (∀ f ∈ rowsOf r, inside f → (f.ty = .rw ∨ f.ty = .rwc ∨ f.ty = .rwi) → t.get (fld f) = given f) ∧
            (∀ f ∈ rowsOf r, inside f → f.ty = .w1c → f.w = 1 → t.get (fld f) = if given f = 1 then 0 else s.get (fld f)) ∧
            (∀ f ∈ rowsOf r, (f.ty = .ro ∨ f.lo + f.w ≤ at_ ∨ at_ + 8 * bytes ≤ f.lo) → t.get (fld f) = s.get (fld f)) ∧
            (∀ r', r' ≠ r → r'.id ≠ .kingStat → (r'.id = .srcStat → r'.i ≠ 0x10402 ∧ r'.i ≠ 0x10407) → t.reg r' = s.reg r') ∧
            t.besides = s.besides) ∧
        (s.viewReg r = s.reg r → (∀ f ∈ rowsOf r, f.ty ≠ .wo) → (s.reg r).toNat = maskBits (s.reg r).toNat (maskOf r fun _ => true) →
          exec (.expertWindowRead acc off bytes) s =
            .next { s with out := .rdata off ((s.reg r).toNat / 2 ^ at_ % 2 ^ (8 * bytes)) :: s.out })) ∧
      (acc = .pf → s.on Fld.glbExpert.UNLOCKED = false →
        (∃ t, exec (.registerWrite acc off bytes val) s = .next t ∧ t.get Fld.glbExpert.DENIED = s.more Fld.glbExpert.DENIED ∧
          { t with regs := s.regs } = s ∧ ∀ r', r' ≠ Fld.glbExpert.DENIED.reg → t.reg r' = s.reg r') ∧
        (∃ t, exec (.expertWindowRead acc off bytes) s = .next t ∧ t.get Fld.glbExpert.DENIED = s.more Fld.glbExpert.DENIED ∧
          { t with regs := s.regs, out := s.out } = s ∧ t.out = .rdata off 0 :: s.out ∧
          ∀ r', r' ≠ Fld.glbExpert.DENIED.reg → t.reg r' = s.reg r'))

/-- A read of a reserved BAR0 offset answers 0, a write there changes nothing, and neither raises a fault. -/
def Obligations.ReservedOffsetsReadZero : Prop :=
  ∀ (acc : Accessor) (off bytes : Nat) (val : BitVec 64) (s : State),
      (acc = .firmware ∨ acc = .pf) → s.reaches acc = true → 1 ≤ bytes → bytes ≤ 8 →
      (off + bytes ≤ 0x7000 ∨ (0x7100 ≤ off ∧ off + bytes ≤ 0x8000) ∨ (0x10000 ≤ off ∧ off + bytes ≤ 0x01000000) ∨
        (0x02000000 ≤ off ∧ off + bytes ≤ 0x03000000)) →
      (∀ w, off / 8 ≤ w → w ≤ (off + bytes - 1) / 8 → s.barHas (w * 8) = false) →
      (acc = .pf → 0x02000000 ≤ off → s.on Fld.glbExpert.UNLOCKED = true) →
      exec (.expertWindowRead acc off bytes) s = .next { s with out := .rdata off 0 :: s.out } ∧
        exec (.registerWrite acc off bytes val) s = .next s

/-- ENABLE, DRAIN, DRAIN_ABORT, SUSPEND, RESUME and RESET do what the table of queue commands says, or are rejected with its result. -/
def Obligations.QueueCommandsChangeState : Prop :=
  (∀ (qid : BitVec 16) (notify : Bool) (s : State), s.qctlBusy = true →
      ∀ i ∈ [Instr.enableQ qid notify, .drainQ qid notify, .drainAbort qid notify, .suspend qid notify, .resume qid notify, .resetQ qid notify],
      ∃ t, exec i s = .next t ∧ t.get Fld.qctl.RESULT = 1 ∧ t.get Fld.qctl.QID = s.get Fld.qctl.QID ∧ t.get Fld.qmuStat.REJECTED = 1 ∧
        { t with regs := s.regs } = s ∧ ∀ g : Reg, g.id ≠ .qctl → g.id ≠ .qmuStat → t.reg g = s.reg g) ∧
  ∀ (qid : BitVec 16) (notify : Bool) (s : State), Quiet s → s.qctlBusy = false →
      let q := qid.toNat
      let st := s.get (Fld.qctx.STATE q)
      let n := (if notify then 1 else 0 : Nat)
      let live (c : Nat) : Prop := (s.cx c).live = true ∧ (s.cx c).qid = q
      let shown (t : State) (r : Nat) : Prop := t.get Fld.qctl.QID = q ∧ t.get Fld.qctl.NOTIFY = n ∧ t.get Fld.qctl.RESULT = r ∧ t.qctlUntil ≤ s.fclk + 64
      let refused (c : Instr) (r : Nat) : Prop := ∃ t, exec c s = .next t ∧ shown t r ∧ t.on Fld.qmuStat.REJECTED = true ∧
        { t with regs := s.regs, qctlUntil := s.qctlUntil, freeCnt := s.freeCnt } = s ∧ ∀ g : Reg, g.id ≠ .qctl → g.id ≠ .qmuStat → t.reg g = s.reg g
      let waits (c : Nat) : Prop := (s.cx c).wait = .none ∨ ∃ ln b v sp tm, (s.cx c).wait = .bit ln b v sp tm ∧ (s.bitBarred c b false = false ∨ (s.cx c).parked = false)
      let others (t : State) : Prop := ∀ f : Field, f.reg.id = .qctx → f.reg.i ≠ q → t.get f = s.get f
      let told (t : State) : Prop := t.get (Fld.srcStat.CNT 0x10400) = if notify then s.more (Fld.srcStat.CNT 0x10400) else s.get (Fld.srcStat.CNT 0x10400)
      let idle : Prop := (∀ c, ¬live c) ∧ s.cpl.all (fun e => e.qid != q) = true ∧ s.get (Fld.qctx.IN_FLIGHT q) = 0
      let ready : Nat := if 0 < s.get (Fld.qctx.IN_FLIGHT q) then 3 else if 0 < s.sqPending q then 2 else 1
      let zeroed (t : State) : Prop := t.get (Fld.qctx.SQ_TAIL q) = 0 ∧ t.get (Fld.qctx.SQ_HEAD q) = 0 ∧ t.get (Fld.qctx.CQ_TAIL q) = 0 ∧ t.get (Fld.qctx.CQ_HEAD q) = 0
      (st ≠ 0 → refused (.enableQ qid notify) 2) ∧
      (st = 0 → s.on (Fld.grp.ASSIGNED (q / 16)) = false → refused (.enableQ qid notify) 4) ∧
      (st = 0 → s.on (Fld.grp.ASSIGNED (q / 16)) = true → s.get (Fld.qctx.CLASS q) = 0 → 1024 ≤ s.kingCount → refused (.enableQ qid notify) 3) ∧
      (st = 0 → s.on (Fld.grp.ASSIGNED (q / 16)) = true → (s.get (Fld.qctx.CLASS q) = 0 → s.kingCount < 1024) → s.ringBad q = false → s.ringFar q = false → s.ringClash q = false →
        ∃ t, exec (.enableQ qid notify) s = .next t ∧ shown t 0 ∧ zeroed t ∧ t.get (Fld.qctx.CQ_PHASE q) = 1 ∧ t.get (Fld.qctx.COMPLETIONS q) = 0 ∧
          t.get (Fld.qctx.DB_DROPPED q) = 0 ∧ t.get (Fld.qctx.ERR_CAUSE q) = 0 ∧ t.get (Fld.qctx.ERR_ADDR q) = 0 ∧ t.get (Fld.qctx.STATE q) = 1 ∧
          (∀ cl, cl < 8 → t.get (Fld.gbtHist.HIST cl q) = 0xAAAA) ∧ others t ∧ told t ∧ t.ctx = s.ctx ∧ t.out = s.out) ∧
      ((st = 0 ∨ 4 < st) → refused (.drainQ qid notify) 2) ∧ ((st = 0 ∨ 5 < st) → refused (.drainAbort qid notify) 2) ∧
      ((st = 0 ∨ 3 < st) → refused (.suspend qid notify) 2) ∧ (s.get (Fld.qctx.SUSP_REQ q) = 0 → refused (.resume qid notify) 2) ∧
      (st = 0 → refused (.resetQ qid notify) 2) ∧
      (1 ≤ st → st ≤ 4 → (∀ c, live c → Unburdened (s.cx c) ∧ waits c ∧ (s.cx c).owed = none) →
        ∃ t, exec (.drainQ qid notify) s = .next t ∧ shown t 0 ∧ t.get (Fld.qctx.SUSP_REQ q) = 0 ∧
          t.get (Fld.qctx.STATE q) = (if s.get (Fld.qctx.IN_FLIGHT q) = 0 then 0 else 5) ∧ (s.get (Fld.qctx.IN_FLIGHT q) = 0 → told t) ∧
          (∀ c, live c → t.cx c = { s.cx c with parked := false }) ∧ (∀ c, ¬live c → t.cx c = s.cx c) ∧ others t ∧ t.cpl = s.cpl ∧ t.out = s.out) ∧
      (∀ c ln b v sp tm, s.get (Fld.qctx.SUSP_REQ q) = 1 → 1 ≤ st → st ≤ 4 → live c → (∀ c', live c' → c' = c) → Unburdened (s.cx c) → (s.cx c).posted = false →
        (s.cx c).wait = .bit ln b v sp tm → (s.cx c).parked = true → s.bitBarred c b false = true →
        ∃ t u, exec (.drainQ qid notify) s = .next t ∧ exec (.resume qid notify) s = .next u ∧ EndedWith c 0x21 s t ∧ EndedWith c 0x21 s u) ∧
      (∀ c, 1 ≤ st → st ≤ 5 → live c → (∀ c', live c' → c' = c) → (s.cx c).midway = true → 0 < s.get (Fld.qctx.IN_FLIGHT q) →
        ∃ t, exec (.drainAbort qid notify) s = .next t ∧ shown t 0 ∧ t.get (Fld.qctx.STATE q) = 5 ∧ t.cx c = { s.cx c with due := 2 } ∧
          (∀ c', c' ≠ c → t.cx c' = s.cx c') ∧ t.cpl = s.cpl ∧ t.out = s.out) ∧
      (∀ c, 1 ≤ st → st ≤ 5 → live c → (∀ c', live c' → c' = c) → Unburdened (s.cx c) → (s.cx c).midway = false → (s.cx c).posted = false → 0 < s.get (Fld.qctx.IN_FLIGHT q) →
        ∃ t, exec (.drainAbort qid notify) s = .next t ∧ shown t 0 ∧ t.get (Fld.qctx.STATE q) = 5 ∧ t.cx c = {} ∧
          (∀ c', c' ≠ c → t.cx c' = s.cx c') ∧ (let x := s.cx c
            t.cpl = s.cpl ++ [{ qid := q, tag := x.tag, status := if x.parked then 0x60 else 0x70, epoch := x.epoch, residual := s.residualOf c,
                                auto := true, ioc := x.ioc, result := 0, order := x.order }]) ∧ others t ∧ t.out = s.out) ∧
      (1 ≤ st → st ≤ 5 → idle → ∃ t, exec (.drainAbort qid notify) s = .next t ∧ shown t 0 ∧ t.get (Fld.qctx.STATE q) = 0 ∧ told t ∧ t.cpl = s.cpl ∧ others t) ∧
      (1 ≤ st → st ≤ 3 → idle → ∃ t, exec (.suspend qid notify) s = .next t ∧ shown t 0 ∧ t.get (Fld.qctx.SUSP_REQ q) = 1 ∧
        t.get (Fld.qctx.STATE q) = 4 ∧ told t ∧ others t ∧ t.ctx = s.ctx) ∧
      (∀ c, st = 3 → live c → (∀ c', live c' → c' = c) → (s.cx c).wait = .none → (s.cx c).parked = false →
        ∃ t, exec (.suspend qid notify) s = .next t ∧ shown t 0 ∧ t.get (Fld.qctx.SUSP_REQ q) = 1 ∧ t.get (Fld.qctx.STATE q) = 3 ∧ t.ctx = s.ctx ∧ others t) ∧
      (∀ c b v ln sp tm, st = 3 → live c → (∀ c', live c' → c' = c) → Unburdened (s.cx c) → (s.cx c).seqCount = none → (s.cx c).wait = .bit ln b v sp tm →
        s.bitMet c (s.cx c).regs.bound (s.cx c).wait = false → b ≠ 0x110 → s.cpl.all (fun e => e.qid != q) = true →
        ∃ t, exec (.suspend qid notify) s = .next t ∧ t.get (Fld.qctx.STATE q) = 4 ∧ t.cx c = { s.cx c with parked := true } ∧ told t ∧ others t) ∧
      (s.get (Fld.qctx.SUSP_REQ q) = 1 → 1 ≤ st → st ≤ 4 → (∀ c, live c → Unburdened (s.cx c) ∧ waits c ∧ (s.cx c).owed = none) →
        ∃ t, exec (.resume qid notify) s = .next t ∧ shown t 0 ∧ t.get (Fld.qctx.SUSP_REQ q) = 0 ∧ t.get (Fld.qctx.STATE q) = ready ∧
          (∀ c, live c → t.cx c = { s.cx c with parked := false }) ∧ (∀ c, ¬live c → t.cx c = s.cx c) ∧ told t ∧ others t ∧ t.out = s.out) ∧
      (st ≠ 0 → (idle ∨ ∃ c, live c ∧ (∀ c', live c' → c' = c) ∧ Unburdened (s.cx c) ∧ (s.cx c).midway = false ∧ s.get (Fld.qctx.IN_FLIGHT q) = 1 ∧ s.cpl.all (fun e => e.qid != q) = true ∧
          s.cpl.all (fun e => e.order != (s.cx c).order) = true) →
        ∃ t, exec (.resetQ qid notify) s = .next t ∧ shown t 0 ∧ zeroed t ∧ t.get (Fld.qctx.STATE q) = 0 ∧ t.get (Fld.qctx.SUSP_REQ q) = 0 ∧
          t.get (Fld.qctx.ERR_CAUSE q) = s.get (Fld.qctx.ERR_CAUSE q) ∧ t.get (Fld.qctx.ERR_ADDR q) = s.get (Fld.qctx.ERR_ADDR q) ∧
          (∀ c, live c → t.cx c = {}) ∧ (∀ c, (s.cx c).live = true → ¬live c → t.cx c = s.cx c) ∧ t.cpl = s.cpl ∧ told t ∧ others t ∧ t.out = s.out) ∧
      (∀ (g : Fin 4096) (val : BitVec 64), reservedIn ⟨.grp, g.val, 0⟩ val = false → (∃ i, i < 16 ∧ s.get (Fld.qctx.STATE (g.val * 16 + i)) ≠ 0) →
        ∃ t, exec (.grpWrite g val) s = .next t ∧ t.get Fld.qmuStat.GRP_BUSY = 1 ∧ { t with regs := s.regs } = s ∧
          ∀ r, r ≠ Fld.qmuStat.GRP_BUSY.reg → t.reg r = s.reg r) ∧
      (∀ (g : Fin 4096) (val : BitVec 64), reservedIn ⟨.grp, g.val, 0⟩ val = false → (∀ i, i < 16 → s.get (Fld.qctx.STATE (g.val * 16 + i)) = 0) →
        ∃ t, exec (.grpWrite g val) s = .next t ∧ t.get (Fld.grp.ASSIGNED g.val) = val.toNat % 2 ∧ t.get (Fld.grp.FUNC g.val) = val.toNat / 2 % 2 ^ 10 ∧
          t.get (Fld.grp.VF_PAGE g.val) = val.toNat / 2 ^ 12 % 2 ^ 12 ∧ { t with regs := s.regs } = s ∧
          ∀ r, r ≠ (Fld.grp.FUNC g.val).reg → t.reg r = s.reg r)

/-- Each clear bit zeroes the counters its register names and changes nothing else. -/
def Obligations.CounterClearsClearOnlyTheirCounters : Prop :=
  ∀ (cl : Fin 8) (f : Fin 64) (b : Fin 64) (s : State),
      let cleared (c : Instr) (fs : List Field) : Prop := ∃ t, exec c s = .next t ∧ (∀ g ∈ fs, t.get g = 0) ∧ { t with regs := s.regs } = s ∧
        ∀ h : Field, (∀ g ∈ fs, h.reg ≠ g.reg ∨ h.lo + h.w ≤ g.lo ∨ g.lo + g.w ≤ h.lo) → t.get h = s.get h
      cleared .clrForeign [Fld.qmuStat.DB_FOREIGN] ∧ cleared .clrOverq [Fld.kingStat.OVERQ] ∧
      cleared (.pgmStatClr cl) [Fld.pgmStat.FLAG_FALLS cl.val, Fld.pgmStat.STALE_VICTIMS cl.val, Fld.pgmStat.POST_AGAIN cl.val, Fld.pgmStat.SILENT_FALLS cl.val] ∧
      cleared (.gbtClr cl) [Fld.gbtCnt0.OPENED cl.val, Fld.gbtCnt0.RETIRED cl.val, Fld.gbtCnt1.SQ_MISS cl.val, Fld.gbtCnt1.SQ_HORIZON cl.val,
        Fld.gbtCnt2.SQ_CONFLICT cl.val, Fld.gbtCnt2.SQ_OTHER cl.val, Fld.gbtCnt3.PAUSES cl.val, Fld.gbtCnt3.DRAINED cl.val] ∧
      cleared .txnStatClr [Fld.txnStat.TIMEOUTS, Fld.txnStat.LATE_RSP, Fld.txnStat.BAD_REQ] ∧
      cleared .extCntClr [Fld.extCnt.ERRORS, Fld.extCnt.TIMEOUTS, Fld.extCnt.LATE] ∧
      cleared .hpuStatClr [Fld.hpuStat.UNROUTED, Fld.hpuStat.PEER_DROP] ∧
      cleared .spmStatClr [Fld.spmStat.OWN_VIOL, Fld.spmStat.CE, Fld.spmStat.UE, Fld.spmStat.YIELDS] ∧
      cleared (.fifoCntClr f) [Fld.fifoCnt.DROPS f.val, Fld.fifoCnt.EMPTY_RD f.val, Fld.fifoCnt.BAD_ACC f.val] ∧
      cleared .eicStatClr [Fld.eicStat.DB_FOREIGN, Fld.eicStat.MISROUTED] ∧
      cleared (.pluClrCnt cl) [Fld.pluCnt.SRC_VIOL cl.val, Fld.pluCnt.UNROUTED cl.val, Fld.pluCnt.HOP_DROP cl.val, Fld.pluCnt.REPLAY cl.val] ∧
      cleared (.reactClrCnt b) [Fld.fclReact.RST_CNT b.val]

/-- The host link trains from HM0 and, in Roloa-native mode, joins; its loss fails what is outstanding; Cache_Enable, IDE, DOE, aperture. -/
def Obligations.HostPortFollowsItsLink : Prop :=
  ∀ s : State, Quiet s →
      let l := s.lk 8
      let h := s.hostLink
      let lid : Out := .word 8 0xF5 (0xF5 + (1 + s.selfNode * 256) * 256)
      (∀ (hi : BitVec 24),
        let v := hi.toNat
        (h.st = 2 → exec (.lidResend 8) s = .next { s with out := lid :: s.out }) ∧
        (h.st = 2 → v % 16 = 1 → ∃ t, exec (.lid 8 hi) s = .next t ∧ t.hostLink = { h with st := 3, node := v / 256, minor := v / 16 % 16 } ∧
          t.out = [.word 8 0xF1 (0xF1 + (3 + 8 * 8 + 16 * 4096) * 256), .word 8 0xF1 (0xF1 + (2 + 128 * 8 + 512 * 4096) * 256),
            .word 8 0xF1 (0xF1 + (1 + 128 * 8 + 512 * 4096) * 256), .word 8 0xF1 (0xF1 + (32 * 8 + 64 * 4096) * 256), .word 8 0xF6 (0xF6 + 7 * 256)] ++ s.out) ∧
        (h.st = 3 → l.gotLcap = false → v / 128 = 0 → v / 2 % 8 ≤ 3 →
          (∀ k, k ∈ l.gotLinit → 1 ≤ (SMap.get h.adv (0, 0) k).1 ∧ 2 ^ (v / 2 % 8) ≤ (SMap.get h.adv (0, 0) k).2) →
          ∃ t, exec (.lcap 8 hi) s = .next t ∧ t.hostLink = { h with mps := v / 2 % 8 } ∧ (t.lk 8).gotLcap = true ∧
            t.out = .word 8 0xF7 (0xF7 + s.hostNode * 256 * 256) :: s.out) ∧
        (h.st = 3 → v / 4 % 2 = 0 → v % 4 ∉ l.gotLinit → l.gotLcap = false →
          ∃ t, exec (.linit 8 hi) s = .next t ∧ t.hostLink = { h with adv := SMap.set h.adv (0, 0) (v % 4) (v / 8 % 2 ^ 9, v / 2 ^ 12) } ∧
            (t.lk 8).gotLinit = l.gotLinit ++ [v % 4]) ∧
        (h.st = 3 → l.gotLcap = true → l.gotLinit.length = 4 → v % 16 = 1 → v / 256 = s.hostNode → l.txq = [] → s.supdQ = [] →
          ∃ t, exec (.lid 8 hi) s = .next t ∧ t.hostLink = { h with st := 4, node := v / 256, minor := v / 16 % 16, tx := h.adv } ∧ t.out = s.out) ∧
        (h.st = 3 → v / 8 % 32 = 0 → exec (.lasn 8 hi) s = .next s) ∧
        (h.st = 4 → v / 4 % 64 = 0 → l.txq = [] → s.supdQ = [] → (s.txCred 8 (v % 4)).1 + v / 256 % 256 ≤ (SMap.get h.adv (0, 0) (v % 4)).1 →
          (s.txCred 8 (v % 4)).2 + v / 65536 ≤ (SMap.get h.adv (0, 0) (v % 4)).2 →
          ∃ t, exec (.lcrd 8 hi) s = .next t ∧ t.txCred 8 (v % 4) = ((s.txCred 8 (v % 4)).1 + v / 256 % 256, (s.txCred 8 (v % 4)).2 + v / 65536) ∧ t.out = s.out) ∧
        (s.on Fld.hpuStat.LINK_UP = true → (h.st = 2 → exec (.peerTimeout 8) s = exec .hostLinkDown s) ∧ (h.st = 3 → exec (.initTimeout 8) s = exec .hostLinkDown s) ∧
          (∀ w : BitVec 32, wordBad w.toNat = true → 2 ≤ h.st → h.st ≤ 4 → exec (.malformedWordArrival 8 w) s = exec .hostLinkDown s))) ∧
      (∀ (m : BitVec 4) (r : Fin 8) (n : Nat), s.on Fld.hpuStat.LINK_UP = false → s.hostTrains = true → r.val ≤ 5 → r.val ≤ s.get Fld.hpuCtl.MAX_RATE →
        (∀ k, k < n → (m.toNat &&& s.get Fld.hpuCtl.MOD_EN).testBit k = true) → (n = 4 ∨ (m.toNat &&& s.get Fld.hpuCtl.MOD_EN).testBit n = false) → n ≤ 4 →
        ((0 < n → ∃ t, exec (.hostLinkUp m r) s = .next t ∧ t.get Fld.hpuStat.LINK_UP = 1 ∧ t.get Fld.hpuStat.MODULES = n ∧
          t.get Fld.hpuStat.RATE = r.val ∧ t.get Fld.dvsec.MODULES = n ∧ t.get Fld.dvsec.RATE = r.val ∧ t.hostFault = false ∧
          (s.on Fld.hpuStat.MODE = true → t.hostLink = { st := 2 } ∧ t.out = lid :: s.out)) ∧
         (n = 0 → exec (.hostLinkUp m r) s = .next s))) ∧
      (s.on Fld.hpuStat.LINK_UP = true → s.txn = [] → l.fwd = [] → s.supdQ = [] → s.xfer = [] → Watched 0 s →
        (∀ c h m f p w, (s.cx c).live = true → (s.cx c).wait ≠ .xlate h m f p w) →
        let down (t : State) : Prop := t.get Fld.hpuStat.LINK_UP = 0 ∧ t.get Fld.hpuStat.MODULES = 0 ∧ t.get Fld.hpuStat.RATE = 0 ∧
          t.get Fld.dvsec.MODULES = 0 ∧ t.get Fld.dvsec.RATE = 0 ∧ t.hostLink = {} ∧ t.lk 8 = {}
        (s.hreq = [] → s.cpl = [] → (∃ t, exec .hostLinkDown s = .next t ∧ down t ∧ t.hostFault = true ∧ Rose 0 s t ∧ t.ctx = s.ctx) ∧
          (s.hostFault = false → ∃ t, exec .hostRetrain s = .next t ∧ down t ∧ t.hostFault = false ∧
            t.get Fld.fclFsw.FSW = s.get Fld.fclFsw.FSW ∧ t.ctx = s.ctx) ∧
          (s.ideSecure = true → ∃ t, exec .ideFailure s = .next t ∧ down t ∧ t.ideSecure = false ∧ Rose 0 s t)) ∧
        (∀ id r c, s.hreq = [(id, r)] → s.cpl = [] → r.purp = .entry c → (s.cx c).live = true → Unburdened (s.cx c) →
          (∀ c', (s.cx c').live = true → (s.cx c').qid = (s.cx c).qid → c' = c) → (s.qd (s.cx c).qid).stopping = 0 →
          1 ≤ s.get (Fld.qctx.STATE (s.cx c).qid) → s.get (Fld.qctx.STATE (s.cx c).qid) ≤ 5 →
          ∃ t, exec .hostLinkDown s = .next t ∧ down t ∧ Rose 0 s t ∧ t.get (Fld.qctx.STATE (s.cx c).qid) = 6 ∧
            t.get (Fld.qctx.ERR_CAUSE (s.cx c).qid) = 1 ∧ t.get (Fld.qctx.ERR_ADDR (s.cx c).qid) = r.addr % 2 ^ 57 ∧ t.cx c = {}) ∧
        (∀ e : Cpl, s.hreq = [] → s.cpl = [e] → (∀ c', (s.cx c').live = true → (s.cx c').qid ≠ e.qid) → (s.qd e.qid).stopping = 0 →
          1 ≤ s.get (Fld.qctx.STATE e.qid) → s.get (Fld.qctx.STATE e.qid) ≤ 5 →
          ∃ t, exec .hostLinkDown s = .next t ∧ down t ∧ Rose 0 s t ∧ t.get (Fld.qctx.STATE e.qid) = 6 ∧ t.get (Fld.qctx.ERR_CAUSE e.qid) = 2 ∧
            t.cpl = [])) ∧
      (s.outReset = false → ∃ t, exec (.cacheEnableWrite true) s = .next t ∧ t.get Fld.hpuStat.CACHE_EN = 1 ∧ OnlyRegs [.hpuStat] s t) ∧
      (s.outReset = false → s.enabledQueues = [] → ∃ t, exec (.cacheEnableWrite false) s = .next t ∧ t.get Fld.hpuStat.CACHE_EN = 0 ∧ OnlyRegs [.hpuStat] s t) ∧
      ((∃ q, q < 65536 ∧ s.get (Fld.qctx.STATE q) ≠ 0) → exec (.cacheEnableWrite false) s = .next s) ∧
      (∀ k, s.ideEn = true → s.get Fld.hpuStat.MODE = 0 → s.spdm.sess = 2 → exec (.ideKm (some k)) s = .next { s with ideKey := k }) ∧
      (s.ideEn = true → s.get Fld.hpuStat.MODE = 0 → s.spdm.sess = 2 → s.ideKey ≠ [] → s.ideFault = false →
        ∃ t, exec (.ideKm none) s = .next t ∧ t.ideSecure = true ∧ OnlyRegs [] { s with ideSecure := true } t) ∧
      (∀ n, 1024 < n → s.get Fld.hpuStat.MODE = 0 → exec (.doeError n) s = .next { s with doeErr := true }) ∧
      (∀ n, n ≤ 1024 → exec (.doeError n) s = .next s) ∧
      (∀ (off : BitVec 24) (n : Fin 65) (d : List Byte),
        let base := s.get Fld.spmAper.BASE_BANK
        let a := base * 0x40000 + off.toNat
        let b := a / 0x40000
        let mine : Prop := s.get (Fld.bankOwn.STATE b) = bankOwned ∧ s.get (Fld.bankOwn.OWNER b) = 0x1000
        s.reaches .pf = true → base % 64 = 0 → base ≤ 512 → (base = 512 → off.toNat < 0x400000) →
        let fits (k : Nat) : Prop := k ∈ [1, 2, 4, 8, 16, 32, 64] ∧ off.toNat % k = 0
        (fits n.val → mine →
          exec (.apertureAccess off n none) s = .next { s with out := .rdata (0x03000000 + off.toNat) (ofBytes (Memory.readN s.spm a n.val)) :: s.out }) ∧
        (fits d.length → mine →
          exec (.apertureAccess off n (some d)) s = .next { s with spm := Memory.writeL s.spm a d }) ∧
        (fits n.val → s.get (Fld.bankOwn.STATE b) = 0 →
          ∃ t, exec (.apertureAccess off n none) s = .next t ∧ t.spm = s.spm ∧ t.out = .rdata (0x03000000 + off.toNat) 0 :: s.out ∧
            t.get Fld.spmStat.OWN_VIOL = s.more Fld.spmStat.OWN_VIOL))

/-- A function without Bus Master Enable or in D3hot fails its host reads; a function-level reset resets its queues, domains and window. -/
def Obligations.FunctionsStopAndReset : Prop :=
  ∀ (func : Fin 1024) (s : State), Quiet s → s.outReset = false →
      let f := func.val
      let still : Prop := s.xfer = [] ∧ ∀ c h m g p w, (s.cx c).live = true → (s.cx c).wait ≠ .xlate h m g p w
      let mine (q : Nat) : Prop := q < 65536 ∧ s.on (Fld.grp.ASSIGNED (q / 16)) = true
      let wiped (t : State) (f : Nat) : Prop := NSet.has t.flr f = true ∧ NSet.has t.bme f = false ∧ NSet.has t.d3hot f = false ∧
        NSet.has t.atsEn f = false ∧ NSet.has t.msixEn f = false ∧ NSet.has t.msixFmask f = false ∧
        (∀ q, mine q → s.get (Fld.grp.FUNC (q / 16)) = f → (∀ j, j < 8 → t.reg ⟨.qctx, q, j⟩ = Reg.reset ⟨.qctx, q, j⟩) ∧
          (s.get (Fld.qctx.STATE q) ≠ 0 → (∀ c, (s.cx c).live = true → (s.cx c).qid = q → t.cx c = {}) ∧ ∀ e ∈ t.cpl, e.qid ≠ q)) ∧
        (∀ e ∈ t.segCache, e.1 / 65536 < 4096 → s.get (Fld.pdData.FUNC (e.1 / 65536)) ≠ f) ∧
        (∀ k, s.get (Fld.eqData.FUNC k) = f → t.get (Fld.eqData.EN k) = 0) ∧
        ∀ id ∈ [RegId.mbDb, .mbStat, .mbReq, .mbRsp, .mbCfg], ∀ j, t.reg ⟨id, f, j⟩ = Reg.reset ⟨id, f, j⟩
      let easy : Prop := (∀ c, (s.cx c).live = true → Unburdened (s.cx c)) ∧ s.xfer = [] ∧ s.acp = [] ∧ s.inv = none
      (s.deferred = [] → exec (.flrComplete func) s = .next { s with flr := NSet.del s.flr f }) ∧
      (∃ t, exec (.busMasterEnableChange func true) s = .next t ∧ NSet.has t.bme f = true ∧ OnlyRegs [] { s with bme := NSet.add s.bme f } t) ∧
      (∃ t, exec (.dStateChange func false) s = .next t ∧ NSet.has t.d3hot f = false ∧ OnlyRegs [] { s with d3hot := NSet.del s.d3hot f } t) ∧
      (∀ id r c, still → s.on Fld.hpuStat.MODE = false → s.hreq = [(id, r)] → r.func = f → r.purp = .entry c → (s.cx c).live = true → Unburdened (s.cx c) →
        (∀ c', (s.cx c').live = true → (s.cx c').qid = (s.cx c).qid → c' = c) → (s.qd (s.cx c).qid).stopping = 0 →
        1 ≤ s.get (Fld.qctx.STATE (s.cx c).qid) → s.get (Fld.qctx.STATE (s.cx c).qid) ≤ 5 →
        let inError (t : State) : Prop := t.get (Fld.qctx.STATE (s.cx c).qid) = 6 ∧ t.get (Fld.qctx.ERR_CAUSE (s.cx c).qid) = 1 ∧ t.cx c = {} ∧
          t.cpl.length ≤ s.cpl.length ∧ t.out = s.out
        (∃ t, exec (.busMasterEnableChange func false) s = .next t ∧ NSet.has t.bme f = false ∧ inError t ∧ t.d3hot = s.d3hot) ∧
        (∃ t, exec (.dStateChange func true) s = .next t ∧ NSet.has t.d3hot f = true ∧ inError t ∧ t.bme = s.bme)) ∧
      (still → (∀ e ∈ s.hreq, e.2.held = false) →
        ∃ t, exec (.atsEnableClear func) s = .next t ∧ NSet.has t.atsEn f = false ∧ (∀ e ∈ t.atc, e.func ≠ f) ∧
          OnlyRegs [] { s with atc := s.atc.filter (fun e => e.func != f), atsPend := s.atsPend.filter (fun k => k / 2 ^ 45 != f), atsEn := NSet.del s.atsEn f } t) ∧
      (easy → (0 < f → s.vfEn = true → ∃ t, exec (.functionLevelReset func) s = .next t ∧ wiped t f ∧ t.vfEn = true ∧ (∀ g, t.reg ⟨.grp, g, 0⟩ = s.reg ⟨.grp, g, 0⟩) ∧
          ∀ q, mine q → s.get (Fld.grp.FUNC (q / 16)) ≠ f → ∀ j, t.reg ⟨.qctx, q, j⟩ = s.reg ⟨.qctx, q, j⟩) ∧
        (f = 0 → ∃ t, exec (.functionLevelReset func) s = .next t ∧ wiped t 0 ∧ (s.vfEn = true → ∀ v, 0 < v → v < 1024 → wiped t v) ∧ t.vfEn = false ∧
          t.get Fld.hpuStat.CACHE_EN = 0 ∧ t.get Fld.dvsec.VF_BAR_LOG2 = 4 ∧ t.get Fld.glbExpert.UNLOCKED = 0 ∧ t.doeErr = false ∧
          (∀ g, t.reg ⟨.grp, g, 0⟩ = s.reg ⟨.grp, g, 0⟩)) ∧
        (s.vfEn = true → ∃ t, exec .vfEnableClear s = .next t ∧ (∀ v, 0 < v → v < 1024 → wiped t v) ∧ t.vfEn = false ∧
          (∀ g, t.reg ⟨.grp, g, 0⟩ = s.reg ⟨.grp, g, 0⟩) ∧ NSet.has t.bme 0 = NSet.has s.bme 0)) ∧
      (∀ v : Fin 2048, v.val < (if f = 0 then 2048 else 64) → NSet.has s.pba (f * 2048 + v.val) = true → NSet.has s.msixEn f = true → s.hostOk f = true → s.on Fld.hpuStat.MODE = false →
        let msg : Out := .msix f v.val (s.msixWord f v.val 0 + s.msixWord f v.val 1 * 2 ^ 32) (s.msixWord f v.val 2)
        (NSet.has s.msixFmask f = false → ∃ t, exec (.msixUnmask func (some v)) s = .next t ∧ t.out = msg :: s.out ∧
          NSet.has t.pba (f * 2048 + v.val) = false ∧ t.msixMasked f v.val = false ∧ { t with out := s.out, pba := s.pba, msix := s.msix } = s) ∧
        (s.pba = [f * 2048 + v.val] → s.msixWord f v.val 3 % 2 = 1 → ∃ t, exec (.msixUnmask func none) s = .next t ∧ t.out = msg :: s.out ∧
          t.pba = [] ∧ NSet.has t.msixFmask f = false ∧ { t with out := s.out, pba := s.pba, msixFmask := s.msixFmask } = s))

/-- Bring-up of a peer link: Training, Waiting, Init with the device's words, the node step, Joined with the peer's credits, or a failed attempt. -/
def Obligations.PeerLinksComeUp : Prop :=
  ∀ (p : Fin 8) (hi : BitVec 24) (s : State), Quiet s →
      let i := p.val
      let v := hi.toNat
      let l := s.lk i
      let hold := s.on (Fld.pluCtl.HOLD i)
      let plu : List RegId := [.pluCtl, .pluStat, .pluErr, .pluCred, .dvsec]
      let keptJ (t : State) : Prop := RegsKept plu s t ∧ t.ctx = s.ctx ∧ ∀ k, k ≠ i → t.get (Fld.pluStat.STATE k) = s.get (Fld.pluStat.STATE k)
      let kept (t : State) : Prop := keptJ t ∧ t.txn = s.txn
      let lid : Out := .word i 0xF5 (0xF5 + (1 + (s.get Fld.rtCtl.DOMAIN * 256 + s.get Fld.rtCtl.SELF) * 256) * 256)
      let linit (vc h d : Nat) : Out := .word i 0xF1 (0xF1 + (vc + h * 8 + d * 2 ^ 12) * 256)
      let n := s.get (Fld.pluStat.ATTEMPTS i) + 1
      let failed (t : State) (cause word : Nat) : Prop := Rose (1 + i) s t ∧ t.get (Fld.pluErr.VALID i) = 1 ∧ t.get (Fld.pluErr.CAUSE i) = cause ∧
        t.get (Fld.pluErr.WORD i) = word ∧ t.get (Fld.pluStat.RELEASED i) = 0 ∧ t.get (Fld.pluStat.ATTEMPTS i) = n % 4 ∧
        t.get (Fld.pluStat.STATE i) = (if s.on (Fld.pluCtl.AUTO_RETRAIN i) = true ∧ n < 3 then 5 else 6) ∧
        (∀ k, k < 4 → t.get (Fld.pluCred.TX_HDR i k) = 0 ∧ t.get (Fld.pluCred.TX_DATA i k) = 0) ∧ t.out = s.out ∧ ∀ k, k ≠ i → t.get (Fld.pluStat.STATE k) = s.get (Fld.pluStat.STATE k)
      let joined (t : State) : Prop := t.get (Fld.pluStat.STATE i) = 4 ∧ t.get (Fld.pluStat.ATTEMPTS i) = 0 ∧ t.get (Fld.pluStat.RELEASED i) = (if hold then 0 else 1) ∧
        keptJ t ∧ ∀ vc, vc < 3 → t.get (Fld.pluCred.TX_HDR i vc) = t.get (Fld.pluCred.PEER_HDR i vc) ∧ t.get (Fld.pluCred.TX_DATA i vc) = t.get (Fld.pluCred.PEER_DATA i vc)
      let all3 (t : State) : Prop := t.out = s.out ∧ t.get (Fld.pluCred.TX_HDR i 3) = t.get (Fld.pluCred.PEER_HDR i 3) ∧ t.get (Fld.pluCred.TX_DATA i 3) = t.get (Fld.pluCred.PEER_DATA i 3)
      let reads (t : State) : Prop := match l.granted with
        | none => all3 t ∧ t.txn = s.txn
        | some (b, _) => ((s.put (Fld.pluStat.STATE i) 4).reachable b = false → all3 t ∧ (t.discOf b).stage = 4) ∧
          ∀ tag, (s.put (Fld.pluStat.STATE i) 4).route b 15 9 = .link i 15 → s.freeTag 3 = some tag → SMap.get l.txq [] 3 = [] → 1 ≤ t.get (Fld.pluCred.PEER_HDR i 3) →
            t.out = .pkt i { mrdPkt b 0xFFFFFFFFF000 64 3 false with src := s.selfNode, tag := tag } :: s.out ∧ (t.discOf b).stage = 2 ∧ (t.discOf b).got = [] ∧
            t.get (Fld.pluCred.TX_HDR i 3) + 1 = t.get (Fld.pluCred.PEER_HDR i 3) ∧ (∃ x, t.txnOf tag = some x ∧ x.purp = .disc b)
      (s.get (Fld.pluCtl.EN i) = 0 → s.pluBad i = false → ∃ t, exec (.linkEnable p) s = .next t ∧ t.get (Fld.pluCtl.EN i) = 1 ∧
        t.get (Fld.pluStat.ATTEMPTS i) = 0 ∧ t.get (Fld.pluStat.STATE i) = (if hold then 5 else 1) ∧ t.get (Fld.pluStat.RELEASED i) = 0 ∧ t.out = s.out ∧ kept t) ∧
      (∀ r : Fin 8, s.lState i = 1 → r.val ≤ s.get (Fld.pluCtl.MAX_RATE i) →
        (l.lowHold = true → exec (.linkTrained p r) s = .next (s.setLk i { l with trained := some r.val })) ∧
        (l.lowHold = false → ∃ t, exec (.linkTrained p r) s = .next t ∧ t.get (Fld.pluStat.STATE i) = 2 ∧
          t.get (Fld.pluStat.RATE i) = r.val ∧ t.get (Fld.pluStat.RELEASED i) = (if hold then 0 else 1) ∧ t.out = lid :: s.out ∧ kept t)) ∧
      (∀ r, s.lState i = 1 → l.trained = some r → ∃ t, exec (.retryHoldExpiry p) s = .next t ∧ t.get (Fld.pluStat.STATE i) = 2 ∧
        t.get (Fld.pluStat.RATE i) = r % 8 ∧ t.get (Fld.pluStat.RELEASED i) = (if hold then 0 else 1) ∧ (hold = false → (t.lk i).lowHold = false) ∧ t.out = lid :: s.out ∧ kept t) ∧
      (s.lState i = 2 → exec (.lidResend p.castSucc) s = .next { s with out := lid :: s.out }) ∧
      (s.lState i = 2 → v % 16 = 1 → ∃ t, exec (.lid p.castSucc hi) s = .next t ∧ t.get (Fld.pluStat.STATE i) = 3 ∧ t.get (Fld.pluStat.PEER_NODE i) = v / 256 ∧
        t.get (Fld.pluStat.PEER_MINOR i) = v / 16 % 16 ∧
        t.out = linit 3 8 16 :: linit 2 128 512 :: linit 1 128 512 :: linit 0 32 64 :: .word i 0xF6 (0xF6 + 7 * 256) :: s.out ∧ kept t) ∧
      (Watched (1 + i) s → s.lState i = 2 → v % 16 ≠ 1 → ∃ t, exec (.lid p.castSucc hi) s = .next t ∧ failed t 9 0) ∧
      (s.lState i = 3 → v % 16 = 1 → ∀ g, l.granted = some (v / 256, g) → l.gotLcap = true → l.gotLinit.length = 4 →
        ∃ t, exec (.lid p.castSucc hi) s = .next t ∧ joined t ∧ reads t) ∧
      (s.lState i = 3 → v < 2 ^ 7 → v / 2 % 8 ≤ 3 → l.gotLcap = false → l.gotLinit = [] →
        let g := Nat.min (v / 16 % 8) (s.get (Fld.pluCtl.NODE_LOG2 i))
        let base := s.get Fld.rtCtl.DOMAIN * 256 + s.get (Fld.pluCtl.NODE_BASE i)
        (∀ q, v % 2 = 0 → s.blockClash i (base, g) = false → s.blockRivals i (base, g) = [q] → Watched (1 + q) s → ∃ t, exec (.lcap p.castSucc hi) s = .next t ∧
          t.get (Fld.pluStat.GRANTED i) = g ∧ t.get (Fld.pluStat.STATE i) = 3 ∧ t.get (Fld.pluErr.CAUSE q) = 8 ∧ t.lState q = (if s.on (Fld.pluCtl.AUTO_RETRAIN q) = true ∧ s.get (Fld.pluStat.ATTEMPTS q) < 2 then 5 else 6)) ∧
        (v % 2 = 0 → s.blockClash i (base, g) = false → s.blockRivals i (base, g) = [] → ∃ t, exec (.lcap p.castSucc hi) s = .next t ∧ t.get (Fld.pluStat.PEER_SW i) = 0 ∧
          t.get (Fld.pluStat.PEER_MPS i) = v / 2 % 8 ∧ t.get (Fld.pluStat.GRANTED i) = g ∧ (t.lk i).granted = some (base, g) ∧ (t.lk i).gotLcap = true ∧
          t.out = .word i 0xF7 (0xF7 + (g + base * 256) * 256) :: s.out ∧ t.get (Fld.pluStat.STATE i) = 3 ∧ kept t) ∧
        (v % 2 = 0 → s.blockClash i (base, g) = true → Watched (1 + i) s → ∃ t, exec (.lcap p.castSucc hi) s = .next t ∧ failed t 8 0) ∧
        (v % 2 = 1 → s.get (Fld.pluStat.PEER_NODE i) / 256 = s.get Fld.rtCtl.DOMAIN → Watched (1 + i) s → ∃ t, exec (.lcap p.castSucc hi) s = .next t ∧ failed t 8 0) ∧
        (v % 2 = 1 → s.get (Fld.pluStat.PEER_NODE i) / 256 ≠ s.get Fld.rtCtl.DOMAIN → ∃ t, exec (.lcap p.castSucc hi) s = .next t ∧ t.get (Fld.pluStat.PEER_SW i) = 1 ∧
          (t.lk i).nodeDone = true ∧ (t.lk i).gotLcap = true ∧ t.get (Fld.pluStat.STATE i) = 3 ∧ t.out = s.out ∧ kept t)) ∧
      (s.lState i = 3 → v / 4 % 2 = 0 → l.gotLinit.contains (v % 4) = false →
        let enough (h d : Nat) : Prop := 1 ≤ h ∧ 2 ^ s.get (Fld.pluStat.PEER_MPS i) ≤ d
        (l.gotLcap = false → ∃ t, exec (.linit p.castSucc hi) s = .next t ∧ t.get (Fld.pluCred.PEER_HDR i (v % 4)) = v / 8 % 2 ^ 9 ∧
          t.get (Fld.pluCred.PEER_DATA i (v % 4)) = v / 2 ^ 12 % 2 ^ 12 ∧ (t.lk i).gotLinit = l.gotLinit ++ [v % 4] ∧ t.get (Fld.pluStat.STATE i) = 3 ∧
          t.out = s.out ∧ kept t) ∧
        (l.gotLcap = true → (∀ k ∈ l.gotLinit, enough (s.get (Fld.pluCred.PEER_HDR i k)) (s.get (Fld.pluCred.PEER_DATA i k))) →
          enough (v / 8 % 2 ^ 9) (v / 2 ^ 12 % 2 ^ 12) → l.gotLinit.length = 3 → l.nodeDone = true →
          ∃ t, exec (.linit p.castSucc hi) s = .next t ∧ joined t ∧ t.get (Fld.pluCred.PEER_HDR i (v % 4)) = v / 8 % 2 ^ 9 ∧
            t.get (Fld.pluCred.PEER_DATA i (v % 4)) = v / 2 ^ 12 % 2 ^ 12 ∧ reads t) ∧
        (l.gotLcap = true → ¬enough (v / 8 % 2 ^ 9) (v / 2 ^ 12 % 2 ^ 12) → Watched (1 + i) s →
          ∃ t, exec (.linit p.castSucc hi) s = .next t ∧ failed t 5 (0xF1 + v * 256))) ∧
      (s.lState i = 3 → v / 8 % 32 = 0 → exec (.lasn p.castSucc hi) s = .next s) ∧
      (Watched (1 + i) s → (s.lState i = 1 → l.trained = none → ∃ t, exec (.trainingTimeout p) s = .next t ∧ failed t 1 0) ∧
        (s.lState i = 2 → ∃ t, exec (.peerTimeout p.castSucc) s = .next t ∧ failed t 2 0) ∧
        (s.lState i = 3 → ∃ t, exec (.initTimeout p.castSucc) s = .next t ∧ failed t 3 0)) ∧
      (s.lState i ≠ 1 ∨ l.trained.isSome = true → exec (.trainingTimeout p) s = .next s) ∧ (s.lState i ≠ 2 → exec (.peerTimeout p.castSucc) s = .next s) ∧
      (s.lState i ≠ 3 → exec (.initTimeout p.castSucc) s = .next s) ∧
      (s.lState i = 5 → l.retryHold = true → ∃ t, exec (.retryHoldExpiry p) s = .next t ∧ t.get (Fld.pluStat.STATE i) = (if hold then 5 else 1) ∧
        (t.lk i).retryHold = false ∧ (hold = false → t.get (Fld.pluStat.RELEASED i) = 0 ∧ t.get (Fld.pluCtl.RETRAIN i) = 0) ∧ t.out = s.out ∧ kept t) ∧
      (let settled : Prop := ∀ k, k < 8 → s.get (Fld.pluCtl.EN k) = 0 ∨ (s.lk k).reached = true
       (settled → s.routesLoaded = true → s.fabricReady = false → ∃ t, exec .fabricReady s = .next t ∧ t.fabricReady = true ∧ t.get Fld.dvsec.FABRIC_READY = 1 ∧
          { t with fabricReady := false, regs := s.regs } = s ∧ ∀ r, r ≠ Fld.dvsec.FABRIC_READY.reg → t.reg r = s.reg r) ∧
       ((¬settled ∨ s.routesLoaded = false ∨ s.fabricReady = true) → exec .fabricReady s = .next s)) ∧
      (s.routeBad = false → ∃ t, exec .routeSwap s = .next t ∧ { t with regs := s.regs } = s ∧
        (∀ m, m < 32 → t.reg ⟨.nodeRtA, m, 0⟩ = s.reg ⟨.nodeRt, m, 0⟩ ∧ t.reg ⟨.domRtA, m, 0⟩ = s.reg ⟨.domRt, m, 0⟩) ∧
        ∀ r, r.id ≠ .nodeRtA → r.id ≠ .domRtA → t.reg r = s.reg r)

/-- A Joined link that is lost, held, disabled or retrained goes Down; LCRD returns credits within the advertisement and owed credits go out. -/
def Obligations.PeerLinksGoDown : Prop :=
  ∀ (p : Fin 8) (s : State), Quiet s →
      let i := p.val
      let st := s.lState i
      let n := s.get (Fld.pluStat.ATTEMPTS i)
      let err (t : State) (cause word : Nat) : Prop := Rose (1 + i) s t ∧ t.get (Fld.pluErr.VALID i) = 1 ∧ t.get (Fld.pluErr.CAUSE i) = cause ∧
        t.get (Fld.pluErr.WORD i) = word ∧ t.get (Fld.pluStat.RELEASED i) = 0 ∧ (∀ k, k < 4 → t.get (Fld.pluCred.TX_HDR i k) = 0 ∧ t.get (Fld.pluCred.TX_DATA i k) = 0) ∧
        ∀ k, k ≠ i → t.get (Fld.pluStat.STATE k) = s.get (Fld.pluStat.STATE k)
      let event (t : State) : Prop := t.on (Fld.srcStat.PEND (0x10408 + i)) = true ∧ t.get (Fld.srcStat.CNT (0x10408 + i)) = s.more (Fld.srcStat.CNT (0x10408 + i))
      let next (m : Nat) : Nat := if s.on (Fld.pluCtl.AUTO_RETRAIN i) = true ∧ m < 3 then 5 else 6
      let alone : Prop := s.txn = [] ∧ (s.lk i).fwd = [] ∧ ∀ q, s.on (Fld.dpData.VALID q) = true → s.behind i (s.get (Fld.dpData.NODE q)) = false
      let lost (t : State) (cause word : Nat) : Prop := err t cause word ∧ event t ∧ t.get (Fld.pluStat.ATTEMPTS i) = (n + 1) % 4 ∧
        t.get (Fld.pluStat.STATE i) = next (n + 1) ∧ t.ctx = s.ctx ∧ t.out = s.out
      (Watched (1 + i) s → alone →
        (st = 4 → ∃ t, exec (.linkLoss p) s = .next t ∧ lost t 4 0) ∧
        (∀ w : BitVec 32, wordBad w.toNat = true → 2 ≤ st → st ≤ 4 → ∃ t, exec (.malformedWordArrival p.castSucc w) s = .next t ∧ lost t 5 w.toNat) ∧
        (st = 2 ∨ st = 3 → ∃ t, exec (.linkLoss p) s = .next t ∧ lost t 4 0) ∧
        (∀ hi : BitVec 24, st = 4 → hi.toNat / 4 % 64 = 0 → s.get (Fld.pluCred.PEER_HDR i (hi.toNat % 4)) < s.get (Fld.pluCred.TX_HDR i (hi.toNat % 4)) + hi.toNat / 256 % 256 →
          ∃ t, exec (.lcrd p.castSucc hi) s = .next t ∧ lost t 6 0) ∧
        (s.get (Fld.pluCtl.HOLD i) = 0 →
          (st = 4 → ∃ t, exec (.linkHold p) s = .next t ∧ err t 11 0 ∧ event t ∧ t.get (Fld.pluStat.STATE i) = 5 ∧ t.get (Fld.pluCtl.HOLD i) = 1 ∧
            t.get (Fld.pluStat.ATTEMPTS i) = n ∧ (t.lk i).retryHold = false) ∧
          (1 ≤ st → st ≤ 3 → ∃ t, exec (.linkHold p) s = .next t ∧ err t 11 0 ∧ event t ∧ t.get (Fld.pluStat.STATE i) = 5 ∧ t.get (Fld.pluCtl.HOLD i) = 1 ∧
            t.get (Fld.pluStat.ATTEMPTS i) = n)) ∧
        (s.get (Fld.pluCtl.EN i) = 1 → st = 4 → ∃ t, exec (.linkDisable p) s = .next t ∧ err t 11 0 ∧ event t ∧ t.get (Fld.pluStat.STATE i) = 0 ∧ t.get (Fld.pluCtl.EN i) = 0) ∧
        (s.get (Fld.pluCtl.EN i) = 1 → 1 ≤ st → st ≤ 3 → ∃ t, exec (.linkDisable p) s = .next t ∧ err t 11 0 ∧ t.get (Fld.pluStat.STATE i) = 0 ∧ t.get (Fld.pluCtl.EN i) = 0) ∧
        (s.get (Fld.pluCtl.EN i) = 1 → st = 4 → ∃ t, exec (.linkRetrain p) s = .next t ∧ err t 11 0 ∧ event t ∧ t.get (Fld.pluStat.STATE i) = 5 ∧ (t.lk i).retryHold = true ∧
          t.get (Fld.pluStat.ATTEMPTS i) = 0) ∧
        (s.get (Fld.pluCtl.EN i) = 1 → st = 2 ∨ st = 3 → ∃ t, exec (.linkRetrain p) s = .next t ∧ err t 11 0 ∧ event t ∧ t.get (Fld.pluStat.STATE i) = 5 ∧ (t.lk i).retryHold = true)) ∧
      (∀ w : BitVec 32, wordBad w.toNat = false ∨ st < 2 ∨ 4 < st → exec (.malformedWordArrival p.castSucc w) s = .next s) ∧
      (s.get (Fld.pluCtl.EN i) = 1 → st = 5 → ∃ t, exec (.linkRetrain p) s = .next t ∧ t.get (Fld.pluStat.STATE i) = 5 ∧ t.get (Fld.pluStat.ATTEMPTS i) = 0 ∧
        t.get (Fld.pluCtl.RETRAIN i) = 1 ∧ (s.get (Fld.pluCtl.HOLD i) = 0 → (t.lk i).retryHold = true)) ∧
      (Watched (1 + i) s → st = 4 → (s.lk i).fwd = [] → ∀ tag (x : Txn) c, s.txn = [(tag, x)] → x.purp = .drd c → x.link = some i → x.port.isSome = true →
        (∀ q, s.on (Fld.dpData.VALID q) = true → s.behind i (s.get (Fld.dpData.NODE q)) = false) → (s.cx c).live = true → Unburdened (s.cx c) → (s.cx c).posted = false →
        ∃ t, exec (.linkLoss p) s = .next t ∧ err t 4 0 ∧ EndedWith c 0x31 s t ∧ t.txn = []) ∧
      (Watched (1 + i) s → st = 4 → (s.lk i).fwd = [] → s.txn = [] → s.xfer = [] → (∀ c, (s.cx c).live = false) → ∃ t, exec (.linkLoss p) s = .next t ∧ err t 4 0 ∧
        ∀ q, q < 4096 → s.on (Fld.dpData.VALID q) = true → s.behind i (s.get (Fld.dpData.NODE q)) = true → t.get (Fld.dpData.REMOVED q) = 1) ∧
      (s.get (Fld.pluCtl.HOLD i) = 0 → st = 0 ∨ 5 ≤ st → exec (.linkHold p) s = .next (s.put (Fld.pluCtl.HOLD i) 1)) ∧
      (s.get (Fld.pluCtl.HOLD i) = 1 → st ≠ 5 → exec (.linkHoldClear p) s = .next (s.put (Fld.pluCtl.HOLD i) 0)) ∧
      (s.get (Fld.pluCtl.HOLD i) = 1 → st = 5 → exec (.linkHoldClear p) s =
        .next ((s.put (Fld.pluCtl.HOLD i) 0).setLk i { s.lk i with retryHold := true })) ∧
      (s.get (Fld.pluCtl.EN i) = 1 → st = 5 ∨ st = 6 → ∃ t, exec (.linkDisable p) s = .next t ∧ t.get (Fld.pluStat.STATE i) = 0 ∧ t.get (Fld.pluCtl.EN i) = 0 ∧
        (t.lk i).retryHold = false) ∧
      (s.get (Fld.pluCtl.EN i) = 1 → st = 1 ∨ (st = 6 ∧ s.get (Fld.pluCtl.HOLD i) = 0) → ∃ t, exec (.linkRetrain p) s = .next t ∧ t.get (Fld.pluStat.STATE i) = 1 ∧
        t.get (Fld.pluStat.ATTEMPTS i) = 0 ∧ t.get (Fld.pluCtl.RETRAIN i) = 0) ∧
      (2 ≤ st → st ≤ 4 → ∃ t, exec (.flitCrcError p) s = .next t ∧ t.get (Fld.pluCnt.REPLAY i) = s.more (Fld.pluCnt.REPLAY i) ∧ { t with regs := s.regs } = s ∧
        ∀ r, r ≠ (Fld.pluCnt.REPLAY i).reg → t.reg r = s.reg r) ∧
      (∀ hi : BitVec 24, let vc := hi.toNat % 4
        let h := s.get (Fld.pluCred.TX_HDR i vc) + hi.toNat / 256 % 256
        let d := s.get (Fld.pluCred.TX_DATA i vc) + hi.toNat / 2 ^ 16
        st = 4 → hi.toNat / 4 % 64 = 0 → h ≤ s.get (Fld.pluCred.PEER_HDR i vc) → d ≤ s.get (Fld.pluCred.PEER_DATA i vc) → SMap.get (s.lk i).txq [] vc = [] → SMap.get (s.lk i).txq [] (vc + 4) = [] → s.supdQ = [] →
        ∃ t, exec (.lcrd p.castSucc hi) s = .next t ∧ t.get (Fld.pluCred.TX_HDR i vc) = h ∧ t.get (Fld.pluCred.TX_DATA i vc) = d ∧
          (∀ r, r.id = .pluCred → r ≠ (Fld.pluCred.TX_HDR i vc).reg → t.reg r = s.reg r) ∧ OnlyRegs [.pluCred] s t) ∧
      (∀ vc : Fin 4, let h := Nat.min 255 (SMap.get (s.lk i).owedHdr 0 vc.val)
        let d := Nat.min 255 (SMap.get (s.lk i).owedData 0 vc.val)
        st = 4 → SMap.wf (s.lk i).owedHdr 0 = true → SMap.wf (s.lk i).owedData 0 = true →
        (0 < h + d → ∃ t, exec (.lcrdDue p.castSucc vc) s = .next t ∧ t.out = .word i 0xF0 (0xF0 + (vc.val + h * 2 ^ 8 + d * 2 ^ 16) * 256) :: s.out ∧
          SMap.get (t.lk i).owedHdr 0 vc.val = SMap.get (s.lk i).owedHdr 0 vc.val - h ∧ SMap.get (t.lk i).owedData 0 vc.val = SMap.get (s.lk i).owedData 0 vc.val - d ∧
          { t with link := s.link, out := s.out } = s) ∧
        (h + d = 0 → exec (.lcrdDue p.castSucc vc) s = .next s))

/-- Requests that arrive over a peer link read and write the banks its owner code holds, are answered, forwarded, or rejected by rule. -/
def Obligations.RequestsOfPeersAreServed : Prop :=
  ∀ (i : Fin 10) (p : Pkt) (s : State), Quiet s → i.val < 8 → pktShape p = true → s.lState i.val = 4 → malformedWord p = none →
      (s.owe i.val p.vc (dataCredits p)).isSome = true →
      let f := i.val
      let at_ := 4 * p.addr
      let rvc := if p.vc = 1 then 2 else p.vc
      let out (t : State) (l : List Out) : Prop := ∃ w, t.out = l ++ w ++ s.out ∧ ∀ o ∈ w, ∃ hi, o = .word f 0xF0 hi
      let same (t : State) : Prop := t.ctx = s.ctx ∧ t.xfer = s.xfer ∧ t.cpl = s.cpl ∧ t.txn = s.txn
      let kept (ids : List RegId) (t : State) : Prop := same t ∧ RegsKept ([.pcmStat, .srcStat, .pluCred] ++ ids) s t
      let back (c d : Nat) (l k : Nat) : Prop := s.route p.src 15 9 = .link l k ∧ SMap.get (s.lk l).txq [] (rvc + 4) = [] ∧
        c ≤ s.get (Fld.pluCred.TX_HDR l rvc) ∧ d ≤ s.get (Fld.pluCred.TX_DATA l rvc)
      let cpl (cst l k : Nat) : Out := .pkt l { type := 0x80, vc := rvc, hops := k, dst := p.src, src := s.selfNode, tag := p.tag, fbe := 0, lbe := 0, cst := cst }
      let xrsp (cst l k : Nat) : Out := .pkt l { type := 0xC4, vc := rvc, hops := k, dst := p.src, src := s.selfNode, tag := p.tag, fbe := 0, lbe := 0, cst := cst }
      let bank := (at_ - 0x10000000000) / 0x40000
      let owned : Prop := 0x10000000000 ≤ at_ ∧ bank < 528 ∧ s.get (Fld.bankOwn.STATE bank) = bankOwned ∧ s.get (Fld.bankOwn.OWNER bank) = 0x3000 + f
      (s.srcOk f p.src = true → s.route p.dst p.hops f = .self → (s.lk f).fwd = [] →
        (∀ l k, back 1 1 l k → reqBad p = false → p.fbe = 15 → (p.len ≤ 1 ∨ p.lbe = 15) → p.len ≤ 16 → at_ / 64 = (at_ + 4 * p.len - 1) / 64 → owned →
          64 ≤ s.mpsOf p.src → p.type = 0x20 → ∃ t, exec (.mrd i p) s = .next t ∧
          out t [.pkt l { type := 0xC0, vc := rvc, hops := k, dst := p.src, src := s.selfNode, tag := p.tag, len := p.len, fbe := 0, lbe := 0,
                          woff := 0, last := true, data := Memory.readN s.spm (at_ - 0x10000000000) (4 * p.len) }] ∧ t.spm = s.spm ∧ same t) ∧
        (p.type = 0x60 → reqBad p = false → p.poison = false → owned → (pktSpan p).1 / 0x40000 = at_ / 0x40000 →
          ∃ t, exec (.mwr i p) s = .next t ∧ out t [] ∧ kept [] t ∧
            t.spm = Memory.writeL s.spm ((pktSpan p).1 - 0x10000000000) ((p.data.drop ((pktSpan p).1 - at_)).take (pktSpan p).2)) ∧
        (∀ l k, back 1 0 l k → p.type = 0x61 → reqBad p = false → p.poison = false → owned → (pktSpan p).1 / 0x40000 = at_ / 0x40000 →
          ∃ t, exec (.mwrn i p) s = .next t ∧ out t [cpl 0 l k] ∧ kept [] t ∧
            t.spm = Memory.writeL s.spm ((pktSpan p).1 - 0x10000000000) ((p.data.drop ((pktSpan p).1 - at_)).take (pktSpan p).2)) ∧
        (∀ l k, back 1 0 l k → (pktSpan p).1 < 0x10000000000 → reqBad p = false →
          (p.type = 0x20 → ∃ t, exec (.mrd i p) s = .next t ∧ out t [cpl 0x11 l k] ∧ kept [] t) ∧
          (p.type = 0x60 → ∃ t, exec (.mwr i p) s = .next t ∧ out t [] ∧ kept [] t ∧ t.spm = s.spm) ∧
          (p.type = 0x61 → p.poison = false → ∃ t, exec (.mwrn i p) s = .next t ∧ out t [cpl 0x11 l k] ∧ kept [] t ∧ t.spm = s.spm)) ∧
        (∀ l k, back 1 0 l k → reqBad p = false →
          (p.type = 0x62 → ∃ t, exec (.dcmdPacket i p) s = .next t ∧ out t [cpl 0x10 l k] ∧ kept [] t) ∧
          (p.type = 0x70 → ∃ t, exec (.xreq i p) s = .next t ∧ out t [xrsp 0x10 l k] ∧ kept [] t)) ∧
        (∀ l k, back 1 0 l k → reqBad p = true → let bad (t : State) : Prop := t.get Fld.txnStat.BAD_REQ = s.more Fld.txnStat.BAD_REQ ∧ t.spm = s.spm ∧ kept [.txnStat] t
          (p.type = 0x20 → ∃ t, exec (.mrd i p) s = .next t ∧ out t [cpl 0x11 l k] ∧ bad t) ∧ (p.type = 0x60 → ∃ t, exec (.mwr i p) s = .next t ∧ out t [] ∧ bad t) ∧
          (p.type = 0x61 → ∃ t, exec (.mwrn i p) s = .next t ∧ out t [cpl 0x11 l k] ∧ bad t) ∧ (p.type = 0x62 → ∃ t, exec (.dcmdPacket i p) s = .next t ∧ out t [cpl 0x11 l k] ∧ bad t) ∧
          (p.type = 0x68 → ∃ t, exec (.supd i p) s = .next t ∧ out t [] ∧ bad t) ∧ (p.type = 0x70 → ∃ t, exec (.xreq i p) s = .next t ∧ out t [xrsp 0x11 l k] ∧ bad t)) ∧
        (p.type = 0x68 → reqBad p = false → p.poison = false →
          (∀ q, s.supdPorts p = [q] → s.postedAhead p.src ≠ [] → ∃ t, exec (.supd i p) s = .next t ∧ out t [] ∧ kept [] t ∧ t.supdQ = s.supdQ ++ [(p, s.postedAhead p.src)]) ∧
          (∀ q, s.supdPorts p = [q] → s.postedAhead p.src = [] → s.supdQ = [] → p.addr % 16 + p.len ≤ 16 → ∃ t, exec (.supd i p) s = .next t ∧ out t [] ∧ same t ∧
            ∀ w, w < 16 → (t.reg ⟨.dpImage, q, w / 2⟩).toNat / 2 ^ (32 * (w % 2)) % 2 ^ 32 =
              if p.addr % 16 ≤ w ∧ w < p.addr % 16 + p.len then ofBytes ((p.data.drop (4 * (w - p.addr % 16))).take 4)
              else (s.reg ⟨.dpImage, q, w / 2⟩).toNat / 2 ^ (32 * (w % 2)) % 2 ^ 32) ∧
          (s.supdPorts p = [] → s.postedAhead p.src = [] → s.supdQ = [] → ∃ t, exec (.supd i p) s = .next t ∧ out t [] ∧ t.get Fld.dpStat.SUPD_DROP = s.more Fld.dpStat.SUPD_DROP ∧ kept [.dpStat] t))) ∧
      (s.srcOk f p.src = true → p.type = 0x60 →
        (∀ l k, s.route p.dst p.hops f = .link l k → 64 * 2 ^ s.get (Fld.pluStat.PEER_MPS l) < p.data.length → ∃ t, exec (.mwr i p) s = .next t ∧ out t [] ∧
          t.get (Fld.pluCnt.UNROUTED f) = s.more (Fld.pluCnt.UNROUTED f) ∧ kept [.pluCnt] t) ∧
        (∀ l k, s.route p.dst p.hops f = .link l k → p.data.length ≤ 64 * 2 ^ s.get (Fld.pluStat.PEER_MPS l) → SMap.get (s.lk l).txq [] p.vc = [] → 1 ≤ s.get (Fld.pluCred.TX_HDR l p.vc) →
          dataCredits p ≤ s.get (Fld.pluCred.TX_DATA l p.vc) → ∃ t, exec (.mwr i p) s = .next t ∧ out t [.pkt l { p with hops := k }] ∧ kept [] t) ∧
        (s.route p.dst p.hops f = .unroutable → ∃ t, exec (.mwr i p) s = .next t ∧ out t [] ∧ t.get (Fld.pluCnt.UNROUTED f) = s.more (Fld.pluCnt.UNROUTED f) ∧ kept [.pluCnt] t) ∧
        (s.route p.dst p.hops f = .hopExhausted → ∃ t, exec (.mwr i p) s = .next t ∧ out t [] ∧ t.get (Fld.pluCnt.HOP_DROP f) = s.more (Fld.pluCnt.HOP_DROP f) ∧ kept [.pluCnt] t) ∧
        (s.route p.dst p.hops f = .host → s.get (Fld.hpuPeer.EN f) = 1 → s.get Fld.hpuStat.MODE = 0 → reqBad p = false → p.poison = false → s.hostOk (s.get (Fld.hpuPeer.FUNC f)) = true →
          s.watchHits none (s.get (Fld.hpuPeer.FUNC f)) (linesOf (pktSpan p).1 ((p.data.drop ((pktSpan p).1 - at_)).take (pktSpan p).2).length) = [] →
          ∃ t, exec (.mwr i p) s = .next t ∧ kept [] t ∧
            (let a := s.hostAddr (s.get (Fld.hpuPeer.FUNC f)) (pktSpan p).1
             out t [.hostWrite (s.get (Fld.hpuPeer.FUNC f)) a.1 a.2 ((p.data.drop ((pktSpan p).1 - at_)).take (pktSpan p).2)])) ∧
        (s.route p.dst p.hops f = .host → s.get (Fld.hpuPeer.EN f) = 0 → ∃ t, exec (.mwr i p) s = .next t ∧ out t [] ∧
          t.get Fld.hpuStat.PEER_DROP = s.more Fld.hpuStat.PEER_DROP ∧ kept [.hpuStat] t)) ∧
      (s.srcOk f p.src = false → p.type = 0x60 → ∃ t, exec (.mwr i p) s = .next t ∧ out t [] ∧ t.spm = s.spm ∧
        t.get (Fld.pluCnt.SRC_VIOL f) = s.more (Fld.pluCnt.SRC_VIOL f) ∧ t.get (Fld.srcLog.VALID f) = 1 ∧
        (s.get (Fld.srcLog.VALID f) = 0 → t.get (Fld.srcLog.SRC f) = p.src ∧ t.get (Fld.srcLog.DST f) = p.dst ∧ t.get (Fld.srcLog.TYPE f) = 0x60) ∧ kept [.pluCnt, .srcLog] t)

/-- A request that times out ends its program; port entries take writes only while not valid; REMOVE and RESTORE set and clear REMOVED. -/
def Obligations.PortsAndTimeouts : Prop :=
  ∀ s : State, Quiet s →
      (∀ (tag : Fin 4096) (x : Txn) (c : Nat), s.txnOf tag.val = some x → (s.cx c).live = true → Unburdened (s.cx c) → (s.cx c).posted = false →
        (x.purp = .drd c → x.port.isSome = true → ∃ t, exec (.transactionTimeout tag) s = .next t ∧ EndedWith c 0x30 s t ∧
          t.get Fld.txnStat.TIMEOUTS = s.more Fld.txnStat.TIMEOUTS ∧ t.txnOf tag.val = some { x with purp := .late }) ∧
        (∀ n, x.purp = .ext c n → ∃ t, exec (.transactionTimeout tag) s = .next t ∧ EndedWith c 0x51 s t ∧
          t.get Fld.txnStat.TIMEOUTS = s.more Fld.txnStat.TIMEOUTS ∧ t.get Fld.extCnt.TIMEOUTS = s.more Fld.extCnt.TIMEOUTS ∧ t.txnOf tag.val = some { x with purp := .late })) ∧
      (∀ tag : Fin 4096, (∀ x, s.txnOf tag.val = some x → x.purp = .late) → exec (.transactionTimeout tag) s = .next s) ∧
      (∀ (w : Fin 4) (val : BitVec 64),
        let p := s.get Fld.dpSel.PORT
        let r : Reg := ⟨.dpData, p, w.val⟩
        reservedIn r val = false →
        let m : Word := match w.val with | 0 => 0x00000FFFFFFF3FFD | 1 => 0xFFFFFFFFFFFFF000 | _ => 0x0000FFFFFFFFFFFF
        let new := (s.reg r &&& ~~~m) ||| (val &&& m)
        let valid : Prop := s.get (Fld.dpData.VALID p) = 1
        let only (t : State) (q : Reg) : Prop := { t with regs := s.regs } = s ∧ ∀ r', r' ≠ q → t.reg r' = s.reg r'
        (¬valid → (w.val ≠ 0 ∨ new.getLsbD 0 = false) → ∃ t, exec (.dpDataWrite w val) s = .next t ∧ t.reg r = new ∧ only t r) ∧
        (¬valid → w.val = 0 → new.getLsbD 0 = true → (s.setReg r new).portClash p = false → s.reachable (new.toNat / 2 ^ 16 % 2 ^ 16) = true → ∃ t, exec (.dpDataWrite w val) s = .next t ∧
          t.reg r = new &&& ~~~2#64 ∧ only t r) ∧
        (¬valid → w.val = 0 → new.getLsbD 0 = true → (s.setReg r new).portClash p = false → s.reachable (new.toNat / 2 ^ 16 % 2 ^ 16) = false → s.xfer = [] → (∀ c, (s.cx c).live = false) →
          ∃ t, exec (.dpDataWrite w val) s = .next t ∧ t.get (Fld.dpData.VALID p) = 1 ∧ t.get (Fld.dpData.REMOVED p) = 1) ∧
        (valid → new ≠ s.reg r → (w.val ≠ 0 ∨ new ≠ s.reg r &&& ~~~1#64 ∨ s.get (Fld.dpData.REMOVED p) = 0) →
          ∃ t, exec (.dpDataWrite w val) s = .next t ∧ t.get Fld.dpStat.REJECT = 1 ∧ only t Fld.dpStat.REJECT.reg) ∧
        (valid → new = s.reg r → exec (.dpDataWrite w val) s = .next s) ∧
        (valid → w.val = 0 → new ≠ s.reg r → new = s.reg r &&& ~~~1#64 → s.get (Fld.dpData.REMOVED p) = 1 →
          ∃ t, exec (.dpDataWrite w val) s = .next t ∧ t.get (Fld.dpData.VALID p) = 0 ∧ t.reg r = new ∧ only t r)) ∧
      (∀ q : Fin 4096,
        let p := q.val
        let tells (t : State) (res : Nat) : Prop := t.get Fld.dpCmd.PORT = p ∧ t.get Fld.dpCmd.RESULT = res
        let shown (c : Instr) (res : Nat) : Prop := ∃ t, exec c s = .next t ∧ tells t res ∧ OnlyRegs [.dpCmd] s t
        let valid : Prop := s.get (Fld.dpData.VALID p) = 1
        (¬valid → shown (.portRemove q) 2 ∧ shown (.portRestore q) 2) ∧ (valid → s.get (Fld.dpData.REMOVED p) = 1 → shown (.portRemove q) 0) ∧
        (valid → s.get (Fld.dpData.REMOVED p) = 0 → shown (.portRestore q) 4) ∧
        (valid → s.get (Fld.dpData.REMOVED p) = 1 → s.reachable (s.get (Fld.dpData.NODE p)) = false → shown (.portRestore q) 3) ∧
        (valid → s.get (Fld.dpData.REMOVED p) = 1 → s.reachable (s.get (Fld.dpData.NODE p)) = true → ∃ t, exec (.portRestore q) s = .next t ∧ tells t 0 ∧
          t.get (Fld.dpData.REMOVED p) = 0 ∧ t.get (Fld.dpData.GEN p) = s.get (Fld.dpData.GEN p) ∧ t.get (Fld.dpData.VALID p) = 1 ∧
          OnlyRegs [.dpCmd, .dpData] s t ∧ ∀ r, r ≠ (Fld.dpData.REMOVED p).reg → r ≠ Fld.dpCmd.PORT.reg → t.reg r = s.reg r) ∧
        (valid → s.get (Fld.dpData.REMOVED p) = 0 → s.xfer = [] →
          (∀ e ∈ s.txn, ∀ g, e.2.port = some (p, g) → e.2.purp.isGone = true ∨ ∃ c, e.2.purp.ofCtx c = true ∧ (s.cx c).live = true ∧ s.dependsOn c p = true) →
          let gone (t : State) : Prop := tells t 0 ∧ t.get (Fld.dpData.REMOVED p) = 1 ∧ t.get (Fld.dpData.GEN p) = (s.get (Fld.dpData.GEN p) + 1) % 2 ^ 8 ∧
            ∀ k, k < 8 → t.reg ⟨.dpImage, p, k⟩ = 0
          ((∀ c, (s.cx c).live = true → s.dependsOn c p = false) → ∃ t, exec (.portRemove q) s = .next t ∧ gone t ∧ t.ctx = s.ctx ∧ t.cpl = s.cpl) ∧
          (∀ c, (s.cx c).live = true → s.dependsOn c p = true → (∀ c', (s.cx c').live = true → s.dependsOn c' p = true → c' = c) → Unburdened (s.cx c) →
            (s.cx c).posted = false → ∃ t, exec (.portRemove q) s = .next t ∧ gone t ∧ EndedWith c 0x31 s t)))

/-- GRANT, RELEASE and HANDOVER move a bank between its states, with CLEAR by way of zeroes; the test borrows, zeroes free chunks, and fails banks. -/
def Obligations.BanksChangeOwnersAndAreTested : Prop :=
  ∀ (bank : BitVec 10) (owner : BitVec 16) (clear tok notify : Bool) (s : State), Quiet s →
      let b := bank.toNat
      let o := owner.toNat
      let bit (x : Bool) : Nat := if x then 1 else 0
      let st := s.get (Fld.bankOwn.STATE b)
      let told (t : State) : Prop := t.get (Fld.srcStat.CNT 0x10405) = if notify then s.more (Fld.srcStat.CNT 0x10405) else s.get (Fld.srcStat.CNT 0x10405)
      let others (t : State) : Prop := ∀ k, k ≠ b → t.reg ⟨.bankOwn, k, 0⟩ = s.reg ⟨.bankOwn, k, 0⟩
      let kept (t : State) : Prop := others t ∧ t.spm = s.spm ∧ t.ctx = s.ctx ∧ t.out = s.out
      let no (c : Instr) (r : Nat) : Prop := ∃ t, exec c s = .next t ∧ t.get Fld.bankCmd.RESULT = r ∧ OnlyRegs [.bankCmd] s t
      (s.get Fld.bankCmd.BUSY = 1 → no (.bankGrant bank owner tok notify) 1 ∧ no (.bankRelease bank clear notify) 1 ∧ no (.bankHandover bank owner clear tok notify) 1) ∧
      (s.get Fld.bankCmd.BUSY = 0 →
        ((528 ≤ b ∨ ownerOk false o = false) → no (.bankGrant bank owner tok notify) 3 ∧ no (.bankHandover bank owner clear tok notify) 3) ∧
        (528 ≤ b → no (.bankRelease bank clear notify) 3) ∧
        (b < 528 → (ownerOk false o = true → st ≠ 0 → no (.bankGrant bank owner tok notify) 2) ∧ (ownerOk false o = true → st ≠ 1 → no (.bankHandover bank owner clear tok notify) 2) ∧
          (st ≠ 1 → no (.bankRelease bank clear notify) 2)) ∧
        (b < 528 → ownerOk false o = true → st = 0 → ∃ t, exec (.bankGrant bank owner tok notify) s = .next t ∧ t.get Fld.bankCmd.RESULT = 0 ∧
          t.get Fld.bankCmd.BUSY = 0 ∧ t.get (Fld.bankOwn.OWNER b) = o ∧ t.get (Fld.bankOwn.STATE b) = 1 ∧ t.get (Fld.bankOwn.TEST_OK b) = bit tok ∧ told t ∧ kept t) ∧
        (b < 528 → st = 1 →
          let begun (t : State) : Prop := t.get Fld.bankCmd.RESULT = 0 ∧ t.get Fld.bankCmd.BUSY = 1 ∧ t.get (Fld.bankOwn.STATE b) = 2 ∧ t.get (Fld.bankOwn.BORROWED b) = 0 ∧ kept t
          let wiped (t u : State) : Prop := u.get (Fld.bankOwn.STATE b) = 3 ∧ u.get Fld.bankCmd.BUSY = 1 ∧ (∀ e ∈ u.spm, e.1 / 0x40000 ≠ b) ∧
            u.spm = s.spm.filter (fun e => e.1 / 0x40000 != b) ∧ others u ∧ u.get (Fld.srcStat.CNT 0x10405) = t.get (Fld.srcStat.CNT 0x10405)
          let freed (u : State) : Prop := u.get Fld.bankCmd.BUSY = 0 ∧ u.get (Fld.bankOwn.STATE b) = 0 ∧ u.get (Fld.bankOwn.OWNER b) = 0 ∧ told u ∧ others u
          let given (u : State) : Prop := u.get Fld.bankCmd.BUSY = 0 ∧ u.get (Fld.bankOwn.STATE b) = 1 ∧ u.get (Fld.bankOwn.OWNER b) = o ∧
            u.get (Fld.bankOwn.TEST_OK b) = bit tok ∧ told u ∧ others u
          (∃ t, exec (.bankRelease bank clear notify) s = .next t ∧ begun t ∧
            (clear = false → ∃ u, exec .bankReleaseComplete t = .next u ∧ freed u ∧ u.spm = s.spm) ∧
            (clear = true → ∃ u v, exec .bankReleaseComplete t = .next u ∧ wiped t u ∧ exec .bankReleaseComplete u = .next v ∧ freed v ∧ v.spm = u.spm)) ∧
          (ownerOk false o = true → ∃ t, exec (.bankHandover bank owner clear tok notify) s = .next t ∧ begun t ∧
            (clear = false → ∃ u, exec .bankReleaseComplete t = .next u ∧ given u ∧ u.spm = s.spm) ∧
            (clear = true → ∃ u v, exec .bankReleaseComplete t = .next u ∧ wiped t u ∧ exec .bankReleaseComplete u = .next v ∧ given v ∧ v.spm = u.spm)))) ∧
      (∀ (bad : Option (BitVec 18)) (urgent : Bool),
        let k := s.get Fld.testStat.BANK
        let ch := s.get Fld.testStat.CHUNK + 1
        (s.get Fld.spmCtl.TEST_EN = 0 → s.get (Fld.bankOwn.BORROWED k) = 1 → ∃ t, exec (.testStep bad urgent) s = .next t ∧ t.get (Fld.bankOwn.BORROWED k) = 0 ∧
          t.get Fld.testStat.ACTIVE = 0 ∧ OnlyRegs [.bankOwn, .testStat] s t) ∧
        (s.get Fld.spmCtl.TEST_EN = 1 → s.get Fld.testStat.ACTIVE = 1 → SMap.get s.testHold 0 k = 0 → ch ≤ 63 →
          (s.get (Fld.bankOwn.STATE k) = 0 ∨ (s.get (Fld.bankOwn.STATE k) = 1 ∧ s.get (Fld.bankOwn.TEST_OK k) = 1)) →
          let did (t : State) : Prop := t.get Fld.testStat.BANK = k ∧ t.get Fld.testStat.CHUNK = ch ∧ t.ctx = s.ctx ∧ t.out = s.out ∧
            t.spm = if s.get (Fld.bankOwn.STATE k) = 0 then s.spm.filter (fun e => e.1 / 0x1000 != k * 64 + ch) else s.spm
          (bad = none → ch < 63 → urgent = false → ∃ t, exec (.testStep bad urgent) s = .next t ∧ did t ∧ t.get Fld.testStat.ACTIVE = 1 ∧ t.get (Fld.bankOwn.BORROWED k) = 1 ∧
            t.get Fld.testStat.PASSES = s.get Fld.testStat.PASSES) ∧
          (bad = none → ch = 63 → ∃ t, exec (.testStep bad urgent) s = .next t ∧ did t ∧ t.get Fld.testStat.ACTIVE = 0 ∧ t.get (Fld.bankOwn.BORROWED k) = 0 ∧
            t.get Fld.testStat.PASSES = (s.get Fld.testStat.PASSES + 1) % 2 ^ 32) ∧
          (bad = none → ch < 63 → urgent = true → ∃ t, exec (.testStep bad urgent) s = .next t ∧ did t ∧ t.get Fld.testStat.ACTIVE = 0 ∧ t.get (Fld.bankOwn.BORROWED k) = 0 ∧
            t.get Fld.spmStat.YIELDS = s.more Fld.spmStat.YIELDS) ∧
          (∀ a, bad = some a → Watched 31 s → ∃ t, exec (.testStep bad urgent) s = .next t ∧ did t ∧ t.get (Fld.bankOwn.STATE k) = bankFailed ∧
            t.get Fld.testStat.ACTIVE = 0 ∧ t.get Fld.eccLog.VALID = 1 ∧ t.get Fld.eccLog.BANK = k ∧ t.get Fld.eccLog.OFFSET = a.toNat ∧ t.get Fld.eccLog.TEST = 1 ∧
            Rose 31 s t)))

/-- A FIFO stores pushed words, returns them in order, keeps marks and packets, marks gaps, and shows its watermarks and XOFF. -/
def Obligations.EventFifosHoldTheirWords : Prop :=
  ∀ (f : Fin 64) (req src : BitVec 16) (s : State), Quiet s →
      let i := f.val
      let wr := s.get (Fld.fifoPtr.WR i)
      let rd := s.get (Fld.fifoPtr.RD i)
      let lv := (wr + 8192 - s.get (Fld.fifoPtr.REL i)) % 8192
      let un := (wr + 8192 - rd) % 8192
      let hi := s.get (Fld.fifoWm.HI_WM i)
      let lo := s.get (Fld.fifoWm.LO_WM i)
      let mayPush : Prop := s.get (Fld.fifoCfg.EN i) = 1 ∧ ownMatch (s.get (Fld.fifoCfg.PROD i)) req.toNat = true ∧ s.get (Fld.fifoStat.BROKEN i) = 0
      let mayPop : Prop := s.get (Fld.fifoCfg.EN i) = 1 ∧ ownMatch (s.get (Fld.fifoCfg.CONS i)) req.toNat = true
      let ptr (t : State) (w r l m : Nat) : Prop := t.get (Fld.fifoPtr.WR i) = w ∧ t.get (Fld.fifoPtr.RD i) = r ∧ t.get (Fld.fifoPtr.REL i) = l ∧
        t.get (Fld.fifoPtr.MARK i) = m
      let rel := s.get (Fld.fifoPtr.REL i)
      let mk := s.get (Fld.fifoPtr.MARK i)
      let kept (t : State) : Prop := RegsKept [.fifoPtr, .fifoPtrB, .fifoStat, .fifoCnt, .srcStat] s t ∧ t.spm = s.spm ∧ t.ctx = s.ctx ∧
        ∀ k, k ≠ i → (t.reg ⟨.fifoPtr, k, 0⟩ = s.reg ⟨.fifoPtr, k, 0⟩ ∧ t.reg ⟨.fifoStat, k, 0⟩ = s.reg ⟨.fifoStat, k, 0⟩)
      let word := SMap.get s.fifoMem 0 (i * 4096 + rd % 4096)
      let base := 0x020000000000 + i * 0x1000
      (∀ (d : List Byte), d.length = 16 → mayPush → s.get (Fld.fifoStat.DROP_PKT i) = 0 → s.get (Fld.fifoStat.GAP_PEND i) = 0 → s.get (Fld.fifoCfg.EVB_EN i) = 0 →
        let v := ofBytes d
        let stop := v.testBit 112
        let off : BitVec 12 := 496
        (lv < 4096 → ∃ t, exec (.fifoPush f req src off d) s = .next t ∧ ptr t ((wr + 1) % 8192) rd rel mk ∧ t.out = s.out ∧ kept t ∧
          (SMap.get t.fifoMem 0 (i * 4096 + wr % 4096)).toNat = v % 2 ^ 96 + src.toNat * 2 ^ 96 + (if stop then 2 ^ 112 else 0) + (s.fd i).seq % 64 * 2 ^ 122 ∧
          (∀ k, k ≠ i * 4096 + wr % 4096 → SMap.get t.fifoMem 0 k = SMap.get s.fifoMem 0 k) ∧ (t.fd i).seq = ((s.fd i).seq + 1) % 64 ∧
          t.get (Fld.fifoStat.PKT_CNT i) = (s.get (Fld.fifoStat.PKT_CNT i) + if stop then 1 else 0) % 2 ^ 13 ∧
          t.get (Fld.fifoStat.HI_SEEN i) = (if lv < hi ∧ hi ≤ lv + 1 then 1 else s.get (Fld.fifoStat.HI_SEEN i)) ∧
          t.get (Fld.fifoStat.LO_SEEN i) = s.get (Fld.fifoStat.LO_SEEN i) ∧
          t.get (Fld.fifoStat.XSTATE i) = (if hi ≤ lv + 1 then 1 else if lv + 1 ≤ lo then 0 else s.get (Fld.fifoStat.XSTATE i))) ∧
        (4096 ≤ lv → ∃ t, exec (.fifoPush f req src off d) s = .next t ∧ ptr t wr rd rel mk ∧ t.fifoMem = s.fifoMem ∧ t.out = s.out ∧ kept t ∧
          t.get (Fld.fifoCnt.DROPS i) = s.more (Fld.fifoCnt.DROPS i) ∧ t.get (Fld.fifoStat.GAP_PEND i) = 1 ∧
          t.get (Fld.fifoStat.DROP_PKT i) = (if stop then 0 else 1) ∧ (t.fd i).dropSrc = src.toNat ∧ (t.fd i).dropped = 1)) ∧
      (mayPop → s.get (Fld.fifoStat.BROKEN i) = 0 → s.get (Fld.fifoCfg.EVB_EN i) = 0 →
        (0 < un → ∃ t, exec (.fifoPop f req 0x410 8) s = .next t ∧ t.out = .rdata (base + 0x410) (word.toNat % 2 ^ 64) :: s.out ∧ kept t ∧
          ptr t wr ((rd + 1) % 8192) (if s.get (Fld.fifoStat.MARK_ACT i) = 1 then rel else (rd + 1) % 8192) mk ∧
          t.get (Fld.fifoStat.PKT_CNT i) = (if word.getLsbD 112 then s.get (Fld.fifoStat.PKT_CNT i) - 1 else s.get (Fld.fifoStat.PKT_CNT i)) ∧ t.fifoMem = s.fifoMem) ∧
        (un = 0 → ∃ t, exec (.fifoPop f req 0x410 8) s = .next t ∧ t.out = .rdata (base + 0x410) 0 :: s.out ∧ ptr t wr rd rel mk ∧ kept t ∧
          t.get (Fld.fifoCnt.EMPTY_RD i) = s.more (Fld.fifoCnt.EMPTY_RD i)) ∧
        (0 < un → word.toNat < 2 ^ 128 → word.toNat / 2 ^ 116 % 64 = 0 → ∃ t, exec (.fifoPeek f req) s = .next t ∧ ptr t wr rd rel mk ∧ kept t ∧
          t.out = .rdata (base + 0x418) (word.toNat / 2 ^ 64 + i * 2 ^ 52) :: s.out) ∧
        (∀ g : Fin 8, 0 < un → s.get (Fld.fifoCfg.GROUP i) = g.val →
          (∀ k, k < 64 → k ≠ i → s.get (Fld.fifoCfg.GROUP k) = g.val → s.fMayPop k req.toNat = true → 0 < s.fUnread k →
            s.get (Fld.fifoCfg.FPRI i) < s.get (Fld.fifoCfg.FPRI k) ∨ (s.get (Fld.fifoCfg.FPRI i) = s.get (Fld.fifoCfg.FPRI k) ∧ i < k)) →
          ∃ t, exec (.groupPop g req 0x410 8) s = .next t ∧ t.out = .rdata (0x020000080000 + g.val * 0x1000 + 0x410) (word.toNat % 2 ^ 64) :: s.out ∧
            t.get (Fld.fifoPtr.RD i) = (rd + 1) % 8192 ∧ kept t)) ∧
      (∀ g : Fin 8, (∀ k, k < 64 → s.get (Fld.fifoCfg.GROUP k) ≠ g.val ∨ s.fMayPop k req.toNat = false ∨ s.fUnread k = 0) →
        ∃ t, exec (.groupPop g req 0x410 8) s = .next t ∧ t.out = .rdata (0x020000080000 + g.val * 0x1000 + 0x410) 0 :: s.out ∧ OnlyRegs [] { s with out := t.out } t) ∧
      (∀ who : Option (BitVec 16), (∀ r, who = some r → s.get (Fld.fifoCfg.EN i) = 1 ∧ ownMatch (s.get (Fld.fifoCfg.CONS i)) r.toNat = true) →
        (∃ t, exec (.fifoMark f who) s = .next t ∧ ptr t wr rd rd rd ∧ t.get (Fld.fifoStat.MARK_ACT i) = 1 ∧ kept t ∧ t.out = s.out) ∧
        (s.get (Fld.fifoStat.MARK_ACT i) = 1 → s.get (Fld.fifoCfg.EVB_EN i) = 0 → ∃ t, exec (.fifoRewind f who) s = .next t ∧ ptr t wr mk rel mk ∧ kept t ∧
          t.get (Fld.fifoStat.PKT_CNT i) = s.fEnds i mk ((wr + 8192 - mk) % 8192) % 2 ^ 13 ∧ t.get (Fld.fifoStat.MARK_ACT i) = 1 ∧ t.out = s.out) ∧
        (s.get (Fld.fifoStat.MARK_ACT i) = 0 → ∃ t, exec (.fifoRewind f who) s = .next t ∧ ptr t wr rd rel mk ∧ OnlyRegs [] s t) ∧
        (∃ t, exec (.fifoRelease f who) s = .next t ∧ ptr t wr rd rd mk ∧ t.get (Fld.fifoStat.MARK_ACT i) = 0 ∧ kept t ∧ t.out = s.out)) ∧
      (s.fMayPop i req.toNat = false → let bad (c : Instr) : Prop := ∃ t, exec c s = .next t ∧ t.get (Fld.fifoCnt.BAD_ACC i) = s.more (Fld.fifoCnt.BAD_ACC i) ∧ OnlyRegs [.fifoCnt] s t
        bad (.fifoPop f req 0x410 8) ∧ bad (.fifoPeek f req) ∧ bad (.fifoMark f (some req)) ∧ bad (.fifoRewind f (some req)) ∧ bad (.fifoRelease f (some req))) ∧
      (¬mayPush → ∀ d, d.length = 16 → ∃ t, exec (.fifoPush f req src 0 d) s = .next t ∧ t.get (Fld.fifoCnt.BAD_ACC i) = s.more (Fld.fifoCnt.BAD_ACC i) ∧ OnlyRegs [.fifoCnt] s t) ∧
      (let zeroed (t : State) : Prop := ptr t 0 0 0 0 ∧ t.reg ⟨.fifoPtrB, i, 0⟩ = 0 ∧ ∀ g ∈ [Fld.fifoStat.MARK_ACT i, Fld.fifoStat.GAP_PEND i, Fld.fifoStat.DROP_PKT i,
          Fld.fifoStat.BROKEN i, Fld.fifoStat.XSTATE i, Fld.fifoStat.PKT_CNT i], t.get g = 0
       s.get (Fld.fifoCfg.EVB_EN i) = 0 →
       (∃ t, exec (.fifoReset f) s = .next t ∧ zeroed t ∧ t.get (Fld.fifoStat.HI_SEEN i) = s.get (Fld.fifoStat.HI_SEEN i) ∧
          t.get (Fld.fifoStat.LO_SEEN i) = s.get (Fld.fifoStat.LO_SEEN i) ∧ t.reg ⟨.fifoCnt, i, 0⟩ = s.reg ⟨.fifoCnt, i, 0⟩ ∧ t.out = s.out ∧ kept t) ∧
       (s.get (Fld.fifoCfg.EN i) = 0 → ∃ t, exec (.fifoEnable f) s = .next t ∧ zeroed t ∧ t.get (Fld.fifoCfg.EN i) = 1 ∧ t.get (Fld.fifoStat.HI_SEEN i) = 0 ∧
          t.get (Fld.fifoStat.LO_SEEN i) = 0 ∧ t.reg ⟨.fifoCnt, i, 0⟩ = 0 ∧ t.out = s.out ∧ t.ctx = s.ctx)) ∧
      (∀ l : Fin 4, s.xDriven l.val = false → ∃ t, exec (.xoffHoldExpiry l) s = .next t ∧ NSet.has t.xoff l.val = false ∧ NSet.has t.xoffHold l.val = false ∧ t.regs = s.regs)

/-- Sources rise and clear; a target selects the best source, preempts by group priority, and its record has TAIL, phase and interrupt; queues go on and off. -/
def Obligations.EventsReachTheirTargets : Prop :=
  ∀ s : State, Quiet s →
      let held (u : State) (t : Nat) : Option (Nat × Nat) := (u.et t).held
      let pri (r : Nat) : Nat := s.get (Fld.srcCfg.PRI r)
      let same (u : State) : Prop := { u with eic := s.eic } = s
      let alone (t : Nat) (u : State) : Prop := ∀ t', t' ≠ t → u.et t' = s.et t'
      let only (ids : List RegId) (u : State) : Prop := RegsKept ids s u ∧ { u with regs := [], eic := [], misEp := [] } = { s with regs := [], eic := [], misEp := [] }
      (∀ tgt : Fin 4100,
        let t := tgt.val
        let cand := s.tgtPending t
        (∀ r, s.get (Fld.srcStat.PEND r) = 1 → s.get (Fld.srcCfg.MASK r) = 0 → s.srcTgt r = t → s.heldElsewhere t r = false → r ∈ cand) ∧
        (s.tgtUsable t = true → s.tgtFull t = false →
          (∀ r ∈ cand, (∀ r' ∈ cand, s.routeOk r' = true ∧ (r' = r ∨ pri r < pri r')) →
            let took (u : State) : Prop := same u ∧ alone t u ∧ held u t = some (r, pri r) ∧ (u.et t).ptr = (r + 1) % 0x10C00
            (held s t = none → ∃ u, exec (.eicSelect tgt) s = .next u ∧ took u) ∧
            (∀ h, held s t = some h → s.grpPri (pri r) < s.grpPri h.2 → ∃ u, exec (.eicSelect tgt) s = .next u ∧ took u) ∧
            (∀ h, held s t = some h → s.grpPri h.2 ≤ s.grpPri (pri r) → exec (.eicSelect tgt) s = .next s)) ∧
          (∀ r ∈ cand, (∀ r' ∈ cand, r' = r) → s.routeOk r = false → ∃ u, exec (.eicSelect tgt) s = .next u ∧ u.eic = s.eic ∧ only [.srcStat, .eicStat] u ∧
            u.get (Fld.srcStat.MISROUTE r) = 1 ∧ u.get (Fld.srcStat.PEND r) = s.get (Fld.srcStat.PEND r) ∧ u.get (Fld.srcStat.CNT r) = s.get (Fld.srcStat.CNT r) ∧
            NSet.has u.misEp r = true ∧
            u.get Fld.eicStat.MISROUTED = (if NSet.has s.misEp r then s.get Fld.eicStat.MISROUTED else s.more Fld.eicStat.MISROUTED))) ∧
        (s.tgtUsable t = true → s.tgtFull t = true → cand ≠ [] → (∀ r ∈ cand, s.routeOk r = true) → ∃ u, exec (.eicSelect tgt) s = .next u ∧ u.eic = s.eic ∧
          only [.eqData, .coreEq] u ∧ u.get (if t < 4096 then Fld.eqData.FULL_SEEN t else Fld.coreEq.FULL_SEEN (t - 4096)) = 1) ∧
        (s.tgtUsable t = false → (s.tgtSelects t = true → ∀ r ∈ cand, s.routeOk r = true) → ∃ u, exec (.eicSelect tgt) s = .next u ∧ held u t = none ∧ alone t u ∧ same u) ∧
        (∀ (r p : Nat) (race : Bool), held s t = some (r, p) → s.tgtUsable t = true → s.tgtFull t = false →
          (s.arbDecide { kind := akEic } s.eicReqs s.eicHp 1).map (·.1) = some t → s.get (Fld.srcCfg.MASK r) = 0 → r ≠ 0x10402 → r ≠ 0x10407 →
          let bytes (phase : Nat) : List Byte := toBytes 4 (r + phase * 2 ^ 17 + (if isLevel r then 2 ^ 18 else 0) + s.get (Fld.srcStat.CNT r) * 2 ^ 24) ++
            toBytes 4 (p + s.get (Fld.srcStat.MEPOCH r) * 2 ^ 8) ++ toBytes 4 s.time ++ toBytes 4 (if r < 0x10000 then s.get (Fld.qctx.CQ_TAIL r) else 0)
          let left (u : State) : Prop := held u t = none ∧ u.get (Fld.srcStat.PEND r) = 0 ∧ u.get (Fld.srcStat.CNT r) = 0 ∧
            (isLevel r = true → s.levelInput r = true → u.get (Fld.srcStat.ACT r) = 1) ∧ u.ctx = s.ctx ∧ u.spm = s.spm ∧ u.hreq = s.hreq ∧ u.cpl = s.cpl ∧
            RegsKept [.eqData, .coreEq, .srcStat, .srcCfg] s u
          let raced (spur : Field) (u : State) : Prop :=
            if race then u.get (Fld.srcCfg.MASK r) = 1 ∧ u.get (Fld.srcStat.MEPOCH r) = (s.get (Fld.srcStat.MEPOCH r) + 1) % 256 ∧ u.get spur = s.more spur
            else u.get (Fld.srcCfg.MASK r) = 0 ∧ u.get (Fld.srcStat.MEPOCH r) = s.get (Fld.srcStat.MEPOCH r) ∧ u.get spur = s.get spur
          (t < 4096 →
            let f := s.get (Fld.eqData.FUNC t)
            let tail := s.get (Fld.eqData.TAIL t)
            let a := s.get (Fld.eqData.BASE t) * 4096 + tail * 16
            let next := (tail + 1) % 2 ^ s.get (Fld.eqData.LOG2 t)
            let x := s.et t
            s.hostOk f = true → s.get Fld.hpuStat.MODE = 0 → s.translated f a = true → s.watchHits none f (linesOf a 16) = [] → ∃ u, exec (.recordIssue tgt race) s = .next u ∧ left u ∧
              raced (Fld.eqData.SPURIOUS t) u ∧ u.out = .hostWrite f (s.hostAddr f a).1 (s.hostAddr f a).2 (bytes (s.get (Fld.eqData.PHASE t))) :: s.out ∧ u.msram = s.msram ∧
              u.get (Fld.eqData.TAIL t) = next % 2 ^ 20 ∧ u.get (Fld.eqData.HEAD t) = s.get (Fld.eqData.HEAD t) ∧
              u.get (Fld.eqData.PHASE t) = (if next = 0 then 1 - s.get (Fld.eqData.PHASE t) else s.get (Fld.eqData.PHASE t)) ∧ (u.et t).last = some s.time ∧
              (tail = s.get (Fld.eqData.HEAD t) → x.due = false → (u.et t).due = true ∧ (u.et t).dueAt = s.time ∧ (u.et t).n = 1) ∧
              (tail ≠ s.get (Fld.eqData.HEAD t) → (u.et t).due = x.due) ∧ (x.due = true → (u.et t).due = true ∧ (u.et t).n = x.n + 1 ∧ (u.et t).dueAt = x.dueAt)) ∧
          (4096 ≤ t →
            let c := t - 4096
            let tail := s.get (Fld.coreEq.TAIL c)
            let next := (tail + 1) % 2 ^ s.get (Fld.coreEq.LOG2 c)
            ∃ u, exec (.recordIssue tgt race) s = .next u ∧ left u ∧ raced (Fld.coreEq.SPURIOUS c) u ∧ u.out = s.out ∧
              u.msram = Memory.writeL s.msram (s.get (Fld.coreEq.BASE c) * 4096 + tail * 16) (bytes (s.get (Fld.coreEq.PHASE c))) ∧
              u.get (Fld.coreEq.TAIL c) = next % 2 ^ 20 ∧
              u.get (Fld.coreEq.PHASE c) = (if next = 0 then 1 - s.get (Fld.coreEq.PHASE c) else s.get (Fld.coreEq.PHASE c)) ∧
              u.get (Fld.coreEq.EV_PEND c) = if tail = s.get (Fld.coreEq.HEAD c) then 1 else s.get (Fld.coreEq.EV_PEND c)))) ∧
      (∀ eq : Fin 4096,
        let q := eq.val
        let f := s.get (Fld.eqData.FUNC q)
        let v := s.get (Fld.eqData.VEC q)
        let msg := Out.msix f v (s.msixWord f v 0 + s.msixWord f v 1 * 2 ^ 32) (s.msixWord f v 2)
        ((s.et q).due = false → exec (.moderationExpiry eq) s = .next s) ∧
        ((s.et q).due = true → v < msixCount f → s.get Fld.hpuStat.MODE = 0 → ∃ u, exec (.moderationExpiry eq) s = .next u ∧ (u.et q).due = false ∧ alone q u ∧ held u q = held s q ∧
          u.regs = s.regs ∧ u.ctx = s.ctx ∧
          (NSet.has s.msixEn f = false → u.out = s.out ∧ u.pba = s.pba) ∧
          (NSet.has s.msixEn f = true → s.msixMasked f v = true → u.out = s.out ∧ NSet.has u.pba (f * 2048 + v) = true) ∧
          (NSet.has s.msixEn f = true → s.msixMasked f v = false → s.hostOk f = true → u.out = msg :: s.out ∧ u.pba = s.pba)) ∧
        (∀ (src : Fin 68608) (cnt : BitVec 8) (a : BitVec 57), src.val ≠ 0x10402 → src.val ≠ 0x10407 →
          let r := src.val
          let st := s.get (Fld.qctx.STATE r)
          let back (u : State) : Prop := u.get (Fld.eqData.ERR q) = 1 ∧ held u q = none ∧ u.get (Fld.srcStat.PEND r) = 1 ∧
            u.get (Fld.srcStat.CNT r) = Nat.min 255 (s.get (Fld.srcStat.CNT r) + cnt.toNat)
          (0x10000 ≤ r → ∃ u, exec (.recordWriteError eq src cnt a) s = .next u ∧ back u ∧ RegsKept [.eqData, .srcStat] s u ∧ u.ctx = s.ctx ∧ u.out = s.out) ∧
          (r < 0x10000 → st = 0 ∨ st = 6 → ∃ u, exec (.recordWriteError eq src cnt a) s = .next u ∧ back u ∧ RegsKept [.eqData, .srcStat] s u ∧ u.ctx = s.ctx ∧
            u.out = s.out) ∧
          (r < 0x10000 → 1 ≤ st → st ≤ 4 → (∀ c, (s.cx c).live = true → (s.cx c).qid = r → Unburdened (s.cx c)) → ∃ u, exec (.recordWriteError eq src cnt a) s = .next u ∧
            back u ∧ u.get (Fld.qctx.STATE r) = 6 ∧ u.get (Fld.qctx.ERR_CAUSE r) = 2 ∧ u.get (Fld.qctx.ERR_ADDR r) = a.toNat ∧
            u.get (Fld.srcStat.CNT 0x10401) = s.more (Fld.srcStat.CNT 0x10401) ∧ u.out = s.out)) ∧
        (s.get (Fld.eqData.EN q) = 0 → 4 ≤ s.get (Fld.eqData.LOG2 q) → s.get (Fld.eqData.LOG2 q) ≤ 20 →
          s.eqFar q = false → s.eqClash q = false → ∃ u, exec (.eventQueueEnable eq) s = .next u ∧
          u.get (Fld.eqData.EN q) = 1 ∧ u.get (Fld.eqData.PHASE q) = 1 ∧ (∀ g ∈ [Fld.eqData.ERR q, Fld.eqData.TAIL q, Fld.eqData.HEAD q, Fld.eqData.SPURIOUS q], u.get g = 0) ∧
          only [.eqData] u ∧ alone q u ∧ (u.et q).due = false) ∧
        (s.get (Fld.eqData.EN q) = 1 → exec (.eventQueueEnable eq) s = .next s) ∧
        ∃ u, exec (.eventQueueDisable eq) s = .next u ∧ u.get (Fld.eqData.EN q) = 0 ∧ held u q = none ∧ (u.et q).due = false ∧ alone q u ∧ only [.eqData] u) ∧
      (∀ (func : Fin 1024) (val : BitVec 64),
        let q := val.toNat % 4096
        let head := val.toNat / 2 ^ 32 % 2 ^ 20
        let n := 2 ^ s.get (Fld.eqData.LOG2 q)
        let tail := s.get (Fld.eqData.TAIL q)
        s.reaches (ownAcc func) = true →
        ((s.get (Fld.eqData.FUNC q) ≠ func.val ∨ s.get (Fld.eqData.EN q) = 0) → ∃ u, exec (.eqDb func val) s = .next u ∧
          u.get Fld.eicStat.DB_FOREIGN = s.more Fld.eicStat.DB_FOREIGN ∧ OnlyRegs [.eicStat] s u) ∧
        (s.get (Fld.eqData.FUNC q) = func.val → s.get (Fld.eqData.EN q) = 1 → reservedIn ⟨.eqDb, func.val, 0⟩ val = false → head < n → (tail + n - head) % n ≤ (tail + n - s.get (Fld.eqData.HEAD q)) % n →
          ∃ u, exec (.eqDb func val) s = .next u ∧ u.get (Fld.eqData.HEAD q) = head ∧ u.get (Fld.eqData.TAIL q) = tail ∧ OnlyRegs [.eqData] s u)) ∧
      (∀ core : Fin 4,
        let c := core.val
        (s.get (Fld.coreEq.EN c) = 0 → 4 ≤ s.get (Fld.coreEq.LOG2 c) → s.get (Fld.coreEq.LOG2 c) ≤ 10 → ∃ u, exec (.coreEqEnable core) s = .next u ∧ OnlyRegs [.coreEq] s u ∧
          u.get (Fld.coreEq.EN c) = 1 ∧ u.get (Fld.coreEq.PHASE c) = 1 ∧ u.get (Fld.coreEq.TAIL c) = 0 ∧ u.get (Fld.coreEq.HEAD c) = 0) ∧
        (s.get (Fld.coreEq.EN c) = 1 → exec (.coreEqEnable core) s = .next s)) ∧
      ∀ (src : Fin 68608) (val : BitVec 64),
        let r := src.val
        let pend := Fld.srcStat.PEND r
        let cnt := Fld.srcStat.CNT r
        let only1 (u : State) : Prop := only [.srcStat] u ∧ ∀ r', r' ≠ r → u.reg ⟨.srcStat, r', 0⟩ = s.reg ⟨.srcStat, r', 0⟩
        let released (u : State) : Prop := ∀ t h, held u t = some h → h.1 ≠ r ∧ held s t = some h
        (0x10600 ≤ r → ∃ u, exec (.srcRaise src) s = .next u ∧ u.get pend = 1 ∧ u.get cnt = s.more cnt ∧ only1 u ∧ u.eic = s.eic) ∧
        (r < 0x10600 → exec (.srcRaise src) s = .next s) ∧
        (isLevel r = false → ∃ u, exec (.srcAck src) s = .next u ∧ u.get (Fld.srcStat.ACT r) = 0 ∧ u.get pend = s.get pend ∧ u.get cnt = s.get cnt ∧ only1 u ∧ u.eic = s.eic) ∧
        (isLevel r = true → ∃ u, exec (.srcAck src) s = .next u ∧ u.get (Fld.srcStat.ACT r) = 0 ∧ u.get pend = (if s.levelInput r then 1 else 0) ∧ only1 u ∧ u.eic = s.eic) ∧
        (isLevel r = false → ∃ u, exec (.srcClear src) s = .next u ∧ u.get pend = 0 ∧ u.get cnt = 0 ∧ released u ∧ only1 u) ∧
        (isLevel r = true → ∃ u, exec (.srcClear src) s = .next u ∧ released u ∧ only1 u ∧
          (u.get pend = if s.levelInput r ∧ s.get (Fld.srcStat.ACT r) = 0 then 1 else 0) ∧ u.get cnt = u.get pend) ∧
        (reservedIn ⟨.srcCfg, r, 0⟩ val = false → ∃ u, exec (.srcCfgWrite src val) s = .next u ∧ only [.srcCfg, .srcStat] u ∧ u.get pend = s.get pend ∧ u.get cnt = s.get cnt ∧
          u.get (Fld.srcCfg.MASK r) = val.toNat % 2 ∧ u.get (Fld.srcCfg.PRI r) = val.toNat / 2 % 256 ∧
          (r < 0x10800 → u.get (Fld.srcCfg.TGT_CORE r) = val.toNat / 2 ^ 9 % 2 ∧ u.get (Fld.srcCfg.TGT r) = val.toNat / 2 ^ 10 % 4096) ∧
          (0x10800 ≤ r → u.get (Fld.srcCfg.TGT_CORE r) = s.get (Fld.srcCfg.TGT_CORE r) ∧ u.get (Fld.srcCfg.TGT r) = s.get (Fld.srcCfg.TGT r)) ∧
          if s.get (Fld.srcCfg.MASK r) = 0 ∧ val.toNat % 2 = 1 then released u ∧ u.get (Fld.srcStat.MEPOCH r) = (s.get (Fld.srcStat.MEPOCH r) + 1) % 256
          else u.eic = s.eic ∧ u.get (Fld.srcStat.MEPOCH r) = s.get (Fld.srcStat.MEPOCH r))

/-- A block that detects an error logs it; the rise sets FSW, FIRST and OVF and acts on its reaction set; a block reset starts, completes or is held; FSW bits clear. -/
def Obligations.FaultsAreLoggedRecordedAndReactedTo : Prop :=
  ∀ s : State, Quiet s →
      let acted (i : Nat) (t : State) : Prop :=
        t.get Fld.fclNmi.NMI_PEND = (if s.get (Fld.fclReact.NMI i) = 1 then 1 else s.get Fld.fclNmi.NMI_PEND) ∧
        (s.get (Fld.fclReact.PIN i) = 1 → t.faultLow = true ∧ (s.faultLow = false → t.faultHold = true)) ∧
        (s.get (Fld.fclReact.INT i) = 1 → t.get (Fld.srcStat.PEND 0x10407) = 1 ∨ t.get (Fld.srcStat.ACT 0x10407) = 1)
      let up (ids : List RegId) (i : Nat) (t : State) : Prop := Rose i s t ∧ acted i t ∧ RegsKept (ids ++ [.fclFsw, .fclFirst, .fclNmi]) s t
      let still (t : State) : Prop := t.ctx = s.ctx ∧ t.out = s.out ∧ t.spm = s.spm ∧ t.cpl = s.cpl ∧ t.xfer = s.xfer
      (∀ (blk : Fin 64) (kind : Fin 16) (unit : Fin 1024) (loc : BitVec 32),
        let b := blk.val
        let log (t : State) : Prop := t.get (Fld.errLog.VALID b) = 1 ∧ t.get (Fld.errLog.KIND b) = kind.val ∧ t.get (Fld.errLog.UNIT b) = unit.val ∧
          t.get (Fld.errLog.LOC b) = loc.toNat
        let runs (t : State) : Prop := exec (.hardwareFault blk kind unit loc none) s = .next t
        (hasErrLog b = true → kindOk b kind.val = true → ¬(25 ≤ b ∧ b ≤ 28) →
          (Watched b s → ∃ t, runs t ∧ log t ∧ up [.errLog] b t ∧ still t) ∧
          (s.get (Fld.errLog.VALID b) = 1 → ∃ t, runs t ∧ t.get (Fld.errLog.OVF b) = 1 ∧ t.get (Fld.errLog.KIND b) = s.get (Fld.errLog.KIND b) ∧
            t.get (Fld.errLog.UNIT b) = s.get (Fld.errLog.UNIT b) ∧ t.get (Fld.errLog.LOC b) = s.get (Fld.errLog.LOC b) ∧ OnlyRegs [.errLog] s t)) ∧
        (21 ≤ b → b ≤ 24 → unit.val < 4 → (∀ e ∈ s.xfer, e.2.mover ≠ some (b - 21, unit.val)) → Watched b s →
          ∃ t, runs t ∧ t.get (Fld.xferLog.MERR (b - 21)) = 1 ∧ up [.xferLog] b t ∧ still t) ∧
        (25 ≤ b → b ≤ 28 → unit.val < 2 → kind.val = 1 → (∀ e ∈ s.xfer, e.2.lane ≠ some (2 * (b - 25) + unit.val)) → Watched b s →
          ∃ t, runs t ∧ log t ∧ up [.errLog] b t ∧ still t) ∧
        (b = 31 → unit.val < 528 → kind.val = 0 → ∃ t, runs t ∧ t.get Fld.spmStat.CE = s.more Fld.spmStat.CE ∧ OnlyRegs [.spmStat] s t ∧ t.get Fld.spmStat.UE = s.get Fld.spmStat.UE) ∧
        (b = 31 → unit.val < 528 → kind.val ≠ 0 → Watched 31 s →
          let ecc (t : State) : Prop := t.get Fld.eccLog.VALID = 1 ∧ t.get Fld.eccLog.BANK = unit.val ∧ t.get Fld.eccLog.OFFSET = loc.toNat % 2 ^ 18 ∧
            t.get Fld.eccLog.TEST = 0 ∧ t.get Fld.spmStat.UE = s.more Fld.spmStat.UE
          (∃ t, runs t ∧ ecc t ∧ up [.eccLog, .spmStat] 31 t ∧ still t) ∧
          ∀ c : Fin 1024, (s.cx c.val).live = true → Unburdened (s.cx c.val) → (s.cx c.val).posted = false →
            ∃ t, exec (.hardwareFault blk kind unit loc (some c)) s = .next t ∧ ecc t ∧ Rose 31 s t ∧ EndedWith c.val 0x30 s t) ∧
        (b = 32 → unit.val < 64 → s.get (Fld.fifoStat.BROKEN unit.val) = 0 → Watched 32 s → ∃ t, runs t ∧ t.get (Fld.fifoStat.BROKEN unit.val) = 1 ∧
          t.get (Fld.fifoStat.XSTATE unit.val) = 1 ∧ t.get Fld.ptrLog.VALID = 1 ∧ t.get Fld.ptrLog.FIFO = unit.val ∧ up [.fifoStat, .ptrLog] 32 t ∧ still t) ∧
        (hasErrLog b = true → kindOk b kind.val = true → s.get (Fld.fclReact.CHIP_RESET b) = 1 → s.get (Fld.errLog.VALID b) = 0 → s.fltLine b = false →
          (s.get Fld.fclFsw.FSW).testBit b = false → NSet.has s.inReset b = false → s.get (Fld.fclReact.HELD b) = 0 → ¬(25 ≤ b ∧ b ≤ 28) →
          ∃ t, runs t ∧ log t ∧ t.chipPend = some 3 ∧ up [.errLog] b t) ∧
        let n := s.get (Fld.fclReact.RST_CNT b)
        let lim := s.get Fld.fclCtl.ESC_LIMIT
        let reset (t : State) : Prop := (t.get Fld.fclFsw.FSW).testBit b = true ∧ t.get (Fld.errLog.VALID b) = 0 ∧ NSet.has t.masked b = true ∧
          t.get (Fld.fclReact.RST_CNT b) = (if n < 255 then n + 1 else n) ∧
          if lim ≠ 0 ∧ lim ≤ n then t.get (Fld.fclReact.HELD b) = 1 else NSet.has t.inReset b = true
        s.get (Fld.fclReact.CHIP_RESET b) = 0 → s.get (Fld.fclReact.BLOCK_RESET b) = 1 → s.fltLine b = false → (s.get Fld.fclFsw.FSW).testBit b = false →
        NSet.has s.inReset b = false → s.get (Fld.fclReact.HELD b) = 0 → (∀ c, (s.cx c).live = true → (s.cx c).lock = none) →
          (b = 40 ∨ b = 42 → kindOk b kind.val = true → ∃ t, runs t ∧ reset t ∧ still t ∧ RegsKept [.errLog, .fclFsw, .fclFirst, .fclNmi, .fclReact] s t) ∧
          (12 ≤ b → b ≤ 19 → kind.val = 1 → (∀ c, (s.cx c).live = true → clusterOf c = b - 12 → Unburdened (s.cx c) ∧ (s.cx c).posted = false) →
            ∃ t, runs t ∧ reset t ∧ t.out = s.out ∧ t.cpl = s.cpl ∧ (∀ c, (s.cx c).live = true → clusterOf c ≠ b - 12 → t.cx c = s.cx c) ∧
              t.sem = s.sem.filter (fun e => e.1 / 4096 != b - 12) ∧
              ∀ c, (s.cx c).live = true → clusterOf c = b - 12 → (s.cx c).qid < 65536 → t.cx c = {} ∧
                (t.get (Fld.lostmap.LOST ((s.cx c).qid / 64))).testBit ((s.cx c).qid % 64) = true)) ∧
      (∀ blk : Fin 64,
        let b := blk.val
        (NSet.has s.inReset b = false → exec (.blockResetComplete blk) s = .next s) ∧
        (NSet.has s.inReset b = true → s.xfer = [] → ({ s with inReset := NSet.del s.inReset b } : State).rises = [] →
          ∃ t, exec (.blockResetComplete blk) s = .next t ∧ NSet.has t.inReset b = false ∧ NSet.has t.masked b = false ∧ still t ∧ RegsKept [] s t ∧
            (∀ k, k ≠ b → NSet.has t.inReset k = NSet.has s.inReset k ∧ NSet.has t.masked k = NSet.has s.masked k)) ∧
        (s.get (Fld.fclReact.HELD b) = 0 → exec (.heldRelease blk) s = .next s) ∧
        (s.get (Fld.fclReact.HELD b) = 1 → s.xfer = [] → (s.fltCause b = false ∨ (s.get Fld.fclFsw.FSW).testBit b = true) → ∃ t, exec (.heldRelease blk) s = .next t ∧
          t.get (Fld.fclReact.HELD b) = 0 ∧ t.get (Fld.fclReact.RST_CNT b) = 0 ∧ NSet.has t.masked b = false ∧ still t ∧ RegsKept [.fclReact] s t ∧
          ∀ k, k ≠ b → t.reg ⟨.fclReact, k, 0⟩ = s.reg ⟨.fclReact, k, 0⟩)) ∧
      (∀ mask : BitVec 64,
        let w := s.get Fld.fclFsw.FSW
        ((∀ i, i < 64 → mask.getLsbD i = true → s.fltLine i = false) → ∃ t, exec (.fswClear mask) s = .next t ∧
          (∀ i, i < 64 → (t.get Fld.fclFsw.FSW).testBit i = (w.testBit i && !mask.getLsbD i)) ∧
          t.get Fld.fclFirst.FIRST_V = (if t.get Fld.fclFsw.FSW = 0 then 0 else s.get Fld.fclFirst.FIRST_V) ∧
          t.get Fld.fclFirst.FIRST = (if t.get Fld.fclFsw.FSW = 0 then 0 else s.get Fld.fclFirst.FIRST) ∧
          t.get Fld.fclFirst.OVF = s.get Fld.fclFirst.OVF ∧ still t ∧ RegsKept [.fclFsw, .fclFirst] s t) ∧
        (∀ i, i < 64 → mask.toNat = 2 ^ i → w.testBit i = true → s.fltLine i = true → s.get (Fld.fclReact.BLOCK_RESET i) = 0 → s.get (Fld.fclReact.CHIP_RESET i) = 0 →
          ∃ t, exec (.fswClear mask) s = .next t ∧ t.get Fld.fclFsw.FSW = w ∧ t.get Fld.fclFirst.FIRST_V = 1 ∧ acted i t ∧ still t ∧
            t.get Fld.fclFirst.FIRST = (if w = 2 ^ i ∨ s.get Fld.fclFirst.FIRST_V = 0 then i else s.get Fld.fclFirst.FIRST) ∧
            t.get Fld.fclFirst.OVF = if w = 2 ^ i ∨ s.get Fld.fclFirst.FIRST_V = 0 then s.get Fld.fclFirst.OVF else 1)) ∧
      ((s.fswWith Fld.fclReact.PIN = true → s.faultLow = true) → ∃ t, exec .faultPinHoldExpiry s = .next t ∧ t.faultHold = false ∧
        t.faultLow = s.fswWith Fld.fclReact.PIN ∧ still t ∧ RegsKept [] s t)

/-- PKG_RESET_N and PWR_GOOD bring a cold reset; a chip reset keeps what R511 keeps; GLB_RESET asks for one; EXTEST drives the bumps. -/
def Obligations.ResetsAndPinsFollowTheirEvents : Prop :=
  ∀ s : State,
      let nothing (c : Instr) : Prop := exec c s = .next s
      let cold (cause : Nat) (t : State) : Prop := (∀ r : Reg, r.id ≠ .glbReset → t.reg r = r.reset) ∧ t.get Fld.glbReset.CAUSE = cause ∧ t.get Fld.glbReset.COUNT = 0 ∧
        t.ctx = [] ∧ t.spm = [] ∧ t.msram = [] ∧ t.xfer = [] ∧ t.cpl = [] ∧ t.fuses = s.fuses ∧ t.cfgSlot = s.cfgSlot ∧ t.out = s.out ∧ t.boot = .inReset
      let low (t : State) : Prop := t.extest = false → (∀ p, t.pinPeerReset p = false) ∧ t.pinFabricReady = false ∧ (∀ l, t.pinXoff l = true) ∧ t.pinWake = true
      let stay (t : State) : Prop := t.regs = s.regs ∧ t.ctx = s.ctx ∧ t.spm = s.spm ∧ t.out = s.out
      (s.pkgReset = false → nothing .coldReset) ∧ (s.pwrGood = false → nothing .pwrGoodFall) ∧
      (s.pkgReset = true → ∃ t, exec .coldReset s = .next t ∧ cold 1 t ∧ low t ∧ t.pkgReset = false ∧ t.pwrGood = s.pwrGood ∧
        (t.extest = false → t.pinFault = true ∧ t.pinThermTrip = true)) ∧
      (s.pwrGood = true → ∃ t, exec .pwrGoodFall s = .next t ∧ cold 2 t ∧ low t ∧ t.pwrGood = false ∧ t.pkgReset = s.pkgReset) ∧
      (s.pwrGood = true → nothing .pwrGoodRise) ∧ (s.pwrHold = false → nothing .pwrGoodHoldExpiry) ∧ (s.pkgReset = true → nothing .resetRelease) ∧
      (s.boot ≠ .pllWait → nothing .pllLock) ∧
      (s.pwrGood = false → s.pkgReset = false → ∃ t u v w, exec .pwrGoodRise s = .next t ∧ exec .pwrGoodHoldExpiry t = .next u ∧ exec .resetRelease u = .next v ∧
        exec .pllLock v = .next w ∧ t.boot = .inReset ∧ u.boot = .inReset ∧ v.boot = .pllWait ∧ w.boot = .rom ∧ w.pwrGood = true ∧ w.pkgReset = true ∧ stay w) ∧
      (s.pwrGood = false → s.pkgReset = true → ∃ t u w, exec .pwrGoodRise s = .next t ∧ exec .pwrGoodHoldExpiry t = .next u ∧ exec .pllLock u = .next w ∧
        t.boot = .powerWait ∧ u.boot = .pllWait ∧ w.boot = .rom ∧ stay w) ∧
      (∀ confirm : BitVec 8, (confirm ≠ 0xC5 → nothing (.glbResetChip confirm)) ∧
        (confirm = 0xC5 → ∃ t, exec (.glbResetChip confirm) s = .next t ∧ t.get Fld.glbReset.CHIP = 1 ∧ OnlyRegs [.glbReset] { s with chipPend := t.chipPend } t ∧
          t.chipPend = match s.chipPend with | none => some 6 | some c => some c)) ∧
      (s.chipPend = none → nothing .chipReset) ∧
      (∀ cause, s.chipPend = some cause → s.chipReset = true → ∃ t, exec .chipReset s = .next t ∧ t.chipPend = none ∧ t.chipReset = true ∧ stay t) ∧
      (∀ cause, s.chipPend = some cause → cause < 16 → s.chipReset = false → s.faultLow = s.fswWith Fld.fclReact.PIN →
        (∀ r ∈ s.regs, r.2 ≠ r.1.reset ∧ ∀ r' ∈ s.regs, r'.1 = r.1 → r' = r) → ∃ t, exec .chipReset s = .next t ∧
        (∀ r : Reg, keptPart r (s.reg r) = none → r.id ≠ .glbReset → r.id ≠ .kingStat → (r.id = .srcStat → r.i ≠ 0x10402 ∧ r.i ≠ 0x10407) → t.reg r = r.reset) ∧
        (∀ i, t.get (Fld.fclReact.INT i) = s.get (Fld.fclReact.INT i) ∧ t.get (Fld.fclReact.NMI i) = s.get (Fld.fclReact.NMI i) ∧
          t.get (Fld.fclReact.BLOCK_RESET i) = s.get (Fld.fclReact.BLOCK_RESET i) ∧ t.get (Fld.fclReact.CHIP_RESET i) = s.get (Fld.fclReact.CHIP_RESET i) ∧
          t.get (Fld.fclReact.PIN i) = s.get (Fld.fclReact.PIN i) ∧ t.get (Fld.fclReact.RST_CNT i) = s.get (Fld.fclReact.RST_CNT i) ∧ t.get (Fld.fclReact.HELD i) = 0) ∧
        (∀ f ∈ [Fld.fclFsw.FSW, Fld.fclFirst.FIRST, Fld.fclFirst.FIRST_V, Fld.fclFirst.OVF, Fld.fclCtl.NMI_CORE, Fld.fclCtl.ESC_LIMIT, Fld.secStat.FAIL0, Fld.secStat.FAIL1,
          Fld.secStat.RCV_CAUSE, Fld.glbBoot.RCV_REQ, Fld.agmLife.STRESS_H, Fld.hpuStat.MODE, Fld.dvsec.MODE], t.get f = s.get f) ∧
        (∀ w, t.get (Fld.lostmap.LOST w) = s.get (Fld.lostmap.LOST w)) ∧
        (∀ b, t.get (Fld.bankOwn.STATE b) = (if s.get (Fld.bankOwn.STATE b) = bankFailed then bankFailed else 0) ∧ t.get (Fld.bankOwn.OWNER b) = 0) ∧
        t.get Fld.glbReset.CAUSE = cause ∧ t.get Fld.glbReset.COUNT = s.more Fld.glbReset.COUNT ∧ t.ctx = [] ∧ t.msram = [] ∧ t.xfer = [] ∧ t.cpl = [] ∧
        t.fuses = s.fuses ∧ t.cfgSlot = s.cfgSlot ∧ t.thermTrip = s.thermTrip ∧ t.faultLow = s.faultLow ∧ t.fclk = s.fclk ∧ t.out = s.out ∧ t.chipReset = true ∧ low t ∧
        ∃ u, exec .bootStart t = .next u ∧ u.boot = .rom ∧ u.chipReset = false ∧ u.regs = t.regs) ∧
      (s.chipReset = false → nothing .bootStart) ∧
      (∃ t, exec .tapReset s = .next t ∧ t.extest = false ∧ stay t ∧ (∀ p, t.pinPeerReset p = (!t.outReset && NSet.has s.peerReset p)) ∧
        t.pinFabricReady = (!t.outReset && s.fabricReady) ∧ (∀ l, t.pinXoff l = (t.outReset || NSet.has s.xoff l)) ∧ t.pinFault = !s.faultLow) ∧
      ∀ cells : BitVec 16, (s.pwrGood = false → nothing (.extest cells)) ∧ (s.pwrGood = true → ∃ t, exec (.extest cells) s = .next t ∧ stay t ∧ t.extest = true ∧
        (∀ p, p < 8 → t.pinPeerReset p = cells.getLsbD p) ∧ t.pinFabricReady = cells.getLsbD 8 ∧ ∀ l, l < 4 → t.pinXoff l = cells.getLsbD (9 + l))

/-- GO submits a request, the arbiter selects it and its framing is checked, ABORT marks it, and a restart of firmware answers every busy window with INTERNAL. -/
def Obligations.MailboxWindowsCarryOneCommand : Prop :=
  ∀ (w : Fin 1024) (s : State), Quiet s → s.get Fld.pcmStat.DSTATE ≠ 1 →
      let m := w.val
      let own := s.reaches (ownAcc w) = true
      let hdr := s.reqHdr m
      let pay := s.reqPay m
      let opc := hdr % 256
      let len := hdr / 2 ^ 16 % 256
      let answered (err detail : Nat) (i : Instr) : Prop := ∃ t, exec i s = .next t ∧ Response m hdr err detail [] s t ∧ t.acp = s.acp ∧
        t.mbAbort = NSet.del s.mbAbort m ∧ AcpOnly [] (fun u => { u with arb := [] }) s t
      (own → s.get (Fld.mbStat.BUSY m) = 1 → ∃ t, exec (.mailboxGo w) s = .next t ∧ t.get (Fld.mbStat.OVERRUN m) = 1 ∧ t.get (Fld.mbStat.BUSY m) = 1 ∧
        t.get (Fld.mbStat.DONE m) = s.get (Fld.mbStat.DONE m) ∧ OnlyRegs [.mbStat] s t) ∧
      (own → s.get (Fld.mbStat.BUSY m) = 0 → (s.fwReady = true ∨ m = 0) → ∃ t, exec (.mailboxGo w) s = .next t ∧ t.get (Fld.mbStat.BUSY m) = 1 ∧
        t.get (Fld.mbStat.DONE m) = 0 ∧ OnlyRegs [.mbStat] s t) ∧
      (own → s.get (Fld.mbStat.BUSY m) = 0 → s.fwReady = false → m ≠ 0 → answered 8 0 (.mailboxGo w)) ∧
      (s.boot ≠ .recovery → s.boot ≠ .halted → s.fwReady = true →
        (4 ≤ s.acp.length → exec .mailboxSelect s = .next s) ∧
        (∀ a, s.acp.length < 4 → s.arbDecide { kind := akMail } s.mailPending (fun _ => false) 1 = some (m, a) →
          (opc < 0x80 → acpFrame m hdr pay = none → ∃ t, exec .mailboxSelect s = .next t ∧ t.acp = s.acp ++ [{ win := m, hdr := hdr, pay := pay, aborted := NSet.has s.mbAbort m }] ∧
            t.mbAbort = NSet.del s.mbAbort m ∧ OnlyRegs [] { s with arb := t.arb, acp := t.acp, mbAbort := t.mbAbort } t) ∧
          (opc ≠ 2 → (acpRow opc = none ∨ (m ≠ 0 ∧ 0x40 ≤ opc) ∨ 0x80 ≤ opc) → answered 1 0 .mailboxSelect) ∧
          ((opc = 2 ∧ (len % 4 ≠ 0 ∨ 104 < len)) → answered 2 0 .mailboxSelect) ∧
          (∀ n used, acpRow opc = some (n, used) → (m = 0 ∨ opc < 0x40) → opc < 0x80 → opc ≠ 2 →
            (len ≠ n → answered 2 0 .mailboxSelect) ∧ (len = n → hdr / 2 ^ 24 % 2 ^ 40 ≠ 0 → answered 3 0 .mailboxSelect) ∧
            (len = n → hdr / 2 ^ 24 % 2 ^ 40 = 0 → (∃ b, b < 8 * n ∧ pay.testBit b = true ∧ used.testBit b = false) →
              answered 3 (badByte used (pay % 2 ^ (8 * n))) .mailboxSelect)))) ∧
      ((own ∨ s.reaches .pf = true) → ∃ t, exec (.mailboxAbort w) s = .next t ∧ OnlyRegs [] { s with acp := t.acp, mbAbort := t.mbAbort } t ∧
        (t.acp = s.acp.map fun c => if c.win = m then { c with aborted := true } else c) ∧
        t.mbAbort = if (∀ c ∈ s.acp, c.win ≠ m) ∧ s.get (Fld.mbStat.BUSY m) = 1 then NSet.add s.mbAbort m else s.mbAbort) ∧
      (¬own → s.reaches .pf = false → exec (.mailboxGo w) s = .next s ∧ exec (.mailboxAbort w) s = .next s) ∧
      (s.fwReady = false → exec .firmwareRestart s = .next s) ∧
      (s.fwReady = true → (∀ c ∈ s.acp, s.get (Fld.mbStat.BUSY c.win) = 1 ∧ c.opc ≠ 0x4B ∧ c.opc ≠ 0x4F) → s.castle = none → s.deferred = [] →
        ∃ t, exec .firmwareRestart s = .next t ∧ t.acp = [] ∧ RegsKept [.mbStat, .mbRsp, .srcStat] s t ∧ t.ctx = s.ctx ∧ t.out = s.out ∧
          (s.get (Fld.mbStat.BUSY m) = 1 →
            let h := match s.acp.find? (fun c => c.win == m) with | some c => c.hdr | none => hdr
            Response m h 15 0 [] s t) ∧
          t.get (Fld.mbStat.N_FWRST m) = 1 ∧ t.get (Fld.mbStat.N_CFG m) = s.get (Fld.mbStat.N_CFG m) ∧
          (s.get (Fld.mbCfg.IRQ_NOTICE m) = 1 → s.get (Fld.mbStat.N_FWRST m) = 0 → t.get (Fld.srcStat.PEND (0x10000 + m)) = 1))

/-- Each basic-level ACP command checks scope, state and fields in the order of its row, has its effect through the registers, and answers. -/
def Obligations.BasicAcpCommandsAnswer : Prop :=
  ∀ (m : Fin 1024) (c : AcpCmd) (s : State), Quiet s → c.win = m.val →
      let ans (i : Instr) (e d : Nat) (pay : List Byte) (ids : List RegId) (P : State → Prop) : Prop :=
        ∃ t, exec i s = .next t ∧ Answered c e d pay s t ∧ AcpOnly ids id s t ∧ P t
      let fails (i : Instr) (e d : Nat) : Prop := ans i e d [] [] fun _ => True
      let words (id : RegId) (k n : Nat) : List Byte := (List.range n).flatMap fun j => toBytes 8 (s.viewReg ⟨id, k, j⟩).toNat
      let srv (opc : Nat) : Prop := Serving opc c s
      (srv 0x01 → ans (.info m) 0 0 (toBytes 4 s.fwVer ++ [1, 0] ++ toBytes 2 m.val ++
        toBytes 4 (s.get Fld.cfsStat.EPOCH + 256 * s.get Fld.glbExpert.UNLOCKED + 512 * s.get Fld.glbExpert.ALLOWED) ++ toBytes 4 (Config.libVer % 65536) ++
        toBytes 2 (s.ownGroups m.val).length ++ toBytes 2 (s.ownDoms m.val).length ++ toBytes 4 (s.countOwn .eqData Fld.eqData.FUNC 4096 m.val)) [] fun _ => True) ∧
      (srv 0x02 → ans (.echo m) 0 0 (toBytes c.len c.pay) [] fun _ => True) ∧
      (srv 0x03 →
        let l := ((s.ownGroups m.val).filter fun g => decide (c.fld 0 0 12 ≤ g)).take 48
        ∃ pad, ans (.grpList m) 0 0 (toBytes 2 (s.ownGroups m.val).length ++ toBytes 6 l.length ++ (l.flatMap fun g => toBytes 2 g) ++ List.replicate pad 0) [] fun _ => True) ∧
      (srv 0x11 → ans (.libInfo m) 0 0 (toBytes 2 Config.libVer ++ toBytes 2 s.libSel ++ toBytes 4 0x3F) [] fun _ => True) ∧
      (let q := c.fld 0 0 16
       let d := c.fld 24 16 12
       let mine := s.ownGroup m.val (q / 16)
       (srv 0x04 →
         (mine = false → fails (.queueSet m) 4 0) ∧ (mine = true → s.get (Fld.qctx.STATE q) ≠ 0 → fails (.queueSet m) 5 0) ∧
         (mine = true → s.get (Fld.qctx.STATE q) = 0 → ringLogBad (c.fld 8 0 5) = false → ringLogBad (c.fld 16 0 5) = false →
           (s.ownDom m.val d = false → fails (.queueSet m) 4 0x1A) ∧
           (s.ownDom m.val d = true → s.get (Fld.pdData.VALID d) = 1 → (c.fld 24 1 2 = 0 → m.val = 0 ∨ s.hasKingSlot m.val = true) →
             ans (.queueSet m) 0 0 [] [.qctx, .qctxSel] fun t => t.get Fld.qctxSel.QID = q ∧ t.get (Fld.qctx.SQ_LOG2 q) = c.fld 8 0 5 ∧ t.get (Fld.qctx.SQ_BASE q) = c.fld 8 12 45 ∧
               t.get (Fld.qctx.CQ_LOG2 q) = c.fld 16 0 5 ∧ t.get (Fld.qctx.CQ_BASE q) = c.fld 16 12 45 ∧ t.get (Fld.qctx.GAMBIT_EN q) = c.fld 24 0 1 ∧
               t.get (Fld.qctx.CLASS q) = c.fld 24 1 2 ∧ t.get (Fld.qctx.INFLIGHT_MAX q) = c.fld 24 8 4 ∧ t.get (Fld.qctx.PDOM q) = d ∧
               t.get (Fld.qctx.CLOCK_LIMIT q) = c.fld 24 32 24 ∧ t.get (Fld.qctx.STATE q) = 0 ∧ ∀ k, k ≠ q → ∀ j, t.reg ⟨.qctx, k, j⟩ = s.reg ⟨.qctx, k, j⟩))) ∧
       (srv 0x05 → (mine = false → fails (.queueGet m) 4 0) ∧ (mine = true → ans (.queueGet m) 0 0 (words .qctx q 8) [.qctxSel] fun t => t.get Fld.qctxSel.QID = q)) ∧
       (srv 0x06 → ∀ late,
         (c.phase = 0 → mine = false → fails (.queueCmd m late) 4 0) ∧
         (c.phase = 0 → mine = true → ∀ u, s.writeQctl q (c.fld 0 16 4) = .next u → u.acp = s.acp → Quiet u →
           let r := if c.fld 0 16 4 = 0 then 0 else u.get Fld.qctl.RESULT
           let shown (t : State) : Prop := AcpOnly [] id u t
           (r ≠ 0 → ∃ t, exec (.queueCmd m late) s = .next t ∧ Answered c 7 r [] u t ∧ shown t) ∧
           (r = 0 → (c.fld 0 20 1 = 0 ∨ (u.qd q).target = none) → ∃ t, exec (.queueCmd m late) s = .next t ∧
             Answered c 0 0 (toBytes 4 (256 * u.get (Fld.qctx.STATE q) + 2048 * u.get (Fld.qctx.SUSP_REQ q))) u t ∧ shown t) ∧
           (r = 0 → c.fld 0 20 1 = 1 → (u.qd q).target ≠ none → late = false → ∃ t, exec (.queueCmd m late) s = .next t ∧ shown t ∧
             t.acp = s.acp.map fun e => if e.win = c.win then { e with phase := 1 } else e)) ∧
         (c.phase = 1 → c.fld 0 20 1 = 1 → s.deferred = [] →
           let shown := toBytes 4 (256 * s.get (Fld.qctx.STATE q) + 2048 * s.get (Fld.qctx.SUSP_REQ q))
           ((s.qd q).target = none → ans (.queueCmd m late) 0 0 shown [] fun _ => True) ∧
           ((s.qd q).target ≠ none → late = true → ans (.queueCmd m late) 13 0 shown [] fun _ => True)))) ∧
      (let d := c.fld 0 0 12
       let sel := c.fld 2 0 16
       let a := s.get (Fld.pdData.ST_BASE d) * 4096 + sel * 32
       let mine := s.ownDom m.val d
       let valid : Prop := s.get (Fld.pdData.VALID d) = 1
       (srv 0x07 → (mine = false → fails (.domGet m) 4 0) ∧ (mine = true → ans (.domGet m) 0 0 (words .pdData d 4) [.pdSel] fun t => t.get Fld.pdSel.PDOM = d)) ∧
       (srv 0x08 → s.stuTaken c = false → c.phase = 0 →
         (mine = false → fails (.segSet m) 4 0) ∧ (mine = true → ¬valid → fails (.segSet m) 5 0) ∧
         (mine = true → valid →
           ((sel = 0 ∨ 2 ^ s.get (Fld.pdData.ST_LOG2 d) ≤ sel ∨ (s.libSel ≠ 0 ∧ sel = s.libSel)) → fails (.segSet m) 3 2) ∧
           (sel ≠ 0 → sel < 2 ^ s.get (Fld.pdData.ST_LOG2 d) → sel ≠ s.libSel → c.fld 8 1 2 = 0 → s.hostOk 0 = true → s.inv = none → s.segCache = [] →
             (∀ k, (s.cx k).live = false) → s.xfer = [] → s.watchHits none 0 (linesOf a 32) = [] → s.on Fld.hpuStat.MODE = false → ∃ t, exec (.segSet m) s = .next t ∧
             t.out = .hostWrite 0 (s.hostAddr 0 a).1 (s.hostAddr 0 a).2 (toBytes 32 (c.pay / 2 ^ 64)) :: s.out ∧ t.inv = some { scope := 0, stop := c.fld 4 0 1 == 1, notify := false, dom := d, sel := sel } ∧
             t.get Fld.invStat.BUSY = 1 ∧ t.acp = (s.acp.map fun e => if e.win = c.win then { e with phase := 1 } else e) ∧ RegsKept [.invCmd, .invStat] s t))) ∧
       (srv 0x08 → c.phase = 1 → s.inv = none → s.deferred = [] → ans (.segSet m) 0 0 (toBytes 4 (s.get Fld.invStat.STOPPED)) [] fun _ => True) ∧
       (srv 0x09 → ∀ data,
         (mine = false → fails (.segGet m data) 4 0) ∧ (mine = true → ¬valid → fails (.segGet m data) 5 0) ∧
         (mine = true → valid → sel < 2 ^ s.get (Fld.pdData.ST_LOG2 d) → s.hostOk 0 = true →
           let asked (t : State) : Prop := t.out = .hostRead s.hreqNext 0 .io false a 32 0 :: s.out ∧ AcpOnly [] (fun u => { u with out := [], hreqNext := 0 }) s t
           (data = none → ∃ t, exec (.segGet m data) s = .next t ∧ Answered c 10 0 [] s t ∧ asked t) ∧
           (∀ b, data = some b → b.length = 32 → ∃ t, exec (.segGet m data) s = .next t ∧ Answered c 0 0 b s t ∧ asked t)))) ∧
      (let q := c.fld 0 0 12
       let mine := s.ownEq m.val q
       srv 0x0A → (mine = false → fails (.evqSet m) 4 0) ∧ (mine = true → m.val ≠ 0 → 64 ≤ c.fld 8 18 11 → fails (.evqSet m) 3 10) ∧
         (mine = true → (m.val = 0 ∨ c.fld 8 18 11 < 64) →
           (s.get (Fld.eqData.EN q) = 1 → (c.fld 8 0 1 = 1 → ringLogBad (c.fld 8 3 5) = false) → c.fld 8 3 5 ≠ s.get (Fld.eqData.LOG2 q) → fails (.evqSet m) 5 8) ∧
           (s.get (Fld.eqData.EN q) = 0 → ringLogBad (c.fld 8 3 5) = false →
             (s.on Fld.hpuStat.MODE = true → c.fld 16 12 45 * 4096 + 16 * 2 ^ c.fld 8 3 5 ≤ 2 ^ 48) →
             (∀ r ∈ s.queueRings none ++ s.eventRings (some q),
               r.meets ⟨s.ringFunc (s.get (Fld.eqData.FUNC q)), c.fld 16 12 45 * 4096, 16 * 2 ^ c.fld 8 3 5⟩ = false) → ∃ t, exec (.evqSet m) s = .next t ∧ Answered c 0 0 [] s t ∧
             AcpOnly [.eqData, .eqSel] (fun u => { u with eic := [] }) s t ∧ t.get (Fld.eqData.EN q) = c.fld 8 0 1 ∧ t.get (Fld.eqData.LOG2 q) = c.fld 8 3 5 ∧
             t.get (Fld.eqData.FUNC q) = s.get (Fld.eqData.FUNC q) ∧ t.get (Fld.eqData.VEC q) = c.fld 8 18 11 ∧ t.get (Fld.eqData.BASE q) = c.fld 16 12 45 ∧
             t.get (Fld.eqData.MOD_TIME q) = c.fld 24 0 16 ∧ t.get (Fld.eqData.MOD_COUNT q) = c.fld 24 16 8 ∧ t.get (Fld.eqData.IDLE_TIME q) = c.fld 24 32 16))) ∧
      (let r := c.fld 0 0 17
       srv 0x0B → (68608 ≤ r → fails (.srcSet m) 3 0) ∧ (r < 68608 → s.ownSrc m.val r = false → fails (.srcSet m) 4 0) ∧
         (r < 68608 → s.ownSrc m.val r = true → c.fld 4 1 2 = 1 → m.val ≠ 0 → fails (.srcSet m) 4 4) ∧
         (r < 68608 → s.ownSrc m.val r = true → c.fld 4 0 1 = 0 → c.fld 4 1 2 = 0 → ans (.srcSet m) 0 0 (words .srcStat r 1) [.srcSel] fun t => t.get Fld.srcSel.SRC = r) ∧
         (r < 68608 → s.ownSrc m.val r = true → c.fld 4 0 1 = 1 → c.fld 4 1 2 = 0 → s.eic = [] → s.get (Fld.srcCfg.MASK r) = 0 → c.fld 8 0 1 = 0 →
           ∃ b, ans (.srcSet m) 0 0 b [.srcSel, .srcCfg] fun t => t.get (Fld.srcCfg.MASK r) = 0 ∧ t.get (Fld.srcCfg.PRI r) = c.fld 8 1 8 ∧
             (r < 0x10800 → t.get (Fld.srcCfg.TGT_CORE r) = c.fld 8 9 1 ∧ t.get (Fld.srcCfg.TGT r) = c.fld 8 10 12))) ∧
      (let k := c.fld 0 0 12
       let d := c.fld 2 0 12
       let gcm := c.fld 4 0 1 == 1
       let kept (t : State) : Prop := AcpOnly [] (fun u => { u with keys := [] }) s t ∧ ∀ k', k' ≠ k → t.keySlot k' = s.keySlot k'
       (srv 0x0C → (s.ownKey m.val k = false → fails (.keyLoad m) 4 0) ∧ (s.ownKey m.val k = true → s.ownDom m.val d = false → fails (.keyLoad m) 4 2) ∧
         (s.ownKey m.val k = true → s.ownDom m.val d = true → s.get (Fld.pdData.VALID d) = 1 → (gcm = true → c.fld 40 0 256 ≠ 0 → fails (.keyLoad m) 3 40) ∧
           ((gcm = true → c.fld 40 0 256 = 0) → ∃ t, exec (.keyLoad m) s = .next t ∧ Answered c 0 0 [] s t ∧ kept t ∧
             t.keySlot k = { valid := true, dom := d, gcm := gcm, key := toBytes (if gcm then 32 else 64) (c.fld 8 0 512) }))) ∧
       (srv 0x0D → (s.ownKey m.val k = false → fails (.keyClear m) 4 0) ∧ (s.ownKey m.val k = true → ∃ t, exec (.keyClear m) s = .next t ∧ Answered c 0 0 [] s t ∧ kept t ∧
         (t.keySlot k).valid = false))) ∧
      (let p := c.fld 0 32 12
       let ix := c.fld 0 0 30
       srv 0x0E → (s.ownPool m.val p = false → fails (.bufFree m) 4 4) ∧ (s.ownPool m.val p = true → s.get (Fld.poolData.EN p) = 0 → fails (.bufFree m) 5 4) ∧
         (s.ownPool m.val p = true → s.get (Fld.poolData.EN p) = 1 → (s.get (Fld.poolData.NBUF p) ≤ ix → fails (.bufFree m) 3 0) ∧
           (ix < s.get (Fld.poolData.NBUF p) → s.alreadyFree p ix = false → Quiet (s.freeBuf p ix) → (s.freeBuf p ix).acp = s.acp →
             ∃ t, exec (.bufFree m) s = .next t ∧ Answered c 0 0 [] (s.freeBuf p ix) t ∧ AcpOnly [] id (s.freeBuf p ix) t))) ∧
      (let p := c.fld 0 0 12
       (srv 0x0F → (s.ownPool m.val p = false → fails (.poolGet m) 4 0) ∧ (s.ownPool m.val p = true → ans (.poolGet m) 0 0 (words .poolData p 8) [.poolSel] fun t => t.get Fld.poolSel.POOL = p)) ∧
       (srv 0x10 → (s.ownPort m.val p = false → fails (.portGet m) 4 0) ∧ (s.ownPort m.val p = true → ans (.portGet m) 0 0 (words .dpData p 4) [.dpSel] fun t => t.get Fld.dpSel.PORT = p))) ∧
      (srv 0x12 → (m.val ≠ 0 ∨ s.get Fld.glbExpert.ALLOWED = 0 → fails (.expertUnlock m) 4 0) ∧
        (m.val = 0 → s.get Fld.glbExpert.ALLOWED = 1 → ∃ b, ans (.expertUnlock m) 0 0 b [.glbExpert] fun t => t.get Fld.glbExpert.UNLOCKED = 1 ∧ t.get Fld.glbExpert.ALLOWED = 1)) ∧
      (srv 0x13 → (m.val ≠ 0 → fails (.expertLock m) 4 0) ∧
        (m.val = 0 → ∃ b, ans (.expertLock m) 0 0 b [.glbExpert] fun t => t.get Fld.glbExpert.UNLOCKED = 0))

/-- Each expert-level ACP command on groups, domains, event queues, ports, pools, units, banks, FIFOs, links and the library has the effect of its row and answers. -/
def Obligations.ExpertAcpCommandsAnswer : Prop :=
  ∀ (m : Fin 1024) (c : AcpCmd) (s : State), Quiet s → m.val = 0 → c.win = 0 →
      let ans (i : Instr) (e d : Nat) (pay : List Byte) (ids : List RegId) (P : State → Prop) : Prop :=
        ∃ t, exec i s = .next t ∧ Answered c e d pay s t ∧ AcpOnly ids id s t ∧ P t
      let fails (i : Instr) (e d : Nat) : Prop := ans i e d [] [] fun _ => True
      let after (u : State) (i : Instr) (e d : Nat) (pay : List Byte) : Prop := ∃ t, exec i s = .next t ∧ Answered c e d pay u t ∧ AcpOnly [] id u t
      let ran (r : Res) (u : State) : Prop := r = .next u ∧ Quiet u ∧ u.acp = s.acp
      let srv (opc : Nat) : Prop := Serving opc c s
      let told (t : State) (f : Nat) : Prop := t.get (Fld.mbStat.N_ASSIGN f) = 1
      let later (t : State) : Prop := t.acp = s.acp.map fun e => if e.win = c.win then { e with phase := 1 } else e
      (let g := c.fld 0 0 12
       let off : Prop := ∀ i, i < 16 → s.get (Fld.qctx.STATE (g * 16 + i)) = 0
       srv 0x40 → (¬off → fails (.grpAssign m) 5 0) ∧ (off → ans (.grpAssign m) 0 0 [] [.grp] fun t => t.get (Fld.grp.ASSIGNED g) = c.fld 8 0 1 ∧
         t.get (Fld.grp.FUNC g) = c.fld 8 1 10 ∧ t.get (Fld.grp.VF_PAGE g) = c.fld 8 12 12 ∧ (c.fld 8 0 1 = 1 → told t (c.fld 8 1 10)) ∧
         (s.get (Fld.grp.ASSIGNED g) = 1 → told t (s.get (Fld.grp.FUNC g))) ∧ ∀ k, k ≠ g → t.reg ⟨.grp, k, 0⟩ = s.reg ⟨.grp, k, 0⟩)) ∧
      (let d := c.fld 0 0 12
       let wrote (t : State) : Prop := t.get (Fld.pdData.VALID d) = c.fld 8 0 1 ∧ t.get (Fld.pdData.FUNC d) = c.fld 8 1 10 ∧ t.get (Fld.pdData.ST_LOG2 d) = c.fld 8 11 5 ∧
         t.get (Fld.pdData.ST_BASE d) = c.fld 16 12 45 ∧ t.get Fld.pdSel.PDOM = d
       srv 0x41 → s.stuTaken c = false →
         (c.phase = 0 → 16 < c.fld 8 11 5 → fails (.domSet m) 3 9) ∧
         (c.phase = 0 → c.fld 8 11 5 ≤ 16 → s.libSel = 0 →
           (s.get (Fld.pdData.VALID d) = 0 → ans (.domSet m) 0 0 [] [.pdData, .pdSel] fun t => wrote t ∧ (c.fld 8 0 1 = 1 → told t (c.fld 8 1 10))) ∧
           (s.get (Fld.pdData.VALID d) = 1 → s.inv = none → s.xfer = [] → (∀ k, (s.cx k).live = false) → ∃ t, exec (.domSet m) s = .next t ∧ wrote t ∧ later t ∧
             t.inv = some { scope := 1, stop := true, notify := false, dom := d, sel := 0 } ∧ t.out = s.out ∧ RegsKept [.pdData, .pdSel, .invCmd, .invStat, .mbStat, .srcStat] s t)) ∧
         (c.phase = 1 → s.inv = none → s.deferred = [] → ans (.domSet m) 0 0 [] [] fun _ => True)) ∧
      (let q := c.fld 0 0 12
       let f := c.fld 2 0 10
       let was := s.get (Fld.eqData.FUNC q)
       srv 0x42 → (s.get (Fld.eqData.EN q) = 1 → fails (.evqAssign m) 5 0) ∧ (s.get (Fld.eqData.EN q) = 0 → ans (.evqAssign m) 0 0 [] [.eqData, .eqSel] fun t =>
         t.get (Fld.eqData.FUNC q) = f ∧ (f ≠ was → told t f ∧ told t was) ∧ t.get (Fld.eqData.VEC q) = s.get (Fld.eqData.VEC q))) ∧
      (let node := c.fld 0 0 16
       let key := proposeKey 0
       let b := (s.discOf key).got
       let stage := (s.discOf key).stage
       let begun (n : Nat) (t : State) : Prop := later t ∧ t.discOf key = { node := node, got := [], stage := n }
       srv 0x43 →
         (c.phase = 0 → s.reachable node = false → fails (.portPropose m true) 5 0) ∧
         (c.phase = 0 → s.reachable node = true → s.freeTag 3 = none → ∃ t, exec (.portPropose m true) s = .next t ∧ begun 1 t ∧ t.out = s.out ∧ RegsKept [] s t) ∧
         (c.phase = 0 → s.reachable node = true → ∀ l k tag, Leaves s node 3 0 l k tag → ∃ t, exec (.portPropose m true) s = .next t ∧ begun 2 t ∧ RegsKept [.pluCred] s t ∧
           t.out = .pkt l { mrdPkt node 0xFFFFFFFFF000 64 3 false with src := s.selfNode, tag := tag, hops := k } :: s.out ∧ ∃ x, t.txnOf tag = some x ∧ x.purp = .disc key) ∧
         (c.phase ≠ 0 → stage ≠ 3 → stage ≠ 4 → exec (.portPropose m false) s = .next s) ∧
         (∀ first : Bool, first ≠ (c.phase == 0) → exec (.portPropose m first) s = .next s) ∧
         (c.phase ≠ 0 → (stage = 4 ∨ (stage = 3 ∧ descOk b = false)) → fails (.portPropose m false) 14 0) ∧
         (c.phase ≠ 0 → stage = 3 → descOk b = true →
           let n := imgNum b 0xC 1 % 128
           let k := Nat.min 3 (n - c.fld 2 0 7)
           ans (.portPropose m false) 0 0 (toBytes 1 n ++ toBytes 7 k ++ (List.range k).flatMap fun i => proposal b node (c.fld 2 0 7 + i)) [] fun _ => True)) ∧
      (let p := c.fld 0 0 12
       let port : Fin 4096 := Fin.ofNat 4096 p
       let t0 := s.put Fld.dpSel.PORT p
       srv 0x44 →
         (c.fld 2 0 2 = 3 → fails (.portSet m) 3 2) ∧
         (c.fld 2 0 2 = 1 ∨ c.fld 2 0 2 = 2 → ∀ u, ran (if c.fld 2 0 2 = 1 then exec (.portRemove port) t0 else exec (.portRestore port) t0) u →
           (u.get Fld.dpCmd.RESULT ≠ 0 → after u (.portSet m) 7 (u.get Fld.dpCmd.RESULT) []) ∧
           (u.get Fld.dpCmd.RESULT = 0 → after u (.portSet m) 0 0 (toBytes 8 (u.viewReg ⟨.dpData, p, 0⟩).toNat))) ∧
         (c.fld 2 0 2 = 0 → s.get (Fld.dpData.VALID p) = 0 → c.fld 8 0 1 = 0 → ∃ b, b.length = 8 ∧ ans (.portSet m) 0 0 b [.dpData, .dpSel] fun t =>
           t.get (Fld.dpData.VALID p) = 0 ∧ t.get (Fld.dpData.PDOM p) = c.fld 8 2 12 ∧ t.get (Fld.dpData.NODE p) = c.fld 8 16 16 ∧ t.get (Fld.dpData.SLOT p) = c.fld 8 32 8 ∧
           t.get (Fld.dpData.REG_LOG2 p) = c.fld 8 41 3 ∧ t.get (Fld.dpData.IDEM p) = c.fld 16 48 16 ∧ t.get (Fld.dpData.DATA_BASE p) = c.fld 24 0 48 ∧
           t.get (Fld.dpData.DATA_LIMIT p) = c.fld 32 0 48) ∧
         (c.fld 2 0 2 = 0 → s.get (Fld.dpData.VALID p) = 1 → c.fld 8 0 1 = 1 → c.fld 8 2 12 ≠ s.get (Fld.dpData.PDOM p) →
           ans (.portSet m) 5 0 [] [.dpStat, .dpSel] fun t => t.get Fld.dpStat.REJECT = 1)) ∧
      (let p := c.fld 0 0 12
       srv 0x45 →
         (s.get (Fld.poolData.EN p) = 0 → c.fld 8 0 1 = 0 → ∃ b, ans (.poolSet m) 0 0 b [.poolData, .poolSel, .bpmStat] fun t =>
           t.get (Fld.poolData.EN p) = 0 ∧ t.get (Fld.poolData.BACKING p) = c.fld 8 1 2 ∧ t.get (Fld.poolData.BUF_LOG2 p) = c.fld 8 3 4 ∧ t.get (Fld.poolData.PDOM p) = c.fld 8 7 12 ∧
           t.get (Fld.poolData.NBUF p) = c.fld 24 0 31 ∧ t.get (Fld.poolData.WAIT_LIMIT p) = c.fld 40 0 16 ∧ t.get (Fld.poolData.LOW_WM p) = c.fld 40 16 30 ∧
           t.get Fld.bpmStat.REJECT = s.get Fld.bpmStat.REJECT) ∧
         (s.get (Fld.poolData.EN p) = 1 → c.fld 8 0 1 = 1 → c.fld 24 0 31 ≠ s.get (Fld.poolData.NBUF p) → ∃ t, exec (.poolSet m) s = .next t ∧ Answered c 7 1 [] s t ∧
           t.get Fld.bpmStat.REJECT = 1 ∧ t.get (Fld.poolData.NBUF p) = s.get (Fld.poolData.NBUF p)) ∧
         (s.get (Fld.poolData.EN p) = 1 → (∀ j, j < 4 → maskBits (c.word (8 + 8 * j)) (cfgMask ⟨.poolData, p, j⟩) = maskBits (s.reg ⟨.poolData, p, j⟩).toNat (cfgMask ⟨.poolData, p, j⟩)) →
           ∃ b, ans (.poolSet m) 0 0 b [.poolData, .poolSel, .bpmStat] fun t => t.get (Fld.poolData.EN p) = 1 ∧ t.get (Fld.poolData.NBUF p) = s.get (Fld.poolData.NBUF p) ∧
             t.get (Fld.poolData.WAIT_LIMIT p) = c.fld 40 0 16 ∧ t.get (Fld.poolData.LOW_WM p) = c.fld 40 16 30 ∧ t.get Fld.bpmStat.REJECT = s.get Fld.bpmStat.REJECT)) ∧
      (let n := c.fld 0 0 3
       srv 0x46 →
         (s.extOut n ≠ 0 → ∃ t, exec (.extSet m) s = .next t ∧ t.get (Fld.extBind.VALID n) = 0 ∧ later t ∧ RegsKept [.extBind] s t) ∧
         (s.extOut n = 0 → s.deferred = [] → ans (.extSet m) 0 0 [] [.extBind] fun t => t.get (Fld.extBind.VALID n) = c.fld 8 0 1 ∧ t.get (Fld.extBind.NODE n) = c.fld 8 1 16 ∧
           t.get (Fld.extBind.UNIT n) = c.fld 8 17 3 ∧ t.get (Fld.extBind.DOM_EN n) = c.fld 8 20 1 ∧ t.get (Fld.extBind.PDOM n) = c.fld 8 21 12 ∧
           t.get (Fld.extBind.TMO_US n) = c.fld 8 33 16 ∧ t.get (Fld.extBind.MAX_OUT n) = c.fld 8 49 7)) ∧
      (let b := c.fld 0 0 10
       srv 0x47 → ∀ late,
         (c.phase = 0 → c.fld 0 10 2 ≠ 0 → ∀ u, ran (s.writeBankCmd (c.fld 0 0 32) (c.fld 0 10 2)) u →
           let shown := toBytes 8 (u.viewReg ⟨.bankOwn, b, 0⟩).toNat
           (u.get Fld.bankCmd.RESULT ≠ 0 → after u (.bankSet m late) 7 (u.get Fld.bankCmd.RESULT) []) ∧
           (u.get Fld.bankCmd.RESULT = 0 → (c.fld 8 0 1 = 0 ∨ u.get Fld.bankCmd.BUSY = 0) → after u (.bankSet m late) 0 0 shown) ∧
           (u.get Fld.bankCmd.RESULT = 0 → c.fld 8 0 1 = 1 → u.get Fld.bankCmd.BUSY = 1 → late = true → after u (.bankSet m late) 13 0 shown) ∧
           (u.get Fld.bankCmd.RESULT = 0 → c.fld 8 0 1 = 1 → u.get Fld.bankCmd.BUSY = 1 → late = false → ∃ t, exec (.bankSet m late) s = .next t ∧ later t ∧ RegsKept [] u t)) ∧
         (c.phase = 1 → s.get Fld.bankCmd.BUSY = 0 → s.deferred = [] → ans (.bankSet m late) 0 0 (toBytes 8 (s.viewReg ⟨.bankOwn, b, 0⟩).toNat) [] fun _ => True)) ∧
      (let f := c.fld 0 0 6
       srv 0x48 → (4 < c.fld 4 0 3 → fails (.fifoSet m) 3 4) ∧
         (c.fld 4 0 3 ≤ 4 → (8 ≤ c.fld 8 8 4 ∧ c.fld 8 8 4 ≤ 14) → fails (.fifoSet m) 3 9) ∧
         (c.fld 4 0 3 ≤ 4 → ¬(8 ≤ c.fld 8 8 4 ∧ c.fld 8 8 4 ≤ 14) → (c.fld 16 0 13 ≤ c.fld 16 16 13 ∨ 4096 < c.fld 16 0 13) → fails (.fifoSet m) 3 16) ∧
         (c.fld 4 0 3 = 0 → ¬(8 ≤ c.fld 8 8 4 ∧ c.fld 8 8 4 ≤ 14) → c.fld 16 16 13 < c.fld 16 0 13 → c.fld 16 0 13 ≤ 4096 → s.get (Fld.fifoCfg.EN f) = 0 → c.fld 8 0 1 = 0 →
           c.fld 8 12 1 = 0 → ownerOk true (c.fld 8 32 16) = true → ownerOk true (c.fld 8 48 16) = true → s.fLevel f = 0 → ∃ t b, exec (.fifoSet m) s = .next t ∧
           Answered c 0 0 b s t ∧ b.length = 8 ∧ RegsKept [.fifoCfg, .fifoWm, .fifoSel, .fifoStat, .mbRsp, .mbStat, .srcStat] s t ∧ t.get (Fld.fifoCfg.GROUP f) = c.fld 8 8 4 ∧
           t.get (Fld.fifoCfg.FPRI f) = c.fld 8 4 4 ∧ t.get (Fld.fifoCfg.PROD f) = c.fld 8 32 16 ∧ t.get (Fld.fifoCfg.CONS f) = c.fld 8 48 16 ∧
           t.get (Fld.fifoWm.HI_WM f) = c.fld 16 0 13 ∧ t.get (Fld.fifoWm.LO_WM f) = c.fld 16 16 13 ∧ t.get Fld.fifoSel.FIFO = f)) ∧
      (let p : Fin 8 := Fin.ofNat 8 (c.fld 0 0 3)
       srv 0x49 → (4 < c.fld 4 0 3 → fails (.linkSet m) 3 4) ∧ (c.fld 4 0 3 ≤ 4 → ∀ u,
         ran (exec ([Instr.linkEnable p, .linkDisable p, .linkRetrain p, .linkHold p, .linkHoldClear p].getD (c.fld 4 0 3) .clrForeign) s) u →
         after u (.linkSet m) 0 0 (toBytes 8 (u.viewReg ⟨.pluStat, p.val, 0⟩).toNat))) ∧
      (let base := c.fld 0 0 57
       let sel := c.fld 8 0 16
       srv 0x4A → (base % 65536 ≠ 0 → fails (.libInstall m) 3 0) ∧ (base % 65536 = 0 → sel = 0 → fails (.libInstall m) 3 8) ∧
         (base % 65536 = 0 → sel ≠ 0 → s.hostOk 0 = false → fails (.libInstall m) 10 0) ∧
         (base % 65536 = 0 → sel ≠ 0 → s.hostOk 0 = true → (∀ w ∈ s.watch, w.2 = []) → s.on Fld.hpuStat.MODE = false → ∀ d, s.get (Fld.pdData.VALID d) = 1 → sel < 2 ^ s.get (Fld.pdData.ST_LOG2 d) →
           (∀ e ∈ s.regs, e.1.id = .pdData → e.1.i = d) → (s.regs.filter fun e => e.1.id == .pdData && e.1.j == 0).length = 1 →
           ∃ t, exec (.libInstall m) s = .next t ∧ Answered c 0 0 (toBytes 4 1) s t ∧ t.libSel = sel ∧ t.libBase = base ∧ RegsKept [.mbRsp, .mbStat, .srcStat] s t ∧
             let wr (a : Nat) (bs : List Byte) : Out := .hostWrite 0 (s.hostAddr 0 a).1 (s.hostAddr 0 a).2 bs
             t.out = wr (s.get (Fld.pdData.ST_BASE d) * 4096 + sel * 32) (toBytes 8 0x29 ++ toBytes 8 base ++ toBytes 8 0x10000 ++ toBytes 8 0) ::
               (((List.range 16).map fun k => wr (base + 4096 * k) ((List.range 4096).map fun j => Config.libByte (4096 * k + j))).reverse ++ s.out)))

/-- CFG_STAGE, CFG_CASTLE, CFG_ROLLBACK and CFG_STATUS answer, blocks switch one by one, and a castling commits or rolls back. -/
def Obligations.ConfigurationsAreStagedAndCastled : Prop :=
  ∀ (m : Fin 1024) (s : State), Quiet s → s.planWant = none → s.planWait = [] → s.deferred = [] → s.stagedPlan = false →
      let st := s.get Fld.cfsStat.STATE
      let roles (t : State) (a p g : Option Nat) : Prop := t.roles.active = a ∧ t.roles.prev = p ∧ t.roles.staged = g
      let same (t : State) : Prop := roles t s.roles.active s.roles.prev s.roles.staged ∧ t.cfgSlot = s.cfgSlot
      let maps (t : State) (n p w : Nat) : Prop := t.get Fld.cfsStat.STATE = n ∧ t.get Fld.cfsPart.MAP = p ∧ t.get Fld.cfsSwmap.MAP = w
      let event (t : State) : Prop := t.get (Fld.srcStat.PEND 0x10410) = 1
      let later (c : AcpCmd) (t : State) : Prop := t.acp = s.acp.map fun e => if e.win = c.win then { e with phase := 1 } else e
      (∀ c, Serving 0x4E c s → c.win = m.val → ∃ t, exec (.cfgStatus m) s = .next t ∧ AcpOnly [] id s t ∧ Answered c 0 0 (toBytes 4 (s.slotVer s.activeSlot) ++
        toBytes 4 (s.slotVer s.roles.prev) ++ toBytes 4 (s.slotVer s.roles.staged) ++ toBytes 4 (s.get Fld.cfsStat.EPOCH + 256 * st)) s t) ∧
      (∀ c img, Serving 0x4B c s → c.win = m.val →
        let n := c.fld 8 0 32
        let ends (e d : Nat) (P : State → Prop) : Prop := ∃ t, exec (.cfgStage m img) s = .next t ∧ Answered c e d [] s t ∧ P t
        let failed (t : State) : Prop := same t ∧ t.get Fld.cfsStat.STATE = 0 ∧ RegsKept [.cfsStat, .mbRsp, .mbStat, .srcStat] s t
        (c.phase = 0 → c.aborted = false → (st ≠ 0 → ends 5 0 (AcpOnly [] id s)) ∧ (st = 0 → s.hostOk 0 = false → ends 10 0 (AcpOnly [] id s)) ∧
          (st = 0 → s.hostOk 0 = true → ∃ t, exec (.cfgStage m img) s = .next t ∧ t.get Fld.cfsStat.STATE = 1 ∧ same t ∧
            t.out = .hostRead s.hreqNext 0 .io false (c.fld 0 0 57) n 0 :: s.out ∧ later c t)) ∧
        (c.phase = 1 → (c.aborted = true → ends 9 0 failed) ∧ (c.aborted = false → img = none → ends 10 0 failed) ∧
          (c.aborted = false → ∀ b, img = some b →
            let im := (b.take n).take 0x400000
            (∀ e p, s.stageCheck im = some (e, some p) → ends e (p % 2 ^ 32) failed) ∧ (∀ e, s.stageCheck im = some (e, none) → ∃ d, ends e d failed) ∧
            (s.stageCheck im = none → ∃ t, exec (.cfgStage m img) s = .next t ∧ Answered c 0 0 (toBytes 4 (imgNum im 8 4)) s t ∧
              roles t s.roles.active s.roles.prev (some s.spareSlot) ∧ t.slotImg s.spareSlot = im ∧ (∀ k, k ≠ s.spareSlot → t.slotImg k = s.slotImg k) ∧
              t.get Fld.cfsStat.STATE = 0)))) ∧
      (∀ c, Serving 0x4C c s → c.win = m.val → c.phase = 0 →
        let fails (e d : Nat) : Prop := ∃ t, exec (.cfgCastle m) s = .next t ∧ Answered c e d [] s t ∧ AcpOnly [] id s t
        (400 < c.fld 4 0 16 → fails 3 4) ∧
        (c.fld 4 0 16 ≤ 400 → (st ≠ 0 ∨ s.roles.staged = none ∨ s.slotVer s.roles.staged ≠ c.fld 0 0 32) → fails 5 0) ∧
        (c.fld 4 0 16 ≤ 400 → st = 0 → ∀ k, s.roles.staged = some k → s.slotVer (some k) = c.fld 0 0 32 → ∃ t, exec (.cfgCastle m) s = .next t ∧
          t.castle = some { slot := k, byRollback := false, startTs := s.time % 2 ^ 32, win := some m.val } ∧ same t ∧ later c t ∧
          maps t 2 (partMap s.activeVer (versionOf (s.slotImg k))) (2 ^ 64 - 1 - partMap s.activeVer (versionOf (s.slotImg k))))) ∧
      (∀ c, Serving 0x4D c s → c.win = m.val → c.phase = 0 →
        (s.validPrev = none → ∃ t, exec (.cfgRollback m) s = .next t ∧ Answered c 5 0 [] s t ∧ AcpOnly [] id s t) ∧
        (∀ k, s.validPrev = some k → st = 0 → ∃ t, exec (.cfgRollback m) s = .next t ∧ same t ∧ later c t ∧
          t.castle = some { slot := k, byRollback := true, startTs := s.time % 2 ^ 32, win := some m.val } ∧
          maps t 2 (partMap s.activeVer (versionOf (s.slotImg k))) (2 ^ 64 - 1 - partMap s.activeVer (versionOf (s.slotImg k))))) ∧
      (∀ k, s.castle = some k →
        let asked (e : AcpCmd) (w : Nat) : Prop := k.win = some w ∧ e ∈ s.acp ∧ e.win = w ∧ (∀ d ∈ s.acp, d.win = w → d = e) ∧ e.hdr < 2 ^ 64
        let e0 := s.get Fld.cfsStat.EPOCH
        let part := s.get Fld.cfsPart.MAP
        let sw := s.get Fld.cfsSwmap.MAP
        let all : Prop := sw ||| 2 ^ 10 = 2 ^ 64 - 1 ∧ s.fwHolds 10 = false
        let ended (t : State) : Prop := maps t 0 0 0 ∧ t.castle = none
        let rolled (t : State) : Prop := ended t ∧ t.get Fld.cfsStat.ROLLED_BACK = 1 ∧ event t ∧ same t ∧ t.get Fld.cfsStat.EPOCH = e0 ∧
          ∀ e, asked e m.val → st < 4 → Answered e 0 0 (toBytes 4 (e0 + if e.opc = 0x4C then 256 else 0)) s t
        let logged (t : State) (b : Nat) : Prop := s.get Fld.failLog.VALID = 0 → t.get Fld.failLog.VALID = 1 ∧ t.get Fld.failLog.BLOCK = b
        let back (t : State) (b : Nat) : Prop := logged t b ∧ (if sw &&& part = 0 then rolled t else maps t 3 part sw ∧ same t ∧ t.castle = s.castle)
        (∀ b : Fin 64, part.testBit b.val = true →
          (st = 2 → b.val ≠ 10 → sw.testBit b.val = false → s.safePoint s.newVer b.val = true → (s.blkSwitch s.newVer b.val).tableBad s.newVer b.val = none → ∃ t, exec (.blockSwitch b) s = .next t ∧
            maps t 2 part (sw + 2 ^ b.val) ∧ same t ∧ t.castle = s.castle ∧
            ((b.val = 0 ∨ (12 ≤ b.val ∧ b.val ≤ 19) ∨ (40 ≤ b.val ∧ b.val ≤ 42) ∨ b.val = 63) → ∀ r, regBlk r = some b.val →
              maskBits (t.reg r).toNat (verMask r) = maskBits (s.newVer.get r) (verMask r))) ∧
          (st = 2 → (b.val = 10 ∨ sw.testBit b.val = true ∨ s.safePoint s.newVer b.val = false) → exec (.blockSwitch b) s = .next s) ∧
          (st = 3 → sw.testBit b.val = true → s.safePoint s.activeVer b.val = true → ∃ t, exec (.blockSwitch b) s = .next t ∧
            (if sw &&& part = 2 ^ b.val then rolled t else maps t 3 part (sw - 2 ^ b.val) ∧ same t ∧ t.castle = s.castle))) ∧
        (st = 2 → ¬all → exec .castlingCommit s = .next s) ∧
        (st = 2 → ¬all → ∃ t, exec .castlingFlagFall s = .next t ∧ back t s.notSwitched) ∧
        (st = 2 → all → s.kingBad s.activeVer s.newVer = true → ∃ t, exec .castlingCommit s = .next t ∧ back t 10) ∧
        (st = 2 → all → s.kingBad s.activeVer s.newVer = false → differIn s.activeVer s.newVer 37 = false → differIn s.activeVer s.newVer 38 = false →
          (if k.byRollback then s.roles.prev else s.roles.staged) = some k.slot → ∀ i ∈ [Instr.castlingCommit, Instr.castlingFlagFall],
          let e := (e0 + 1) % 256
          ∃ t, exec i s = .next t ∧ ended t ∧ event t ∧ (∀ a, asked a m.val → Answered a 0 0 (toBytes 4 e) s t) ∧ t.get Fld.cfsStat.EPOCH = e ∧ t.get Fld.dvsec.EPOCH = e ∧ t.cfgSlot = s.cfgSlot ∧
            roles t (some k.slot) s.roles.active (if k.byRollback then s.roles.staged else none) ∧
            t.get (Fld.epochLog.EPOCH 0) = e ∧ t.get (Fld.epochLog.VALID 0) = 1 ∧ t.get (Fld.epochLog.BY_ROLLBACK 0) = (if k.byRollback then 1 else 0) ∧
            t.get (Fld.epochLog.VERSION 0) = imgNum (s.slotImg k.slot) 8 4 ∧ t.get (Fld.epochLog.START_TS 0) = k.startTs % 2 ^ 32 ∧
            (∀ j, j < 15 → ∀ w, w < 2 → t.reg ⟨.epochLog, j + 1, w⟩ = s.reg ⟨.epochLog, j, w⟩) ∧ (∀ w, w < 1024 → t.get (Fld.mbStat.N_CFG w) = 1) ∧
            (part.testBit 10 = true → ∀ r, regBlk r = some 10 → maskBits (t.reg r).toNat (verMask r) = maskBits (s.newVer.get r) (verMask r)))) ∧
      (∀ k c, s.castle = some k → k.win = some m.val → c ∈ s.acp → (∀ d ∈ s.acp, d.win = c.win → d = c) → c.opc = 0x4C → c.hdr < 2 ^ 64 → c.win = m.val → st = 3 → Watched 36 s → s.get (Fld.errLog.VALID 36) = 0 →
        ∃ t, exec .rollbackFlagFall s = .next t ∧ Answered c 13 0 (toBytes 4 (s.get Fld.cfsStat.EPOCH + 256)) s t ∧ t.get Fld.cfsStat.STATE = 4 ∧ same t ∧
          t.get (Fld.errLog.VALID 36) = 1 ∧ t.get (Fld.errLog.KIND 36) = 10 ∧ Rose 36 s t)

/-- The ROM checks, tries the slots in order and jumps, or enters Recovery; firmware becomes ready; images go to flash; SPDM attests. -/
def Obligations.DeviceBootsRecoversAndAttests : Prop :=
  ∀ (m : Fin 1024) (img : Option (List Byte)) (s : State), Quiet s →
      let nothing (i : Instr) : Prop := exec i s = .next s
      let ask (c : Nat) : Option Nat := if s.chipPend = none then some c else s.chipPend
      let booted (k : Nat) (im : List Byte) (t : State) : Prop :=
        let own := if fwOwned im then s.keyHash true (sigKey (fwOwnerBlk im)) else List.replicate 48 0
        t.boot = .firmware ∧ t.get Fld.secStat.RUN_SLOT = k ∧ t.get Fld.secStat.UDS_LOCKED = 1 ∧ t.msram = Memory.writeL s.msram (imgNum im 0x14 4) (fwBody im) ∧
          t.fwOwner = own ∧ t.cdi = hmac384 Config.uds (Config.cdiMsg Config.romVer (fwDigest im) (fwSvn im) own s.fuses.ownFw s.fuses.ownCfg) ∧
          fusesRise s.fuses t.fuses ∧ (s.bootSlot = none → t.cfgOn = false) ∧ ∀ c pv, s.bootSlot = some (c, pv) → t.cfgOn = true ∧ t.bootPrev = pv ∧
            t.roles.active = some c ∧ (pv = true → t.roles.prev = s.roles.active) ∧ t.get Fld.hpuStat.MODE = cfgModes (s.slotImg c) % 2 ∧
            t.get Fld.glbExpert.ALLOWED = cfgModes (s.slotImg c) / 8 % 2
      let slots : List Nat := if (s.get Fld.secStat.FAIL0 ≠ s.get Fld.secStat.FAIL1 ∧ s.get Fld.secStat.FAIL1 = 1) ∨ (s.get Fld.secStat.FAIL0 = s.get Fld.secStat.FAIL1 ∧
        (fwSvn (s.fwImg 1) < fwSvn (s.fwImg 0) ∨ (fwSvn (s.fwImg 1) = fwSvn (s.fwImg 0) ∧ fwVerOf (s.fwImg 1) ≤ fwVerOf (s.fwImg 0)))) then [0, 1] else [1, 0]
      let entered (cause : Nat) (t : State) : Prop := t.boot = .recovery ∧ t.get Fld.secStat.RCV_CAUSE = cause ∧ t.get Fld.glbBoot.RCV_REQ = 0 ∧
        OnlyRegs [.secStat, .pcmStat, .pcmEff, .glbBoot] { s with boot := .recovery } t
      (s.boot ≠ .rom → nothing (.romBoot true) ∧ nothing (.romBoot false)) ∧
      (s.boot = .rom → (s.get Fld.fclFsw.FSW).testBit 35 = true → ∃ t, exec (.romBoot false) s = .next t ∧ t.boot = .halted ∧ t.get Fld.secStat.RCV_CAUSE = 2 ∧
        t.get Fld.secStat.FUSE_BAD = 1 ∧ OnlyRegs [.secStat] { s with boot := .halted } t) ∧
      (s.boot = .rom → Watched 35 s → s.get (Fld.errLog.VALID 35) = 0 → ∃ t, exec (.romBoot false) s = .next t ∧ t.get Fld.secStat.FUSE_BAD = 1 ∧
        t.get (Fld.errLog.KIND 35) = 3 ∧ t.get (Fld.errLog.VALID 35) = 1 ∧ Rose 35 s t) ∧
      (s.boot = .rom → s.get Fld.glbBoot.RCV_REQ = 1 → ∃ t, exec (.romBoot true) s = .next t ∧ entered 1 t) ∧
      (s.boot = .rom → s.get Fld.glbBoot.RCV_REQ = 0 → s.fwValid 0 = false → s.fwValid 1 = false → ∃ t, exec (.romBoot true) s = .next t ∧ entered 0 t) ∧
      (s.boot = .rom → s.get Fld.glbBoot.RCV_REQ = 0 → ∀ k, slots.find? s.fwValid = some k → ∃ t, exec (.romBoot true) s = .next t ∧ booted k (s.fwImg k) t) ∧
      (s.boot ≠ .firmware → nothing .bootWatchdogExpiry ∧ nothing .fwReady) ∧
      (s.boot = .firmware → let r := s.get Fld.secStat.RUN_SLOT
        ∃ t, exec .bootWatchdogExpiry s = .next t ∧ t.get Fld.secStat.FAIL0 = (if r = 0 then 1 else s.get Fld.secStat.FAIL0) ∧
          t.get Fld.secStat.FAIL1 = (if r = 1 then 1 else s.get Fld.secStat.FAIL1) ∧ t.chipPend = ask 4 ∧ OnlyRegs [.secStat] { s with chipPend := t.chipPend } t) ∧
      (s.boot = .firmware → ∃ t, exec .fwReady s = .next t ∧ t.boot = .ready ∧ t.get Fld.dvsec.FW_READY = 1 ∧ t.bootPrev = false ∧ fusesRise s.fuses t.fuses ∧
        (s.bootPrev = true → t.get (Fld.srcStat.PEND 0x10410) = 1) ∧ (s.fwValid 0 = false ∨ s.fwValid 1 = false → t.fuses = s.fuses) ∧
        (s.fwValid 0 = true → s.fwValid 1 = true → t.fuses.fwSvn = Nat.max s.fuses.fwSvn (Nat.min (fwSvn (s.fwImg 0)) (fwSvn (s.fwImg 1)))) ∧
        ∀ p, p < 8 → s.activeVer.fld (Fld.pluCtl.EN p) = 1 → s.pluBad p = false → t.get (Fld.pluCtl.EN p) = 1) ∧
      (let reads (i : Instr) (c : AcpCmd) : Prop := ∃ t, exec i s = .next t ∧ (if s.hostOk 0 = true then t.out = .hostRead s.hreqNext 0 .io false (c.fld 0 0 57) (c.fld 8 0 32) 0 :: s.out ∧
         (t.acp = s.acp.map fun e => if e.win = c.win then { e with phase := 1 } else e) ∧ t.fwSlot = s.fwSlot else Answered c 10 0 [] s t)
       let im := fun c : AcpCmd => (img.getD []).take (c.fld 8 0 32)
       let refused (i : Instr) (c : AcpCmd) (n : Nat) : Prop := ∃ t d, exec i s = .next t ∧ Answered c n d [] s t ∧ AcpOnly [] (fun u => { u with freeCnt := 0 }) s t ∧ (n ≠ 3 → d = 0)
       let checks (i : Instr) (c : AcpCmd) : Prop := (img = none → refused i c 10) ∧ (img.isSome → ∀ e, s.fwCheck (im c) = some e → refused i c e)
       let writes (i : Instr) (c : AcpCmd) (k : Nat) : Prop := img.isSome → s.fwCheck (im c) = none → ∃ t, exec i s = .next t ∧ t.fwImg k = im c ∧
         (∀ j, j ≠ k → t.fwImg j = s.fwImg j) ∧ t.fwValid k = false ∧ t.acp = s.acp.map fun e => if e.win = c.win then { e with phase := 2 } else e
       let ends (i : Instr) (c : AcpCmd) (k : Nat) (pay : List Byte) : Prop := ∃ t, exec i s = .next t ∧ t.fwSlot = s.fwSlot ∧ NSet.has t.fwWriting k = false ∧ fusesRise s.fuses t.fuses ∧
         Answered c ((s.fwCheck (s.fwImg k)).getD 0) 0 (if s.fwCheck (s.fwImg k) = none then pay else []) s t
       (∀ c, Serving 0x4F c s → c.win = m.val →
         let k := if s.get Fld.secStat.RUN_SLOT = 0 then 1 else 0
         let i := Instr.fwUpdate m img
         (c.aborted = false → (c.phase = 0 → reads i c) ∧ (c.phase = 1 → checks i c ∧ writes i c k) ∧
           (c.phase = 2 → s.fwWriting = [k] → ends i c k (toBytes 4 k) ∧ ∃ t, exec i s = .next t ∧ t.get (if k = 0 then Fld.secStat.FAIL0 else Fld.secStat.FAIL1) = 0)) ∧
         (c.aborted = true → ∃ t, exec i s = .next t ∧ Answered c 9 0 [] s t ∧ (c.phase = 2 → s.fwWriting = [k] → t.fwImg k = [] ∧ ∀ j, j ≠ k → t.fwImg j = s.fwImg j))) ∧
       ∀ opc c, Serving opc c s → c.win = 0 →
         let inRcv := s.boot = .recovery
         (opc = 0x80 → ∃ t, exec .rcvInfo s = .next t ∧ AcpOnly [] id s t ∧
           Answered c 0 0 (toBytes 8 (s.viewReg ⟨.secStat, 0, 0⟩).toNat ++ toBytes 8 (b2n (s.fwValid 0) + 2 * b2n (s.fwValid 1))) s t) ∧
         (¬inRcv → ∀ e ∈ [(Instr.rcvLoad img, 0x81), (.rcvFlash img, 0x82), (.rcvOwnerKey, 0x83), (.rcvReset, 0x84)], opc = e.2 →
           ∃ t, exec e.1 s = .next t ∧ Answered c 5 0 [] s t ∧ AcpOnly [] id s t) ∧
         (inRcv → opc = 0x81 → let i := Instr.rcvLoad img
           (c.phase = 0 → reads i c) ∧ (c.phase = 1 → checks i c ∧ (img.isSome → s.fwCheck (im c) = none → ∃ t, exec i s = .next t ∧ Answered c 0 0 [] s t ∧ booted 2 (im c) t ∧
             t.fwImg 2 = im c ∧ t.fwImg 0 = s.fwImg 0 ∧ t.fwImg 1 = s.fwImg 1))) ∧
         (inRcv → opc = 0x82 → let i := Instr.rcvFlash img
           (c.phase = 0 → reads i c) ∧ (c.phase = 1 → checks i c ∧ writes i c (c.fld 0xC 0 1)) ∧ (c.phase = 2 → s.fwWriting = [c.fld 0xC 0 1] → ends i c (c.fld 0xC 0 1) [])) ∧
         (inRcv → opc = 0x83 → let k := c.fld 0 0 2
           (s.fuses.okProg.testBit k = true → ∃ t, exec .rcvOwnerKey s = .next t ∧ Answered c 5 0 [] s t ∧ AcpOnly [] id s t) ∧
           (s.fuses.okProg.testBit k = false → ∃ t, exec .rcvOwnerKey s = .next t ∧ Answered c 0 0 [] s t ∧ AcpOnly [] (fun u => { u with fuses := {} }) s t ∧
             t.fuses = { s.fuses with okProg := s.fuses.okProg + 2 ^ k, okh := t.fuses.okh, ownFw := if s.fuses.okProg = 0 then c.fld 0 8 1 == 1 else s.fuses.ownFw,
                                      ownCfg := if s.fuses.okProg = 0 then c.fld 0 9 1 == 1 else s.fuses.ownCfg } ∧ ∀ j, SMap.get t.fuses.okh [] j = if j = k then toBytes 48 (c.fld 8 0 384) else SMap.get s.fuses.okh [] j)) ∧
         (inRcv → opc = 0x84 → ∃ t, exec .rcvReset s = .next t ∧ Answered c 0 0 [] s t ∧ t.chipPend = ask 5 ∧ AcpOnly [] (fun u => { u with chipPend := none }) s t)) ∧
      (let x := s.spdm
       let tells (i : Instr) (code : Nat) (vals : List Nat) (y : Spdm) : Prop := exec i s = .next { s with spdm := y, out := .spdm code vals :: s.out }
       let err (i : Instr) (e : Nat) : Prop := tells i 0x7F [e] x
       let up := x.ver = true ∧ x.caps = true ∧ x.algs = true
       let ordered : List Instr := [.getDigests, .getCertificate 0, .challenge 0, .getMeasurements 1, .keyExchange 0]
       (s.get Fld.dvsec.FW_READY = 0 ∨ s.get Fld.hpuStat.MODE = 1 → ∀ i ∈ ordered ++ [.getVersion, .getCapabilities, .negotiateAlgorithms, .finish, .heartbeat, .keyUpdate, .endSession], nothing i) ∧
       (s.get Fld.dvsec.FW_READY = 1 → s.get Fld.hpuStat.MODE = 0 →
         tells .getVersion 4 [0x12] { x with ver := true, caps := false, algs := false } ∧
         (x.ver = false → err .getCapabilities 4) ∧ (x.ver = true → tells .getCapabilities 0x61 [] { x with caps := true, algs := false }) ∧
         (¬(x.ver = true ∧ x.caps = true) → err .negotiateAlgorithms 4) ∧ (x.ver = true → x.caps = true → tells .negotiateAlgorithms 0x63 [] { x with algs := true }) ∧
         (¬up → ∀ i ∈ ordered, err i 4) ∧
         (up → tells .getDigests 1 [0] x ∧ tells (.getCertificate 0) 2 [0] x ∧ tells (.challenge 0) 3 [0] x ∧
           (∀ n : BitVec 8, n ≠ 0 → err (.getCertificate n) 1 ∧ err (.challenge n) 1 ∧ err (.keyExchange n) 1) ∧
           (x.sess = 0 → tells (.keyExchange 0) 0x64 [] { x with sess := 1 }) ∧ (x.sess ≠ 0 → err (.keyExchange 0) 0xA) ∧
           tells (.getMeasurements 0) 0x60 [6] x ∧ tells (.getMeasurements 1) 0x60 [1, Config.romVer] x ∧
           (∃ v, tells (.getMeasurements 2) 0x60 (2 :: ((fwDigest (s.fwImg (s.get Fld.secStat.RUN_SLOT))).map (·.toNat) ++ v)) x) ∧
           tells (.getMeasurements 3) 0x60 [3, s.fuses.fwSvn, s.fuses.cfgSvn] x ∧ (∃ v, tells (.getMeasurements 4) 0x60 (4 :: v ++ [s.slotVer s.activeSlot, s.get Fld.cfsStat.EPOCH]) x) ∧
           tells (.getMeasurements 5) 0x60 [5, s.fuses.okProg, s.fuses.okRev, s.fuses.vkRev, b2n s.fuses.ownFw, b2n s.fuses.ownCfg] x ∧
           tells (.getMeasurements 6) 0x60 (6 :: s.fwOwner.map (·.toNat)) x ∧
           tells (.getMeasurements 0xFF) 0x60 ((List.range 6).flatMap fun k => s.measBlock (k + 1)) x ∧ ∀ n : BitVec 8, 6 < n.toNat → n ≠ 0xFF → err (.getMeasurements n) 1) ∧
         (x.sess ≠ 1 → err .finish 4) ∧ (x.sess = 1 → tells .finish 0x65 [] { x with sess := 2 }) ∧
         (x.sess ≠ 2 → ∀ i ∈ [Instr.heartbeat, .keyUpdate, .endSession], err i 4) ∧
         (x.sess = 2 → tells .heartbeat 0x68 [] x ∧ tells .keyUpdate 0x69 [] x ∧ tells .endSession 0x6C [] { x with sess := 0 })))

/-- Engines move between W0 and W3, the device between Active, Doze and Sleep, and clocks and VDD step in the order of R471. -/
def Obligations.PowerClocksAndVoltageMove : Prop :=
  ∀ s : State, Quiet s →
      let nothing (i : Instr) : Prop := exec i s = .next s
      let ds := s.get Fld.pcmStat.DSTATE
      let req := s.get Fld.pcmCtl.SLEEP_REQ
      let valid (t : State) (k : Nat) : Prop := k < 128 ∧ t.get (Fld.kstActive.VALID k) = 1
      let bound (t : State) : Prop := t.get Fld.kingStat.BOUND_VALID = 1 ↔ (t.get Fld.qscCtl.KING_EN = 1 ∧ (∃ k, valid t k) ∧
        (∀ k, valid t k → 8 ≤ t.effStep (k / 16) ∧ t.engW (k / 16) (14 + k / 8 % 2) ≤ 1) ∧ t.get Fld.pcmStat.DSTATE ≠ 2 ∧ t.get Fld.pcmCtl.SLEEP_REQ = 0)
      let event (t : State) : Prop := t.get (Fld.srcStat.PEND 0x10412) = 1
      (∀ eng : Fin 128,
        let e := eng.val
        let held := ∃ c ∈ s.liveCtx, c / 8 = e
        let waking := NSet.has s.waking e = true
        let free := ¬held ∧ s.kingEngine e = false ∧ ¬waking
        let warm := s.warmEngine e = true
        let goes (i : Instr) (v : Nat) (wk : List Nat) : Prop := ∃ t, exec i s = .next t ∧ t.w e = v ∧ (∀ e', e' < 128 → e' ≠ e → t.w e' = s.w e') ∧
          OnlyRegs [.engState] { s with waking := wk } t ∧ bound t
        (s.w e = 0 → ¬waking → goes (.engineClockGate eng) 1 s.waking) ∧ (s.w e ≠ 0 ∨ waking → nothing (.engineClockGate eng)) ∧
        (s.w e = 1 → free → ¬(ds = 0 ∧ warm) → goes (.enginePowerGate eng) 2 s.waking) ∧ (s.w e ≠ 1 ∨ ¬free ∨ (ds = 0 ∧ warm) → nothing (.enginePowerGate eng)) ∧
        (s.w e = 2 → free → ¬warm → goes (.engineOff eng) 3 s.waking) ∧ (s.w e ≠ 2 ∨ ¬free ∨ warm → nothing (.engineOff eng)) ∧
        (waking ∨ (2 ≤ s.w e ∧ warm) → goes (.engineWakeComplete eng) 0 (NSet.del s.waking e)) ∧ (¬waking → (s.w e < 2 ∨ ¬warm) → nothing (.engineWakeComplete eng))) ∧
      (let idle := s.get Fld.pcmCtl.DOZE_EN = 1 ∧ ds = 0 ∧ s.liveCtx = [] ∧ s.xfer = [] ∧ s.acp = [] ∧ s.mailPending = [] ∧ s.get Fld.cfsStat.STATE = 0
       (¬idle → nothing .dozeEntry) ∧ (idle → ∃ t, exec .dozeEntry s = .next t ∧ t.get Fld.pcmStat.DSTATE = 1 ∧ event t ∧ bound t ∧
         (∀ e, e < 128 → t.w e = if s.kingEngine e then 1 else if s.warmEngine e then 2 else 3) ∧ OnlyRegs [.engState, .pcmStat, .srcStat] { s with gatedGrp := List.range 8, pwrGrp := List.range 8 } t)) ∧
      (let busy := ∃ q, s.get (Fld.qctx.IN_FLIGHT q) ≠ 0
       let refuses (n : Nat) : Prop := ∃ t, exec .sleepReq s = .next t ∧ t.get Fld.pcmStat.SLEEP_REJ = n ∧ OnlyRegs [.pcmStat] s t
       let abandons (i : Instr) : Prop := ∃ t, exec i s = .next t ∧ t.get Fld.pcmCtl.SLEEP_REQ = 0 ∧ t.get Fld.pcmStat.SLEEP_REJ = 5 ∧ t.get Fld.pcmStat.DSTATE = ds ∧
         OnlyRegs [.pcmCtl, .pcmStat] s t ∧ bound t
       (ds = 2 ∨ req = 1 → nothing .sleepReq) ∧ (ds ≠ 2 → req = 0 → (busy → refuses 1) ∧ (¬busy → s.xfer ≠ [] → refuses 2) ∧
         (¬busy → s.xfer = [] → s.get Fld.cfsStat.STATE ≠ 0 → refuses 3) ∧ (¬busy → s.xfer = [] → s.get Fld.cfsStat.STATE = 0 → s.acp ≠ [] → refuses 4) ∧
         (¬busy → s.xfer = [] → s.get Fld.cfsStat.STATE = 0 → s.acp = [] → ∃ t, exec .sleepReq s = .next t ∧ t.get Fld.pcmCtl.SLEEP_REQ = 1 ∧ t.get Fld.pcmStat.SLEEP_REJ = 0 ∧
           t.get Fld.kingStat.BOUND_VALID = 0 ∧ (s.get Fld.kingStat.BOUND_VALID = 1 → t.get (Fld.srcStat.PEND 0x10402) = 1) ∧ OnlyRegs [.pcmCtl, .pcmStat] s t)) ∧
       (req = 0 → nothing .sleepEntry ∧ nothing .sleepL2Timeout) ∧ (req = 1 → abandons .sleepL2Timeout) ∧
       (req = 1 → s.liveCtx = [] → ∃ t, exec .sleepEntry s = .next t ∧ t.get Fld.pcmStat.DSTATE = 2 ∧ t.get Fld.pcmCtl.SLEEP_REQ = 0 ∧ (ds ≠ 2 → event t) ∧ bound t ∧
         (∀ e, e < 128 → t.w e = 3) ∧ t.segCache = [] ∧ t.atc = [] ∧ t.watch = [] ∧ (∀ r : Reg, r.id = .gbtHist → t.reg r = r.reset) ∧ (∀ f, f < 64 → t.fLevel f = 0) ∧
         (∀ a, t.spm.read a = if a / 0x40000 < 512 ∧ (s.reg ⟨.pcmRet, 0, 0⟩).getLsbD (a / 0x40000 / 8) = true then s.spm.read a else 0) ∧
         t.msram = s.msram ∧ t.cfgSlot = s.cfgSlot ∧ t.ctx = s.ctx ∧ t.out = s.out ∧ t.link = s.link ∧
         ∀ r : Reg, r.id ∈ [RegId.qctx, .grp, .pdData, .dpData, .eqData, .srcCfg, .poolData, .fclFsw, .fclReact, .kstActive, .grpW, .cfsStat, .bankOwn, .pluStat] → t.reg r = s.reg r) ∧
       (∀ src : Fin 6, let wakes := ds = 2 ∧ s.wakeLow = false ∧ s.get Fld.pcmCtl.WAKE_EN / 2 ^ src.val % 2 = 1
         (req = 1 → abandons (.wakeEvent src)) ∧ (req = 0 → ¬wakes → nothing (.wakeEvent src)) ∧ (req = 0 → wakes → ∃ t, exec (.wakeEvent src) s = .next t ∧
           t.wakeLow = true ∧ (t.outReset = false → t.extest = false → t.pinWake = false) ∧ t.get Fld.wakeLog.VALID = 1 ∧ t.get Fld.wakeLog.SOURCE = src.val ∧
           OnlyRegs [.wakeLog] { s with wakeLow := true } t)) ∧
       (∀ n, (ds ≠ 2 ∨ s.wakeLow = false → nothing (.wakeComplete n)) ∧ (ds = 2 → s.wakeLow = true → ∃ t, exec (.wakeComplete n) s = .next t ∧ t.get Fld.pcmStat.DSTATE = 0 ∧ event t ∧
         t.wakeLow = false ∧ t.get Fld.wakeLog.PERIODS = n % 2 ^ 32 ∧ t.fclk = s.fclk + 64 * (n * 30517578125 / 32000000) ∧ bound t ∧
         (∀ e, e < 128 → t.w e = if s.kingEngine e then 1 else s.w e) ∧ OnlyRegs [.engState, .pcmStat, .srcStat, .wakeLog] { s with wakeLow := false, fclk := t.fclk } t))) ∧
      (let v := s.get Fld.pcmStat.VDD_MV
       let top := (List.range 8).foldl (fun m c => Nat.max m (s.ceil c)) 0
       let tgt := Nat.min 850 (s.get (Fld.pcmVtab.MV top) + s.get Fld.pcmPlan.GB_MV)
       let down := v > tgt ∧ ∀ c, c < 8 → s.clk c ≤ s.effTarget c
       let v' := if v < tgt then Nat.min tgt (v + 10) else Nat.max tgt (v - 10)
       let anew := s.pcmSw = 1 ∧ v' = tgt
       let spare (c i : Nat) : Prop := ((v' : Int) - (s.get (Fld.pcmVtab.MV i) : Int) - (s.get (Fld.agmDeg.DEG_MV c) : Int)) ≥ (s.get Fld.agmCtl.GUARD_MIN_MV : Int)
       (¬(v < tgt ∨ down) → nothing .vddStep) ∧ ((v < tgt ∨ down) → ∃ t, exec .vddStep s = .next t ∧ t.get Fld.pcmStat.VDD_MV = v' ∧ t.avsFail = false ∧ t.out = .avs v' :: s.out ∧
         (¬anew → OnlyRegs [.pcmStat] { s with avsFail := false, out := t.out } t) ∧
         (anew → t.pcmSw = 2 ∧ ∀ c, c < 8 → (spare c (s.ceil c) → SMap.get t.cap 0 c = 0 ∧ t.get ⟨⟨.pcmStat, 0, 0⟩, 6 + c, 1⟩ = 0) ∧ (¬spare c (s.ceil c) → t.get ⟨⟨.pcmStat, 0, 0⟩, 6 + c, 1⟩ = 1 ∧
           ∃ i, i ≤ s.ceil c ∧ SMap.get t.cap 0 c = i + 1 ∧ (spare c i ∨ i = 0) ∧ ∀ j, i < j → j ≤ s.ceil c → ¬spare c j))) ∧
       (∀ cl : Fin 8,
         let c := cl.val
         let k := s.clk c
         let up := k < s.effTarget c ∧ s.avsFail = false ∧ tgt ≤ v
         let moves (n : Nat) : Prop := ∃ t, exec (.eclkStep cl) s = .next t ∧ t.clk c = n ∧ (∀ c', c' ≠ c → t.clk c' = s.clk c') ∧ OnlyRegs [.pcmEff] { s with eclk := t.eclk } t ∧ bound t ∧
           t.effStep c = if s.effTarget c ≤ n then s.effTarget c else Nat.min (s.effStep c) n
         (up → moves (k + 1)) ∧ (s.effTarget c < k → moves (k - 1)) ∧ (¬up → k ≤ s.effTarget c → nothing (.eclkStep cl))) ∧
       (Watched 40 s → s.get (Fld.errLog.VALID 40) = 0 → ∃ t, exec .avsbusFailure s = .next t ∧ t.avsFail = true ∧ t.get Fld.pcmStat.VDD_MV = v ∧
         t.get (Fld.errLog.VALID 40) = 1 ∧ t.get (Fld.errLog.KIND 40) = 8 ∧ Rose 40 s t) ∧
       exec .thermalTrip s = .next { s with thermTrip := true } ∧
       ∀ tj : BitVec 8,
         let lowers (c : Nat) : Prop := c < 8 ∧ 0 < s.effTarget c ∧ (s.kingCluster c = true → ∀ c', c' < 8 → s.kingCluster c' = false → s.effTarget c' = 0)
         let falls := s.kingLow = false ∧ ∃ c, lowers c ∧ s.kingCluster c = true ∧ s.effTarget c = 8
         (tj.toNat ≤ s.get Fld.pcmCtl.T_THROT → ∃ t, exec (.throttleStep tj) s = .next t ∧ t.get Fld.pcmStat.TJ = tj.toNat ∧ t.get Fld.pcmStat.THROTTLE = 0 ∧
           OnlyRegs [.pcmStat, .pcmEff] { s with throttle := [] } t ∧ bound t) ∧
         (s.get Fld.pcmCtl.T_THROT < tj.toNat → ¬falls → ∃ t, exec (.throttleStep tj) s = .next t ∧ t.get Fld.pcmStat.TJ = tj.toNat ∧ t.get Fld.pcmStat.THROTTLE = 1 ∧
           OnlyRegs [.pcmStat, .pcmEff] { s with throttle := t.throttle } t ∧ bound t ∧ ∀ c, c < 8 → (lowers c → t.effTarget c = s.effTarget c - 1) ∧ (¬lowers c → t.effTarget c = s.effTarget c)) ∧
         (s.get Fld.pcmCtl.T_THROT < tj.toNat → falls → ∃ t, exec (.throttleStep tj) s = .next t ∧ t.get (Fld.srcStat.PEND 0x10411) = 1 ∧
           (s.get Fld.cfsStat.STATE = 0 → t.get Fld.agmPlan.CAUSE = 6) ∧ (s.get Fld.cfsStat.STATE ≠ 0 → t.planWant = some 6 ∧ t.get Fld.kingStat.BOUND_VALID = 0)))

/-- Measurements update headroom and caps and trigger the planner; a plan is computed, staged and castled; MARGIN and LIFE_REPORT answer. -/
def Obligations.MarginsAreMeasuredAndPlanned : Prop :=
  ∀ s : State, Quiet s →
      let st := s.get Fld.cfsStat.STATE
      let P := Fld.agmPlan.PSTATE
      let event (t : State) : Prop := t.get (Fld.srcStat.PEND 0x10411) = 1
      let asked (n : Nat) (t : State) : Prop := (st = 0 → t.get Fld.agmPlan.CAUSE = n) ∧ (st ≠ 0 → t.planWant = some n)
      let pl := s.planCalc
      let top := pl.1.foldl Nat.max 0
      let need (c : Nat) := s.get (Fld.pcmVtab.MV (pl.1.getD c 0)) + s.get (Fld.agmDeg.DEG_MV c) + s.get Fld.agmCtl.RESERVE_MV
      let hold : Prop := s.get Fld.agmCtl.AUTO = 0 ∨ s.planDefer = true
      (∀ c, c < 8 → pl.1.getD c 0 ≤ s.regByte .agmTgt 0 0 c) ∧
      (pl.2.2 = false → (∀ c, c < 8 → need c ≤ s.get (Fld.pcmVtab.MV top) + pl.2.1) ∧ s.get (Fld.pcmVtab.MV top) + pl.2.1 ≤ 850 ∧
        ∃ c, c < 8 ∧ need c = s.get (Fld.pcmVtab.MV top) + pl.2.1) ∧
      (let i := Instr.replanTimer
       let built (t : State) (k : Nat) (act : List Byte) : Prop :=
         let im := t.slotImg k
         im = ({ s with planWant := none }.put Fld.agmPlan.CAUSE 1).planImage act pl.1 pl.2.1 ∧ cfgKind im = 1 ∧ cfgVersion im = s.planVersion % 2 ^ 32 ∧ t.get Fld.agmPlan.VERSION = cfgVersion im ∧
           t.get Fld.agmPlan.LIMIT = (if pl.2.2 then 1 else 0)
       (st ≠ 0 → ∃ t, exec i s = .next t ∧ OnlyRegs [] { s with planWant := some 1 } t) ∧
       (st = 0 → s.activeSlot = none → ∃ t, exec i s = .next t ∧ t.get Fld.agmPlan.CAUSE = 1 ∧ OnlyRegs [.agmPlan] { s with planWant := none } t) ∧
       (st = 0 → ∀ a, s.activeSlot = some a → let act := s.slotImg a
         (s.roles.staged = none → hold → ∃ t, exec i s = .next t ∧ t.roles.staged = some s.spareSlot ∧ t.roles.active = s.roles.active ∧ t.roles.prev = s.roles.prev ∧
           built t s.spareSlot act ∧ asked 1 t ∧ t.get P = (if s.planDefer then 3 else 2) ∧ t.get Fld.cfsStat.STATE = 0 ∧ RegsKept [.agmPlan] s t) ∧
         (∀ k, s.roles.staged = some k → s.stagedPlan = true → hold → ∃ t, exec i s = .next t ∧ t.roles = s.roles ∧ built t k act ∧ asked 1 t ∧ t.get P = (if s.planDefer then 3 else 2) ∧ RegsKept [.agmPlan] s t) ∧
         (∀ k, s.roles.staged = some k → s.stagedPlan = false → ∃ t, exec i s = .next t ∧ t.roles = s.roles ∧ t.cfgSlot = s.cfgSlot ∧ t.planWait ≠ [] ∧ t.get P = 5 ∧ asked 1 t ∧ event t ∧
           RegsKept [.agmPlan, .srcStat] s t) ∧
         (s.roles.staged = none → ¬hold → ∃ t, exec i s = .next t ∧ t.roles.staged = some s.spareSlot ∧ built t s.spareSlot act ∧ t.get P = 4 ∧ t.get Fld.cfsStat.STATE = 2 ∧
           t.castle = some { slot := s.spareSlot, byRollback := false, startTs := s.time % 2 ^ 32, win := none }))) ∧
      (∀ (cl : Fin 8) (mv : BitVec 12) (noisy : Bool), hold ∨ st ≠ 0 → ∃ t, exec (.measurement (.cluster cl mv noisy)) s = .next t ∧
        let c := cl.val
        let x := 3 * s.get (Fld.agmDeg.DEG_MV c) + mv.toNat
        let d := t.get (Fld.agmDeg.DEG_MV c)
        let head (c i : Nat) : Int := (s.get Fld.pcmStat.VDD_MV : Int) - (s.get (Fld.pcmVtab.MV i) : Int) - (t.get (Fld.agmDeg.DEG_MV c) : Int)
        let met (c i : Nat) : Prop := head c i ≥ (s.get Fld.agmCtl.GUARD_MIN_MV : Int)
        let fell := s.kingLow = false ∧ t.kingLow = true
        let capped := ∃ k, k < 8 ∧ stepOr t.cap k 25 < stepOr s.cap k 25
        let drift := ∃ k, k < 8 ∧ t.get (Fld.agmDeg.DEG_MV k) ≥ s.degUsed k + s.get Fld.agmCtl.REPLAN_MV
        (if noisy then (x % 4 = 0 → d = x / 4) ∧ (d = x / 4 ∨ d = x / 4 + 1) else d = mv.toNat) ∧ t.get (Fld.agmDeg.NOISY c) = (if noisy then 1 else 0) ∧
          t.get (Fld.agmDeg.SAMPLES c) = (s.get (Fld.agmDeg.SAMPLES c) + 1) % 2 ^ 32 ∧ (∀ k, k ≠ c → t.get (Fld.agmDeg.DEG_MV k) = s.get (Fld.agmDeg.DEG_MV k)) ∧
          (∀ k, k < 8 → t.get (Fld.agmDeg.HEAD_MV k) = ofSigned 12 (head k (t.effTarget k)) ∧ (met k (s.effTarget k) → SMap.get t.cap 0 k = SMap.get s.cap 0 k) ∧
            (¬met k (s.effTarget k) → t.get ⟨⟨.pcmStat, 0, 0⟩, 6 + k, 1⟩ = 1 ∧ ∃ i, i ≤ s.effTarget k ∧ SMap.get t.cap 0 k = i + 1 ∧ (met k i ∨ i = 0) ∧ ∀ j, i < j → j ≤ s.effTarget k → ¬met k j)) ∧
          (fell → event t ∧ asked 6 t) ∧ (¬fell → capped → asked 3 t) ∧ (¬fell → ¬capped → drift → asked 2 t) ∧
          (¬fell → ¬capped → ¬drift → t.planWant = s.planWant ∧ t.cfgSlot = s.cfgSlot ∧ RegsKept [.agmDeg, .pcmStat, .pcmEff] s t)) ∧
      (∀ (g : Fin 6) (v : BitVec 12), ∃ t, exec (.measurement (.sram g v)) s = .next t ∧ t.get (Fld.agmSram.VMIN_MV g.val) = v.toNat ∧
        (v.toNat ≤ 800 → t.get (Fld.agmSram.MARGIN_MV g.val) = 800 - v.toNat) ∧ OnlyRegs [.agmSram] { s with freeCnt := t.freeCnt } t ∧
        ∀ g', g' ≠ g.val → t.get (Fld.agmSram.VMIN_MV g') = s.get (Fld.agmSram.VMIN_MV g')) ∧
      (∀ (md : Fin 12) (eye : BitVec 8) (lane : BitVec 6) (sp : BitVec 5),
        let low := eye.toNat < s.get Fld.agmCtl.LANE_MIN ∧ (s.reg ⟨.agmLrep, md.val, 0⟩).getLsbD lane.toNat = false
        ∃ t, exec (.measurement (.lane md eye lane sp)) s = .next t ∧ t.get (Fld.agmLeye.MIN_EYE md.val) = eye.toNat ∧ t.get (Fld.agmLeye.WORST md.val) = lane.toNat ∧
          t.get (Fld.agmLeye.SPARES md.val) = sp.toNat ∧ (¬low → OnlyRegs [.agmLeye] s t) ∧ (low → sp ≠ 0 → hold ∨ st ≠ 0 → asked 4 t) ∧
          (low → sp = 0 → t.get (Fld.agmLeye.SPARES_OUT md.val) = 1 ∧ event t ∧ OnlyRegs [.agmLeye, .srcStat] s t)) ∧
      ∀ (m : Fin 1024) (c : AcpCmd), c.win = m.val →
        let ver := c.fld 4 0 32
        let other := s.stagedPlan = false ∨ s.slotVer s.roles.staged ≠ ver
        let say (t : State) : Prop := Answered c 0 0 (toBytes 8 (t.reg ⟨.agmPlan, 0, 0⟩).toNat) s t
        let state (i : Instr) : Prop := ∃ t, exec i s = .next t ∧ Answered c 5 0 [] s t ∧ AcpOnly [] id s t
        (Serving 0x50 c s →
          (c.fld 0 0 2 = 0 → ∃ t, exec (.marginStatus m) s = .next t ∧ say t ∧ AcpOnly [] id s t) ∧
          (c.fld 0 0 2 = 1 → (other → state (.marginDefer m)) ∧ (¬other → ∃ t, exec (.marginDefer m) s = .next t ∧ say t ∧ t.planDefer = true ∧
            t.get P = (if s.get P = 4 then 4 else 3) ∧ AcpOnly [.agmPlan] (fun u => { u with planDefer := false }) s t)) ∧
          (c.fld 0 0 2 = 2 → (s.stagedPlan = true → (s.slotVer s.roles.staged ≠ ver ∨ st ≠ 0) → state (.marginAccept m)) ∧
            (∀ k, s.stagedPlan = true → s.roles.staged = some k → s.slotVer (some k) = ver → st = 0 → ∃ t, exec (.marginAccept m) s = .next t ∧ say t ∧ t.planDefer = false ∧
              t.castle = some { slot := k, byRollback := false, startTs := s.time % 2 ^ 32, win := none } ∧ t.get P = 4 ∧ t.get Fld.cfsStat.STATE = 2) ∧
            (s.stagedPlan = false → ∃ t, exec (.marginAccept m) s = .next t ∧ say t ∧ t.planDefer = false ∧ (s.get Fld.agmCtl.AUTO = 0 ∨ st ≠ 0 → asked 5 t))) ∧
          (c.fld 0 0 2 = 3 → (s.validPrev = none ∨ s.activePlan = false ∨ st ≠ 0 → state (.marginRollBack m)) ∧
            (∀ k, s.validPrev = some k → s.activePlan = true → st = 0 → ∃ t, exec (.marginRollBack m) s = .next t ∧ say t ∧ t.planDefer = true ∧
              t.castle = some { slot := k, byRollback := true, startTs := s.time % 2 ^ 32, win := none } ∧ t.get Fld.cfsStat.STATE = 2))) ∧
        (Serving 0x51 c s → (s.hostOk 0 = false → ∃ t, exec (.lifeReport m) s = .next t ∧ Answered c 10 0 [] s t) ∧
          (s.hostOk 0 = true → (∀ w ∈ s.watch, w.2 = []) → s.on Fld.hpuStat.MODE = false → ∃ t rep, exec (.lifeReport m) s = .next t ∧ Answered c 0 0 (toBytes 4 304) s t ∧
            (let a := c.fld 0 0 57
             let k := 4096 - a % 4096
             let wr (a : Nat) (bs : List Byte) : Out := .hostWrite 0 (s.hostAddr 0 a).1 (s.hostAddr 0 a).2 bs
             t.out = if k < 304 then wr (a + k) (rep.drop k) :: wr a (rep.take k) :: s.out else wr a rep :: s.out) ∧ RegsKept [.agmLife, .mbRsp, .mbStat, .srcStat] s t ∧ t.get Fld.agmLife.STRESS_H = s.get Fld.agmLife.STRESS_H ∧
            rep.length = 304 ∧ imgNum rep 0 4 = 0x4546494C ∧ imgNum rep 4 4 = 1 ∧ imgNum rep 8 4 = s.get Fld.agmLife.STRESS_H ∧ imgNum rep 0x14 2 = s.get Fld.pcmStat.VDD_MV ∧
            (∀ k, k < 8 → imgNum rep (0x40 + 16 * k) 2 = s.get (Fld.agmDeg.DEG_MV k) ∧ imgNum rep (0x44 + 16 * k) 1 = s.effStep k) ∧
            (∀ k, k < 12 → imgNum rep (0xC0 + 8 * k) 1 = s.get (Fld.agmLeye.MIN_EYE k) ∧ imgNum rep (0xC2 + 8 * k) 1 = s.get (Fld.agmLeye.SPARES k)) ∧
            (∃ g, g < 6 ∧ (∀ g', g' < 6 → s.get (Fld.agmSram.VMIN_MV g') ≤ s.get (Fld.agmSram.VMIN_MV g)) ∧ imgNum rep 0x120 2 = s.get (Fld.agmSram.VMIN_MV g)) ∧
            (s.get Fld.agmLife.STRESS_H < 24 → t.get Fld.agmLife.REMAIN_H = 2 ^ 32 - 1 ∧ imgNum rep 0xC 4 = 2 ^ 32 - 1)))

/-- Samples are debounced and move slots as R493 says; timers and SLOT_SET move them; outputs are driven; expanders fail on the third. -/
def Obligations.SlotsFollowInputsTimersAndCommands : Prop :=
  ∀ s : State, Quiet s →
      let nothing (i : Instr) : Prop := exec i s = .next s
      let lit (mode τ : Nat) : Prop := mode = 1 ∨ (mode = 2 ∧ τ % 1000000 < 500000) ∨ (mode = 3 ∧ τ % 250000 < 125000)
      let gone (n : Nat) (t : State) : Prop := ∀ p ∈ s.slotPorts n, s.get (Fld.dpData.VALID p) = 1 → t.get (Fld.dpData.REMOVED p) = 1 ∧
        t.get (Fld.dpData.GEN p) = (s.get (Fld.dpData.GEN p) + (if s.get (Fld.dpData.REMOVED p) = 1 then 0 else 1)) % 2 ^ (Fld.dpData.GEN p).w
      let input (u : State) (n b : Nat) : Nat := u.get ([Fld.slotStat.PRES n, Fld.slotStat.BTN n, Fld.slotStat.LATCH n].getD b (Fld.slotStat.PFAULT n))
      let powered (x : Nat) : Prop := 3 ≤ x ∧ x ≤ 6
      let changed (n x : Nat) (t : State) : Prop := t.slot n = x ∧ (x ≠ s.slot n → t.get (Fld.slotStat.PWR_EN n) = (if 3 ≤ x ∧ x ≤ 6 then 1 else 0) ∧
        t.get (Fld.srcStat.PEND (0x10420 + n)) = 1) ∧ (x = s.slot n → t.get (Fld.slotStat.PWR_EN n) = s.get (Fld.slotStat.PWR_EN n) ∨ ¬(3 ≤ x ∧ x ≤ 6))
      let byte (t : State) (n τ : Nat) : Prop := ∃ o, Out.slotOut n o ∈ t.out ∧ o / 16 = t.get (Fld.slotStat.PWR_EN n) ∧
        (s.get (Fld.slotLed.FLT_OVR n) = 0 → (o / 4 % 2 = 1 ↔ t.slot n = 7)) ∧ (s.get (Fld.slotLed.FLT_OVR n) = 1 → (o / 4 % 2 = 1 ↔ lit (s.get (Fld.slotLed.FLT_MODE n)) τ)) ∧
        (o / 2 % 2 = 1 ↔ lit (s.get (Fld.slotLed.LOC_MODE n)) τ) ∧
        (s.get (Fld.slotLed.ATT_OVR n) = 0 → (o / 8 % 2 = 1 ↔ (t.slot n = 6 ∨ ((t.slot n = 2 ∨ t.slot n = 5) ∧ lit 2 τ)))) ∧
        (s.get (Fld.slotLed.ATT_OVR n) = 1 → (o / 8 % 2 = 1 ↔ lit (s.get (Fld.slotLed.ATT_MODE n)) τ))
      let sampled (n τ : Nat) (v : Byte) (t : State) : Prop :=
        let x := s.slot n
        let since (b : Nat) : Nat := if SMap.get s.slotDeb 0 (4 * n + b) = 0 then τ else SMap.get s.slotDeb 0 (4 * n + b) - 1
        let taken (b : Nat) : Prop := b2n (v.getLsbD b) ≠ input s n b ∧ 1000 * s.get Fld.hpcCtl.DEB_MS ≤ τ - since b ∧ s.get Fld.pcmStat.DSTATE ≠ 2
        let only (b : Nat) : Prop := taken b ∧ ∀ b', b' < 4 → b' ≠ b → ¬taken b'
        let surprise : Prop := t.get (Fld.slotStat.SURPRISE n) = 1 ∧ t.get (Fld.slotStat.REMOVALS n) = s.more (Fld.slotStat.REMOVALS n) ∧ gone n t
        let latch := s.get (Fld.slotStat.LATCH n)
        let auto := s.get (Fld.slotCfg.AUTO_ON n)
        (∀ b, b < 4 → (taken b → input t n b = b2n (v.getLsbD b)) ∧ (¬taken b → input t n b = input s n b) ∧
          (b2n (v.getLsbD b) ≠ input s n b → ¬taken b → SMap.get t.slotDeb 0 (4 * n + b) = since b + 1) ∧
          (b2n (v.getLsbD b) = input s n b ∨ taken b → SMap.get t.slotDeb 0 (4 * n + b) = 0)) ∧
        (NSet.has s.slotOffPend n = false →
          ((∀ b, b < 4 → ¬taken b) → changed n x t) ∧
          (only 0 → v.getLsbD 0 = true → changed n (if x = 0 then (if auto = 1 ∧ latch = 1 then 3 else 1) else x) t) ∧
          (only 0 → v.getLsbD 0 = false → changed n 0 t ∧ (powered x → surprise)) ∧
          (only 2 → v.getLsbD 2 = true → changed n (if x = 1 ∧ auto = 1 then 3 else x) t) ∧
          (only 2 → v.getLsbD 2 = false → changed n (if x = 2 ∨ (3 ≤ x ∧ x ≤ 6) then 1 else x) t ∧ (powered x → surprise)) ∧
          (only 1 → v.getLsbD 1 = true → changed n (if x = 1 ∧ latch = 1 then 2 else if x = 2 then 1 else if x = 5 ∨ x = 6 then 4 else if x = 4 then 5 else x) t ∧
            (x = 2 ∨ x = 5 ∨ x = 6 → t.get (Fld.slotStat.CANCELLED n) = 1) ∧
            (x = 0 ∨ x = 3 ∨ x = 7 ∨ (x = 1 ∧ latch = 0) → t.get (Fld.slotStat.IGN_PRESS n) = s.more (Fld.slotStat.IGN_PRESS n))) ∧
          (only 1 → v.getLsbD 1 = false → changed n x t) ∧ (only 3 → v.getLsbD 3 = false → changed n x t) ∧
          (only 3 → v.getLsbD 3 = true → changed n (if 3 ≤ x ∧ x ≤ 6 then 7 else x) t ∧ (powered x → t.get (Fld.slotStat.PF_SEEN n) = 1 ∧ gone n t)) ∧
          (taken 0 → taken 3 → v.getLsbD 0 = false → v.getLsbD 3 = true → ¬taken 1 → ¬taken 2 → powered x → changed n 0 t ∧ surprise ∧ t.get (Fld.slotStat.PF_SEEN n) = 1))
      let off (n : Nat) (t : State) : Prop := gone n t ∧ (2 ≤ s.get (Fld.slotCfg.BUS n) → changed n 1 t) ∧
        (s.get (Fld.slotCfg.BUS n) < 2 → t.slot n = s.slot n ∧ NSet.has t.slotOffPend n = true)
      let failed (i : Instr) (bus addr kind : Nat) : Prop := Watched 39 s → s.get Fld.hpcErr.VALID = 0 → ∃ t, exec i s = .next t ∧ t.get Fld.hpcErr.VALID = 1 ∧ t.get Fld.hpcErr.BUS = bus ∧
        t.get Fld.hpcErr.ADDR = addr ∧ t.get Fld.hpcErr.KIND = kind ∧ Rose 39 s t ∧ ∀ n, NSet.has s.slotOffPend n = false → t.reg ⟨.slotStat, n, 0⟩ = s.reg ⟨.slotStat, n, 0⟩
      (∀ (ch : Fin 2) (τ : Nat) (fr : List Byte),
        let i := Instr.sgpioFrame ch τ fr
        let c := ch.val
        let run := s.get (if c = 0 then Fld.hpcCtl.SG0_EN else Fld.hpcCtl.SG1_EN) = 1 ∧ fr.length = s.get (if c = 0 then Fld.hpcCtl.SG_LEN0 else Fld.hpcCtl.SG_LEN1) + 1
        let ones := SMap.get s.sgOnes 0 c
        (¬run → nothing i) ∧ (run → (∀ b ∈ fr, b = 0xFF) → (2 ≤ ones → failed i c 0 2) ∧
          (ones < 2 → ∃ t, exec i s = .next t ∧ SMap.get t.sgOnes 0 c = ones + 1 ∧ RegsKept [.slotStat, .srcStat] s t ∧ t.slotDeb = s.slotDeb ∧
            ∀ n, n < 256 → (∀ b, b < 4 → input t n b = input s n b) ∧ (s.get (Fld.slotCfg.EN n) = 1 → s.get (Fld.slotCfg.BUS n) = c → s.get (Fld.slotCfg.POS n) < fr.length → byte t n τ))) ∧
        (run → (∃ b ∈ fr, b ≠ 0xFF) → ∃ t, exec i s = .next t ∧ SMap.get t.sgOnes 0 c = 0 ∧ ∀ n, n < 256 → s.get (Fld.slotCfg.EN n) = 1 → s.get (Fld.slotCfg.BUS n) = c →
          s.get (Fld.slotCfg.POS n) < fr.length → sampled n τ (fr.getD (s.get (Fld.slotCfg.POS n)) 0) t ∧ byte t n τ ∧ (NSet.has s.slotOffPend n = true → (∀ b, b < 4 → input t n b = input s n b) → changed n 1 t))) ∧
      (∀ (bs : Fin 2) (addr : Fin 128) (τ : Nat) (r : Option (List Byte)) (ok : Bool),
        let on (n : Nat) : Prop := n < 256 ∧ s.get (Fld.slotCfg.EN n) = 1 ∧ s.get (Fld.slotCfg.BUS n) = 2 + bs.val ∧ s.get (Fld.slotCfg.ADDR n) = addr.val
        let key := (2 + bs.val) * 128 + addr.val
        let nacks := SMap.get s.i3cNack 0 key
        let w := Instr.i3cOutputRefresh bs addr τ ok
        let nack (i : Instr) : Prop := (2 ≤ nacks → failed i (2 + bs.val) addr.val 1) ∧
          (nacks < 2 → ∃ t, exec i s = .next t ∧ SMap.get t.i3cNack 0 key = nacks + 1 ∧ OnlyRegs [] { s with i3cNack := t.i3cNack } t)
        (s.get Fld.pcmStat.DSTATE = 2 → nothing w) ∧ (s.get Fld.pcmStat.DSTATE ≠ 2 → (ok = false → nack w) ∧
          (ok = true → ∃ t, exec w s = .next t ∧ SMap.get t.i3cNack 0 key = 0 ∧ ∀ n, on n → byte t n τ ∧ changed n (if NSet.has s.slotOffPend n then 1 else s.slot n) t)) ∧
        ∀ i ∈ [Instr.i3cIbi bs addr τ r, .i3cPoll bs addr τ r], (s.get Fld.pcmStat.DSTATE = 2 → nothing i) ∧ (s.get Fld.pcmStat.DSTATE ≠ 2 → (r = none → nack i) ∧
          ∀ by_, r = some by_ → ∃ t, exec i s = .next t ∧ SMap.get t.i3cNack 0 key = 0 ∧ ∀ n, on n → sampled n τ (by_.getD (s.get (Fld.slotCfg.POS n) % 16) 0) t)) ∧
      (∀ sl : Fin 256, let n := sl.val
        let x := s.slot n
        let goes (i : Instr) (y : Nat) : Prop := ∃ t, exec i s = .next t ∧ changed n y t ∧ OnlyRegs [.slotStat, .srcStat] { s with slotOffPend := t.slotOffPend } t
        (NSet.has s.slotOffPend n = false → (x = 2 → goes (.windowExpiry sl) 3) ∧ (x = 5 → goes (.windowExpiry sl) 6)) ∧
        (NSet.has s.slotOffPend n = true ∨ (x ≠ 2 ∧ x ≠ 5) → nothing (.windowExpiry sl)) ∧
        (x = 6 → s.get (Fld.slotCfg.AUTO_OFF n) = 1 → ∃ t, exec (.offGraceExpiry sl) s = .next t ∧ off n t) ∧
        (x ≠ 6 ∨ s.get (Fld.slotCfg.AUTO_OFF n) = 0 → nothing (.offGraceExpiry sl)) ∧
        (x = 3 → s.get (Fld.slotStat.PFAULT n) = 0 → goes (.poweringTimer sl) 4) ∧ (x ≠ 3 ∨ s.get (Fld.slotStat.PFAULT n) = 1 → nothing (.poweringTimer sl))) ∧
      ∀ (m : Fin 1024) (c : AcpCmd), Serving 0x52 c s → c.win = m.val →
        let n := c.fld 0 0 8
        let x := s.slot n
        let en := s.get (Fld.slotCfg.EN n) = 1
        let subs : List (Instr × Nat) := [(.slotOn m, 1), (.slotOff m, 2), (.slotCancel m, 3), (.slotClear m, 4), (.slotLed m, 5)]
        let state (i : Instr) : Prop := ∃ t, exec i s = .next t ∧ Answered c 5 0 [] s t ∧ AcpOnly [] id s t
        let done (i : Instr) (P : State → Prop) : Prop := ∃ t, exec i s = .next t ∧ Answered c 0 0 (toBytes 8 (t.viewReg ⟨.slotStat, n, 0⟩).toNat) s t ∧ P t
        (c.fld 4 0 4 = 0 → done (.slotRead m) (AcpOnly [] id s)) ∧ (¬en → ∀ e ∈ subs, c.fld 4 0 4 = e.2 → state e.1) ∧
        (en → c.fld 4 0 4 = 1 → let ok := (x = 1 ∧ s.get (Fld.slotStat.LATCH n) = 1) ∨ x = 2
          (ok → done (.slotOn m) (changed n 3)) ∧ (¬ok → state (.slotOn m))) ∧
        (en → c.fld 4 0 4 = 2 → (x = 4 ∨ x = 5 ∨ x = 6 → done (.slotOff m) (off n)) ∧ (x = 2 → done (.slotOff m) (changed n 1)) ∧
          (x = 0 ∨ x = 1 ∨ x = 3 ∨ x = 7 → state (.slotOff m))) ∧
        (en → c.fld 4 0 4 = 3 → let ok := (x = 2 ∨ x = 5 ∨ x = 6) ∧ NSet.has s.slotOffPend n = false
          (ok → done (.slotCancel m) fun t => changed n (if x = 2 then 1 else 4) t ∧ t.get (Fld.slotStat.CANCELLED n) = 1) ∧ (¬ok → state (.slotCancel m))) ∧
        (en → c.fld 4 0 4 = 4 → (x = 7 → done (.slotClear m) (changed n (if s.get (Fld.slotStat.PRES n) = 1 then 1 else 0))) ∧ (x ≠ 7 → state (.slotClear m))) ∧
        (en → c.fld 4 0 4 = 5 → done (.slotLed m) fun t => t.get (Fld.slotLed.ATT_MODE n) = c.fld 8 0 2 ∧ t.get (Fld.slotLed.ATT_OVR n) = c.fld 8 2 1 ∧ t.get (Fld.slotLed.LOC_MODE n) = c.fld 8 3 2 ∧
          t.get (Fld.slotLed.FLT_MODE n) = c.fld 8 5 2 ∧ t.get (Fld.slotLed.FLT_OVR n) = c.fld 8 7 1 ∧ t.get (Fld.slotLed.ACT_MODE n) = c.fld 8 8 2 ∧ t.get (Fld.slotLed.ACT_OVR n) = c.fld 8 10 1)

/-- With D15 = 0 a repeated instruction executes zero times: REPC becomes 0 and no other register, flag or memory byte changes. -/
def Obligations.RepeatWithCountZeroExecutesZeroTimes : Prop :=
  ∀ (h : Hdr) (d a e n k : Fin 16) (src : Src) (m : Mem) (s : State),
      let c := h.ctx.val
      let x := s.cx c
      let wn (rd : List Nat) : Op := { w := true, nib := true, rep := true, lock := true, rd := rd }
      let repeated : List (Instr × Op) := [
        (.mov h d src, wn (usesSrc src)),
        (.adda h a src, { rep := true, lock := true, rd := usesSrc src }),
        (.suba h a src, { rep := true, lock := true, rd := usesSrc src }),
        (.add h d src, wn (d.val :: usesSrc src)),
        (.sub h d src, wn (d.val :: usesSrc src)),
        (.andI h d src, wn (d.val :: usesSrc src)),
        (.orI h d src, wn (d.val :: usesSrc src)),
        (.xorI h d src, wn (d.val :: usesSrc src)),
        (.cmp h d src, wn (d.val :: usesSrc src)),
        (.testI h d src, wn (d.val :: usesSrc src)),
        (.shl h d src, wn (d.val :: usesSrc src)),
        (.shr h d src, wn (d.val :: usesSrc src)),
        (.sar h d src, wn (d.val :: usesSrc src)),
        (.rol h d src, wn (d.val :: usesSrc src)),
        (.ror h d src, wn (d.val :: usesSrc src)),
        (.adc h d src, { wn (d.val :: usesSrc src) with cf := true }),
        (.sbb h d src, { wn (d.val :: usesSrc src) with cf := true }),
        (.neg h d, wn [d.val, d.val]),
        (.notI h d, wn [d.val, d.val]),
        (.minI h d e, wn [d.val, e.val]),
        (.maxI h d e, wn [d.val, e.val]),
        (.minu h d e, wn [d.val, e.val]),
        (.maxu h d e, wn [d.val, e.val]),
        (.sext h d e, { wn [e.val] with bad := h.width == .w64 }),
        (.zext h d e, { wn [e.val] with bad := h.width == .w64 }),
        (.popc h d e, wn [e.val]),
        (.clz h d e, wn [e.val]),
        (.ctz h d e, wn [e.val]),
        (.bswap h d e, { wn [e.val] with bad := h.width == .w8 || h.width == .w4 }),
        (.accadd h n e, { w := true, rep := true, lock := true, rd := [e.val], acc := [n.val] }),
        (.acccnt h n e, { w := true, rep := true, lock := true, rd := [e.val], acc := [n.val] }),
        (.accmin h n e, { w := true, rep := true, lock := true, rd := [e.val], acc := [n.val] }),
        (.accmax h n e, { w := true, rep := true, lock := true, rd := [e.val], acc := [n.val] }),
        (.accminu h n e, { w := true, rep := true, lock := true, rd := [e.val], acc := [n.val] }),
        (.accmaxu h n e, { w := true, rep := true, lock := true, rd := [e.val], acc := [n.val] }),
        (.crcstep h n e, { w := true, rep := true, lock := true, rd := [e.val], acc := [n.val] }),
        (.ld h d m, { w := true, nib := true, rep := true, lock := true, undef := nselBad (m.nsel && h.width != .w4) 2 }),
        (.ldi h d m k, { w := true, nib := true, rep := true, lock := true, at_ := 1, rd := [k.val], undef := nselBad (m.nsel && h.width != .w4) 3 }),
        (.st h m d, { w := true, rep := true, lock := true, rd := [d.val], undef := nselBad m.nsel 2 }),
        (.sti h m k d, { w := true, rep := true, lock := true, at_ := 1, rd := [k.val, d.val], undef := nselBad m.nsel 3 }),
        (.mova h a (.reg e), { rep := true, lock := true, rd := [e.val] })]
      n.val ≤ 3 → ∀ i ∈ repeated, s.canIssue c = true → fetchCheck i.2 h x.regs.cpc = none →
        (x.speculating && (h.spec == .nospec || (h.lock && x.seqCount.isNone))) = false → h.rpt ≠ .once → x.regs.repOn = false → x.pendD 15 = false → x.dreg 15 = 0 →
        ∃ t, exec i.1 s = .next t ∧ OnlyCtx c s t ∧ Retired h x (t.cx c) ∧ (t.cx c).regs = { x.regs with cpc := (t.cx c).regs.cpc, repc := 0 }

/-- Every step keeps the form of both memories, consumes one command, and only raises fuses, which few commands may change at all. -/
def Obligations.StepsKeepMemoryFormAndOnlyRaiseFuses : Prop :=
  ∀ s t : State, s.memWf = true → step s = .next t →
      t.memWf = true ∧ t.pending = s.pending.tail ∧ fusesRise s.fuses t.fuses ∧
        ((∀ i ∈ s.pending.head?, i ≠ .fwReady ∧ i ≠ .rcvOwnerKey ∧ i ≠ .castlingCommit ∧ i ≠ .castlingFlagFall ∧ (∀ b, i ≠ .romBoot b) ∧ (∀ img, i ≠ .rcvLoad img ∧ i ≠ .rcvFlash img) ∧
          ∀ m img, i ≠ .fwUpdate m img) → t.fuses = s.fuses)

/-- At reset memories are in canonical form, queues and caches are empty, and every register reads the reset value of its table. -/
def Obligations.ResetLeavesTheStatedValues : Prop :=
  State.reset.memWf = true ∧ State.reset.pending = [] ∧ State.reset.out = [] ∧ (∀ c, State.reset.cx c = {}) ∧ (∀ r : Reg, State.reset.reg r = r.reset) ∧
      State.reset.xfer = [] ∧ State.reset.cpl = [] ∧ State.reset.segCache = [] ∧ State.reset.atc = [] ∧ State.reset.acp = [] ∧ State.reset.castle = none ∧ State.reset.fuses = {} ∧
      (∀ k, State.reset.fwImg k = [] ∧ State.reset.slotImg k = []) ∧ (∀ a, State.reset.spm.read a = 0 ∧ State.reset.msram.read a = 0) ∧
      (∀ e ∈ [(Fld.pcmCtl.DOZE_EN, 1), (Fld.pcmCtl.SLEEP_REQ, 0), (Fld.pcmCtl.WARM, 2), (Fld.pcmCtl.W2_US, 20), (Fld.pcmCtl.W3_MS, 10), (Fld.pcmCtl.DOZE_US, 1000), (Fld.pcmCtl.WAKE_EN, 0x3F),
        (Fld.pcmCtl.T_THROT, 100), (Fld.pcmPlan.GB_MV, 30), (Fld.agmCtl.AUTO, 1), (Fld.agmCtl.REPLAN_MV, 3), (Fld.agmCtl.RESERVE_MV, 10), (Fld.agmCtl.GUARD_MIN_MV, 5), (Fld.agmCtl.REPLAN_H, 168),
        (Fld.agmCtl.LANE_MIN, 16), (Fld.agmCtl.MEAS_S, 60), (Fld.agmPlan.PSTATE, 0), (Fld.hpcCtl.SG_DIV, 3999), (Fld.hpcCtl.SG_LEN0, 127), (Fld.hpcCtl.DEB_MS, 20), (Fld.hpcCtl.WIN_S, 5), (Fld.hpcCtl.POLL_MS, 10),
        (Fld.hpcCtl.PWR_T, 10), (Fld.cfsStat.STATE, 0), (Fld.cfsStat.EPOCH, 0), (Fld.dvsec.FW_READY, 0), (Fld.kingStat.BOUND_VALID, 0), (Fld.fclFsw.FSW, 0)], State.reset.get e.1 = e.2) ∧
      ∀ c, c < 8 → State.reset.ceil c = 16 ∧ State.reset.regByte .agmTgt 0 0 c = 16
end

