-- ==== Sys2Proof/Decode.lean ====
section
/-!
DEFINITION. The command that a word spells. No row of the opcode table has bits (log entry 2).
-/

namespace Sys2Proof

/-- The command that a word of `nbits` bits spells by the table's bits: none, since the table gives no row bits. -/
def decodeTableWord (_nbits _w : Nat) : Option Instr := none

end Sys2Proof
end

