-- ==== Sys2Proof/Laws/AMap.lean ====
section
/-!
SUPPORT. Laws of the sparse tables: a read after a write, a write that leaves other keys alone, and the canonical form, which
every operation keeps.
-/

namespace Sys2Proof.Machine

section
variable {κ β : Type} [DecidableEq κ]

theorem AMap.get_erase_same (m : AMap κ β) (d : β) (k : κ) : (m.erase k).get d k = d := by
  induction m with
  | nil => rfl
  | cons e r ih =>
    obtain ⟨k', v⟩ := e
    by_cases h : k' = k
    · simp [AMap.erase, h, ih]
    · simp [AMap.erase, AMap.get, h, ih]

theorem AMap.get_erase_ne (m : AMap κ β) (d : β) {k k' : κ} (hne : k' ≠ k) : (m.erase k).get d k' = m.get d k' := by
  induction m with
  | nil => rfl
  | cons e r ih =>
    obtain ⟨a, v⟩ := e
    by_cases h : a = k
    · subst h; simp [AMap.erase, AMap.get, ih, Ne.symm hne]
    · by_cases h2 : a = k'
      · subst h2; simp [AMap.erase, AMap.get, h]
      · simp [AMap.erase, AMap.get, h, h2, ih]

theorem AMap.get_ins_same (lt : κ → κ → Bool) (m : AMap κ β) (d : β) (k : κ) (v : β) (h : ∀ e ∈ m, e.1 ≠ k) :
    (AMap.ins lt m k v).get d k = v := by
  induction m with
  | nil => simp [AMap.ins, AMap.get]
  | cons e r ih =>
    obtain ⟨a, w⟩ := e
    have ha : a ≠ k := h (a, w) (by simp)
    have ih' := ih (fun e he => h e (by simp [he]))
    by_cases h2 : lt k a = true <;> simp [AMap.ins, AMap.get, h2, ha, ih']

theorem AMap.get_ins_ne (lt : κ → κ → Bool) (m : AMap κ β) (d : β) {k k' : κ} (v : β) (hne : k' ≠ k) :
    (AMap.ins lt m k v).get d k' = m.get d k' := by
  induction m with
  | nil => simp [AMap.ins, AMap.get, Ne.symm hne]
  | cons e r ih =>
    obtain ⟨a, w⟩ := e
    by_cases h3 : a = k'
    · subst h3
      by_cases h2 : lt k a = true <;> simp [AMap.ins, AMap.get, h2, Ne.symm hne]
    · by_cases h2 : lt k a = true <;> simp [AMap.ins, AMap.get, h2, h3, ih, Ne.symm hne]

theorem AMap.mem_erase (m : AMap κ β) (k : κ) (e : κ × β) : e ∈ m.erase k ↔ e ∈ m ∧ e.1 ≠ k := by
  induction m with
  | nil => simp [AMap.erase]
  | cons a r ih =>
    obtain ⟨a, w⟩ := a
    by_cases h : a = k
    · subst h
      simp only [AMap.erase, if_true, ih, List.mem_cons]
      constructor
      · rintro ⟨h1, h2⟩; exact ⟨.inr h1, h2⟩
      · rintro ⟨h1 | h1, h2⟩
        · subst h1; exact absurd rfl h2
        · exact ⟨h1, h2⟩
    · simp only [AMap.erase, h, if_false, List.mem_cons, ih]
      constructor
      · rintro (h1 | ⟨h1, h2⟩)
        · subst h1; exact ⟨.inl rfl, h⟩
        · exact ⟨.inr h1, h2⟩
      · rintro ⟨h1 | h1, h2⟩
        · exact .inl h1
        · exact .inr ⟨h1, h2⟩

/-- A key removed twice, and a key removed from a table it has just been put into. -/
theorem AMap.erase_erase (m : AMap κ β) (k : κ) : (m.erase k).erase k = m.erase k := by
  induction m with
  | nil => rfl
  | cons e r ih =>
    obtain ⟨a, w⟩ := e
    by_cases h : a = k <;> simp [AMap.erase, h, ih]

theorem AMap.erase_ins (lt : κ → κ → Bool) (m : AMap κ β) (k : κ) (v : β) :
    (AMap.ins lt m k v).erase k = m.erase k := by
  induction m with
  | nil => simp [AMap.ins, AMap.erase]
  | cons e r ih =>
    obtain ⟨a, w⟩ := e
    by_cases h3 : a = k
    · subst h3
      by_cases h2 : lt a a = true <;> simp [AMap.ins, AMap.erase, h2, ih]
    · by_cases h2 : lt k a = true <;> simp [AMap.ins, AMap.erase, h2, h3, ih]

variable [DecidableEq β]

/-- A read of the key that was written. -/
@[simp] theorem AMap.get_set_same (lt : κ → κ → Bool) (m : AMap κ β) (d : β) (k : κ) (v : β) :
    (AMap.set lt m d k v).get d k = v := by
  unfold AMap.set
  by_cases h : v = d
  · simp [h, AMap.get_erase_same]
  · simp only [h, if_false]
    exact AMap.get_ins_same lt _ d k v (fun e he => ((AMap.mem_erase m k e).1 he).2)

/-- A read of another key, at any default. -/
theorem AMap.get_set_ne (lt : κ → κ → Bool) (m : AMap κ β) (d d' : β) {k k' : κ} (v : β) (hne : k' ≠ k) :
    (AMap.set lt m d k v).get d' k' = m.get d' k' := by
  unfold AMap.set
  by_cases h : v = d
  · simp [h, AMap.get_erase_ne m d' hne]
  · simp [h, AMap.get_ins_ne lt _ d' v hne, AMap.get_erase_ne m d' hne]

/-- A read after a write, in one. -/
theorem AMap.get_set (lt : κ → κ → Bool) (m : AMap κ β) (d : β) (k k' : κ) (v : β) :
    (AMap.set lt m d k v).get d k' = if k' = k then v else m.get d k' := by
  by_cases h : k' = k
  · simp [h]
  · simp [h, AMap.get_set_ne lt m d d v h]

/-- Of two writes of one key the later stands. -/
theorem AMap.set_set (lt : κ → κ → Bool) (m : AMap κ β) (d : β) (k : κ) (v w : β) :
    AMap.set lt (AMap.set lt m d k v) d k w = AMap.set lt m d k w := by
  unfold AMap.set
  by_cases hv : v = d
  · simp [hv, AMap.erase_erase]
  · simp [hv, AMap.erase_ins, AMap.erase_erase]

end

/-! ### Number-keyed tables -/

theorem SMap.set_set {β : Type} [DecidableEq β] (m : SMap β) (d : β) (k : Nat) (v w : β) :
    SMap.set (SMap.set m d k v) d k w = SMap.set m d k w := AMap.set_set natLt m d k v w

@[simp] theorem SMap.get_nil {β : Type} (d : β) (k : Nat) : SMap.get ([] : SMap β) d k = d := rfl

@[simp] theorem SMap.get_set_same {β : Type} [DecidableEq β] (m : SMap β) (d : β) (k : Nat) (v : β) :
    SMap.get (SMap.set m d k v) d k = v := AMap.get_set_same natLt m d k v

theorem SMap.get_set_ne {β : Type} [DecidableEq β] (m : SMap β) (d d' : β) {k k' : Nat} (v : β) (h : k' ≠ k) :
    SMap.get (SMap.set m d k v) d' k' = SMap.get m d' k' := AMap.get_set_ne natLt m d d' v h

theorem SMap.get_set {β : Type} [DecidableEq β] (m : SMap β) (d : β) (k k' : Nat) (v : β) :
    SMap.get (SMap.set m d k v) d k' = if k' = k then v else SMap.get m d k' := AMap.get_set natLt m d k k' v

/-! ### The canonical form -/

theorem AMap.mem_ins {β : Type} (m : AMap Nat β) (k : Nat) (v : β) (e : Nat × β) :
    e ∈ AMap.ins natLt m k v → e = (k, v) ∨ e ∈ m := by
  induction m with
  | nil => simp [AMap.ins]
  | cons a r ih =>
    obtain ⟨a, w⟩ := a
    unfold AMap.ins
    split
    · simp
    · simp only [List.mem_cons]
      rintro (h | h)
      · exact .inr (.inl h)
      · rcases ih h with h | h
        · exact .inl h
        · exact .inr (.inr h)

theorem natLt_eq {a b : Nat} : natLt a b = true ↔ a < b := by simp [natLt]

section
variable {β : Type} [DecidableEq β]

theorem SMap.wf_cons (d : β) (k : Nat) (v : β) (r : SMap β) :
    SMap.wf ((k, v) :: r) d = true ↔ v ≠ d ∧ (∀ e ∈ r, k < e.1) ∧ SMap.wf r d = true := by
  simp [SMap.wf, AMap.wf, natLt, List.all_eq_true, and_assoc]

theorem SMap.wf_erase (m : SMap β) (d : β) (k : Nat) (h : SMap.wf m d = true) : SMap.wf (AMap.erase m k) d = true := by
  induction m with
  | nil => rfl
  | cons e r ih =>
    obtain ⟨a, v⟩ := e
    obtain ⟨h1, h2, h3⟩ := (SMap.wf_cons d a v r).1 h
    by_cases hk : a = k
    · simp only [AMap.erase, hk, if_true]; exact ih h3
    · simp only [AMap.erase, hk, if_false]
      exact (SMap.wf_cons d a v _).2 ⟨h1, fun e he => h2 e ((AMap.mem_erase r k e).1 he).1, ih h3⟩

theorem SMap.wf_ins (m : SMap β) (d : β) (k : Nat) (v : β) (hv : v ≠ d) (hk : ∀ e ∈ m, e.1 ≠ k)
    (h : SMap.wf m d = true) : SMap.wf (AMap.ins natLt m k v) d = true := by
  induction m with
  | nil => simp [AMap.ins, SMap.wf, AMap.wf, hv]
  | cons e r ih =>
    obtain ⟨a, w⟩ := e
    obtain ⟨h1, h2, h3⟩ := (SMap.wf_cons d a w r).1 h
    unfold AMap.ins
    by_cases hlt : natLt k a = true
    · simp only [hlt, if_true]
      have hka := natLt_eq.1 hlt
      refine (SMap.wf_cons d k v _).2 ⟨hv, ?_, h⟩
      intro e he
      rcases List.mem_cons.1 he with he | he
      · subst he; exact hka
      · exact Nat.lt_trans hka (h2 e he)
    · simp only [hlt, if_false, Bool.false_eq_true]
      have hne : a ≠ k := hk (a, w) (by simp)
      have hak : a < k := by
        have : ¬ k < a := fun hh => hlt (natLt_eq.2 hh)
        omega
      refine (SMap.wf_cons d a w _).2 ⟨h1, ?_, ih (fun e he => hk e (by simp [he])) h3⟩
      intro e he
      rcases AMap.mem_ins r k v e he with he | he
      · subst he; exact hak
      · exact h2 e he

/-- A write keeps the canonical form. -/
theorem SMap.wf_set (m : SMap β) (d : β) (k : Nat) (v : β) (h : SMap.wf m d = true) :
    SMap.wf (SMap.set m d k v) d = true := by
  unfold SMap.set AMap.set
  by_cases hv : v = d
  · simp only [hv, if_true]; exact SMap.wf_erase m d k h
  · simp only [hv, if_false]
    exact SMap.wf_ins _ d k v hv (fun e he => ((AMap.mem_erase m k e).1 he).2) (SMap.wf_erase m d k h)

/-- Tables in canonical form that read alike are the same data. -/
theorem SMap.ext_wf (m n : SMap β) (d : β) (hm : SMap.wf m d = true) (hn : SMap.wf n d = true)
    (h : ∀ k, SMap.get m d k = SMap.get n d k) : m = n := by
  induction m generalizing n with
  | nil =>
    cases n with
    | nil => rfl
    | cons e r =>
      obtain ⟨a, v⟩ := e
      have h1 := ((SMap.wf_cons d a v r).1 hn).1
      have := h a
      simp [SMap.get, AMap.get] at this
      exact absurd this.symm h1
  | cons e r ih =>
    obtain ⟨a, v⟩ := e
    obtain ⟨a1, a2, a3⟩ := (SMap.wf_cons d a v r).1 hm
    have absent : ∀ (l : SMap β) (k : Nat), (∀ e ∈ l, k < e.1) → SMap.get l d k = d := by
      intro l k hl
      induction l with
      | nil => rfl
      | cons e l ihl =>
        obtain ⟨b, w⟩ := e
        have hb : k < b := hl (b, w) (by simp)
        have : b ≠ k := by omega
        simp only [SMap.get, AMap.get, this, if_false]
        exact ihl (fun e he => hl e (by simp [he]))
    cases n with
    | nil =>
      have := h a
      simp [SMap.get, AMap.get] at this
      exact absurd this a1
    | cons e' r' =>
      obtain ⟨b, w⟩ := e'
      obtain ⟨b1, b2, b3⟩ := (SMap.wf_cons d b w r').1 hn
      have hab : a = b := by
        rcases Nat.lt_trichotomy a b with hlt | heq | hgt
        · exfalso
          have hx := h a
          have : b ≠ a := by omega
          simp only [SMap.get, AMap.get, if_true, this, if_false] at hx
          have := absent r' a (fun e he => by have := b2 e he; omega)
          simp only [SMap.get] at this
          rw [this] at hx
          exact a1 hx
        · exact heq
        · exfalso
          have hx := h b
          have : a ≠ b := by omega
          simp only [SMap.get, AMap.get, if_true, this, if_false] at hx
          have := absent r b (fun e he => by have := a2 e he; omega)
          simp only [SMap.get] at this
          rw [this] at hx
          exact b1 hx.symm
      subst hab
      have hvw : v = w := by
        have := h a
        simpa [SMap.get, AMap.get] using this
      subst hvw
      have : r = r' := by
        refine ih r' a3 b3 (fun k => ?_)
        by_cases hk : a = k
        · subst hk
          rw [absent r a a2, absent r' a b2]
        · have := h k
          simpa [SMap.get, AMap.get, hk] using this
      rw [this]

end

/-! ### Memories -/

@[simp] theorem Memory.read_write_same (m : Memory) (a : Nat) (b : Byte) : (m.write a b).read a = b := by
  simp [Memory.read, Memory.write]

theorem Memory.read_write_ne (m : Memory) {a a' : Nat} (b : Byte) (h : a' ≠ a) : (m.write a b).read a' = m.read a' := by
  simp [Memory.read, Memory.write, SMap.get_set_ne _ _ _ _ h]

/-- A byte written keeps the canonical form. -/
theorem Memory.wf_write (m : Memory) (a : Nat) (b : Byte) (h : m.wf = true) : (m.write a b).wf = true :=
  SMap.wf_set m _ a b h

/-- A list of bytes written keeps the canonical form. -/
theorem Memory.wf_writeL (l : List Byte) (m : Memory) (a : Nat) (h : m.wf = true) : (m.writeL a l).wf = true := by
  induction l generalizing m a with
  | nil => exact h
  | cons b bs ih => exact ih _ _ (Memory.wf_write m a b h)

/-- Bytes outside the written range read as before. -/
theorem Memory.read_writeL_out (l : List Byte) (m : Memory) (a k : Nat) (h : k < a ∨ a + l.length ≤ k) :
    (m.writeL a l).read k = m.read k := by
  induction l generalizing m a with
  | nil => rfl
  | cons b bs ih =>
    simp only [List.length_cons] at h
    have h1 : k ≠ a := by omega
    rw [Memory.writeL, ih _ _ (by omega), Memory.read_write_ne m b h1]

/-- The written bytes read back. -/
theorem Memory.readN_writeL (l : List Byte) (m : Memory) (a : Nat) : (m.writeL a l).readN a l.length = l := by
  induction l generalizing m a with
  | nil => rfl
  | cons b bs ih =>
    simp only [Memory.writeL, List.length_cons, Memory.readN]
    rw [ih, Memory.read_writeL_out bs _ (a + 1) a (by omega), Memory.read_write_same]

/-- A new memory, and a blank one, is in canonical form. -/
theorem Memory.wf_nil : Memory.wf ([] : Memory) = true := rfl

end Sys2Proof.Machine
end

