-- ==== Sys2Proof/Laws/State.lean ====
section
/-!
SUPPORT. What each named update of the state leaves alone, one lemma per field per update, and the read-after-write laws of
the registers, the contexts and the queues.
-/

namespace Sys2Proof.Machine

/-! ### setReg -/

@[simp] theorem State.setReg_pending (s : State) (r : Reg) (v : Word) : (s.setReg r v).pending = s.pending := rfl
@[simp] theorem State.setReg_act (s : State) (r : Reg) (v : Word) : (s.setReg r v).act = s.act := rfl
@[simp] theorem State.setReg_fclk (s : State) (r : Reg) (v : Word) : (s.setReg r v).fclk = s.fclk := rfl
@[simp] theorem State.setReg_qctlUntil (s : State) (r : Reg) (v : Word) : (s.setReg r v).qctlUntil = s.qctlUntil := rfl
@[simp] theorem State.setReg_freeCnt (s : State) (r : Reg) (v : Word) : (s.setReg r v).freeCnt = s.freeCnt := rfl
@[simp] theorem State.setReg_out (s : State) (r : Reg) (v : Word) : (s.setReg r v).out = s.out := rfl
@[simp] theorem State.setReg_ctx (s : State) (r : Reg) (v : Word) : (s.setReg r v).ctx = s.ctx := rfl
@[simp] theorem State.setReg_order (s : State) (r : Reg) (v : Word) : (s.setReg r v).order = s.order := rfl
@[simp] theorem State.setReg_sem (s : State) (r : Reg) (v : Word) : (s.setReg r v).sem = s.sem := rfl
@[simp] theorem State.setReg_evb (s : State) (r : Reg) (v : Word) : (s.setReg r v).evb = s.evb := rfl
@[simp] theorem State.setReg_evbCopy (s : State) (r : Reg) (v : Word) : (s.setReg r v).evbCopy = s.evbCopy := rfl
@[simp] theorem State.setReg_imgCopy (s : State) (r : Reg) (v : Word) : (s.setReg r v).imgCopy = s.imgCopy := rfl
@[simp] theorem State.setReg_arb (s : State) (r : Reg) (v : Word) : (s.setReg r v).arb = s.arb := rfl
@[simp] theorem State.setReg_masked (s : State) (r : Reg) (v : Word) : (s.setReg r v).masked = s.masked := rfl
@[simp] theorem State.setReg_swapAt (s : State) (r : Reg) (v : Word) : (s.setReg r v).swapAt = s.swapAt := rfl
@[simp] theorem State.setReg_qdyn (s : State) (r : Reg) (v : Word) : (s.setReg r v).qdyn = s.qdyn := rfl
@[simp] theorem State.setReg_staleSeen (s : State) (r : Reg) (v : Word) : (s.setReg r v).staleSeen = s.staleSeen := rfl
@[simp] theorem State.setReg_hreq (s : State) (r : Reg) (v : Word) : (s.setReg r v).hreq = s.hreq := rfl
@[simp] theorem State.setReg_hreqNext (s : State) (r : Reg) (v : Word) : (s.setReg r v).hreqNext = s.hreqNext := rfl
@[simp] theorem State.setReg_txn (s : State) (r : Reg) (v : Word) : (s.setReg r v).txn = s.txn := rfl
@[simp] theorem State.setReg_xfer (s : State) (r : Reg) (v : Word) : (s.setReg r v).xfer = s.xfer := rfl
@[simp] theorem State.setReg_xferNext (s : State) (r : Reg) (v : Word) : (s.setReg r v).xferNext = s.xferNext := rfl
@[simp] theorem State.setReg_xq (s : State) (r : Reg) (v : Word) : (s.setReg r v).xq = s.xq := rfl
@[simp] theorem State.setReg_lanes (s : State) (r : Reg) (v : Word) : (s.setReg r v).lanes = s.lanes := rfl
@[simp] theorem State.setReg_laneWait (s : State) (r : Reg) (v : Word) : (s.setReg r v).laneWait = s.laneWait := rfl
@[simp] theorem State.setReg_gatedGrp (s : State) (r : Reg) (v : Word) : (s.setReg r v).gatedGrp = s.gatedGrp := rfl
@[simp] theorem State.setReg_pwrGrp (s : State) (r : Reg) (v : Word) : (s.setReg r v).pwrGrp = s.pwrGrp := rfl
@[simp] theorem State.setReg_pool (s : State) (r : Reg) (v : Word) : (s.setReg r v).pool = s.pool := rfl
@[simp] theorem State.setReg_segCache (s : State) (r : Reg) (v : Word) : (s.setReg r v).segCache = s.segCache := rfl
@[simp] theorem State.setReg_segRead (s : State) (r : Reg) (v : Word) : (s.setReg r v).segRead = s.segRead := rfl
@[simp] theorem State.setReg_atc (s : State) (r : Reg) (v : Word) : (s.setReg r v).atc = s.atc := rfl
@[simp] theorem State.setReg_atsPend (s : State) (r : Reg) (v : Word) : (s.setReg r v).atsPend = s.atsPend := rfl
@[simp] theorem State.setReg_atsInv (s : State) (r : Reg) (v : Word) : (s.setReg r v).atsInv = s.atsInv := rfl
@[simp] theorem State.setReg_inv (s : State) (r : Reg) (v : Word) : (s.setReg r v).inv = s.inv := rfl
@[simp] theorem State.setReg_held (s : State) (r : Reg) (v : Word) : (s.setReg r v).held = s.held := rfl
@[simp] theorem State.setReg_watch (s : State) (r : Reg) (v : Word) : (s.setReg r v).watch = s.watch := rfl
@[simp] theorem State.setReg_keys (s : State) (r : Reg) (v : Word) : (s.setReg r v).keys = s.keys := rfl
@[simp] theorem State.setReg_eic (s : State) (r : Reg) (v : Word) : (s.setReg r v).eic = s.eic := rfl
@[simp] theorem State.setReg_cpl (s : State) (r : Reg) (v : Word) : (s.setReg r v).cpl = s.cpl := rfl
@[simp] theorem State.setReg_hits (s : State) (r : Reg) (v : Word) : (s.setReg r v).hits = s.hits := rfl
@[simp] theorem State.setReg_link (s : State) (r : Reg) (v : Word) : (s.setReg r v).link = s.link := rfl
@[simp] theorem State.setReg_hostLink (s : State) (r : Reg) (v : Word) : (s.setReg r v).hostLink = s.hostLink := rfl
@[simp] theorem State.setReg_supdQ (s : State) (r : Reg) (v : Word) : (s.setReg r v).supdQ = s.supdQ := rfl
@[simp] theorem State.setReg_disc (s : State) (r : Reg) (v : Word) : (s.setReg r v).disc = s.disc := rfl
@[simp] theorem State.setReg_fifoMem (s : State) (r : Reg) (v : Word) : (s.setReg r v).fifoMem = s.fifoMem := rfl
@[simp] theorem State.setReg_fifo (s : State) (r : Reg) (v : Word) : (s.setReg r v).fifo = s.fifo := rfl
@[simp] theorem State.setReg_xoff (s : State) (r : Reg) (v : Word) : (s.setReg r v).xoff = s.xoff := rfl
@[simp] theorem State.setReg_xoffHold (s : State) (r : Reg) (v : Word) : (s.setReg r v).xoffHold = s.xoffHold := rfl
@[simp] theorem State.setReg_spm (s : State) (r : Reg) (v : Word) : (s.setReg r v).spm = s.spm := rfl
@[simp] theorem State.setReg_bankOp (s : State) (r : Reg) (v : Word) : (s.setReg r v).bankOp = s.bankOp := rfl
@[simp] theorem State.setReg_testHold (s : State) (r : Reg) (v : Word) : (s.setReg r v).testHold = s.testHold := rfl
@[simp] theorem State.setReg_atsEn (s : State) (r : Reg) (v : Word) : (s.setReg r v).atsEn = s.atsEn := rfl
@[simp] theorem State.setReg_bme (s : State) (r : Reg) (v : Word) : (s.setReg r v).bme = s.bme := rfl
@[simp] theorem State.setReg_d3hot (s : State) (r : Reg) (v : Word) : (s.setReg r v).d3hot = s.d3hot := rfl
@[simp] theorem State.setReg_hostFault (s : State) (r : Reg) (v : Word) : (s.setReg r v).hostFault = s.hostFault := rfl
@[simp] theorem State.setReg_ideFault (s : State) (r : Reg) (v : Word) : (s.setReg r v).ideFault = s.ideFault := rfl
@[simp] theorem State.setReg_ideSecure (s : State) (r : Reg) (v : Word) : (s.setReg r v).ideSecure = s.ideSecure := rfl
@[simp] theorem State.setReg_ideEn (s : State) (r : Reg) (v : Word) : (s.setReg r v).ideEn = s.ideEn := rfl
@[simp] theorem State.setReg_vfEn (s : State) (r : Reg) (v : Word) : (s.setReg r v).vfEn = s.vfEn := rfl
@[simp] theorem State.setReg_flr (s : State) (r : Reg) (v : Word) : (s.setReg r v).flr = s.flr := rfl
@[simp] theorem State.setReg_fabricReady (s : State) (r : Reg) (v : Word) : (s.setReg r v).fabricReady = s.fabricReady := rfl
@[simp] theorem State.setReg_routesLoaded (s : State) (r : Reg) (v : Word) : (s.setReg r v).routesLoaded = s.routesLoaded := rfl
@[simp] theorem State.setReg_peerReset (s : State) (r : Reg) (v : Word) : (s.setReg r v).peerReset = s.peerReset := rfl
@[simp] theorem State.setReg_inReset (s : State) (r : Reg) (v : Word) : (s.setReg r v).inReset = s.inReset := rfl
@[simp] theorem State.setReg_faultLow (s : State) (r : Reg) (v : Word) : (s.setReg r v).faultLow = s.faultLow := rfl
@[simp] theorem State.setReg_faultHold (s : State) (r : Reg) (v : Word) : (s.setReg r v).faultHold = s.faultHold := rfl
@[simp] theorem State.setReg_chipReset (s : State) (r : Reg) (v : Word) : (s.setReg r v).chipReset = s.chipReset := rfl
@[simp] theorem State.setReg_chipPend (s : State) (r : Reg) (v : Word) : (s.setReg r v).chipPend = s.chipPend := rfl
@[simp] theorem State.setReg_waking (s : State) (r : Reg) (v : Word) : (s.setReg r v).waking = s.waking := rfl
@[simp] theorem State.setReg_slotDeb (s : State) (r : Reg) (v : Word) : (s.setReg r v).slotDeb = s.slotDeb := rfl
@[simp] theorem State.setReg_sgOnes (s : State) (r : Reg) (v : Word) : (s.setReg r v).sgOnes = s.sgOnes := rfl
@[simp] theorem State.setReg_i3cNack (s : State) (r : Reg) (v : Word) : (s.setReg r v).i3cNack = s.i3cNack := rfl
@[simp] theorem State.setReg_slotOffPend (s : State) (r : Reg) (v : Word) : (s.setReg r v).slotOffPend = s.slotOffPend := rfl
@[simp] theorem State.setReg_slotAct (s : State) (r : Reg) (v : Word) : (s.setReg r v).slotAct = s.slotAct := rfl
@[simp] theorem State.setReg_slotActEnd (s : State) (r : Reg) (v : Word) : (s.setReg r v).slotActEnd = s.slotActEnd := rfl
@[simp] theorem State.setReg_misEp (s : State) (r : Reg) (v : Word) : (s.setReg r v).misEp = s.misEp := rfl
@[simp] theorem State.setReg_msram (s : State) (r : Reg) (v : Word) : (s.setReg r v).msram = s.msram := rfl
@[simp] theorem State.setReg_msix (s : State) (r : Reg) (v : Word) : (s.setReg r v).msix = s.msix := rfl
@[simp] theorem State.setReg_msixEn (s : State) (r : Reg) (v : Word) : (s.setReg r v).msixEn = s.msixEn := rfl
@[simp] theorem State.setReg_msixFmask (s : State) (r : Reg) (v : Word) : (s.setReg r v).msixFmask = s.msixFmask := rfl
@[simp] theorem State.setReg_pba (s : State) (r : Reg) (v : Word) : (s.setReg r v).pba = s.pba := rfl
@[simp] theorem State.setReg_acp (s : State) (r : Reg) (v : Word) : (s.setReg r v).acp = s.acp := rfl
@[simp] theorem State.setReg_mbAbort (s : State) (r : Reg) (v : Word) : (s.setReg r v).mbAbort = s.mbAbort := rfl
@[simp] theorem State.setReg_boot (s : State) (r : Reg) (v : Word) : (s.setReg r v).boot = s.boot := rfl
@[simp] theorem State.setReg_bootPrev (s : State) (r : Reg) (v : Word) : (s.setReg r v).bootPrev = s.bootPrev := rfl
@[simp] theorem State.setReg_pkgReset (s : State) (r : Reg) (v : Word) : (s.setReg r v).pkgReset = s.pkgReset := rfl
@[simp] theorem State.setReg_pwrGood (s : State) (r : Reg) (v : Word) : (s.setReg r v).pwrGood = s.pwrGood := rfl
@[simp] theorem State.setReg_pwrHold (s : State) (r : Reg) (v : Word) : (s.setReg r v).pwrHold = s.pwrHold := rfl
@[simp] theorem State.setReg_thermTrip (s : State) (r : Reg) (v : Word) : (s.setReg r v).thermTrip = s.thermTrip := rfl
@[simp] theorem State.setReg_wakeLow (s : State) (r : Reg) (v : Word) : (s.setReg r v).wakeLow = s.wakeLow := rfl
@[simp] theorem State.setReg_extest (s : State) (r : Reg) (v : Word) : (s.setReg r v).extest = s.extest := rfl
@[simp] theorem State.setReg_fuses (s : State) (r : Reg) (v : Word) : (s.setReg r v).fuses = s.fuses := rfl
@[simp] theorem State.setReg_fwSlot (s : State) (r : Reg) (v : Word) : (s.setReg r v).fwSlot = s.fwSlot := rfl
@[simp] theorem State.setReg_fwWriting (s : State) (r : Reg) (v : Word) : (s.setReg r v).fwWriting = s.fwWriting := rfl
@[simp] theorem State.setReg_cfgSlot (s : State) (r : Reg) (v : Word) : (s.setReg r v).cfgSlot = s.cfgSlot := rfl
@[simp] theorem State.setReg_roleA (s : State) (r : Reg) (v : Word) : (s.setReg r v).roleA = s.roleA := rfl
@[simp] theorem State.setReg_roleB (s : State) (r : Reg) (v : Word) : (s.setReg r v).roleB = s.roleB := rfl
@[simp] theorem State.setReg_castle (s : State) (r : Reg) (v : Word) : (s.setReg r v).castle = s.castle := rfl
@[simp] theorem State.setReg_stuHold (s : State) (r : Reg) (v : Word) : (s.setReg r v).stuHold = s.stuHold := rfl
@[simp] theorem State.setReg_deferred (s : State) (r : Reg) (v : Word) : (s.setReg r v).deferred = s.deferred := rfl
@[simp] theorem State.setReg_cdi (s : State) (r : Reg) (v : Word) : (s.setReg r v).cdi = s.cdi := rfl
@[simp] theorem State.setReg_fwOwner (s : State) (r : Reg) (v : Word) : (s.setReg r v).fwOwner = s.fwOwner := rfl
@[simp] theorem State.setReg_eclk (s : State) (r : Reg) (v : Word) : (s.setReg r v).eclk = s.eclk := rfl
@[simp] theorem State.setReg_cap (s : State) (r : Reg) (v : Word) : (s.setReg r v).cap = s.cap := rfl
@[simp] theorem State.setReg_throttle (s : State) (r : Reg) (v : Word) : (s.setReg r v).throttle = s.throttle := rfl
@[simp] theorem State.setReg_avsFail (s : State) (r : Reg) (v : Word) : (s.setReg r v).avsFail = s.avsFail := rfl
@[simp] theorem State.setReg_planDeg (s : State) (r : Reg) (v : Word) : (s.setReg r v).planDeg = s.planDeg := rfl
@[simp] theorem State.setReg_planWait (s : State) (r : Reg) (v : Word) : (s.setReg r v).planWait = s.planWait := rfl
@[simp] theorem State.setReg_planDefer (s : State) (r : Reg) (v : Word) : (s.setReg r v).planDefer = s.planDefer := rfl
@[simp] theorem State.setReg_planWant (s : State) (r : Reg) (v : Word) : (s.setReg r v).planWant = s.planWant := rfl
@[simp] theorem State.setReg_laneRep (s : State) (r : Reg) (v : Word) : (s.setReg r v).laneRep = s.laneRep := rfl
@[simp] theorem State.setReg_libSel (s : State) (r : Reg) (v : Word) : (s.setReg r v).libSel = s.libSel := rfl
@[simp] theorem State.setReg_libBase (s : State) (r : Reg) (v : Word) : (s.setReg r v).libBase = s.libBase := rfl
@[simp] theorem State.setReg_spdm (s : State) (r : Reg) (v : Word) : (s.setReg r v).spdm = s.spdm := rfl
@[simp] theorem State.setReg_doeErr (s : State) (r : Reg) (v : Word) : (s.setReg r v).doeErr = s.doeErr := rfl
@[simp] theorem State.setReg_ideKey (s : State) (r : Reg) (v : Word) : (s.setReg r v).ideKey = s.ideKey := rfl
@[simp] theorem State.setReg_pcmSw (s : State) (r : Reg) (v : Word) : (s.setReg r v).pcmSw = s.pcmSw := rfl
@[simp] theorem State.setReg_bsCells (s : State) (r : Reg) (v : Word) : (s.setReg r v).bsCells = s.bsCells := rfl
@[simp] theorem State.setReg_cfgOn (s : State) (r : Reg) (v : Word) : (s.setReg r v).cfgOn = s.cfgOn := rfl
@[simp] theorem State.setReg_extHold (s : State) (r : Reg) (v : Word) : (s.setReg r v).extHold = s.extHold := rfl
@[simp] theorem State.setReg_rstSw (s : State) (r : Reg) (v : Word) : (s.setReg r v).rstSw = s.rstSw := rfl
@[simp] theorem State.setReg_pdOld (s : State) (r : Reg) (v : Word) : (s.setReg r v).pdOld = s.pdOld := rfl

/-! ### put -/

@[simp] theorem State.put_pending (s : State) (f : Field) (v : Nat) : (s.put f v).pending = s.pending := rfl
@[simp] theorem State.put_act (s : State) (f : Field) (v : Nat) : (s.put f v).act = s.act := rfl
@[simp] theorem State.put_fclk (s : State) (f : Field) (v : Nat) : (s.put f v).fclk = s.fclk := rfl
@[simp] theorem State.put_qctlUntil (s : State) (f : Field) (v : Nat) : (s.put f v).qctlUntil = s.qctlUntil := rfl
@[simp] theorem State.put_freeCnt (s : State) (f : Field) (v : Nat) : (s.put f v).freeCnt = s.freeCnt := rfl
@[simp] theorem State.put_out (s : State) (f : Field) (v : Nat) : (s.put f v).out = s.out := rfl
@[simp] theorem State.put_ctx (s : State) (f : Field) (v : Nat) : (s.put f v).ctx = s.ctx := rfl
@[simp] theorem State.put_order (s : State) (f : Field) (v : Nat) : (s.put f v).order = s.order := rfl
@[simp] theorem State.put_sem (s : State) (f : Field) (v : Nat) : (s.put f v).sem = s.sem := rfl
@[simp] theorem State.put_evb (s : State) (f : Field) (v : Nat) : (s.put f v).evb = s.evb := rfl
@[simp] theorem State.put_evbCopy (s : State) (f : Field) (v : Nat) : (s.put f v).evbCopy = s.evbCopy := rfl
@[simp] theorem State.put_imgCopy (s : State) (f : Field) (v : Nat) : (s.put f v).imgCopy = s.imgCopy := rfl
@[simp] theorem State.put_arb (s : State) (f : Field) (v : Nat) : (s.put f v).arb = s.arb := rfl
@[simp] theorem State.put_masked (s : State) (f : Field) (v : Nat) : (s.put f v).masked = s.masked := rfl
@[simp] theorem State.put_swapAt (s : State) (f : Field) (v : Nat) : (s.put f v).swapAt = s.swapAt := rfl
@[simp] theorem State.put_qdyn (s : State) (f : Field) (v : Nat) : (s.put f v).qdyn = s.qdyn := rfl
@[simp] theorem State.put_staleSeen (s : State) (f : Field) (v : Nat) : (s.put f v).staleSeen = s.staleSeen := rfl
@[simp] theorem State.put_hreq (s : State) (f : Field) (v : Nat) : (s.put f v).hreq = s.hreq := rfl
@[simp] theorem State.put_hreqNext (s : State) (f : Field) (v : Nat) : (s.put f v).hreqNext = s.hreqNext := rfl
@[simp] theorem State.put_txn (s : State) (f : Field) (v : Nat) : (s.put f v).txn = s.txn := rfl
@[simp] theorem State.put_xfer (s : State) (f : Field) (v : Nat) : (s.put f v).xfer = s.xfer := rfl
@[simp] theorem State.put_xferNext (s : State) (f : Field) (v : Nat) : (s.put f v).xferNext = s.xferNext := rfl
@[simp] theorem State.put_xq (s : State) (f : Field) (v : Nat) : (s.put f v).xq = s.xq := rfl
@[simp] theorem State.put_lanes (s : State) (f : Field) (v : Nat) : (s.put f v).lanes = s.lanes := rfl
@[simp] theorem State.put_laneWait (s : State) (f : Field) (v : Nat) : (s.put f v).laneWait = s.laneWait := rfl
@[simp] theorem State.put_gatedGrp (s : State) (f : Field) (v : Nat) : (s.put f v).gatedGrp = s.gatedGrp := rfl
@[simp] theorem State.put_pwrGrp (s : State) (f : Field) (v : Nat) : (s.put f v).pwrGrp = s.pwrGrp := rfl
@[simp] theorem State.put_pool (s : State) (f : Field) (v : Nat) : (s.put f v).pool = s.pool := rfl
@[simp] theorem State.put_segCache (s : State) (f : Field) (v : Nat) : (s.put f v).segCache = s.segCache := rfl
@[simp] theorem State.put_segRead (s : State) (f : Field) (v : Nat) : (s.put f v).segRead = s.segRead := rfl
@[simp] theorem State.put_atc (s : State) (f : Field) (v : Nat) : (s.put f v).atc = s.atc := rfl
@[simp] theorem State.put_atsPend (s : State) (f : Field) (v : Nat) : (s.put f v).atsPend = s.atsPend := rfl
@[simp] theorem State.put_atsInv (s : State) (f : Field) (v : Nat) : (s.put f v).atsInv = s.atsInv := rfl
@[simp] theorem State.put_inv (s : State) (f : Field) (v : Nat) : (s.put f v).inv = s.inv := rfl
@[simp] theorem State.put_held (s : State) (f : Field) (v : Nat) : (s.put f v).held = s.held := rfl
@[simp] theorem State.put_watch (s : State) (f : Field) (v : Nat) : (s.put f v).watch = s.watch := rfl
@[simp] theorem State.put_keys (s : State) (f : Field) (v : Nat) : (s.put f v).keys = s.keys := rfl
@[simp] theorem State.put_eic (s : State) (f : Field) (v : Nat) : (s.put f v).eic = s.eic := rfl
@[simp] theorem State.put_cpl (s : State) (f : Field) (v : Nat) : (s.put f v).cpl = s.cpl := rfl
@[simp] theorem State.put_hits (s : State) (f : Field) (v : Nat) : (s.put f v).hits = s.hits := rfl
@[simp] theorem State.put_link (s : State) (f : Field) (v : Nat) : (s.put f v).link = s.link := rfl
@[simp] theorem State.put_hostLink (s : State) (f : Field) (v : Nat) : (s.put f v).hostLink = s.hostLink := rfl
@[simp] theorem State.put_supdQ (s : State) (f : Field) (v : Nat) : (s.put f v).supdQ = s.supdQ := rfl
@[simp] theorem State.put_disc (s : State) (f : Field) (v : Nat) : (s.put f v).disc = s.disc := rfl
@[simp] theorem State.put_fifoMem (s : State) (f : Field) (v : Nat) : (s.put f v).fifoMem = s.fifoMem := rfl
@[simp] theorem State.put_fifo (s : State) (f : Field) (v : Nat) : (s.put f v).fifo = s.fifo := rfl
@[simp] theorem State.put_xoff (s : State) (f : Field) (v : Nat) : (s.put f v).xoff = s.xoff := rfl
@[simp] theorem State.put_xoffHold (s : State) (f : Field) (v : Nat) : (s.put f v).xoffHold = s.xoffHold := rfl
@[simp] theorem State.put_spm (s : State) (f : Field) (v : Nat) : (s.put f v).spm = s.spm := rfl
@[simp] theorem State.put_bankOp (s : State) (f : Field) (v : Nat) : (s.put f v).bankOp = s.bankOp := rfl
@[simp] theorem State.put_testHold (s : State) (f : Field) (v : Nat) : (s.put f v).testHold = s.testHold := rfl
@[simp] theorem State.put_atsEn (s : State) (f : Field) (v : Nat) : (s.put f v).atsEn = s.atsEn := rfl
@[simp] theorem State.put_bme (s : State) (f : Field) (v : Nat) : (s.put f v).bme = s.bme := rfl
@[simp] theorem State.put_d3hot (s : State) (f : Field) (v : Nat) : (s.put f v).d3hot = s.d3hot := rfl
@[simp] theorem State.put_hostFault (s : State) (f : Field) (v : Nat) : (s.put f v).hostFault = s.hostFault := rfl
@[simp] theorem State.put_ideFault (s : State) (f : Field) (v : Nat) : (s.put f v).ideFault = s.ideFault := rfl
@[simp] theorem State.put_ideSecure (s : State) (f : Field) (v : Nat) : (s.put f v).ideSecure = s.ideSecure := rfl
@[simp] theorem State.put_ideEn (s : State) (f : Field) (v : Nat) : (s.put f v).ideEn = s.ideEn := rfl
@[simp] theorem State.put_vfEn (s : State) (f : Field) (v : Nat) : (s.put f v).vfEn = s.vfEn := rfl
@[simp] theorem State.put_flr (s : State) (f : Field) (v : Nat) : (s.put f v).flr = s.flr := rfl
@[simp] theorem State.put_fabricReady (s : State) (f : Field) (v : Nat) : (s.put f v).fabricReady = s.fabricReady := rfl
@[simp] theorem State.put_routesLoaded (s : State) (f : Field) (v : Nat) : (s.put f v).routesLoaded = s.routesLoaded := rfl
@[simp] theorem State.put_peerReset (s : State) (f : Field) (v : Nat) : (s.put f v).peerReset = s.peerReset := rfl
@[simp] theorem State.put_inReset (s : State) (f : Field) (v : Nat) : (s.put f v).inReset = s.inReset := rfl
@[simp] theorem State.put_faultLow (s : State) (f : Field) (v : Nat) : (s.put f v).faultLow = s.faultLow := rfl
@[simp] theorem State.put_faultHold (s : State) (f : Field) (v : Nat) : (s.put f v).faultHold = s.faultHold := rfl
@[simp] theorem State.put_chipReset (s : State) (f : Field) (v : Nat) : (s.put f v).chipReset = s.chipReset := rfl
@[simp] theorem State.put_chipPend (s : State) (f : Field) (v : Nat) : (s.put f v).chipPend = s.chipPend := rfl
@[simp] theorem State.put_waking (s : State) (f : Field) (v : Nat) : (s.put f v).waking = s.waking := rfl
@[simp] theorem State.put_slotDeb (s : State) (f : Field) (v : Nat) : (s.put f v).slotDeb = s.slotDeb := rfl
@[simp] theorem State.put_sgOnes (s : State) (f : Field) (v : Nat) : (s.put f v).sgOnes = s.sgOnes := rfl
@[simp] theorem State.put_i3cNack (s : State) (f : Field) (v : Nat) : (s.put f v).i3cNack = s.i3cNack := rfl
@[simp] theorem State.put_slotOffPend (s : State) (f : Field) (v : Nat) : (s.put f v).slotOffPend = s.slotOffPend := rfl
@[simp] theorem State.put_slotAct (s : State) (f : Field) (v : Nat) : (s.put f v).slotAct = s.slotAct := rfl
@[simp] theorem State.put_slotActEnd (s : State) (f : Field) (v : Nat) : (s.put f v).slotActEnd = s.slotActEnd := rfl
@[simp] theorem State.put_misEp (s : State) (f : Field) (v : Nat) : (s.put f v).misEp = s.misEp := rfl
@[simp] theorem State.put_msram (s : State) (f : Field) (v : Nat) : (s.put f v).msram = s.msram := rfl
@[simp] theorem State.put_msix (s : State) (f : Field) (v : Nat) : (s.put f v).msix = s.msix := rfl
@[simp] theorem State.put_msixEn (s : State) (f : Field) (v : Nat) : (s.put f v).msixEn = s.msixEn := rfl
@[simp] theorem State.put_msixFmask (s : State) (f : Field) (v : Nat) : (s.put f v).msixFmask = s.msixFmask := rfl
@[simp] theorem State.put_pba (s : State) (f : Field) (v : Nat) : (s.put f v).pba = s.pba := rfl
@[simp] theorem State.put_acp (s : State) (f : Field) (v : Nat) : (s.put f v).acp = s.acp := rfl
@[simp] theorem State.put_mbAbort (s : State) (f : Field) (v : Nat) : (s.put f v).mbAbort = s.mbAbort := rfl
@[simp] theorem State.put_boot (s : State) (f : Field) (v : Nat) : (s.put f v).boot = s.boot := rfl
@[simp] theorem State.put_bootPrev (s : State) (f : Field) (v : Nat) : (s.put f v).bootPrev = s.bootPrev := rfl
@[simp] theorem State.put_pkgReset (s : State) (f : Field) (v : Nat) : (s.put f v).pkgReset = s.pkgReset := rfl
@[simp] theorem State.put_pwrGood (s : State) (f : Field) (v : Nat) : (s.put f v).pwrGood = s.pwrGood := rfl
@[simp] theorem State.put_pwrHold (s : State) (f : Field) (v : Nat) : (s.put f v).pwrHold = s.pwrHold := rfl
@[simp] theorem State.put_thermTrip (s : State) (f : Field) (v : Nat) : (s.put f v).thermTrip = s.thermTrip := rfl
@[simp] theorem State.put_wakeLow (s : State) (f : Field) (v : Nat) : (s.put f v).wakeLow = s.wakeLow := rfl
@[simp] theorem State.put_extest (s : State) (f : Field) (v : Nat) : (s.put f v).extest = s.extest := rfl
@[simp] theorem State.put_fuses (s : State) (f : Field) (v : Nat) : (s.put f v).fuses = s.fuses := rfl
@[simp] theorem State.put_fwSlot (s : State) (f : Field) (v : Nat) : (s.put f v).fwSlot = s.fwSlot := rfl
@[simp] theorem State.put_fwWriting (s : State) (f : Field) (v : Nat) : (s.put f v).fwWriting = s.fwWriting := rfl
@[simp] theorem State.put_cfgSlot (s : State) (f : Field) (v : Nat) : (s.put f v).cfgSlot = s.cfgSlot := rfl
@[simp] theorem State.put_roleA (s : State) (f : Field) (v : Nat) : (s.put f v).roleA = s.roleA := rfl
@[simp] theorem State.put_roleB (s : State) (f : Field) (v : Nat) : (s.put f v).roleB = s.roleB := rfl
@[simp] theorem State.put_castle (s : State) (f : Field) (v : Nat) : (s.put f v).castle = s.castle := rfl
@[simp] theorem State.put_stuHold (s : State) (f : Field) (v : Nat) : (s.put f v).stuHold = s.stuHold := rfl
@[simp] theorem State.put_deferred (s : State) (f : Field) (v : Nat) : (s.put f v).deferred = s.deferred := rfl
@[simp] theorem State.put_cdi (s : State) (f : Field) (v : Nat) : (s.put f v).cdi = s.cdi := rfl
@[simp] theorem State.put_fwOwner (s : State) (f : Field) (v : Nat) : (s.put f v).fwOwner = s.fwOwner := rfl
@[simp] theorem State.put_eclk (s : State) (f : Field) (v : Nat) : (s.put f v).eclk = s.eclk := rfl
@[simp] theorem State.put_cap (s : State) (f : Field) (v : Nat) : (s.put f v).cap = s.cap := rfl
@[simp] theorem State.put_throttle (s : State) (f : Field) (v : Nat) : (s.put f v).throttle = s.throttle := rfl
@[simp] theorem State.put_avsFail (s : State) (f : Field) (v : Nat) : (s.put f v).avsFail = s.avsFail := rfl
@[simp] theorem State.put_planDeg (s : State) (f : Field) (v : Nat) : (s.put f v).planDeg = s.planDeg := rfl
@[simp] theorem State.put_planWait (s : State) (f : Field) (v : Nat) : (s.put f v).planWait = s.planWait := rfl
@[simp] theorem State.put_planDefer (s : State) (f : Field) (v : Nat) : (s.put f v).planDefer = s.planDefer := rfl
@[simp] theorem State.put_planWant (s : State) (f : Field) (v : Nat) : (s.put f v).planWant = s.planWant := rfl
@[simp] theorem State.put_laneRep (s : State) (f : Field) (v : Nat) : (s.put f v).laneRep = s.laneRep := rfl
@[simp] theorem State.put_libSel (s : State) (f : Field) (v : Nat) : (s.put f v).libSel = s.libSel := rfl
@[simp] theorem State.put_libBase (s : State) (f : Field) (v : Nat) : (s.put f v).libBase = s.libBase := rfl
@[simp] theorem State.put_spdm (s : State) (f : Field) (v : Nat) : (s.put f v).spdm = s.spdm := rfl
@[simp] theorem State.put_doeErr (s : State) (f : Field) (v : Nat) : (s.put f v).doeErr = s.doeErr := rfl
@[simp] theorem State.put_ideKey (s : State) (f : Field) (v : Nat) : (s.put f v).ideKey = s.ideKey := rfl
@[simp] theorem State.put_pcmSw (s : State) (f : Field) (v : Nat) : (s.put f v).pcmSw = s.pcmSw := rfl
@[simp] theorem State.put_bsCells (s : State) (f : Field) (v : Nat) : (s.put f v).bsCells = s.bsCells := rfl
@[simp] theorem State.put_cfgOn (s : State) (f : Field) (v : Nat) : (s.put f v).cfgOn = s.cfgOn := rfl
@[simp] theorem State.put_extHold (s : State) (f : Field) (v : Nat) : (s.put f v).extHold = s.extHold := rfl
@[simp] theorem State.put_rstSw (s : State) (f : Field) (v : Nat) : (s.put f v).rstSw = s.rstSw := rfl
@[simp] theorem State.put_pdOld (s : State) (f : Field) (v : Nat) : (s.put f v).pdOld = s.pdOld := rfl

/-! ### commit -/

@[simp] theorem State.commit_pending (s : State) (r : Reg) : (s.commit r).pending = s.pending := rfl
@[simp] theorem State.commit_regs (s : State) (r : Reg) : (s.commit r).regs = s.regs := rfl
@[simp] theorem State.commit_fclk (s : State) (r : Reg) : (s.commit r).fclk = s.fclk := rfl
@[simp] theorem State.commit_qctlUntil (s : State) (r : Reg) : (s.commit r).qctlUntil = s.qctlUntil := rfl
@[simp] theorem State.commit_freeCnt (s : State) (r : Reg) : (s.commit r).freeCnt = s.freeCnt := rfl
@[simp] theorem State.commit_out (s : State) (r : Reg) : (s.commit r).out = s.out := rfl
@[simp] theorem State.commit_ctx (s : State) (r : Reg) : (s.commit r).ctx = s.ctx := rfl
@[simp] theorem State.commit_order (s : State) (r : Reg) : (s.commit r).order = s.order := rfl
@[simp] theorem State.commit_sem (s : State) (r : Reg) : (s.commit r).sem = s.sem := rfl
@[simp] theorem State.commit_evb (s : State) (r : Reg) : (s.commit r).evb = s.evb := rfl
@[simp] theorem State.commit_evbCopy (s : State) (r : Reg) : (s.commit r).evbCopy = s.evbCopy := rfl
@[simp] theorem State.commit_imgCopy (s : State) (r : Reg) : (s.commit r).imgCopy = s.imgCopy := rfl
@[simp] theorem State.commit_arb (s : State) (r : Reg) : (s.commit r).arb = s.arb := rfl
@[simp] theorem State.commit_masked (s : State) (r : Reg) : (s.commit r).masked = s.masked := rfl
@[simp] theorem State.commit_swapAt (s : State) (r : Reg) : (s.commit r).swapAt = s.swapAt := rfl
@[simp] theorem State.commit_qdyn (s : State) (r : Reg) : (s.commit r).qdyn = s.qdyn := rfl
@[simp] theorem State.commit_staleSeen (s : State) (r : Reg) : (s.commit r).staleSeen = s.staleSeen := rfl
@[simp] theorem State.commit_hreq (s : State) (r : Reg) : (s.commit r).hreq = s.hreq := rfl
@[simp] theorem State.commit_hreqNext (s : State) (r : Reg) : (s.commit r).hreqNext = s.hreqNext := rfl
@[simp] theorem State.commit_txn (s : State) (r : Reg) : (s.commit r).txn = s.txn := rfl
@[simp] theorem State.commit_xfer (s : State) (r : Reg) : (s.commit r).xfer = s.xfer := rfl
@[simp] theorem State.commit_xferNext (s : State) (r : Reg) : (s.commit r).xferNext = s.xferNext := rfl
@[simp] theorem State.commit_xq (s : State) (r : Reg) : (s.commit r).xq = s.xq := rfl
@[simp] theorem State.commit_lanes (s : State) (r : Reg) : (s.commit r).lanes = s.lanes := rfl
@[simp] theorem State.commit_laneWait (s : State) (r : Reg) : (s.commit r).laneWait = s.laneWait := rfl
@[simp] theorem State.commit_gatedGrp (s : State) (r : Reg) : (s.commit r).gatedGrp = s.gatedGrp := rfl
@[simp] theorem State.commit_pwrGrp (s : State) (r : Reg) : (s.commit r).pwrGrp = s.pwrGrp := rfl
@[simp] theorem State.commit_pool (s : State) (r : Reg) : (s.commit r).pool = s.pool := rfl
@[simp] theorem State.commit_segCache (s : State) (r : Reg) : (s.commit r).segCache = s.segCache := rfl
@[simp] theorem State.commit_segRead (s : State) (r : Reg) : (s.commit r).segRead = s.segRead := rfl
@[simp] theorem State.commit_atc (s : State) (r : Reg) : (s.commit r).atc = s.atc := rfl
@[simp] theorem State.commit_atsPend (s : State) (r : Reg) : (s.commit r).atsPend = s.atsPend := rfl
@[simp] theorem State.commit_atsInv (s : State) (r : Reg) : (s.commit r).atsInv = s.atsInv := rfl
@[simp] theorem State.commit_inv (s : State) (r : Reg) : (s.commit r).inv = s.inv := rfl
@[simp] theorem State.commit_held (s : State) (r : Reg) : (s.commit r).held = s.held := rfl
@[simp] theorem State.commit_watch (s : State) (r : Reg) : (s.commit r).watch = s.watch := rfl
@[simp] theorem State.commit_keys (s : State) (r : Reg) : (s.commit r).keys = s.keys := rfl
@[simp] theorem State.commit_eic (s : State) (r : Reg) : (s.commit r).eic = s.eic := rfl
@[simp] theorem State.commit_cpl (s : State) (r : Reg) : (s.commit r).cpl = s.cpl := rfl
@[simp] theorem State.commit_hits (s : State) (r : Reg) : (s.commit r).hits = s.hits := rfl
@[simp] theorem State.commit_link (s : State) (r : Reg) : (s.commit r).link = s.link := rfl
@[simp] theorem State.commit_hostLink (s : State) (r : Reg) : (s.commit r).hostLink = s.hostLink := rfl
@[simp] theorem State.commit_supdQ (s : State) (r : Reg) : (s.commit r).supdQ = s.supdQ := rfl
@[simp] theorem State.commit_disc (s : State) (r : Reg) : (s.commit r).disc = s.disc := rfl
@[simp] theorem State.commit_fifoMem (s : State) (r : Reg) : (s.commit r).fifoMem = s.fifoMem := rfl
@[simp] theorem State.commit_fifo (s : State) (r : Reg) : (s.commit r).fifo = s.fifo := rfl
@[simp] theorem State.commit_xoff (s : State) (r : Reg) : (s.commit r).xoff = s.xoff := rfl
@[simp] theorem State.commit_xoffHold (s : State) (r : Reg) : (s.commit r).xoffHold = s.xoffHold := rfl
@[simp] theorem State.commit_spm (s : State) (r : Reg) : (s.commit r).spm = s.spm := rfl
@[simp] theorem State.commit_bankOp (s : State) (r : Reg) : (s.commit r).bankOp = s.bankOp := rfl
@[simp] theorem State.commit_testHold (s : State) (r : Reg) : (s.commit r).testHold = s.testHold := rfl
@[simp] theorem State.commit_atsEn (s : State) (r : Reg) : (s.commit r).atsEn = s.atsEn := rfl
@[simp] theorem State.commit_bme (s : State) (r : Reg) : (s.commit r).bme = s.bme := rfl
@[simp] theorem State.commit_d3hot (s : State) (r : Reg) : (s.commit r).d3hot = s.d3hot := rfl
@[simp] theorem State.commit_hostFault (s : State) (r : Reg) : (s.commit r).hostFault = s.hostFault := rfl
@[simp] theorem State.commit_ideFault (s : State) (r : Reg) : (s.commit r).ideFault = s.ideFault := rfl
@[simp] theorem State.commit_ideSecure (s : State) (r : Reg) : (s.commit r).ideSecure = s.ideSecure := rfl
@[simp] theorem State.commit_ideEn (s : State) (r : Reg) : (s.commit r).ideEn = s.ideEn := rfl
@[simp] theorem State.commit_vfEn (s : State) (r : Reg) : (s.commit r).vfEn = s.vfEn := rfl
@[simp] theorem State.commit_flr (s : State) (r : Reg) : (s.commit r).flr = s.flr := rfl
@[simp] theorem State.commit_fabricReady (s : State) (r : Reg) : (s.commit r).fabricReady = s.fabricReady := rfl
@[simp] theorem State.commit_routesLoaded (s : State) (r : Reg) : (s.commit r).routesLoaded = s.routesLoaded := rfl
@[simp] theorem State.commit_peerReset (s : State) (r : Reg) : (s.commit r).peerReset = s.peerReset := rfl
@[simp] theorem State.commit_inReset (s : State) (r : Reg) : (s.commit r).inReset = s.inReset := rfl
@[simp] theorem State.commit_faultLow (s : State) (r : Reg) : (s.commit r).faultLow = s.faultLow := rfl
@[simp] theorem State.commit_faultHold (s : State) (r : Reg) : (s.commit r).faultHold = s.faultHold := rfl
@[simp] theorem State.commit_chipReset (s : State) (r : Reg) : (s.commit r).chipReset = s.chipReset := rfl
@[simp] theorem State.commit_chipPend (s : State) (r : Reg) : (s.commit r).chipPend = s.chipPend := rfl
@[simp] theorem State.commit_waking (s : State) (r : Reg) : (s.commit r).waking = s.waking := rfl
@[simp] theorem State.commit_slotDeb (s : State) (r : Reg) : (s.commit r).slotDeb = s.slotDeb := rfl
@[simp] theorem State.commit_sgOnes (s : State) (r : Reg) : (s.commit r).sgOnes = s.sgOnes := rfl
@[simp] theorem State.commit_i3cNack (s : State) (r : Reg) : (s.commit r).i3cNack = s.i3cNack := rfl
@[simp] theorem State.commit_slotOffPend (s : State) (r : Reg) : (s.commit r).slotOffPend = s.slotOffPend := rfl
@[simp] theorem State.commit_slotAct (s : State) (r : Reg) : (s.commit r).slotAct = s.slotAct := rfl
@[simp] theorem State.commit_slotActEnd (s : State) (r : Reg) : (s.commit r).slotActEnd = s.slotActEnd := rfl
@[simp] theorem State.commit_misEp (s : State) (r : Reg) : (s.commit r).misEp = s.misEp := rfl
@[simp] theorem State.commit_msram (s : State) (r : Reg) : (s.commit r).msram = s.msram := rfl
@[simp] theorem State.commit_msix (s : State) (r : Reg) : (s.commit r).msix = s.msix := rfl
@[simp] theorem State.commit_msixEn (s : State) (r : Reg) : (s.commit r).msixEn = s.msixEn := rfl
@[simp] theorem State.commit_msixFmask (s : State) (r : Reg) : (s.commit r).msixFmask = s.msixFmask := rfl
@[simp] theorem State.commit_pba (s : State) (r : Reg) : (s.commit r).pba = s.pba := rfl
@[simp] theorem State.commit_acp (s : State) (r : Reg) : (s.commit r).acp = s.acp := rfl
@[simp] theorem State.commit_mbAbort (s : State) (r : Reg) : (s.commit r).mbAbort = s.mbAbort := rfl
@[simp] theorem State.commit_boot (s : State) (r : Reg) : (s.commit r).boot = s.boot := rfl
@[simp] theorem State.commit_bootPrev (s : State) (r : Reg) : (s.commit r).bootPrev = s.bootPrev := rfl
@[simp] theorem State.commit_pkgReset (s : State) (r : Reg) : (s.commit r).pkgReset = s.pkgReset := rfl
@[simp] theorem State.commit_pwrGood (s : State) (r : Reg) : (s.commit r).pwrGood = s.pwrGood := rfl
@[simp] theorem State.commit_pwrHold (s : State) (r : Reg) : (s.commit r).pwrHold = s.pwrHold := rfl
@[simp] theorem State.commit_thermTrip (s : State) (r : Reg) : (s.commit r).thermTrip = s.thermTrip := rfl
@[simp] theorem State.commit_wakeLow (s : State) (r : Reg) : (s.commit r).wakeLow = s.wakeLow := rfl
@[simp] theorem State.commit_extest (s : State) (r : Reg) : (s.commit r).extest = s.extest := rfl
@[simp] theorem State.commit_fuses (s : State) (r : Reg) : (s.commit r).fuses = s.fuses := rfl
@[simp] theorem State.commit_fwSlot (s : State) (r : Reg) : (s.commit r).fwSlot = s.fwSlot := rfl
@[simp] theorem State.commit_fwWriting (s : State) (r : Reg) : (s.commit r).fwWriting = s.fwWriting := rfl
@[simp] theorem State.commit_cfgSlot (s : State) (r : Reg) : (s.commit r).cfgSlot = s.cfgSlot := rfl
@[simp] theorem State.commit_roleA (s : State) (r : Reg) : (s.commit r).roleA = s.roleA := rfl
@[simp] theorem State.commit_roleB (s : State) (r : Reg) : (s.commit r).roleB = s.roleB := rfl
@[simp] theorem State.commit_castle (s : State) (r : Reg) : (s.commit r).castle = s.castle := rfl
@[simp] theorem State.commit_stuHold (s : State) (r : Reg) : (s.commit r).stuHold = s.stuHold := rfl
@[simp] theorem State.commit_deferred (s : State) (r : Reg) : (s.commit r).deferred = s.deferred := rfl
@[simp] theorem State.commit_cdi (s : State) (r : Reg) : (s.commit r).cdi = s.cdi := rfl
@[simp] theorem State.commit_fwOwner (s : State) (r : Reg) : (s.commit r).fwOwner = s.fwOwner := rfl
@[simp] theorem State.commit_eclk (s : State) (r : Reg) : (s.commit r).eclk = s.eclk := rfl
@[simp] theorem State.commit_cap (s : State) (r : Reg) : (s.commit r).cap = s.cap := rfl
@[simp] theorem State.commit_throttle (s : State) (r : Reg) : (s.commit r).throttle = s.throttle := rfl
@[simp] theorem State.commit_avsFail (s : State) (r : Reg) : (s.commit r).avsFail = s.avsFail := rfl
@[simp] theorem State.commit_planDeg (s : State) (r : Reg) : (s.commit r).planDeg = s.planDeg := rfl
@[simp] theorem State.commit_planWait (s : State) (r : Reg) : (s.commit r).planWait = s.planWait := rfl
@[simp] theorem State.commit_planDefer (s : State) (r : Reg) : (s.commit r).planDefer = s.planDefer := rfl
@[simp] theorem State.commit_planWant (s : State) (r : Reg) : (s.commit r).planWant = s.planWant := rfl
@[simp] theorem State.commit_laneRep (s : State) (r : Reg) : (s.commit r).laneRep = s.laneRep := rfl
@[simp] theorem State.commit_libSel (s : State) (r : Reg) : (s.commit r).libSel = s.libSel := rfl
@[simp] theorem State.commit_libBase (s : State) (r : Reg) : (s.commit r).libBase = s.libBase := rfl
@[simp] theorem State.commit_spdm (s : State) (r : Reg) : (s.commit r).spdm = s.spdm := rfl
@[simp] theorem State.commit_doeErr (s : State) (r : Reg) : (s.commit r).doeErr = s.doeErr := rfl
@[simp] theorem State.commit_ideKey (s : State) (r : Reg) : (s.commit r).ideKey = s.ideKey := rfl
@[simp] theorem State.commit_pcmSw (s : State) (r : Reg) : (s.commit r).pcmSw = s.pcmSw := rfl
@[simp] theorem State.commit_bsCells (s : State) (r : Reg) : (s.commit r).bsCells = s.bsCells := rfl
@[simp] theorem State.commit_cfgOn (s : State) (r : Reg) : (s.commit r).cfgOn = s.cfgOn := rfl
@[simp] theorem State.commit_extHold (s : State) (r : Reg) : (s.commit r).extHold = s.extHold := rfl
@[simp] theorem State.commit_rstSw (s : State) (r : Reg) : (s.commit r).rstSw = s.rstSw := rfl
@[simp] theorem State.commit_pdOld (s : State) (r : Reg) : (s.commit r).pdOld = s.pdOld := rfl

/-! ### setCx -/

@[simp] theorem State.setCx_pending (s : State) (c : Nat) (x : Ctx) : (s.setCx c x).pending = s.pending := rfl
@[simp] theorem State.setCx_regs (s : State) (c : Nat) (x : Ctx) : (s.setCx c x).regs = s.regs := rfl
@[simp] theorem State.setCx_act (s : State) (c : Nat) (x : Ctx) : (s.setCx c x).act = s.act := rfl
@[simp] theorem State.setCx_fclk (s : State) (c : Nat) (x : Ctx) : (s.setCx c x).fclk = s.fclk := rfl
@[simp] theorem State.setCx_qctlUntil (s : State) (c : Nat) (x : Ctx) : (s.setCx c x).qctlUntil = s.qctlUntil := rfl
@[simp] theorem State.setCx_freeCnt (s : State) (c : Nat) (x : Ctx) : (s.setCx c x).freeCnt = s.freeCnt := rfl
@[simp] theorem State.setCx_out (s : State) (c : Nat) (x : Ctx) : (s.setCx c x).out = s.out := rfl
@[simp] theorem State.setCx_order (s : State) (c : Nat) (x : Ctx) : (s.setCx c x).order = s.order := rfl
@[simp] theorem State.setCx_sem (s : State) (c : Nat) (x : Ctx) : (s.setCx c x).sem = s.sem := rfl
@[simp] theorem State.setCx_evb (s : State) (c : Nat) (x : Ctx) : (s.setCx c x).evb = s.evb := rfl
@[simp] theorem State.setCx_evbCopy (s : State) (c : Nat) (x : Ctx) : (s.setCx c x).evbCopy = s.evbCopy := rfl
@[simp] theorem State.setCx_imgCopy (s : State) (c : Nat) (x : Ctx) : (s.setCx c x).imgCopy = s.imgCopy := rfl
@[simp] theorem State.setCx_arb (s : State) (c : Nat) (x : Ctx) : (s.setCx c x).arb = s.arb := rfl
@[simp] theorem State.setCx_masked (s : State) (c : Nat) (x : Ctx) : (s.setCx c x).masked = s.masked := rfl
@[simp] theorem State.setCx_swapAt (s : State) (c : Nat) (x : Ctx) : (s.setCx c x).swapAt = s.swapAt := rfl
@[simp] theorem State.setCx_qdyn (s : State) (c : Nat) (x : Ctx) : (s.setCx c x).qdyn = s.qdyn := rfl
@[simp] theorem State.setCx_staleSeen (s : State) (c : Nat) (x : Ctx) : (s.setCx c x).staleSeen = s.staleSeen := rfl
@[simp] theorem State.setCx_hreq (s : State) (c : Nat) (x : Ctx) : (s.setCx c x).hreq = s.hreq := rfl
@[simp] theorem State.setCx_hreqNext (s : State) (c : Nat) (x : Ctx) : (s.setCx c x).hreqNext = s.hreqNext := rfl
@[simp] theorem State.setCx_txn (s : State) (c : Nat) (x : Ctx) : (s.setCx c x).txn = s.txn := rfl
@[simp] theorem State.setCx_xfer (s : State) (c : Nat) (x : Ctx) : (s.setCx c x).xfer = s.xfer := rfl
@[simp] theorem State.setCx_xferNext (s : State) (c : Nat) (x : Ctx) : (s.setCx c x).xferNext = s.xferNext := rfl
@[simp] theorem State.setCx_xq (s : State) (c : Nat) (x : Ctx) : (s.setCx c x).xq = s.xq := rfl
@[simp] theorem State.setCx_lanes (s : State) (c : Nat) (x : Ctx) : (s.setCx c x).lanes = s.lanes := rfl
@[simp] theorem State.setCx_laneWait (s : State) (c : Nat) (x : Ctx) : (s.setCx c x).laneWait = s.laneWait := rfl
@[simp] theorem State.setCx_gatedGrp (s : State) (c : Nat) (x : Ctx) : (s.setCx c x).gatedGrp = s.gatedGrp := rfl
@[simp] theorem State.setCx_pwrGrp (s : State) (c : Nat) (x : Ctx) : (s.setCx c x).pwrGrp = s.pwrGrp := rfl
@[simp] theorem State.setCx_pool (s : State) (c : Nat) (x : Ctx) : (s.setCx c x).pool = s.pool := rfl
@[simp] theorem State.setCx_segCache (s : State) (c : Nat) (x : Ctx) : (s.setCx c x).segCache = s.segCache := rfl
@[simp] theorem State.setCx_segRead (s : State) (c : Nat) (x : Ctx) : (s.setCx c x).segRead = s.segRead := rfl
@[simp] theorem State.setCx_atc (s : State) (c : Nat) (x : Ctx) : (s.setCx c x).atc = s.atc := rfl
@[simp] theorem State.setCx_atsPend (s : State) (c : Nat) (x : Ctx) : (s.setCx c x).atsPend = s.atsPend := rfl
@[simp] theorem State.setCx_atsInv (s : State) (c : Nat) (x : Ctx) : (s.setCx c x).atsInv = s.atsInv := rfl
@[simp] theorem State.setCx_inv (s : State) (c : Nat) (x : Ctx) : (s.setCx c x).inv = s.inv := rfl
@[simp] theorem State.setCx_held (s : State) (c : Nat) (x : Ctx) : (s.setCx c x).held = s.held := rfl
@[simp] theorem State.setCx_watch (s : State) (c : Nat) (x : Ctx) : (s.setCx c x).watch = s.watch := rfl
@[simp] theorem State.setCx_keys (s : State) (c : Nat) (x : Ctx) : (s.setCx c x).keys = s.keys := rfl
@[simp] theorem State.setCx_eic (s : State) (c : Nat) (x : Ctx) : (s.setCx c x).eic = s.eic := rfl
@[simp] theorem State.setCx_cpl (s : State) (c : Nat) (x : Ctx) : (s.setCx c x).cpl = s.cpl := rfl
@[simp] theorem State.setCx_hits (s : State) (c : Nat) (x : Ctx) : (s.setCx c x).hits = s.hits := rfl
@[simp] theorem State.setCx_link (s : State) (c : Nat) (x : Ctx) : (s.setCx c x).link = s.link := rfl
@[simp] theorem State.setCx_hostLink (s : State) (c : Nat) (x : Ctx) : (s.setCx c x).hostLink = s.hostLink := rfl
@[simp] theorem State.setCx_supdQ (s : State) (c : Nat) (x : Ctx) : (s.setCx c x).supdQ = s.supdQ := rfl
@[simp] theorem State.setCx_disc (s : State) (c : Nat) (x : Ctx) : (s.setCx c x).disc = s.disc := rfl
@[simp] theorem State.setCx_fifoMem (s : State) (c : Nat) (x : Ctx) : (s.setCx c x).fifoMem = s.fifoMem := rfl
@[simp] theorem State.setCx_fifo (s : State) (c : Nat) (x : Ctx) : (s.setCx c x).fifo = s.fifo := rfl
@[simp] theorem State.setCx_xoff (s : State) (c : Nat) (x : Ctx) : (s.setCx c x).xoff = s.xoff := rfl
@[simp] theorem State.setCx_xoffHold (s : State) (c : Nat) (x : Ctx) : (s.setCx c x).xoffHold = s.xoffHold := rfl
@[simp] theorem State.setCx_spm (s : State) (c : Nat) (x : Ctx) : (s.setCx c x).spm = s.spm := rfl
@[simp] theorem State.setCx_bankOp (s : State) (c : Nat) (x : Ctx) : (s.setCx c x).bankOp = s.bankOp := rfl
@[simp] theorem State.setCx_testHold (s : State) (c : Nat) (x : Ctx) : (s.setCx c x).testHold = s.testHold := rfl
@[simp] theorem State.setCx_atsEn (s : State) (c : Nat) (x : Ctx) : (s.setCx c x).atsEn = s.atsEn := rfl
@[simp] theorem State.setCx_bme (s : State) (c : Nat) (x : Ctx) : (s.setCx c x).bme = s.bme := rfl
@[simp] theorem State.setCx_d3hot (s : State) (c : Nat) (x : Ctx) : (s.setCx c x).d3hot = s.d3hot := rfl
@[simp] theorem State.setCx_hostFault (s : State) (c : Nat) (x : Ctx) : (s.setCx c x).hostFault = s.hostFault := rfl
@[simp] theorem State.setCx_ideFault (s : State) (c : Nat) (x : Ctx) : (s.setCx c x).ideFault = s.ideFault := rfl
@[simp] theorem State.setCx_ideSecure (s : State) (c : Nat) (x : Ctx) : (s.setCx c x).ideSecure = s.ideSecure := rfl
@[simp] theorem State.setCx_ideEn (s : State) (c : Nat) (x : Ctx) : (s.setCx c x).ideEn = s.ideEn := rfl
@[simp] theorem State.setCx_vfEn (s : State) (c : Nat) (x : Ctx) : (s.setCx c x).vfEn = s.vfEn := rfl
@[simp] theorem State.setCx_flr (s : State) (c : Nat) (x : Ctx) : (s.setCx c x).flr = s.flr := rfl
@[simp] theorem State.setCx_fabricReady (s : State) (c : Nat) (x : Ctx) : (s.setCx c x).fabricReady = s.fabricReady := rfl
@[simp] theorem State.setCx_routesLoaded (s : State) (c : Nat) (x : Ctx) : (s.setCx c x).routesLoaded = s.routesLoaded := rfl
@[simp] theorem State.setCx_peerReset (s : State) (c : Nat) (x : Ctx) : (s.setCx c x).peerReset = s.peerReset := rfl
@[simp] theorem State.setCx_inReset (s : State) (c : Nat) (x : Ctx) : (s.setCx c x).inReset = s.inReset := rfl
@[simp] theorem State.setCx_faultLow (s : State) (c : Nat) (x : Ctx) : (s.setCx c x).faultLow = s.faultLow := rfl
@[simp] theorem State.setCx_faultHold (s : State) (c : Nat) (x : Ctx) : (s.setCx c x).faultHold = s.faultHold := rfl
@[simp] theorem State.setCx_chipReset (s : State) (c : Nat) (x : Ctx) : (s.setCx c x).chipReset = s.chipReset := rfl
@[simp] theorem State.setCx_chipPend (s : State) (c : Nat) (x : Ctx) : (s.setCx c x).chipPend = s.chipPend := rfl
@[simp] theorem State.setCx_waking (s : State) (c : Nat) (x : Ctx) : (s.setCx c x).waking = s.waking := rfl
@[simp] theorem State.setCx_slotDeb (s : State) (c : Nat) (x : Ctx) : (s.setCx c x).slotDeb = s.slotDeb := rfl
@[simp] theorem State.setCx_sgOnes (s : State) (c : Nat) (x : Ctx) : (s.setCx c x).sgOnes = s.sgOnes := rfl
@[simp] theorem State.setCx_i3cNack (s : State) (c : Nat) (x : Ctx) : (s.setCx c x).i3cNack = s.i3cNack := rfl
@[simp] theorem State.setCx_slotOffPend (s : State) (c : Nat) (x : Ctx) : (s.setCx c x).slotOffPend = s.slotOffPend := rfl
@[simp] theorem State.setCx_slotAct (s : State) (c : Nat) (x : Ctx) : (s.setCx c x).slotAct = s.slotAct := rfl
@[simp] theorem State.setCx_slotActEnd (s : State) (c : Nat) (x : Ctx) : (s.setCx c x).slotActEnd = s.slotActEnd := rfl
@[simp] theorem State.setCx_misEp (s : State) (c : Nat) (x : Ctx) : (s.setCx c x).misEp = s.misEp := rfl
@[simp] theorem State.setCx_msram (s : State) (c : Nat) (x : Ctx) : (s.setCx c x).msram = s.msram := rfl
@[simp] theorem State.setCx_msix (s : State) (c : Nat) (x : Ctx) : (s.setCx c x).msix = s.msix := rfl
@[simp] theorem State.setCx_msixEn (s : State) (c : Nat) (x : Ctx) : (s.setCx c x).msixEn = s.msixEn := rfl
@[simp] theorem State.setCx_msixFmask (s : State) (c : Nat) (x : Ctx) : (s.setCx c x).msixFmask = s.msixFmask := rfl
@[simp] theorem State.setCx_pba (s : State) (c : Nat) (x : Ctx) : (s.setCx c x).pba = s.pba := rfl
@[simp] theorem State.setCx_acp (s : State) (c : Nat) (x : Ctx) : (s.setCx c x).acp = s.acp := rfl
@[simp] theorem State.setCx_mbAbort (s : State) (c : Nat) (x : Ctx) : (s.setCx c x).mbAbort = s.mbAbort := rfl
@[simp] theorem State.setCx_boot (s : State) (c : Nat) (x : Ctx) : (s.setCx c x).boot = s.boot := rfl
@[simp] theorem State.setCx_bootPrev (s : State) (c : Nat) (x : Ctx) : (s.setCx c x).bootPrev = s.bootPrev := rfl
@[simp] theorem State.setCx_pkgReset (s : State) (c : Nat) (x : Ctx) : (s.setCx c x).pkgReset = s.pkgReset := rfl
@[simp] theorem State.setCx_pwrGood (s : State) (c : Nat) (x : Ctx) : (s.setCx c x).pwrGood = s.pwrGood := rfl
@[simp] theorem State.setCx_pwrHold (s : State) (c : Nat) (x : Ctx) : (s.setCx c x).pwrHold = s.pwrHold := rfl
@[simp] theorem State.setCx_thermTrip (s : State) (c : Nat) (x : Ctx) : (s.setCx c x).thermTrip = s.thermTrip := rfl
@[simp] theorem State.setCx_wakeLow (s : State) (c : Nat) (x : Ctx) : (s.setCx c x).wakeLow = s.wakeLow := rfl
@[simp] theorem State.setCx_extest (s : State) (c : Nat) (x : Ctx) : (s.setCx c x).extest = s.extest := rfl
@[simp] theorem State.setCx_fuses (s : State) (c : Nat) (x : Ctx) : (s.setCx c x).fuses = s.fuses := rfl
@[simp] theorem State.setCx_fwSlot (s : State) (c : Nat) (x : Ctx) : (s.setCx c x).fwSlot = s.fwSlot := rfl
@[simp] theorem State.setCx_fwWriting (s : State) (c : Nat) (x : Ctx) : (s.setCx c x).fwWriting = s.fwWriting := rfl
@[simp] theorem State.setCx_cfgSlot (s : State) (c : Nat) (x : Ctx) : (s.setCx c x).cfgSlot = s.cfgSlot := rfl
@[simp] theorem State.setCx_roleA (s : State) (c : Nat) (x : Ctx) : (s.setCx c x).roleA = s.roleA := rfl
@[simp] theorem State.setCx_roleB (s : State) (c : Nat) (x : Ctx) : (s.setCx c x).roleB = s.roleB := rfl
@[simp] theorem State.setCx_castle (s : State) (c : Nat) (x : Ctx) : (s.setCx c x).castle = s.castle := rfl
@[simp] theorem State.setCx_stuHold (s : State) (c : Nat) (x : Ctx) : (s.setCx c x).stuHold = s.stuHold := rfl
@[simp] theorem State.setCx_deferred (s : State) (c : Nat) (x : Ctx) : (s.setCx c x).deferred = s.deferred := rfl
@[simp] theorem State.setCx_cdi (s : State) (c : Nat) (x : Ctx) : (s.setCx c x).cdi = s.cdi := rfl
@[simp] theorem State.setCx_fwOwner (s : State) (c : Nat) (x : Ctx) : (s.setCx c x).fwOwner = s.fwOwner := rfl
@[simp] theorem State.setCx_eclk (s : State) (c : Nat) (x : Ctx) : (s.setCx c x).eclk = s.eclk := rfl
@[simp] theorem State.setCx_cap (s : State) (c : Nat) (x : Ctx) : (s.setCx c x).cap = s.cap := rfl
@[simp] theorem State.setCx_throttle (s : State) (c : Nat) (x : Ctx) : (s.setCx c x).throttle = s.throttle := rfl
@[simp] theorem State.setCx_avsFail (s : State) (c : Nat) (x : Ctx) : (s.setCx c x).avsFail = s.avsFail := rfl
@[simp] theorem State.setCx_planDeg (s : State) (c : Nat) (x : Ctx) : (s.setCx c x).planDeg = s.planDeg := rfl
@[simp] theorem State.setCx_planWait (s : State) (c : Nat) (x : Ctx) : (s.setCx c x).planWait = s.planWait := rfl
@[simp] theorem State.setCx_planDefer (s : State) (c : Nat) (x : Ctx) : (s.setCx c x).planDefer = s.planDefer := rfl
@[simp] theorem State.setCx_planWant (s : State) (c : Nat) (x : Ctx) : (s.setCx c x).planWant = s.planWant := rfl
@[simp] theorem State.setCx_laneRep (s : State) (c : Nat) (x : Ctx) : (s.setCx c x).laneRep = s.laneRep := rfl
@[simp] theorem State.setCx_libSel (s : State) (c : Nat) (x : Ctx) : (s.setCx c x).libSel = s.libSel := rfl
@[simp] theorem State.setCx_libBase (s : State) (c : Nat) (x : Ctx) : (s.setCx c x).libBase = s.libBase := rfl
@[simp] theorem State.setCx_spdm (s : State) (c : Nat) (x : Ctx) : (s.setCx c x).spdm = s.spdm := rfl
@[simp] theorem State.setCx_doeErr (s : State) (c : Nat) (x : Ctx) : (s.setCx c x).doeErr = s.doeErr := rfl
@[simp] theorem State.setCx_ideKey (s : State) (c : Nat) (x : Ctx) : (s.setCx c x).ideKey = s.ideKey := rfl
@[simp] theorem State.setCx_pcmSw (s : State) (c : Nat) (x : Ctx) : (s.setCx c x).pcmSw = s.pcmSw := rfl
@[simp] theorem State.setCx_bsCells (s : State) (c : Nat) (x : Ctx) : (s.setCx c x).bsCells = s.bsCells := rfl
@[simp] theorem State.setCx_cfgOn (s : State) (c : Nat) (x : Ctx) : (s.setCx c x).cfgOn = s.cfgOn := rfl
@[simp] theorem State.setCx_extHold (s : State) (c : Nat) (x : Ctx) : (s.setCx c x).extHold = s.extHold := rfl
@[simp] theorem State.setCx_rstSw (s : State) (c : Nat) (x : Ctx) : (s.setCx c x).rstSw = s.rstSw := rfl
@[simp] theorem State.setCx_pdOld (s : State) (c : Nat) (x : Ctx) : (s.setCx c x).pdOld = s.pdOld := rfl

/-! ### updCx -/

@[simp] theorem State.updCx_pending (s : State) (c : Nat) (f : Ctx → Ctx) : (s.updCx c f).pending = s.pending := rfl
@[simp] theorem State.updCx_regs (s : State) (c : Nat) (f : Ctx → Ctx) : (s.updCx c f).regs = s.regs := rfl
@[simp] theorem State.updCx_act (s : State) (c : Nat) (f : Ctx → Ctx) : (s.updCx c f).act = s.act := rfl
@[simp] theorem State.updCx_fclk (s : State) (c : Nat) (f : Ctx → Ctx) : (s.updCx c f).fclk = s.fclk := rfl
@[simp] theorem State.updCx_qctlUntil (s : State) (c : Nat) (f : Ctx → Ctx) : (s.updCx c f).qctlUntil = s.qctlUntil := rfl
@[simp] theorem State.updCx_freeCnt (s : State) (c : Nat) (f : Ctx → Ctx) : (s.updCx c f).freeCnt = s.freeCnt := rfl
@[simp] theorem State.updCx_out (s : State) (c : Nat) (f : Ctx → Ctx) : (s.updCx c f).out = s.out := rfl
@[simp] theorem State.updCx_order (s : State) (c : Nat) (f : Ctx → Ctx) : (s.updCx c f).order = s.order := rfl
@[simp] theorem State.updCx_sem (s : State) (c : Nat) (f : Ctx → Ctx) : (s.updCx c f).sem = s.sem := rfl
@[simp] theorem State.updCx_evb (s : State) (c : Nat) (f : Ctx → Ctx) : (s.updCx c f).evb = s.evb := rfl
@[simp] theorem State.updCx_evbCopy (s : State) (c : Nat) (f : Ctx → Ctx) : (s.updCx c f).evbCopy = s.evbCopy := rfl
@[simp] theorem State.updCx_imgCopy (s : State) (c : Nat) (f : Ctx → Ctx) : (s.updCx c f).imgCopy = s.imgCopy := rfl
@[simp] theorem State.updCx_arb (s : State) (c : Nat) (f : Ctx → Ctx) : (s.updCx c f).arb = s.arb := rfl
@[simp] theorem State.updCx_masked (s : State) (c : Nat) (f : Ctx → Ctx) : (s.updCx c f).masked = s.masked := rfl
@[simp] theorem State.updCx_swapAt (s : State) (c : Nat) (f : Ctx → Ctx) : (s.updCx c f).swapAt = s.swapAt := rfl
@[simp] theorem State.updCx_qdyn (s : State) (c : Nat) (f : Ctx → Ctx) : (s.updCx c f).qdyn = s.qdyn := rfl
@[simp] theorem State.updCx_staleSeen (s : State) (c : Nat) (f : Ctx → Ctx) : (s.updCx c f).staleSeen = s.staleSeen := rfl
@[simp] theorem State.updCx_hreq (s : State) (c : Nat) (f : Ctx → Ctx) : (s.updCx c f).hreq = s.hreq := rfl
@[simp] theorem State.updCx_hreqNext (s : State) (c : Nat) (f : Ctx → Ctx) : (s.updCx c f).hreqNext = s.hreqNext := rfl
@[simp] theorem State.updCx_txn (s : State) (c : Nat) (f : Ctx → Ctx) : (s.updCx c f).txn = s.txn := rfl
@[simp] theorem State.updCx_xfer (s : State) (c : Nat) (f : Ctx → Ctx) : (s.updCx c f).xfer = s.xfer := rfl
@[simp] theorem State.updCx_xferNext (s : State) (c : Nat) (f : Ctx → Ctx) : (s.updCx c f).xferNext = s.xferNext := rfl
@[simp] theorem State.updCx_xq (s : State) (c : Nat) (f : Ctx → Ctx) : (s.updCx c f).xq = s.xq := rfl
@[simp] theorem State.updCx_lanes (s : State) (c : Nat) (f : Ctx → Ctx) : (s.updCx c f).lanes = s.lanes := rfl
@[simp] theorem State.updCx_laneWait (s : State) (c : Nat) (f : Ctx → Ctx) : (s.updCx c f).laneWait = s.laneWait := rfl
@[simp] theorem State.updCx_gatedGrp (s : State) (c : Nat) (f : Ctx → Ctx) : (s.updCx c f).gatedGrp = s.gatedGrp := rfl
@[simp] theorem State.updCx_pwrGrp (s : State) (c : Nat) (f : Ctx → Ctx) : (s.updCx c f).pwrGrp = s.pwrGrp := rfl
@[simp] theorem State.updCx_pool (s : State) (c : Nat) (f : Ctx → Ctx) : (s.updCx c f).pool = s.pool := rfl
@[simp] theorem State.updCx_segCache (s : State) (c : Nat) (f : Ctx → Ctx) : (s.updCx c f).segCache = s.segCache := rfl
@[simp] theorem State.updCx_segRead (s : State) (c : Nat) (f : Ctx → Ctx) : (s.updCx c f).segRead = s.segRead := rfl
@[simp] theorem State.updCx_atc (s : State) (c : Nat) (f : Ctx → Ctx) : (s.updCx c f).atc = s.atc := rfl
@[simp] theorem State.updCx_atsPend (s : State) (c : Nat) (f : Ctx → Ctx) : (s.updCx c f).atsPend = s.atsPend := rfl
@[simp] theorem State.updCx_atsInv (s : State) (c : Nat) (f : Ctx → Ctx) : (s.updCx c f).atsInv = s.atsInv := rfl
@[simp] theorem State.updCx_inv (s : State) (c : Nat) (f : Ctx → Ctx) : (s.updCx c f).inv = s.inv := rfl
@[simp] theorem State.updCx_held (s : State) (c : Nat) (f : Ctx → Ctx) : (s.updCx c f).held = s.held := rfl
@[simp] theorem State.updCx_watch (s : State) (c : Nat) (f : Ctx → Ctx) : (s.updCx c f).watch = s.watch := rfl
@[simp] theorem State.updCx_keys (s : State) (c : Nat) (f : Ctx → Ctx) : (s.updCx c f).keys = s.keys := rfl
@[simp] theorem State.updCx_eic (s : State) (c : Nat) (f : Ctx → Ctx) : (s.updCx c f).eic = s.eic := rfl
@[simp] theorem State.updCx_cpl (s : State) (c : Nat) (f : Ctx → Ctx) : (s.updCx c f).cpl = s.cpl := rfl
@[simp] theorem State.updCx_hits (s : State) (c : Nat) (f : Ctx → Ctx) : (s.updCx c f).hits = s.hits := rfl
@[simp] theorem State.updCx_link (s : State) (c : Nat) (f : Ctx → Ctx) : (s.updCx c f).link = s.link := rfl
@[simp] theorem State.updCx_hostLink (s : State) (c : Nat) (f : Ctx → Ctx) : (s.updCx c f).hostLink = s.hostLink := rfl
@[simp] theorem State.updCx_supdQ (s : State) (c : Nat) (f : Ctx → Ctx) : (s.updCx c f).supdQ = s.supdQ := rfl
@[simp] theorem State.updCx_disc (s : State) (c : Nat) (f : Ctx → Ctx) : (s.updCx c f).disc = s.disc := rfl
@[simp] theorem State.updCx_fifoMem (s : State) (c : Nat) (f : Ctx → Ctx) : (s.updCx c f).fifoMem = s.fifoMem := rfl
@[simp] theorem State.updCx_fifo (s : State) (c : Nat) (f : Ctx → Ctx) : (s.updCx c f).fifo = s.fifo := rfl
@[simp] theorem State.updCx_xoff (s : State) (c : Nat) (f : Ctx → Ctx) : (s.updCx c f).xoff = s.xoff := rfl
@[simp] theorem State.updCx_xoffHold (s : State) (c : Nat) (f : Ctx → Ctx) : (s.updCx c f).xoffHold = s.xoffHold := rfl
@[simp] theorem State.updCx_spm (s : State) (c : Nat) (f : Ctx → Ctx) : (s.updCx c f).spm = s.spm := rfl
@[simp] theorem State.updCx_bankOp (s : State) (c : Nat) (f : Ctx → Ctx) : (s.updCx c f).bankOp = s.bankOp := rfl
@[simp] theorem State.updCx_testHold (s : State) (c : Nat) (f : Ctx → Ctx) : (s.updCx c f).testHold = s.testHold := rfl
@[simp] theorem State.updCx_atsEn (s : State) (c : Nat) (f : Ctx → Ctx) : (s.updCx c f).atsEn = s.atsEn := rfl
@[simp] theorem State.updCx_bme (s : State) (c : Nat) (f : Ctx → Ctx) : (s.updCx c f).bme = s.bme := rfl
@[simp] theorem State.updCx_d3hot (s : State) (c : Nat) (f : Ctx → Ctx) : (s.updCx c f).d3hot = s.d3hot := rfl
@[simp] theorem State.updCx_hostFault (s : State) (c : Nat) (f : Ctx → Ctx) : (s.updCx c f).hostFault = s.hostFault := rfl
@[simp] theorem State.updCx_ideFault (s : State) (c : Nat) (f : Ctx → Ctx) : (s.updCx c f).ideFault = s.ideFault := rfl
@[simp] theorem State.updCx_ideSecure (s : State) (c : Nat) (f : Ctx → Ctx) : (s.updCx c f).ideSecure = s.ideSecure := rfl
@[simp] theorem State.updCx_ideEn (s : State) (c : Nat) (f : Ctx → Ctx) : (s.updCx c f).ideEn = s.ideEn := rfl
@[simp] theorem State.updCx_vfEn (s : State) (c : Nat) (f : Ctx → Ctx) : (s.updCx c f).vfEn = s.vfEn := rfl
@[simp] theorem State.updCx_flr (s : State) (c : Nat) (f : Ctx → Ctx) : (s.updCx c f).flr = s.flr := rfl
@[simp] theorem State.updCx_fabricReady (s : State) (c : Nat) (f : Ctx → Ctx) : (s.updCx c f).fabricReady = s.fabricReady := rfl
@[simp] theorem State.updCx_routesLoaded (s : State) (c : Nat) (f : Ctx → Ctx) : (s.updCx c f).routesLoaded = s.routesLoaded := rfl
@[simp] theorem State.updCx_peerReset (s : State) (c : Nat) (f : Ctx → Ctx) : (s.updCx c f).peerReset = s.peerReset := rfl
@[simp] theorem State.updCx_inReset (s : State) (c : Nat) (f : Ctx → Ctx) : (s.updCx c f).inReset = s.inReset := rfl
@[simp] theorem State.updCx_faultLow (s : State) (c : Nat) (f : Ctx → Ctx) : (s.updCx c f).faultLow = s.faultLow := rfl
@[simp] theorem State.updCx_faultHold (s : State) (c : Nat) (f : Ctx → Ctx) : (s.updCx c f).faultHold = s.faultHold := rfl
@[simp] theorem State.updCx_chipReset (s : State) (c : Nat) (f : Ctx → Ctx) : (s.updCx c f).chipReset = s.chipReset := rfl
@[simp] theorem State.updCx_chipPend (s : State) (c : Nat) (f : Ctx → Ctx) : (s.updCx c f).chipPend = s.chipPend := rfl
@[simp] theorem State.updCx_waking (s : State) (c : Nat) (f : Ctx → Ctx) : (s.updCx c f).waking = s.waking := rfl
@[simp] theorem State.updCx_slotDeb (s : State) (c : Nat) (f : Ctx → Ctx) : (s.updCx c f).slotDeb = s.slotDeb := rfl
@[simp] theorem State.updCx_sgOnes (s : State) (c : Nat) (f : Ctx → Ctx) : (s.updCx c f).sgOnes = s.sgOnes := rfl
@[simp] theorem State.updCx_i3cNack (s : State) (c : Nat) (f : Ctx → Ctx) : (s.updCx c f).i3cNack = s.i3cNack := rfl
@[simp] theorem State.updCx_slotOffPend (s : State) (c : Nat) (f : Ctx → Ctx) : (s.updCx c f).slotOffPend = s.slotOffPend := rfl
@[simp] theorem State.updCx_slotAct (s : State) (c : Nat) (f : Ctx → Ctx) : (s.updCx c f).slotAct = s.slotAct := rfl
@[simp] theorem State.updCx_slotActEnd (s : State) (c : Nat) (f : Ctx → Ctx) : (s.updCx c f).slotActEnd = s.slotActEnd := rfl
@[simp] theorem State.updCx_misEp (s : State) (c : Nat) (f : Ctx → Ctx) : (s.updCx c f).misEp = s.misEp := rfl
@[simp] theorem State.updCx_msram (s : State) (c : Nat) (f : Ctx → Ctx) : (s.updCx c f).msram = s.msram := rfl
@[simp] theorem State.updCx_msix (s : State) (c : Nat) (f : Ctx → Ctx) : (s.updCx c f).msix = s.msix := rfl
@[simp] theorem State.updCx_msixEn (s : State) (c : Nat) (f : Ctx → Ctx) : (s.updCx c f).msixEn = s.msixEn := rfl
@[simp] theorem State.updCx_msixFmask (s : State) (c : Nat) (f : Ctx → Ctx) : (s.updCx c f).msixFmask = s.msixFmask := rfl
@[simp] theorem State.updCx_pba (s : State) (c : Nat) (f : Ctx → Ctx) : (s.updCx c f).pba = s.pba := rfl
@[simp] theorem State.updCx_acp (s : State) (c : Nat) (f : Ctx → Ctx) : (s.updCx c f).acp = s.acp := rfl
@[simp] theorem State.updCx_mbAbort (s : State) (c : Nat) (f : Ctx → Ctx) : (s.updCx c f).mbAbort = s.mbAbort := rfl
@[simp] theorem State.updCx_boot (s : State) (c : Nat) (f : Ctx → Ctx) : (s.updCx c f).boot = s.boot := rfl
@[simp] theorem State.updCx_bootPrev (s : State) (c : Nat) (f : Ctx → Ctx) : (s.updCx c f).bootPrev = s.bootPrev := rfl
@[simp] theorem State.updCx_pkgReset (s : State) (c : Nat) (f : Ctx → Ctx) : (s.updCx c f).pkgReset = s.pkgReset := rfl
@[simp] theorem State.updCx_pwrGood (s : State) (c : Nat) (f : Ctx → Ctx) : (s.updCx c f).pwrGood = s.pwrGood := rfl
@[simp] theorem State.updCx_pwrHold (s : State) (c : Nat) (f : Ctx → Ctx) : (s.updCx c f).pwrHold = s.pwrHold := rfl
@[simp] theorem State.updCx_thermTrip (s : State) (c : Nat) (f : Ctx → Ctx) : (s.updCx c f).thermTrip = s.thermTrip := rfl
@[simp] theorem State.updCx_wakeLow (s : State) (c : Nat) (f : Ctx → Ctx) : (s.updCx c f).wakeLow = s.wakeLow := rfl
@[simp] theorem State.updCx_extest (s : State) (c : Nat) (f : Ctx → Ctx) : (s.updCx c f).extest = s.extest := rfl
@[simp] theorem State.updCx_fuses (s : State) (c : Nat) (f : Ctx → Ctx) : (s.updCx c f).fuses = s.fuses := rfl
@[simp] theorem State.updCx_fwSlot (s : State) (c : Nat) (f : Ctx → Ctx) : (s.updCx c f).fwSlot = s.fwSlot := rfl
@[simp] theorem State.updCx_fwWriting (s : State) (c : Nat) (f : Ctx → Ctx) : (s.updCx c f).fwWriting = s.fwWriting := rfl
@[simp] theorem State.updCx_cfgSlot (s : State) (c : Nat) (f : Ctx → Ctx) : (s.updCx c f).cfgSlot = s.cfgSlot := rfl
@[simp] theorem State.updCx_roleA (s : State) (c : Nat) (f : Ctx → Ctx) : (s.updCx c f).roleA = s.roleA := rfl
@[simp] theorem State.updCx_roleB (s : State) (c : Nat) (f : Ctx → Ctx) : (s.updCx c f).roleB = s.roleB := rfl
@[simp] theorem State.updCx_castle (s : State) (c : Nat) (f : Ctx → Ctx) : (s.updCx c f).castle = s.castle := rfl
@[simp] theorem State.updCx_stuHold (s : State) (c : Nat) (f : Ctx → Ctx) : (s.updCx c f).stuHold = s.stuHold := rfl
@[simp] theorem State.updCx_deferred (s : State) (c : Nat) (f : Ctx → Ctx) : (s.updCx c f).deferred = s.deferred := rfl
@[simp] theorem State.updCx_cdi (s : State) (c : Nat) (f : Ctx → Ctx) : (s.updCx c f).cdi = s.cdi := rfl
@[simp] theorem State.updCx_fwOwner (s : State) (c : Nat) (f : Ctx → Ctx) : (s.updCx c f).fwOwner = s.fwOwner := rfl
@[simp] theorem State.updCx_eclk (s : State) (c : Nat) (f : Ctx → Ctx) : (s.updCx c f).eclk = s.eclk := rfl
@[simp] theorem State.updCx_cap (s : State) (c : Nat) (f : Ctx → Ctx) : (s.updCx c f).cap = s.cap := rfl
@[simp] theorem State.updCx_throttle (s : State) (c : Nat) (f : Ctx → Ctx) : (s.updCx c f).throttle = s.throttle := rfl
@[simp] theorem State.updCx_avsFail (s : State) (c : Nat) (f : Ctx → Ctx) : (s.updCx c f).avsFail = s.avsFail := rfl
@[simp] theorem State.updCx_planDeg (s : State) (c : Nat) (f : Ctx → Ctx) : (s.updCx c f).planDeg = s.planDeg := rfl
@[simp] theorem State.updCx_planWait (s : State) (c : Nat) (f : Ctx → Ctx) : (s.updCx c f).planWait = s.planWait := rfl
@[simp] theorem State.updCx_planDefer (s : State) (c : Nat) (f : Ctx → Ctx) : (s.updCx c f).planDefer = s.planDefer := rfl
@[simp] theorem State.updCx_planWant (s : State) (c : Nat) (f : Ctx → Ctx) : (s.updCx c f).planWant = s.planWant := rfl
@[simp] theorem State.updCx_laneRep (s : State) (c : Nat) (f : Ctx → Ctx) : (s.updCx c f).laneRep = s.laneRep := rfl
@[simp] theorem State.updCx_libSel (s : State) (c : Nat) (f : Ctx → Ctx) : (s.updCx c f).libSel = s.libSel := rfl
@[simp] theorem State.updCx_libBase (s : State) (c : Nat) (f : Ctx → Ctx) : (s.updCx c f).libBase = s.libBase := rfl
@[simp] theorem State.updCx_spdm (s : State) (c : Nat) (f : Ctx → Ctx) : (s.updCx c f).spdm = s.spdm := rfl
@[simp] theorem State.updCx_doeErr (s : State) (c : Nat) (f : Ctx → Ctx) : (s.updCx c f).doeErr = s.doeErr := rfl
@[simp] theorem State.updCx_ideKey (s : State) (c : Nat) (f : Ctx → Ctx) : (s.updCx c f).ideKey = s.ideKey := rfl
@[simp] theorem State.updCx_pcmSw (s : State) (c : Nat) (f : Ctx → Ctx) : (s.updCx c f).pcmSw = s.pcmSw := rfl
@[simp] theorem State.updCx_bsCells (s : State) (c : Nat) (f : Ctx → Ctx) : (s.updCx c f).bsCells = s.bsCells := rfl
@[simp] theorem State.updCx_cfgOn (s : State) (c : Nat) (f : Ctx → Ctx) : (s.updCx c f).cfgOn = s.cfgOn := rfl
@[simp] theorem State.updCx_extHold (s : State) (c : Nat) (f : Ctx → Ctx) : (s.updCx c f).extHold = s.extHold := rfl
@[simp] theorem State.updCx_rstSw (s : State) (c : Nat) (f : Ctx → Ctx) : (s.updCx c f).rstSw = s.rstSw := rfl
@[simp] theorem State.updCx_pdOld (s : State) (c : Nat) (f : Ctx → Ctx) : (s.updCx c f).pdOld = s.pdOld := rfl

/-! ### emit -/

@[simp] theorem State.emit_pending (s : State) (o : Out) : (s.emit o).pending = s.pending := rfl
@[simp] theorem State.emit_regs (s : State) (o : Out) : (s.emit o).regs = s.regs := rfl
@[simp] theorem State.emit_act (s : State) (o : Out) : (s.emit o).act = s.act := rfl
@[simp] theorem State.emit_fclk (s : State) (o : Out) : (s.emit o).fclk = s.fclk := rfl
@[simp] theorem State.emit_qctlUntil (s : State) (o : Out) : (s.emit o).qctlUntil = s.qctlUntil := rfl
@[simp] theorem State.emit_freeCnt (s : State) (o : Out) : (s.emit o).freeCnt = s.freeCnt := rfl
@[simp] theorem State.emit_ctx (s : State) (o : Out) : (s.emit o).ctx = s.ctx := rfl
@[simp] theorem State.emit_order (s : State) (o : Out) : (s.emit o).order = s.order := rfl
@[simp] theorem State.emit_sem (s : State) (o : Out) : (s.emit o).sem = s.sem := rfl
@[simp] theorem State.emit_evb (s : State) (o : Out) : (s.emit o).evb = s.evb := rfl
@[simp] theorem State.emit_evbCopy (s : State) (o : Out) : (s.emit o).evbCopy = s.evbCopy := rfl
@[simp] theorem State.emit_imgCopy (s : State) (o : Out) : (s.emit o).imgCopy = s.imgCopy := rfl
@[simp] theorem State.emit_arb (s : State) (o : Out) : (s.emit o).arb = s.arb := rfl
@[simp] theorem State.emit_masked (s : State) (o : Out) : (s.emit o).masked = s.masked := rfl
@[simp] theorem State.emit_swapAt (s : State) (o : Out) : (s.emit o).swapAt = s.swapAt := rfl
@[simp] theorem State.emit_qdyn (s : State) (o : Out) : (s.emit o).qdyn = s.qdyn := rfl
@[simp] theorem State.emit_staleSeen (s : State) (o : Out) : (s.emit o).staleSeen = s.staleSeen := rfl
@[simp] theorem State.emit_hreq (s : State) (o : Out) : (s.emit o).hreq = s.hreq := rfl
@[simp] theorem State.emit_hreqNext (s : State) (o : Out) : (s.emit o).hreqNext = s.hreqNext := rfl
@[simp] theorem State.emit_txn (s : State) (o : Out) : (s.emit o).txn = s.txn := rfl
@[simp] theorem State.emit_xfer (s : State) (o : Out) : (s.emit o).xfer = s.xfer := rfl
@[simp] theorem State.emit_xferNext (s : State) (o : Out) : (s.emit o).xferNext = s.xferNext := rfl
@[simp] theorem State.emit_xq (s : State) (o : Out) : (s.emit o).xq = s.xq := rfl
@[simp] theorem State.emit_lanes (s : State) (o : Out) : (s.emit o).lanes = s.lanes := rfl
@[simp] theorem State.emit_laneWait (s : State) (o : Out) : (s.emit o).laneWait = s.laneWait := rfl
@[simp] theorem State.emit_gatedGrp (s : State) (o : Out) : (s.emit o).gatedGrp = s.gatedGrp := rfl
@[simp] theorem State.emit_pwrGrp (s : State) (o : Out) : (s.emit o).pwrGrp = s.pwrGrp := rfl
@[simp] theorem State.emit_pool (s : State) (o : Out) : (s.emit o).pool = s.pool := rfl
@[simp] theorem State.emit_segCache (s : State) (o : Out) : (s.emit o).segCache = s.segCache := rfl
@[simp] theorem State.emit_segRead (s : State) (o : Out) : (s.emit o).segRead = s.segRead := rfl
@[simp] theorem State.emit_atc (s : State) (o : Out) : (s.emit o).atc = s.atc := rfl
@[simp] theorem State.emit_atsPend (s : State) (o : Out) : (s.emit o).atsPend = s.atsPend := rfl
@[simp] theorem State.emit_atsInv (s : State) (o : Out) : (s.emit o).atsInv = s.atsInv := rfl
@[simp] theorem State.emit_inv (s : State) (o : Out) : (s.emit o).inv = s.inv := rfl
@[simp] theorem State.emit_held (s : State) (o : Out) : (s.emit o).held = s.held := rfl
@[simp] theorem State.emit_watch (s : State) (o : Out) : (s.emit o).watch = s.watch := rfl
@[simp] theorem State.emit_keys (s : State) (o : Out) : (s.emit o).keys = s.keys := rfl
@[simp] theorem State.emit_eic (s : State) (o : Out) : (s.emit o).eic = s.eic := rfl
@[simp] theorem State.emit_cpl (s : State) (o : Out) : (s.emit o).cpl = s.cpl := rfl
@[simp] theorem State.emit_hits (s : State) (o : Out) : (s.emit o).hits = s.hits := rfl
@[simp] theorem State.emit_link (s : State) (o : Out) : (s.emit o).link = s.link := rfl
@[simp] theorem State.emit_hostLink (s : State) (o : Out) : (s.emit o).hostLink = s.hostLink := rfl
@[simp] theorem State.emit_supdQ (s : State) (o : Out) : (s.emit o).supdQ = s.supdQ := rfl
@[simp] theorem State.emit_disc (s : State) (o : Out) : (s.emit o).disc = s.disc := rfl
@[simp] theorem State.emit_fifoMem (s : State) (o : Out) : (s.emit o).fifoMem = s.fifoMem := rfl
@[simp] theorem State.emit_fifo (s : State) (o : Out) : (s.emit o).fifo = s.fifo := rfl
@[simp] theorem State.emit_xoff (s : State) (o : Out) : (s.emit o).xoff = s.xoff := rfl
@[simp] theorem State.emit_xoffHold (s : State) (o : Out) : (s.emit o).xoffHold = s.xoffHold := rfl
@[simp] theorem State.emit_spm (s : State) (o : Out) : (s.emit o).spm = s.spm := rfl
@[simp] theorem State.emit_bankOp (s : State) (o : Out) : (s.emit o).bankOp = s.bankOp := rfl
@[simp] theorem State.emit_testHold (s : State) (o : Out) : (s.emit o).testHold = s.testHold := rfl
@[simp] theorem State.emit_atsEn (s : State) (o : Out) : (s.emit o).atsEn = s.atsEn := rfl
@[simp] theorem State.emit_bme (s : State) (o : Out) : (s.emit o).bme = s.bme := rfl
@[simp] theorem State.emit_d3hot (s : State) (o : Out) : (s.emit o).d3hot = s.d3hot := rfl
@[simp] theorem State.emit_hostFault (s : State) (o : Out) : (s.emit o).hostFault = s.hostFault := rfl
@[simp] theorem State.emit_ideFault (s : State) (o : Out) : (s.emit o).ideFault = s.ideFault := rfl
@[simp] theorem State.emit_ideSecure (s : State) (o : Out) : (s.emit o).ideSecure = s.ideSecure := rfl
@[simp] theorem State.emit_ideEn (s : State) (o : Out) : (s.emit o).ideEn = s.ideEn := rfl
@[simp] theorem State.emit_vfEn (s : State) (o : Out) : (s.emit o).vfEn = s.vfEn := rfl
@[simp] theorem State.emit_flr (s : State) (o : Out) : (s.emit o).flr = s.flr := rfl
@[simp] theorem State.emit_fabricReady (s : State) (o : Out) : (s.emit o).fabricReady = s.fabricReady := rfl
@[simp] theorem State.emit_routesLoaded (s : State) (o : Out) : (s.emit o).routesLoaded = s.routesLoaded := rfl
@[simp] theorem State.emit_peerReset (s : State) (o : Out) : (s.emit o).peerReset = s.peerReset := rfl
@[simp] theorem State.emit_inReset (s : State) (o : Out) : (s.emit o).inReset = s.inReset := rfl
@[simp] theorem State.emit_faultLow (s : State) (o : Out) : (s.emit o).faultLow = s.faultLow := rfl
@[simp] theorem State.emit_faultHold (s : State) (o : Out) : (s.emit o).faultHold = s.faultHold := rfl
@[simp] theorem State.emit_chipReset (s : State) (o : Out) : (s.emit o).chipReset = s.chipReset := rfl
@[simp] theorem State.emit_chipPend (s : State) (o : Out) : (s.emit o).chipPend = s.chipPend := rfl
@[simp] theorem State.emit_waking (s : State) (o : Out) : (s.emit o).waking = s.waking := rfl
@[simp] theorem State.emit_slotDeb (s : State) (o : Out) : (s.emit o).slotDeb = s.slotDeb := rfl
@[simp] theorem State.emit_sgOnes (s : State) (o : Out) : (s.emit o).sgOnes = s.sgOnes := rfl
@[simp] theorem State.emit_i3cNack (s : State) (o : Out) : (s.emit o).i3cNack = s.i3cNack := rfl
@[simp] theorem State.emit_slotOffPend (s : State) (o : Out) : (s.emit o).slotOffPend = s.slotOffPend := rfl
@[simp] theorem State.emit_slotAct (s : State) (o : Out) : (s.emit o).slotAct = s.slotAct := rfl
@[simp] theorem State.emit_slotActEnd (s : State) (o : Out) : (s.emit o).slotActEnd = s.slotActEnd := rfl
@[simp] theorem State.emit_misEp (s : State) (o : Out) : (s.emit o).misEp = s.misEp := rfl
@[simp] theorem State.emit_msram (s : State) (o : Out) : (s.emit o).msram = s.msram := rfl
@[simp] theorem State.emit_msix (s : State) (o : Out) : (s.emit o).msix = s.msix := rfl
@[simp] theorem State.emit_msixEn (s : State) (o : Out) : (s.emit o).msixEn = s.msixEn := rfl
@[simp] theorem State.emit_msixFmask (s : State) (o : Out) : (s.emit o).msixFmask = s.msixFmask := rfl
@[simp] theorem State.emit_pba (s : State) (o : Out) : (s.emit o).pba = s.pba := rfl
@[simp] theorem State.emit_acp (s : State) (o : Out) : (s.emit o).acp = s.acp := rfl
@[simp] theorem State.emit_mbAbort (s : State) (o : Out) : (s.emit o).mbAbort = s.mbAbort := rfl
@[simp] theorem State.emit_boot (s : State) (o : Out) : (s.emit o).boot = s.boot := rfl
@[simp] theorem State.emit_bootPrev (s : State) (o : Out) : (s.emit o).bootPrev = s.bootPrev := rfl
@[simp] theorem State.emit_pkgReset (s : State) (o : Out) : (s.emit o).pkgReset = s.pkgReset := rfl
@[simp] theorem State.emit_pwrGood (s : State) (o : Out) : (s.emit o).pwrGood = s.pwrGood := rfl
@[simp] theorem State.emit_pwrHold (s : State) (o : Out) : (s.emit o).pwrHold = s.pwrHold := rfl
@[simp] theorem State.emit_thermTrip (s : State) (o : Out) : (s.emit o).thermTrip = s.thermTrip := rfl
@[simp] theorem State.emit_wakeLow (s : State) (o : Out) : (s.emit o).wakeLow = s.wakeLow := rfl
@[simp] theorem State.emit_extest (s : State) (o : Out) : (s.emit o).extest = s.extest := rfl
@[simp] theorem State.emit_fuses (s : State) (o : Out) : (s.emit o).fuses = s.fuses := rfl
@[simp] theorem State.emit_fwSlot (s : State) (o : Out) : (s.emit o).fwSlot = s.fwSlot := rfl
@[simp] theorem State.emit_fwWriting (s : State) (o : Out) : (s.emit o).fwWriting = s.fwWriting := rfl
@[simp] theorem State.emit_cfgSlot (s : State) (o : Out) : (s.emit o).cfgSlot = s.cfgSlot := rfl
@[simp] theorem State.emit_roleA (s : State) (o : Out) : (s.emit o).roleA = s.roleA := rfl
@[simp] theorem State.emit_roleB (s : State) (o : Out) : (s.emit o).roleB = s.roleB := rfl
@[simp] theorem State.emit_castle (s : State) (o : Out) : (s.emit o).castle = s.castle := rfl
@[simp] theorem State.emit_stuHold (s : State) (o : Out) : (s.emit o).stuHold = s.stuHold := rfl
@[simp] theorem State.emit_deferred (s : State) (o : Out) : (s.emit o).deferred = s.deferred := rfl
@[simp] theorem State.emit_cdi (s : State) (o : Out) : (s.emit o).cdi = s.cdi := rfl
@[simp] theorem State.emit_fwOwner (s : State) (o : Out) : (s.emit o).fwOwner = s.fwOwner := rfl
@[simp] theorem State.emit_eclk (s : State) (o : Out) : (s.emit o).eclk = s.eclk := rfl
@[simp] theorem State.emit_cap (s : State) (o : Out) : (s.emit o).cap = s.cap := rfl
@[simp] theorem State.emit_throttle (s : State) (o : Out) : (s.emit o).throttle = s.throttle := rfl
@[simp] theorem State.emit_avsFail (s : State) (o : Out) : (s.emit o).avsFail = s.avsFail := rfl
@[simp] theorem State.emit_planDeg (s : State) (o : Out) : (s.emit o).planDeg = s.planDeg := rfl
@[simp] theorem State.emit_planWait (s : State) (o : Out) : (s.emit o).planWait = s.planWait := rfl
@[simp] theorem State.emit_planDefer (s : State) (o : Out) : (s.emit o).planDefer = s.planDefer := rfl
@[simp] theorem State.emit_planWant (s : State) (o : Out) : (s.emit o).planWant = s.planWant := rfl
@[simp] theorem State.emit_laneRep (s : State) (o : Out) : (s.emit o).laneRep = s.laneRep := rfl
@[simp] theorem State.emit_libSel (s : State) (o : Out) : (s.emit o).libSel = s.libSel := rfl
@[simp] theorem State.emit_libBase (s : State) (o : Out) : (s.emit o).libBase = s.libBase := rfl
@[simp] theorem State.emit_spdm (s : State) (o : Out) : (s.emit o).spdm = s.spdm := rfl
@[simp] theorem State.emit_doeErr (s : State) (o : Out) : (s.emit o).doeErr = s.doeErr := rfl
@[simp] theorem State.emit_ideKey (s : State) (o : Out) : (s.emit o).ideKey = s.ideKey := rfl
@[simp] theorem State.emit_pcmSw (s : State) (o : Out) : (s.emit o).pcmSw = s.pcmSw := rfl
@[simp] theorem State.emit_bsCells (s : State) (o : Out) : (s.emit o).bsCells = s.bsCells := rfl
@[simp] theorem State.emit_cfgOn (s : State) (o : Out) : (s.emit o).cfgOn = s.cfgOn := rfl
@[simp] theorem State.emit_extHold (s : State) (o : Out) : (s.emit o).extHold = s.extHold := rfl
@[simp] theorem State.emit_rstSw (s : State) (o : Out) : (s.emit o).rstSw = s.rstSw := rfl
@[simp] theorem State.emit_pdOld (s : State) (o : Out) : (s.emit o).pdOld = s.pdOld := rfl

/-! ### takeFree -/

@[simp] theorem State.takeFree_pending (s : State) : (s.takeFree).pending = s.pending := rfl
@[simp] theorem State.takeFree_regs (s : State) : (s.takeFree).regs = s.regs := rfl
@[simp] theorem State.takeFree_act (s : State) : (s.takeFree).act = s.act := rfl
@[simp] theorem State.takeFree_fclk (s : State) : (s.takeFree).fclk = s.fclk := rfl
@[simp] theorem State.takeFree_qctlUntil (s : State) : (s.takeFree).qctlUntil = s.qctlUntil := rfl
@[simp] theorem State.takeFree_out (s : State) : (s.takeFree).out = s.out := rfl
@[simp] theorem State.takeFree_ctx (s : State) : (s.takeFree).ctx = s.ctx := rfl
@[simp] theorem State.takeFree_order (s : State) : (s.takeFree).order = s.order := rfl
@[simp] theorem State.takeFree_sem (s : State) : (s.takeFree).sem = s.sem := rfl
@[simp] theorem State.takeFree_evb (s : State) : (s.takeFree).evb = s.evb := rfl
@[simp] theorem State.takeFree_evbCopy (s : State) : (s.takeFree).evbCopy = s.evbCopy := rfl
@[simp] theorem State.takeFree_imgCopy (s : State) : (s.takeFree).imgCopy = s.imgCopy := rfl
@[simp] theorem State.takeFree_arb (s : State) : (s.takeFree).arb = s.arb := rfl
@[simp] theorem State.takeFree_masked (s : State) : (s.takeFree).masked = s.masked := rfl
@[simp] theorem State.takeFree_swapAt (s : State) : (s.takeFree).swapAt = s.swapAt := rfl
@[simp] theorem State.takeFree_qdyn (s : State) : (s.takeFree).qdyn = s.qdyn := rfl
@[simp] theorem State.takeFree_staleSeen (s : State) : (s.takeFree).staleSeen = s.staleSeen := rfl
@[simp] theorem State.takeFree_hreq (s : State) : (s.takeFree).hreq = s.hreq := rfl
@[simp] theorem State.takeFree_hreqNext (s : State) : (s.takeFree).hreqNext = s.hreqNext := rfl
@[simp] theorem State.takeFree_txn (s : State) : (s.takeFree).txn = s.txn := rfl
@[simp] theorem State.takeFree_xfer (s : State) : (s.takeFree).xfer = s.xfer := rfl
@[simp] theorem State.takeFree_xferNext (s : State) : (s.takeFree).xferNext = s.xferNext := rfl
@[simp] theorem State.takeFree_xq (s : State) : (s.takeFree).xq = s.xq := rfl
@[simp] theorem State.takeFree_lanes (s : State) : (s.takeFree).lanes = s.lanes := rfl
@[simp] theorem State.takeFree_laneWait (s : State) : (s.takeFree).laneWait = s.laneWait := rfl
@[simp] theorem State.takeFree_gatedGrp (s : State) : (s.takeFree).gatedGrp = s.gatedGrp := rfl
@[simp] theorem State.takeFree_pwrGrp (s : State) : (s.takeFree).pwrGrp = s.pwrGrp := rfl
@[simp] theorem State.takeFree_pool (s : State) : (s.takeFree).pool = s.pool := rfl
@[simp] theorem State.takeFree_segCache (s : State) : (s.takeFree).segCache = s.segCache := rfl
@[simp] theorem State.takeFree_segRead (s : State) : (s.takeFree).segRead = s.segRead := rfl
@[simp] theorem State.takeFree_atc (s : State) : (s.takeFree).atc = s.atc := rfl
@[simp] theorem State.takeFree_atsPend (s : State) : (s.takeFree).atsPend = s.atsPend := rfl
@[simp] theorem State.takeFree_atsInv (s : State) : (s.takeFree).atsInv = s.atsInv := rfl
@[simp] theorem State.takeFree_inv (s : State) : (s.takeFree).inv = s.inv := rfl
@[simp] theorem State.takeFree_held (s : State) : (s.takeFree).held = s.held := rfl
@[simp] theorem State.takeFree_watch (s : State) : (s.takeFree).watch = s.watch := rfl
@[simp] theorem State.takeFree_keys (s : State) : (s.takeFree).keys = s.keys := rfl
@[simp] theorem State.takeFree_eic (s : State) : (s.takeFree).eic = s.eic := rfl
@[simp] theorem State.takeFree_cpl (s : State) : (s.takeFree).cpl = s.cpl := rfl
@[simp] theorem State.takeFree_hits (s : State) : (s.takeFree).hits = s.hits := rfl
@[simp] theorem State.takeFree_link (s : State) : (s.takeFree).link = s.link := rfl
@[simp] theorem State.takeFree_hostLink (s : State) : (s.takeFree).hostLink = s.hostLink := rfl
@[simp] theorem State.takeFree_supdQ (s : State) : (s.takeFree).supdQ = s.supdQ := rfl
@[simp] theorem State.takeFree_disc (s : State) : (s.takeFree).disc = s.disc := rfl
@[simp] theorem State.takeFree_fifoMem (s : State) : (s.takeFree).fifoMem = s.fifoMem := rfl
@[simp] theorem State.takeFree_fifo (s : State) : (s.takeFree).fifo = s.fifo := rfl
@[simp] theorem State.takeFree_xoff (s : State) : (s.takeFree).xoff = s.xoff := rfl
@[simp] theorem State.takeFree_xoffHold (s : State) : (s.takeFree).xoffHold = s.xoffHold := rfl
@[simp] theorem State.takeFree_spm (s : State) : (s.takeFree).spm = s.spm := rfl
@[simp] theorem State.takeFree_bankOp (s : State) : (s.takeFree).bankOp = s.bankOp := rfl
@[simp] theorem State.takeFree_testHold (s : State) : (s.takeFree).testHold = s.testHold := rfl
@[simp] theorem State.takeFree_atsEn (s : State) : (s.takeFree).atsEn = s.atsEn := rfl
@[simp] theorem State.takeFree_bme (s : State) : (s.takeFree).bme = s.bme := rfl
@[simp] theorem State.takeFree_d3hot (s : State) : (s.takeFree).d3hot = s.d3hot := rfl
@[simp] theorem State.takeFree_hostFault (s : State) : (s.takeFree).hostFault = s.hostFault := rfl
@[simp] theorem State.takeFree_ideFault (s : State) : (s.takeFree).ideFault = s.ideFault := rfl
@[simp] theorem State.takeFree_ideSecure (s : State) : (s.takeFree).ideSecure = s.ideSecure := rfl
@[simp] theorem State.takeFree_ideEn (s : State) : (s.takeFree).ideEn = s.ideEn := rfl
@[simp] theorem State.takeFree_vfEn (s : State) : (s.takeFree).vfEn = s.vfEn := rfl
@[simp] theorem State.takeFree_flr (s : State) : (s.takeFree).flr = s.flr := rfl
@[simp] theorem State.takeFree_fabricReady (s : State) : (s.takeFree).fabricReady = s.fabricReady := rfl
@[simp] theorem State.takeFree_routesLoaded (s : State) : (s.takeFree).routesLoaded = s.routesLoaded := rfl
@[simp] theorem State.takeFree_peerReset (s : State) : (s.takeFree).peerReset = s.peerReset := rfl
@[simp] theorem State.takeFree_inReset (s : State) : (s.takeFree).inReset = s.inReset := rfl
@[simp] theorem State.takeFree_faultLow (s : State) : (s.takeFree).faultLow = s.faultLow := rfl
@[simp] theorem State.takeFree_faultHold (s : State) : (s.takeFree).faultHold = s.faultHold := rfl
@[simp] theorem State.takeFree_chipReset (s : State) : (s.takeFree).chipReset = s.chipReset := rfl
@[simp] theorem State.takeFree_chipPend (s : State) : (s.takeFree).chipPend = s.chipPend := rfl
@[simp] theorem State.takeFree_waking (s : State) : (s.takeFree).waking = s.waking := rfl
@[simp] theorem State.takeFree_slotDeb (s : State) : (s.takeFree).slotDeb = s.slotDeb := rfl
@[simp] theorem State.takeFree_sgOnes (s : State) : (s.takeFree).sgOnes = s.sgOnes := rfl
@[simp] theorem State.takeFree_i3cNack (s : State) : (s.takeFree).i3cNack = s.i3cNack := rfl
@[simp] theorem State.takeFree_slotOffPend (s : State) : (s.takeFree).slotOffPend = s.slotOffPend := rfl
@[simp] theorem State.takeFree_slotAct (s : State) : (s.takeFree).slotAct = s.slotAct := rfl
@[simp] theorem State.takeFree_slotActEnd (s : State) : (s.takeFree).slotActEnd = s.slotActEnd := rfl
@[simp] theorem State.takeFree_misEp (s : State) : (s.takeFree).misEp = s.misEp := rfl
@[simp] theorem State.takeFree_msram (s : State) : (s.takeFree).msram = s.msram := rfl
@[simp] theorem State.takeFree_msix (s : State) : (s.takeFree).msix = s.msix := rfl
@[simp] theorem State.takeFree_msixEn (s : State) : (s.takeFree).msixEn = s.msixEn := rfl
@[simp] theorem State.takeFree_msixFmask (s : State) : (s.takeFree).msixFmask = s.msixFmask := rfl
@[simp] theorem State.takeFree_pba (s : State) : (s.takeFree).pba = s.pba := rfl
@[simp] theorem State.takeFree_acp (s : State) : (s.takeFree).acp = s.acp := rfl
@[simp] theorem State.takeFree_mbAbort (s : State) : (s.takeFree).mbAbort = s.mbAbort := rfl
@[simp] theorem State.takeFree_boot (s : State) : (s.takeFree).boot = s.boot := rfl
@[simp] theorem State.takeFree_bootPrev (s : State) : (s.takeFree).bootPrev = s.bootPrev := rfl
@[simp] theorem State.takeFree_pkgReset (s : State) : (s.takeFree).pkgReset = s.pkgReset := rfl
@[simp] theorem State.takeFree_pwrGood (s : State) : (s.takeFree).pwrGood = s.pwrGood := rfl
@[simp] theorem State.takeFree_pwrHold (s : State) : (s.takeFree).pwrHold = s.pwrHold := rfl
@[simp] theorem State.takeFree_thermTrip (s : State) : (s.takeFree).thermTrip = s.thermTrip := rfl
@[simp] theorem State.takeFree_wakeLow (s : State) : (s.takeFree).wakeLow = s.wakeLow := rfl
@[simp] theorem State.takeFree_extest (s : State) : (s.takeFree).extest = s.extest := rfl
@[simp] theorem State.takeFree_fuses (s : State) : (s.takeFree).fuses = s.fuses := rfl
@[simp] theorem State.takeFree_fwSlot (s : State) : (s.takeFree).fwSlot = s.fwSlot := rfl
@[simp] theorem State.takeFree_fwWriting (s : State) : (s.takeFree).fwWriting = s.fwWriting := rfl
@[simp] theorem State.takeFree_cfgSlot (s : State) : (s.takeFree).cfgSlot = s.cfgSlot := rfl
@[simp] theorem State.takeFree_roleA (s : State) : (s.takeFree).roleA = s.roleA := rfl
@[simp] theorem State.takeFree_roleB (s : State) : (s.takeFree).roleB = s.roleB := rfl
@[simp] theorem State.takeFree_castle (s : State) : (s.takeFree).castle = s.castle := rfl
@[simp] theorem State.takeFree_stuHold (s : State) : (s.takeFree).stuHold = s.stuHold := rfl
@[simp] theorem State.takeFree_deferred (s : State) : (s.takeFree).deferred = s.deferred := rfl
@[simp] theorem State.takeFree_cdi (s : State) : (s.takeFree).cdi = s.cdi := rfl
@[simp] theorem State.takeFree_fwOwner (s : State) : (s.takeFree).fwOwner = s.fwOwner := rfl
@[simp] theorem State.takeFree_eclk (s : State) : (s.takeFree).eclk = s.eclk := rfl
@[simp] theorem State.takeFree_cap (s : State) : (s.takeFree).cap = s.cap := rfl
@[simp] theorem State.takeFree_throttle (s : State) : (s.takeFree).throttle = s.throttle := rfl
@[simp] theorem State.takeFree_avsFail (s : State) : (s.takeFree).avsFail = s.avsFail := rfl
@[simp] theorem State.takeFree_planDeg (s : State) : (s.takeFree).planDeg = s.planDeg := rfl
@[simp] theorem State.takeFree_planWait (s : State) : (s.takeFree).planWait = s.planWait := rfl
@[simp] theorem State.takeFree_planDefer (s : State) : (s.takeFree).planDefer = s.planDefer := rfl
@[simp] theorem State.takeFree_planWant (s : State) : (s.takeFree).planWant = s.planWant := rfl
@[simp] theorem State.takeFree_laneRep (s : State) : (s.takeFree).laneRep = s.laneRep := rfl
@[simp] theorem State.takeFree_libSel (s : State) : (s.takeFree).libSel = s.libSel := rfl
@[simp] theorem State.takeFree_libBase (s : State) : (s.takeFree).libBase = s.libBase := rfl
@[simp] theorem State.takeFree_spdm (s : State) : (s.takeFree).spdm = s.spdm := rfl
@[simp] theorem State.takeFree_doeErr (s : State) : (s.takeFree).doeErr = s.doeErr := rfl
@[simp] theorem State.takeFree_ideKey (s : State) : (s.takeFree).ideKey = s.ideKey := rfl
@[simp] theorem State.takeFree_pcmSw (s : State) : (s.takeFree).pcmSw = s.pcmSw := rfl
@[simp] theorem State.takeFree_bsCells (s : State) : (s.takeFree).bsCells = s.bsCells := rfl
@[simp] theorem State.takeFree_cfgOn (s : State) : (s.takeFree).cfgOn = s.cfgOn := rfl
@[simp] theorem State.takeFree_extHold (s : State) : (s.takeFree).extHold = s.extHold := rfl
@[simp] theorem State.takeFree_rstSw (s : State) : (s.takeFree).rstSw = s.rstSw := rfl
@[simp] theorem State.takeFree_pdOld (s : State) : (s.takeFree).pdOld = s.pdOld := rfl

/-! ### setQd -/

@[simp] theorem State.setQd_pending (s : State) (q : Nat) (x : QDyn) : (s.setQd q x).pending = s.pending := rfl
@[simp] theorem State.setQd_regs (s : State) (q : Nat) (x : QDyn) : (s.setQd q x).regs = s.regs := rfl
@[simp] theorem State.setQd_act (s : State) (q : Nat) (x : QDyn) : (s.setQd q x).act = s.act := rfl
@[simp] theorem State.setQd_fclk (s : State) (q : Nat) (x : QDyn) : (s.setQd q x).fclk = s.fclk := rfl
@[simp] theorem State.setQd_qctlUntil (s : State) (q : Nat) (x : QDyn) : (s.setQd q x).qctlUntil = s.qctlUntil := rfl
@[simp] theorem State.setQd_freeCnt (s : State) (q : Nat) (x : QDyn) : (s.setQd q x).freeCnt = s.freeCnt := rfl
@[simp] theorem State.setQd_out (s : State) (q : Nat) (x : QDyn) : (s.setQd q x).out = s.out := rfl
@[simp] theorem State.setQd_ctx (s : State) (q : Nat) (x : QDyn) : (s.setQd q x).ctx = s.ctx := rfl
@[simp] theorem State.setQd_order (s : State) (q : Nat) (x : QDyn) : (s.setQd q x).order = s.order := rfl
@[simp] theorem State.setQd_sem (s : State) (q : Nat) (x : QDyn) : (s.setQd q x).sem = s.sem := rfl
@[simp] theorem State.setQd_evb (s : State) (q : Nat) (x : QDyn) : (s.setQd q x).evb = s.evb := rfl
@[simp] theorem State.setQd_evbCopy (s : State) (q : Nat) (x : QDyn) : (s.setQd q x).evbCopy = s.evbCopy := rfl
@[simp] theorem State.setQd_imgCopy (s : State) (q : Nat) (x : QDyn) : (s.setQd q x).imgCopy = s.imgCopy := rfl
@[simp] theorem State.setQd_arb (s : State) (q : Nat) (x : QDyn) : (s.setQd q x).arb = s.arb := rfl
@[simp] theorem State.setQd_masked (s : State) (q : Nat) (x : QDyn) : (s.setQd q x).masked = s.masked := rfl
@[simp] theorem State.setQd_swapAt (s : State) (q : Nat) (x : QDyn) : (s.setQd q x).swapAt = s.swapAt := rfl
@[simp] theorem State.setQd_staleSeen (s : State) (q : Nat) (x : QDyn) : (s.setQd q x).staleSeen = s.staleSeen := rfl
@[simp] theorem State.setQd_hreq (s : State) (q : Nat) (x : QDyn) : (s.setQd q x).hreq = s.hreq := rfl
@[simp] theorem State.setQd_hreqNext (s : State) (q : Nat) (x : QDyn) : (s.setQd q x).hreqNext = s.hreqNext := rfl
@[simp] theorem State.setQd_txn (s : State) (q : Nat) (x : QDyn) : (s.setQd q x).txn = s.txn := rfl
@[simp] theorem State.setQd_xfer (s : State) (q : Nat) (x : QDyn) : (s.setQd q x).xfer = s.xfer := rfl
@[simp] theorem State.setQd_xferNext (s : State) (q : Nat) (x : QDyn) : (s.setQd q x).xferNext = s.xferNext := rfl
@[simp] theorem State.setQd_xq (s : State) (q : Nat) (x : QDyn) : (s.setQd q x).xq = s.xq := rfl
@[simp] theorem State.setQd_lanes (s : State) (q : Nat) (x : QDyn) : (s.setQd q x).lanes = s.lanes := rfl
@[simp] theorem State.setQd_laneWait (s : State) (q : Nat) (x : QDyn) : (s.setQd q x).laneWait = s.laneWait := rfl
@[simp] theorem State.setQd_gatedGrp (s : State) (q : Nat) (x : QDyn) : (s.setQd q x).gatedGrp = s.gatedGrp := rfl
@[simp] theorem State.setQd_pwrGrp (s : State) (q : Nat) (x : QDyn) : (s.setQd q x).pwrGrp = s.pwrGrp := rfl
@[simp] theorem State.setQd_pool (s : State) (q : Nat) (x : QDyn) : (s.setQd q x).pool = s.pool := rfl
@[simp] theorem State.setQd_segCache (s : State) (q : Nat) (x : QDyn) : (s.setQd q x).segCache = s.segCache := rfl
@[simp] theorem State.setQd_segRead (s : State) (q : Nat) (x : QDyn) : (s.setQd q x).segRead = s.segRead := rfl
@[simp] theorem State.setQd_atc (s : State) (q : Nat) (x : QDyn) : (s.setQd q x).atc = s.atc := rfl
@[simp] theorem State.setQd_atsPend (s : State) (q : Nat) (x : QDyn) : (s.setQd q x).atsPend = s.atsPend := rfl
@[simp] theorem State.setQd_atsInv (s : State) (q : Nat) (x : QDyn) : (s.setQd q x).atsInv = s.atsInv := rfl
@[simp] theorem State.setQd_inv (s : State) (q : Nat) (x : QDyn) : (s.setQd q x).inv = s.inv := rfl
@[simp] theorem State.setQd_held (s : State) (q : Nat) (x : QDyn) : (s.setQd q x).held = s.held := rfl
@[simp] theorem State.setQd_watch (s : State) (q : Nat) (x : QDyn) : (s.setQd q x).watch = s.watch := rfl
@[simp] theorem State.setQd_keys (s : State) (q : Nat) (x : QDyn) : (s.setQd q x).keys = s.keys := rfl
@[simp] theorem State.setQd_eic (s : State) (q : Nat) (x : QDyn) : (s.setQd q x).eic = s.eic := rfl
@[simp] theorem State.setQd_cpl (s : State) (q : Nat) (x : QDyn) : (s.setQd q x).cpl = s.cpl := rfl
@[simp] theorem State.setQd_hits (s : State) (q : Nat) (x : QDyn) : (s.setQd q x).hits = s.hits := rfl
@[simp] theorem State.setQd_link (s : State) (q : Nat) (x : QDyn) : (s.setQd q x).link = s.link := rfl
@[simp] theorem State.setQd_hostLink (s : State) (q : Nat) (x : QDyn) : (s.setQd q x).hostLink = s.hostLink := rfl
@[simp] theorem State.setQd_supdQ (s : State) (q : Nat) (x : QDyn) : (s.setQd q x).supdQ = s.supdQ := rfl
@[simp] theorem State.setQd_disc (s : State) (q : Nat) (x : QDyn) : (s.setQd q x).disc = s.disc := rfl
@[simp] theorem State.setQd_fifoMem (s : State) (q : Nat) (x : QDyn) : (s.setQd q x).fifoMem = s.fifoMem := rfl
@[simp] theorem State.setQd_fifo (s : State) (q : Nat) (x : QDyn) : (s.setQd q x).fifo = s.fifo := rfl
@[simp] theorem State.setQd_xoff (s : State) (q : Nat) (x : QDyn) : (s.setQd q x).xoff = s.xoff := rfl
@[simp] theorem State.setQd_xoffHold (s : State) (q : Nat) (x : QDyn) : (s.setQd q x).xoffHold = s.xoffHold := rfl
@[simp] theorem State.setQd_spm (s : State) (q : Nat) (x : QDyn) : (s.setQd q x).spm = s.spm := rfl
@[simp] theorem State.setQd_bankOp (s : State) (q : Nat) (x : QDyn) : (s.setQd q x).bankOp = s.bankOp := rfl
@[simp] theorem State.setQd_testHold (s : State) (q : Nat) (x : QDyn) : (s.setQd q x).testHold = s.testHold := rfl
@[simp] theorem State.setQd_atsEn (s : State) (q : Nat) (x : QDyn) : (s.setQd q x).atsEn = s.atsEn := rfl
@[simp] theorem State.setQd_bme (s : State) (q : Nat) (x : QDyn) : (s.setQd q x).bme = s.bme := rfl
@[simp] theorem State.setQd_d3hot (s : State) (q : Nat) (x : QDyn) : (s.setQd q x).d3hot = s.d3hot := rfl
@[simp] theorem State.setQd_hostFault (s : State) (q : Nat) (x : QDyn) : (s.setQd q x).hostFault = s.hostFault := rfl
@[simp] theorem State.setQd_ideFault (s : State) (q : Nat) (x : QDyn) : (s.setQd q x).ideFault = s.ideFault := rfl
@[simp] theorem State.setQd_ideSecure (s : State) (q : Nat) (x : QDyn) : (s.setQd q x).ideSecure = s.ideSecure := rfl
@[simp] theorem State.setQd_ideEn (s : State) (q : Nat) (x : QDyn) : (s.setQd q x).ideEn = s.ideEn := rfl
@[simp] theorem State.setQd_vfEn (s : State) (q : Nat) (x : QDyn) : (s.setQd q x).vfEn = s.vfEn := rfl
@[simp] theorem State.setQd_flr (s : State) (q : Nat) (x : QDyn) : (s.setQd q x).flr = s.flr := rfl
@[simp] theorem State.setQd_fabricReady (s : State) (q : Nat) (x : QDyn) : (s.setQd q x).fabricReady = s.fabricReady := rfl
@[simp] theorem State.setQd_routesLoaded (s : State) (q : Nat) (x : QDyn) : (s.setQd q x).routesLoaded = s.routesLoaded := rfl
@[simp] theorem State.setQd_peerReset (s : State) (q : Nat) (x : QDyn) : (s.setQd q x).peerReset = s.peerReset := rfl
@[simp] theorem State.setQd_inReset (s : State) (q : Nat) (x : QDyn) : (s.setQd q x).inReset = s.inReset := rfl
@[simp] theorem State.setQd_faultLow (s : State) (q : Nat) (x : QDyn) : (s.setQd q x).faultLow = s.faultLow := rfl
@[simp] theorem State.setQd_faultHold (s : State) (q : Nat) (x : QDyn) : (s.setQd q x).faultHold = s.faultHold := rfl
@[simp] theorem State.setQd_chipReset (s : State) (q : Nat) (x : QDyn) : (s.setQd q x).chipReset = s.chipReset := rfl
@[simp] theorem State.setQd_chipPend (s : State) (q : Nat) (x : QDyn) : (s.setQd q x).chipPend = s.chipPend := rfl
@[simp] theorem State.setQd_waking (s : State) (q : Nat) (x : QDyn) : (s.setQd q x).waking = s.waking := rfl
@[simp] theorem State.setQd_slotDeb (s : State) (q : Nat) (x : QDyn) : (s.setQd q x).slotDeb = s.slotDeb := rfl
@[simp] theorem State.setQd_sgOnes (s : State) (q : Nat) (x : QDyn) : (s.setQd q x).sgOnes = s.sgOnes := rfl
@[simp] theorem State.setQd_i3cNack (s : State) (q : Nat) (x : QDyn) : (s.setQd q x).i3cNack = s.i3cNack := rfl
@[simp] theorem State.setQd_slotOffPend (s : State) (q : Nat) (x : QDyn) : (s.setQd q x).slotOffPend = s.slotOffPend := rfl
@[simp] theorem State.setQd_slotAct (s : State) (q : Nat) (x : QDyn) : (s.setQd q x).slotAct = s.slotAct := rfl
@[simp] theorem State.setQd_slotActEnd (s : State) (q : Nat) (x : QDyn) : (s.setQd q x).slotActEnd = s.slotActEnd := rfl
@[simp] theorem State.setQd_misEp (s : State) (q : Nat) (x : QDyn) : (s.setQd q x).misEp = s.misEp := rfl
@[simp] theorem State.setQd_msram (s : State) (q : Nat) (x : QDyn) : (s.setQd q x).msram = s.msram := rfl
@[simp] theorem State.setQd_msix (s : State) (q : Nat) (x : QDyn) : (s.setQd q x).msix = s.msix := rfl
@[simp] theorem State.setQd_msixEn (s : State) (q : Nat) (x : QDyn) : (s.setQd q x).msixEn = s.msixEn := rfl
@[simp] theorem State.setQd_msixFmask (s : State) (q : Nat) (x : QDyn) : (s.setQd q x).msixFmask = s.msixFmask := rfl
@[simp] theorem State.setQd_pba (s : State) (q : Nat) (x : QDyn) : (s.setQd q x).pba = s.pba := rfl
@[simp] theorem State.setQd_acp (s : State) (q : Nat) (x : QDyn) : (s.setQd q x).acp = s.acp := rfl
@[simp] theorem State.setQd_mbAbort (s : State) (q : Nat) (x : QDyn) : (s.setQd q x).mbAbort = s.mbAbort := rfl
@[simp] theorem State.setQd_boot (s : State) (q : Nat) (x : QDyn) : (s.setQd q x).boot = s.boot := rfl
@[simp] theorem State.setQd_bootPrev (s : State) (q : Nat) (x : QDyn) : (s.setQd q x).bootPrev = s.bootPrev := rfl
@[simp] theorem State.setQd_pkgReset (s : State) (q : Nat) (x : QDyn) : (s.setQd q x).pkgReset = s.pkgReset := rfl
@[simp] theorem State.setQd_pwrGood (s : State) (q : Nat) (x : QDyn) : (s.setQd q x).pwrGood = s.pwrGood := rfl
@[simp] theorem State.setQd_pwrHold (s : State) (q : Nat) (x : QDyn) : (s.setQd q x).pwrHold = s.pwrHold := rfl
@[simp] theorem State.setQd_thermTrip (s : State) (q : Nat) (x : QDyn) : (s.setQd q x).thermTrip = s.thermTrip := rfl
@[simp] theorem State.setQd_wakeLow (s : State) (q : Nat) (x : QDyn) : (s.setQd q x).wakeLow = s.wakeLow := rfl
@[simp] theorem State.setQd_extest (s : State) (q : Nat) (x : QDyn) : (s.setQd q x).extest = s.extest := rfl
@[simp] theorem State.setQd_fuses (s : State) (q : Nat) (x : QDyn) : (s.setQd q x).fuses = s.fuses := rfl
@[simp] theorem State.setQd_fwSlot (s : State) (q : Nat) (x : QDyn) : (s.setQd q x).fwSlot = s.fwSlot := rfl
@[simp] theorem State.setQd_fwWriting (s : State) (q : Nat) (x : QDyn) : (s.setQd q x).fwWriting = s.fwWriting := rfl
@[simp] theorem State.setQd_cfgSlot (s : State) (q : Nat) (x : QDyn) : (s.setQd q x).cfgSlot = s.cfgSlot := rfl
@[simp] theorem State.setQd_roleA (s : State) (q : Nat) (x : QDyn) : (s.setQd q x).roleA = s.roleA := rfl
@[simp] theorem State.setQd_roleB (s : State) (q : Nat) (x : QDyn) : (s.setQd q x).roleB = s.roleB := rfl
@[simp] theorem State.setQd_castle (s : State) (q : Nat) (x : QDyn) : (s.setQd q x).castle = s.castle := rfl
@[simp] theorem State.setQd_stuHold (s : State) (q : Nat) (x : QDyn) : (s.setQd q x).stuHold = s.stuHold := rfl
@[simp] theorem State.setQd_deferred (s : State) (q : Nat) (x : QDyn) : (s.setQd q x).deferred = s.deferred := rfl
@[simp] theorem State.setQd_cdi (s : State) (q : Nat) (x : QDyn) : (s.setQd q x).cdi = s.cdi := rfl
@[simp] theorem State.setQd_fwOwner (s : State) (q : Nat) (x : QDyn) : (s.setQd q x).fwOwner = s.fwOwner := rfl
@[simp] theorem State.setQd_eclk (s : State) (q : Nat) (x : QDyn) : (s.setQd q x).eclk = s.eclk := rfl
@[simp] theorem State.setQd_cap (s : State) (q : Nat) (x : QDyn) : (s.setQd q x).cap = s.cap := rfl
@[simp] theorem State.setQd_throttle (s : State) (q : Nat) (x : QDyn) : (s.setQd q x).throttle = s.throttle := rfl
@[simp] theorem State.setQd_avsFail (s : State) (q : Nat) (x : QDyn) : (s.setQd q x).avsFail = s.avsFail := rfl
@[simp] theorem State.setQd_planDeg (s : State) (q : Nat) (x : QDyn) : (s.setQd q x).planDeg = s.planDeg := rfl
@[simp] theorem State.setQd_planWait (s : State) (q : Nat) (x : QDyn) : (s.setQd q x).planWait = s.planWait := rfl
@[simp] theorem State.setQd_planDefer (s : State) (q : Nat) (x : QDyn) : (s.setQd q x).planDefer = s.planDefer := rfl
@[simp] theorem State.setQd_planWant (s : State) (q : Nat) (x : QDyn) : (s.setQd q x).planWant = s.planWant := rfl
@[simp] theorem State.setQd_laneRep (s : State) (q : Nat) (x : QDyn) : (s.setQd q x).laneRep = s.laneRep := rfl
@[simp] theorem State.setQd_libSel (s : State) (q : Nat) (x : QDyn) : (s.setQd q x).libSel = s.libSel := rfl
@[simp] theorem State.setQd_libBase (s : State) (q : Nat) (x : QDyn) : (s.setQd q x).libBase = s.libBase := rfl
@[simp] theorem State.setQd_spdm (s : State) (q : Nat) (x : QDyn) : (s.setQd q x).spdm = s.spdm := rfl
@[simp] theorem State.setQd_doeErr (s : State) (q : Nat) (x : QDyn) : (s.setQd q x).doeErr = s.doeErr := rfl
@[simp] theorem State.setQd_ideKey (s : State) (q : Nat) (x : QDyn) : (s.setQd q x).ideKey = s.ideKey := rfl
@[simp] theorem State.setQd_pcmSw (s : State) (q : Nat) (x : QDyn) : (s.setQd q x).pcmSw = s.pcmSw := rfl
@[simp] theorem State.setQd_bsCells (s : State) (q : Nat) (x : QDyn) : (s.setQd q x).bsCells = s.bsCells := rfl
@[simp] theorem State.setQd_cfgOn (s : State) (q : Nat) (x : QDyn) : (s.setQd q x).cfgOn = s.cfgOn := rfl
@[simp] theorem State.setQd_extHold (s : State) (q : Nat) (x : QDyn) : (s.setQd q x).extHold = s.extHold := rfl
@[simp] theorem State.setQd_rstSw (s : State) (q : Nat) (x : QDyn) : (s.setQd q x).rstSw = s.rstSw := rfl
@[simp] theorem State.setQd_pdOld (s : State) (q : Nat) (x : QDyn) : (s.setQd q x).pdOld = s.pdOld := rfl

/-! ### Registers -/

@[simp] theorem State.reg_setReg_same (s : State) (r : Reg) (v : Word) : (s.setReg r v).reg r = v := by
  simp [State.reg, State.setReg]

theorem State.reg_setReg_ne (s : State) {r r' : Reg} (v : Word) (h : r' ≠ r) : (s.setReg r v).reg r' = s.reg r' := by
  simp only [State.reg, State.setReg]
  exact AMap.get_set_ne _ _ _ _ _ h

/-! ### Bit fields -/

theorem bitsOf_lt (v lo w : Nat) : bitsOf v lo w < 2 ^ w := Nat.mod_lt _ (Nat.two_pow_pos w)

theorem bitsOf_testBit (v lo w i : Nat) : (bitsOf v lo w).testBit i = (decide (i < w) && v.testBit (lo + i)) := by
  simp [bitsOf, Nat.testBit_mod_two_pow, Nat.testBit_div_two_pow, Nat.add_comm]

/-- A field below bit `n` does not see what stands from bit `n` up. -/
theorem bitsOf_mod (v lo w n : Nat) (h : lo + w ≤ n) : bitsOf (v % 2 ^ n) lo w = bitsOf v lo w := by
  apply Nat.eq_of_testBit_eq
  intro i
  simp only [bitsOf_testBit, Nat.testBit_mod_two_pow]
  by_cases hi : i < w
  · have : lo + i < n := by omega
    simp [this]
  · simp [hi]

/-- A number with a field replaced: what stands above, the new field, what stands below. -/
theorem putBits_eq (v lo w x : Nat) :
    putBits v lo w x = (v / 2 ^ (lo + w) * 2 ^ w + x % 2 ^ w) * 2 ^ lo + v % 2 ^ lo := by
  have h1 : v = v / 2 ^ lo * 2 ^ lo + v % 2 ^ lo := by rw [Nat.mul_comm]; exact (Nat.div_add_mod v (2 ^ lo)).symm
  have h2 : v / 2 ^ lo = v / 2 ^ (lo + w) * 2 ^ w + bitsOf v lo w := by
    have := (Nat.div_add_mod (v / 2 ^ lo) (2 ^ w)).symm
    rw [Nat.div_div_eq_div_mul, ← Nat.pow_add, Nat.mul_comm] at this
    exact this
  unfold putBits
  generalize bitsOf v lo w = m at *
  generalize v / 2 ^ (lo + w) * 2 ^ w = hi at *
  generalize x % 2 ^ w = y
  generalize v % 2 ^ lo = low at *
  rw [h2, Nat.add_mul] at h1
  rw [Nat.add_mul]
  omega

/-- The replaced field reads as what was put. -/
theorem bitsOf_putBits_same (v lo w x : Nat) : bitsOf (putBits v lo w x) lo w = x % 2 ^ w := by
  rw [putBits_eq]
  unfold bitsOf
  rw [Nat.add_comm, Nat.add_mul_div_right _ _ (Nat.two_pow_pos lo), Nat.div_eq_of_lt (Nat.mod_lt v (Nat.two_pow_pos lo)),
    Nat.zero_add, Nat.add_comm, Nat.add_mul_mod_self_right, Nat.mod_mod]

/-- A field that does not overlap the replaced one reads as before. -/
theorem bitsOf_putBits_disj (v lo w x lo' w' : Nat) (h : lo' + w' ≤ lo ∨ lo + w ≤ lo') :
    bitsOf (putBits v lo w x) lo' w' = bitsOf v lo' w' := by
  rw [putBits_eq]
  rcases h with h | h
  · rw [← bitsOf_mod _ lo' w' lo h, Nat.add_comm, Nat.add_mul_mod_self_right, Nat.mod_mod, bitsOf_mod _ lo' w' lo h]
  · obtain ⟨k, rfl⟩ := Nat.le.dest h
    unfold bitsOf
    have hp : ∀ u : Nat, u / 2 ^ (lo + w + k) = u / 2 ^ lo / 2 ^ w / 2 ^ k := by
      intro u; rw [Nat.div_div_eq_div_mul, Nat.div_div_eq_div_mul, ← Nat.pow_add, ← Nat.pow_add, Nat.add_assoc]
    have hq : v / 2 ^ (lo + w) = v / 2 ^ lo / 2 ^ w := by rw [Nat.div_div_eq_div_mul, ← Nat.pow_add]
    rw [hp, hp, Nat.add_comm (_ * 2 ^ lo), Nat.add_mul_div_right _ _ (Nat.two_pow_pos lo),
      Nat.div_eq_of_lt (Nat.mod_lt v (Nat.two_pow_pos lo)), Nat.zero_add, Nat.add_comm,
      Nat.add_mul_div_right _ _ (Nat.two_pow_pos w), Nat.div_eq_of_lt (Nat.mod_lt x (Nat.two_pow_pos w)), Nat.zero_add, hq]

/-! ### Fields -/

theorem State.get_lt (s : State) (f : Field) : s.get f < 2 ^ f.w := bitsOf_lt _ _ _

/-- A field that has been written reads as its low bits. -/
theorem State.get_put_same (s : State) (f : Field) (v : Nat) (h : f.lo + f.w ≤ 64 := by decide) :
    (s.put f v).get f = v % 2 ^ f.w := by
  simp only [State.get, State.put, State.reg_setReg_same, BitVec.toNat_ofNat]
  rw [bitsOf_mod _ _ _ _ h, bitsOf_putBits_same]

/-- A field of another register word reads as before. -/
theorem State.get_put_reg (s : State) {f f' : Field} (v : Nat) (h : f'.reg ≠ f.reg) : (s.put f v).get f' = s.get f' := by
  simp only [State.get, State.put]
  rw [State.reg_setReg_ne s _ h]

/-- A field of another register table reads as before. -/
theorem State.get_put_id (s : State) {f f' : Field} (v : Nat) (h : f'.reg.id ≠ f.reg.id) : (s.put f v).get f' = s.get f' :=
  State.get_put_reg s v fun e => h (by rw [e])

/-- A field of the same word that does not overlap reads as before. -/
theorem State.get_put_disj (s : State) {f f' : Field} (v : Nat) (h : f'.lo + f'.w ≤ f.lo ∨ f.lo + f.w ≤ f'.lo)
    (h64 : f'.lo + f'.w ≤ 64) : (s.put f v).get f' = s.get f' := by
  by_cases hr : f'.reg = f.reg
  · simp only [State.get, State.put, hr, State.reg_setReg_same, BitVec.toNat_ofNat]
    rw [bitsOf_mod _ _ _ _ h64, bitsOf_putBits_disj _ _ _ _ _ _ h]
  · exact State.get_put_reg s v hr

/-- A word of another table, and of another copy, reads as before. -/
theorem State.reg_put_ne (s : State) {f : Field} {r : Reg} (v : Nat) (h : r ≠ f.reg) : (s.put f v).reg r = s.reg r := by
  simp only [State.put]
  exact State.reg_setReg_ne s _ h

/-! ### Contexts -/

@[simp] theorem State.cx_setCx_same (s : State) (c : Nat) (x : Ctx) : (s.setCx c x).cx c = x := by
  simp [State.cx, State.setCx]

theorem State.cx_setCx_ne (s : State) {c c' : Nat} (x : Ctx) (h : c' ≠ c) : (s.setCx c x).cx c' = s.cx c' := by
  simp only [State.cx, State.setCx]
  exact SMap.get_set_ne _ _ _ _ h

theorem State.cx_setCx (s : State) (c c' : Nat) (x : Ctx) : (s.setCx c x).cx c' = if c' = c then x else s.cx c' := by
  by_cases h : c' = c
  · simp [h]
  · simp [h, State.cx_setCx_ne s x h]

@[simp] theorem State.cx_updCx_same (s : State) (c : Nat) (f : Ctx → Ctx) : (s.updCx c f).cx c = f (s.cx c) := by
  simp [State.updCx]

theorem State.cx_updCx_ne (s : State) {c c' : Nat} (f : Ctx → Ctx) (h : c' ≠ c) : (s.updCx c f).cx c' = s.cx c' :=
  State.cx_setCx_ne s _ h

@[simp] theorem State.cx_put (s : State) (f : Field) (v c : Nat) : (s.put f v).cx c = s.cx c := rfl
@[simp] theorem State.cx_setReg (s : State) (r : Reg) (v : Word) (c : Nat) : (s.setReg r v).cx c = s.cx c := rfl
@[simp] theorem State.get_setCx (s : State) (c : Nat) (x : Ctx) (f : Field) : (s.setCx c x).get f = s.get f := rfl
@[simp] theorem State.get_updCx (s : State) (c : Nat) (g : Ctx → Ctx) (f : Field) : (s.updCx c g).get f = s.get f := rfl
@[simp] theorem State.get_emit (s : State) (o : Out) (f : Field) : (s.emit o).get f = s.get f := rfl
@[simp] theorem State.get_takeFree (s : State) (f : Field) : s.takeFree.get f = s.get f := rfl
@[simp] theorem State.cx_takeFree (s : State) (c : Nat) : s.takeFree.cx c = s.cx c := rfl
@[simp] theorem State.get_setQd (s : State) (q : Nat) (x : QDyn) (f : Field) : (s.setQd q x).get f = s.get f := rfl

@[simp] theorem State.qd_setQd_same (s : State) (q : Nat) (x : QDyn) : (s.setQd q x).qd q = x := by
  simp [State.qd, State.setQd]

/-! ### Registers of a context -/

@[simp] theorem Ctx.dreg_putD (x : Ctx) (n m : Nat) (v : Word) : (x.putD n v).dreg m = if m = n then v else x.dreg m := by
  simp only [Ctx.dreg, Ctx.putD, Ctx.upd]
  exact SMap.get_set _ _ _ _ _

@[simp] theorem Ctx.dreg_setD (x : Ctx) (n m : Nat) (v : Word) : (x.setD n v).dreg m = if m = n then v else x.dreg m :=
  Ctx.dreg_putD x n m v

@[simp] theorem Ctx.areg_setA (x : Ctx) (n m : Nat) (v : Word) : (x.setA n v).areg m = if m = n then v else x.areg m := by
  simp only [Ctx.areg, Ctx.setA, Ctx.upd]
  exact SMap.get_set _ _ _ _ _

@[simp] theorem Ctx.sreg_setS (x : Ctx) (n m : Nat) (v : Desc) : (x.setS n v).sreg m = if m = n then v else x.sreg m := by
  simp only [Ctx.sreg, Ctx.setS, Ctx.upd]
  exact SMap.get_set _ _ _ _ _

@[simp] theorem Ctx.dreg_setCF (x : Ctx) (f : Flags) (n : Nat) : (x.setCF f).dreg n = x.dreg n := rfl
@[simp] theorem Ctx.cf_setCF (x : Ctx) (f : Flags) : (x.setCF f).regs.cf = f := rfl
@[simp] theorem Ctx.cf_setD (x : Ctx) (n : Nat) (v : Word) : (x.setD n v).regs.cf = x.regs.cf := rfl
@[simp] theorem Ctx.areg_setD (x : Ctx) (n m : Nat) (v : Word) : (x.setD n v).areg m = x.areg m := rfl
@[simp] theorem Ctx.dreg_setA (x : Ctx) (n m : Nat) (v : Word) : (x.setA n v).dreg m = x.dreg m := rfl
@[simp] theorem Ctx.cf_setA (x : Ctx) (n : Nat) (v : Word) : (x.setA n v).regs.cf = x.regs.cf := rfl

end Sys2Proof.Machine
end

