-- ==== Sys2Proof/Laws/Settle.lean ====
section
/-!
SUPPORT. What the end of a command (`State.done`) can change while no error line is about to rise and no watched line has been
hit: FCL_INT, FAULT_N and the King bound, and nothing else.
-/

namespace Sys2Proof.Machine

/-- The tables from which the error lines follow (R394). -/
def faultIds : List RegId :=
  [.fclFsw, .fclReact, .errLog, .pluErr, .lockbrk, .xferLog, .eccLog, .ptrLog, .cfsStat, .hpcErr]

/-- The tables that decide what waits and may go on: the host link, the domains, the pools, the routes' own node and the ports. -/
def waitIds : List RegId := [.hpuStat, .pdData, .poolData, .rtCtl, .dpData]

/-- `t` has the same causes of error lines, and the same hits, as `s`. -/
def SameFaults (s t : State) : Prop :=
  (∀ r : Reg, r.id ∈ faultIds → t.reg r = s.reg r) ∧ t.hostFault = s.hostFault ∧ t.ideFault = s.ideFault ∧
    t.inReset = s.inReset ∧ t.hits = s.hits

theorem SameFaults.refl (s : State) : SameFaults s s := ⟨fun _ _ => rfl, rfl, rfl, rfl, rfl⟩

theorem SameFaults.trans {s t u : State} (h : SameFaults s t) (g : SameFaults t u) : SameFaults s u :=
  ⟨fun r hr => (g.1 r hr).trans (h.1 r hr), g.2.1.trans h.2.1, g.2.2.1.trans h.2.2.1, g.2.2.2.1.trans h.2.2.2.1,
    g.2.2.2.2.trans h.2.2.2.2⟩

/-- A state that differs in neither registers nor the fault conditions. -/
theorem SameFaults.of_regs {s t : State} (h : t.regs = s.regs) (h1 : t.hostFault = s.hostFault)
    (h2 : t.ideFault = s.ideFault) (h3 : t.inReset = s.inReset) (h4 : t.hits = s.hits) : SameFaults s t :=
  ⟨fun r _ => by simp only [State.reg, h], h1, h2, h3, h4⟩

theorem SameFaults.setReg {s t : State} (h : SameFaults s t) {r : Reg} (v : Word) (hr : r.id ∉ faultIds) :
    SameFaults s (t.setReg r v) := by
  refine ⟨fun r' hr' => ?_, h.2⟩
  rw [State.reg_setReg_ne t v (show r' ≠ r from fun e => hr (by rw [← e]; exact hr'))]
  exact h.1 r' hr'

theorem SameFaults.put {s t : State} (h : SameFaults s t) {f : Field} (v : Nat) (hf : f.reg.id ∉ faultIds) :
    SameFaults s (t.put f v) := h.setReg _ hf

theorem SameFaults.putAll {s t : State} (l : List (Field × Nat)) (h : SameFaults s t)
    (hl : ∀ e ∈ l, e.1.reg.id ∉ faultIds) : SameFaults s (t.putAll l) := by
  induction l generalizing t with
  | nil => exact h
  | cons e r ih =>
    exact ih (h.put e.2 (hl e (by simp))) (fun x hx => hl x (by simp [hx]))

theorem SameFaults.get {s t : State} (h : SameFaults s t) {f : Field} (hf : f.reg.id ∈ faultIds) : t.get f = s.get f := by
  simp only [State.get, h.1 f.reg hf]

theorem SameFaults.on {s t : State} (h : SameFaults s t) {f : Field} (hf : f.reg.id ∈ faultIds) : t.on f = s.on f := by
  simp only [State.on, h.get hf]

theorem SameFaults.fltCause {s t : State} (h : SameFaults s t) (i : Nat) : t.fltCause i = s.fltCause i := by
  simp [State.fltCause, h.2.1, h.2.2.1, h.on (f := Fld.errLog.VALID i) (by simp [faultIds, Fld.errLog.VALID]),
    h.on (f := Fld.pluErr.VALID (i - 1)) (by simp [faultIds, Fld.pluErr.VALID]),
    h.on (f := Fld.lockbrk.VALID i) (by simp [faultIds, Fld.lockbrk.VALID]),
    h.on (f := Fld.lockbrk.VALID 30) (by simp [faultIds, Fld.lockbrk.VALID]),
    h.on (f := Fld.xferLog.MERR (i - 21)) (by simp [faultIds, Fld.xferLog.MERR]),
    h.on (f := Fld.eccLog.VALID) (by simp [faultIds, Fld.eccLog.VALID]),
    h.on (f := Fld.ptrLog.VALID) (by simp [faultIds, Fld.ptrLog.VALID]),
    h.on (f := Fld.hpcErr.VALID) (by simp [faultIds, Fld.hpcErr.VALID]),
    h.get (f := Fld.cfsStat.STATE) (by simp [faultIds, Fld.cfsStat.STATE])]

theorem SameFaults.rises {s t : State} (h : SameFaults s t) : t.rises = s.rises := by
  simp only [State.rises, State.fltLine, h.fltCause, h.2.2.2.1, h.1 ⟨.fclFsw, 0, 0⟩ (by simp [faultIds]),
    h.on (f := Fld.fclReact.HELD _) (show RegId.fclReact ∈ faultIds by simp [faultIds])]

/-- In `t` the same things wait, for the same reasons, as in `s`. -/
structure SameWaits (s t : State) : Prop where
  reg : ∀ r : Reg, r.id ∈ waitIds → t.reg r = s.reg r
  ctx : t.ctx = s.ctx
  sem : t.sem = s.sem
  xfer : t.xfer = s.xfer
  txn : t.txn = s.txn
  hreq : t.hreq = s.hreq
  disc : t.disc = s.disc
  atc : t.atc = s.atc
  atsEn : t.atsEn = s.atsEn
  bme : t.bme = s.bme
  d3hot : t.d3hot = s.d3hot

theorem SameWaits.refl (s : State) : SameWaits s s :=
  ⟨fun _ _ => rfl, rfl, rfl, rfl, rfl, rfl, rfl, rfl, rfl, rfl, rfl⟩

theorem SameWaits.setReg {s t : State} (h : SameWaits s t) {r : Reg} (v : Word) (hr : r.id ∉ waitIds) :
    SameWaits s (t.setReg r v) := by
  refine ⟨fun r' hr' => ?_, h.ctx, h.sem, h.xfer, h.txn, h.hreq, h.disc, h.atc, h.atsEn, h.bme, h.d3hot⟩
  rw [State.reg_setReg_ne t v (show r' ≠ r from fun e => hr (by rw [← e]; exact hr'))]
  exact h.reg r' hr'

theorem SameWaits.put {s t : State} (h : SameWaits s t) {f : Field} (v : Nat) (hf : f.reg.id ∉ waitIds) :
    SameWaits s (t.put f v) := h.setReg _ hf

theorem SameWaits.putAll {s t : State} (l : List (Field × Nat)) (h : SameWaits s t)
    (hl : ∀ e ∈ l, e.1.reg.id ∉ waitIds) : SameWaits s (t.putAll l) := by
  induction l generalizing t with
  | nil => exact h
  | cons e r ih =>
    exact ih (h.put e.2 (hl e (by simp))) (fun x hx => hl x (by simp [hx]))

theorem SameWaits.get {s t : State} (h : SameWaits s t) {f : Field} (hf : f.reg.id ∈ waitIds) : t.get f = s.get f := by
  simp only [State.get, h.reg f.reg hf]

theorem SameWaits.on {s t : State} (h : SameWaits s t) {f : Field} (hf : f.reg.id ∈ waitIds) : t.on f = s.on f := by
  simp only [State.on, h.get hf]

theorem SameWaits.selfNode {s t : State} (h : SameWaits s t) : t.selfNode = s.selfNode := by
  simp only [State.selfNode, h.get (f := Fld.rtCtl.DOMAIN) (by simp [waitIds, Fld.rtCtl.DOMAIN]),
    h.get (f := Fld.rtCtl.SELF) (by simp [waitIds, Fld.rtCtl.SELF])]

theorem SameWaits.domFunc {s t : State} (h : SameWaits s t) (d : Nat) : t.domFunc d = s.domFunc d := by
  simp only [State.domFunc, h.get (f := Fld.pdData.FUNC d) (by simp [waitIds, Fld.pdData.FUNC])]

theorem SameWaits.target {s t : State} (h : SameWaits s t) : t.target = s.target := by
  funext dom g off wr
  have e1 := h.get (f := Fld.poolData.PDOM g.pool) (by simp [waitIds, Fld.poolData.PDOM])
  have e2 := h.get (f := Fld.poolData.BACK_BASE g.pool) (by simp [waitIds, Fld.poolData.BACK_BASE])
  have e3 := h.on (f := Fld.poolData.EN g.pool) (by simp [waitIds, Fld.poolData.EN])
  have e4 := h.on (f := Fld.poolData.SHARE g.pool) (by simp [waitIds, Fld.poolData.SHARE])
  have e5 := h.get (f := Fld.poolData.BACKING g.pool) (by simp [waitIds, Fld.poolData.BACKING])
  have e6 := h.get (f := Fld.poolData.NODE g.pool) (by simp [waitIds, Fld.poolData.NODE])
  unfold State.target
  dsimp only
  rw [h.selfNode, e1, e2, e3, e4, e5, e6, h.domFunc, h.domFunc]

theorem SameWaits.shardAt {s t : State} (h : SameWaits s t) : t.shardAt = s.shardAt := by
  funext x d i p
  have e1 := h.get (f := Fld.dpData.DATA_BASE (sPort d i)) (by simp [waitIds, Fld.dpData.DATA_BASE])
  have e2 := h.get (f := Fld.dpData.NODE (sPort d i)) (by simp [waitIds, Fld.dpData.NODE])
  unfold State.shardAt
  dsimp only
  rw [h.selfNode, e1, e2]

theorem SameWaits.nextRead {s t : State} (h : SameWaits s t) : t.nextRead = s.nextRead := by
  funext x; simp only [State.nextRead, h.target, h.shardAt]

theorem SameWaits.pageLacks {s t : State} (h : SameWaits s t) : t.pageLacks = s.pageLacks := by
  funext g
  cases g <;> simp [State.pageLacks, State.hostOk, State.master, State.translated, State.atsOn, State.atcHit, h.atc, h.atsEn, h.bme, h.d3hot,
    h.on (f := Fld.hpuStat.LINK_UP) (by simp [waitIds, Fld.hpuStat.LINK_UP]),
    h.on (f := Fld.hpuStat.MODE) (by simp [waitIds, Fld.hpuStat.MODE])]

/-- The movers that can go on are the same. -/
theorem SameWaits.canGo {s t : State} (h : SameWaits s t) : t.canGo = s.canGo := by
  simp only [State.canGo, State.readsBehind, State.wantsRead, h.xfer, h.nextRead, h.pageLacks]

/-- The contexts whose device commands and descriptor reads wait to be issued are the same. -/
theorem SameWaits.stalled {s t : State} (h : SameWaits s t) : t.stalled = s.stalled := by
  simp only [State.stalled, State.liveCtx, State.cx, State.descOut, State.pendAcc, h.ctx, h.txn, h.hreq, h.xfer]

/-- The clear semaphore bits with waiters are the same. -/
theorem SameWaits.semFree {s t : State} (h : SameWaits s t) : t.semFree = s.semFree := by
  unfold State.semFree State.semBit
  rw [h.ctx, h.sem]

/-- A command that touches no cause of an error line and nothing that waits leaves the machine quiet. -/
theorem SameFaults.quiet {s t : State} (h : SameFaults s t) (w : SameWaits s t) (q : Quiet s) : Quiet t := by
  obtain ⟨q1, q2, q3, q4, q5, q6, q7, q8⟩ := q
  refine ⟨h.rises.trans q1, h.2.2.2.2.trans q2, w.semFree.trans q3, w.stalled.trans q4, ?_, ?_, w.canGo.trans q7, ?_⟩
  · rw [w.on (f := Fld.hpuStat.MODE) (by simp [waitIds, Fld.hpuStat.MODE]), w.hreq]; exact q5
  · rw [w.disc]; exact q6
  · rw [w.ctx]; exact q8

/-- In a quiet machine no read of host memory waits for a tag. -/
theorem Quiet.tagWait {s : State} (q : Quiet s) : s.tagWait = false := by
  unfold State.tagWait
  cases hm : s.on Fld.hpuStat.MODE
  · simp
  · have : (s.hreq.any fun e => e.2.held && (e.2.purp.ofPeer || s.readable e.2)) = false :=
      List.any_eq_false.2 fun e he => by simp [q.2.2.2.2.1 hm e he]
    simp [this]

/-- In a quiet machine no descriptor is about to be read. -/
theorem Quiet.discReady {s : State} (q : Quiet s) : s.discReady = [] := by
  unfold State.discReady
  rw [List.filter_eq_nil_iff.2, List.map_nil]
  intro e he
  simp [q.2.2.2.2.2.1 e he]

/-- In a quiet machine no request goes on by itself. -/
theorem State.retry_quiet {s : State} (q : Quiet s) : s.retry = s := by
  simp [State.retry, q.2.2.1, q.2.2.2.1, q.tagWait, q.discReady, q.2.2.2.2.2.2.1, forAll]

/-- `u` is `t` but for FCL_INT, the King bound with its source, and FAULT_N. -/
structure Calm (t u : State) : Prop where
  rest : u.besides = t.besides
  reg : ∀ r : Reg, r.id ≠ .kingStat → (r.id = .srcStat → r.i ≠ 0x10402 ∧ r.i ≠ 0x10407) → u.reg r = t.reg r

theorem Calm.refl (t : State) : Calm t t := ⟨rfl, fun _ _ _ => rfl⟩

theorem Calm.trans {s t u : State} (h : Calm s t) (g : Calm t u) : Calm s u :=
  ⟨g.rest.trans h.rest, fun r h1 h2 => (g.reg r h1 h2).trans (h.reg r h1 h2)⟩

theorem Calm.get {t u : State} (h : Calm t u) (f : Field) (h1 : f.reg.id ≠ .kingStat)
    (h2 : f.reg.id ≠ .srcStat ∨ (f.reg.i ≠ 0x10402 ∧ f.reg.i ≠ 0x10407)) : u.get f = t.get f := by
  simp only [State.get]
  rw [h.reg f.reg h1 (fun e => h2.resolve_left (fun n => n e))]

theorem Calm.put {t u : State} (h : Calm t u) {f : Field} (v : Nat)
    (hf : f.reg.id = .kingStat ∨ (f.reg.id = .srcStat ∧ (f.reg.i = 0x10402 ∨ f.reg.i = 0x10407))) :
    Calm t (u.put f v) := by
  refine ⟨h.rest, fun r h1 h2 => ?_⟩
  rw [State.reg_put_ne, h.reg r h1 h2]
  rintro rfl
  rcases hf with hf | ⟨hf, hi⟩
  · exact h1 hf
  · rcases hi with hi | hi
    · exact (h2 hf).1 hi
    · exact (h2 hf).2 hi

theorem Calm.misEp {t u : State} (h : Calm t u) (l : List Nat) : Calm t { u with misEp := l } :=
  ⟨h.rest, h.reg⟩

theorem Calm.raise {t u : State} (h : Calm t u) {src : Nat} (hs : src = 0x10402 ∨ src = 0x10407) :
    Calm t (u.raise src) := by
  unfold State.raise State.incSat
  apply Calm.put
  · unfold State.setPend
    split
    · exact h
    · exact Calm.misEp (h.put _ (Or.inr ⟨rfl, hs⟩)) _
  · exact Or.inr ⟨rfl, hs⟩

theorem Calm.fclInt {t u : State} (h : Calm t u) : Calm t u.fclInt := by
  unfold State.fclInt State.level
  split
  · split
    · exact h
    · exact h.raise (Or.inr rfl)
  · exact (h.put _ (Or.inr ⟨rfl, Or.inr rfl⟩)).put _ (Or.inr ⟨rfl, Or.inr rfl⟩)

theorem Calm.faultPin {t u : State} (h : Calm t u) : Calm t u.faultPin := by
  unfold State.faultPin
  split
  · split
    · exact h
    · exact ⟨h.rest, h.reg⟩
  · split
    · exact h
    · exact ⟨h.rest, h.reg⟩

theorem Calm.boundUpdate {t u : State} (h : Calm t u) : Calm t u.boundUpdate := by
  unfold State.boundUpdate
  simp only [State.putAll]
  have k1 : ∀ v, Calm t (u.put Fld.kingStat.FLOOR_LOW v) := fun v => h.put v (Or.inl rfl)
  generalize (if u.boundNow = true then boundPs u.kingStep else 0) = ps
  split
  · exact k1 _
  · refine Calm.raise ?_ (Or.inl rfl)
    exact ((k1 _).put (f := Fld.kingStat.BOUND_VALID) _ (Or.inl rfl)).put (f := Fld.kingStat.BOUND_PS) _ (Or.inl rfl)

/-- What follows a command when the machine is quiet. -/
theorem State.settle_quiet {s : State} (q : Quiet s) : Calm s s.settle := by
  have h1 : s.takeHits = s := by
    have hh := q.2.1
    simp only [State.takeHits, hh, forAll, List.foldl_nil]
    rw [← hh]
  have h2 : s.riseAll 64 = s := by
    show (match s.rises with | [] => s | rs => (s.rise rs).riseAll 63) = s
    rw [q.1]
  unfold State.settle
  rw [h1, State.retry_quiet q, h2, State.retry_quiet q]
  exact (Calm.refl s).fclInt.faultPin.boundUpdate

/-- A command that ends with `done` in a quiet machine answers what it has made but for what `Calm` names. -/
theorem State.done_of_quiet {t : State} (q : Quiet t) : ∃ u, t.done = .next u ∧ Calm t u := ⟨_, rfl, State.settle_quiet q⟩

/-- A command that ends with `done` answers a next state, and when the machine is quiet and the command touches no cause of an
error line and nothing that waits, that state is what the command made but for what `Calm` names. -/
theorem State.done_quiet {s t : State} (q : Quiet s) (h : SameFaults s t) (w : SameWaits s t) :
    ∃ u, t.done = .next u ∧ Calm t u := State.done_of_quiet (h.quiet w q)

/-- After reset nothing is about to happen. -/
theorem State.reset_quiet : Quiet State.reset := by unfold Quiet; decide

/-- A state whose registers are those of reset but for some fields that cause no error line, and where nothing waits. -/
theorem Quiet.of_puts {s : State} (l : List (Field × Nat)) (hr : s.regs = (State.reset.putAll l).regs)
    (hl : ∀ e ∈ l, e.1.reg.id ∉ faultIds) (h1 : s.hostFault = false := by rfl) (h2 : s.ideFault = false := by rfl)
    (h3 : s.inReset = [] := by rfl) (h4 : s.hits = [] := by rfl) (h5 : s.semFree = [] := by rfl)
    (h6 : s.stalled = [] := by rfl) (h7 : (s.hreq.all fun e => !e.2.held) = true := by rfl)
    (h8 : s.disc = [] := by rfl) (h9 : s.canGo = [] := by rfl)
    (h10 : (s.ctx.all fun e => !e.2.watchStop) = true := by rfl) : Quiet s := by
  have h := SameFaults.putAll l (SameFaults.refl State.reset) hl
  have g : SameFaults State.reset s := ⟨fun r hx => by rw [← h.1 r hx]; simp only [State.reg, hr], h1, h2, h3, h4⟩
  refine ⟨g.rises.trans State.reset_quiet.1, h4, h5, h6, fun _ e he => ?_, ?_, h9, fun e he => ?_⟩
  · simpa using List.all_eq_true.1 h7 e he
  · rw [h8]; exact fun _ h => absurd h (List.not_mem_nil)
  · simpa using List.all_eq_true.1 h10 e he

end Sys2Proof.Machine
end

