-- ==== Sys2Proof/Laws/Issue.lean ====
section
/-!
SUPPORT. What the front of an instruction does (`issue`, `simple`): an instruction that is ready executes its own operation on the
context with its locked sequence opened or ended, and retires; one whose context cannot issue changes nothing.
-/

namespace Sys2Proof.Machine

@[simp] theorem Ctx.seqFront_regs (x : Ctx) (op : Op) (h : Hdr) : (x.seqFront op h).regs = x.regs := by
  unfold Ctx.seqFront Ctx.endSeq; split <;> (try split) <;> rfl

theorem Ctx.seqFront_rest (x : Ctx) (op : Op) (h : Hdr) :
    x.seqFront op h = { x with seqCount := (x.seqFront op h).seqCount, lock := (x.seqFront op h).lock } := by
  unfold Ctx.seqFront Ctx.endSeq; split <;> (try split) <;> rfl

@[simp] theorem Ctx.seqFront_dreg (x : Ctx) (op : Op) (h : Hdr) (n : Nat) : (x.seqFront op h).dreg n = x.dreg n := by
  simp [Ctx.dreg]

@[simp] theorem Ctx.seqFront_areg (x : Ctx) (op : Op) (h : Hdr) (n : Nat) : (x.seqFront op h).areg n = x.areg n := by
  simp [Ctx.areg]

@[simp] theorem Ctx.seqFront_piece (x : Ctx) (op : Op) (h : Hdr) (n k : Nat) : (x.seqFront op h).piece n k = x.piece n k := by
  simp [Ctx.piece]

@[simp] theorem Ctx.seqFront_accVal (x : Ctx) (op : Op) (h : Hdr) (n : Nat) : (x.seqFront op h).accVal n = x.accVal n := by
  simp [Ctx.accVal]

@[simp] theorem Ctx.seqFront_src (x : Ctx) (op : Op) (h : Hdr) (a : Src) : (x.seqFront op h).src a = x.src a := by
  cases a <;> simp [Ctx.src]

@[simp] theorem Ctx.seqFront_loads (x : Ctx) (op : Op) (h : Hdr) : (x.seqFront op h).loads = x.loads := by
  rw [Ctx.seqFront_rest]

@[simp] theorem Ctx.seqFront_wait (x : Ctx) (op : Op) (h : Hdr) : (x.seqFront op h).wait = x.wait := by
  rw [Ctx.seqFront_rest]

/-- An instruction that is ready runs its own operation once. -/
theorem issue_ready {op : Op} {h : Hdr} {s : State} (k : State → Res) (hr : Ready op h s) :
    issue op h s k = k (s.setCx h.ctx.val ((s.cx h.ctx.val).seqFront op h)) := by
  obtain ⟨h1, h2, h3, h4, h5, -⟩ := hr
  simp [issue, h1, h2, h3, h4, h5, Ctx.waitsZ]

/-- An instruction whose context cannot issue changes nothing. -/
theorem issue_stuck {op : Op} {h : Hdr} {s : State} (k : State → Res) (hc : s.canIssue h.ctx.val = false) :
    issue op h s k = .next s := by
  simp [issue, hc]

/-- A context as an instruction that is ready finds it. -/
def State.front (s : State) (op : Op) (h : Hdr) : Ctx := (s.cx h.ctx.val).seqFront op h

/-- An instruction that only changes its context retires at once. -/
theorem simple_ready {op : Op} {h : Hdr} {s : State} (f : Ctx → Ctx) (hr : Ready op h s) :
    simple op h s f = .next (s.setCx h.ctx.val ((f (s.front op h)).retire h)) := by
  have h5 := hr.2.2.2.2.1
  unfold simple
  simp only [h5, beq_self_eq_true, if_true]
  rw [issue_ready _ hr]
  simp only [State.updCx, State.cx_setCx_same, Ctx.iterate, h5, State.front]
  congr 1
  simp [State.setCx, SMap.set_set]

end Sys2Proof.Machine
end

