-- ==== Sys2Proof/Laws/Retire.lean ====
section
/-!
SUPPORT. What retiring does to a context, and the spec lemmas of the register instructions: `alu`, `alu2`, `accOp`.
-/

namespace Sys2Proof.Machine

/-! ### Retiring -/

theorem Ctx.countSeq_rest (x : Ctx) (l : Bool) :
    x.countSeq l = { x with seqCount := (x.countSeq l).seqCount, lock := (x.countSeq l).lock } := by
  unfold Ctx.countSeq Ctx.endSeq
  split
  · rfl
  · split <;> rfl

@[simp] theorem Ctx.countSeq_regs (x : Ctx) (l : Bool) : (x.countSeq l).regs = x.regs := by rw [Ctx.countSeq_rest]
@[simp] theorem Ctx.countSeq_loads (x : Ctx) (l : Bool) : (x.countSeq l).loads = x.loads := by rw [Ctx.countSeq_rest]

@[simp] theorem Ctx.retire_regs (x : Ctx) (h : Hdr) : (x.retire h).regs =
    { x.regs with cpc := { x.regs.cpc with off := (x.regs.cpc.off + h.len) % 2 ^ 48 }, repOn := false } := by
  simp [Ctx.retire, Ctx.retireAt]

@[simp] theorem Ctx.retire_dreg (x : Ctx) (h : Hdr) (n : Nat) : (x.retire h).dreg n = x.dreg n := by simp [Ctx.dreg]
@[simp] theorem Ctx.retire_areg (x : Ctx) (h : Hdr) (n : Nat) : (x.retire h).areg n = x.areg n := by simp [Ctx.areg]
@[simp] theorem Ctx.retire_sreg (x : Ctx) (h : Hdr) (n : Nat) : (x.retire h).sreg n = x.sreg n := by simp [Ctx.sreg]
@[simp] theorem Ctx.retire_piece (x : Ctx) (h : Hdr) (n k : Nat) : (x.retire h).piece n k = x.piece n k := by simp [Ctx.piece]

theorem Ctx.retire_rest (x : Ctx) (h : Hdr) : x.retire h =
    { x with wait := .none, regs := (x.retire h).regs, seqCount := (x.retire h).seqCount, lock := (x.retire h).lock } := by
  unfold Ctx.retire Ctx.retireAt
  rw [Ctx.countSeq_rest]

/-- A context without what a retiring instruction may change. -/
def Ctx.bare (x : Ctx) : Ctx := { x with regs := {}, loads := [], seqCount := none, lock := none }

theorem Ctx.of_bare {x y : Ctx} (h : y.bare = x.bare) :
    y = { x with regs := y.regs, loads := y.loads, seqCount := y.seqCount, lock := y.lock } := by
  have h2 : ∀ (r : CtxRegs) (l : List Load) (q : Option Nat) (k : Option Resource),
      ({ y.bare with regs := r, loads := l, seqCount := q, lock := k } : Ctx) =
        { x.bare with regs := r, loads := l, seqCount := q, lock := k } := by intro r l q k; rw [h]
  exact h2 y.regs y.loads y.seqCount y.lock

@[simp] theorem Ctx.bare_seqFront (x : Ctx) (op : Op) (h : Hdr) : (x.seqFront op h).bare = x.bare := by
  rw [Ctx.seqFront_rest]; rfl

theorem Ctx.bare_retire (x : Ctx) (h : Hdr) (hw : x.wait = .none) : (x.retire h).bare = x.bare := by
  rw [Ctx.retire_rest]; simp [Ctx.bare, hw]

@[simp] theorem Ctx.bare_upd (x : Ctx) (f : CtxRegs → CtxRegs) : (x.upd f).bare = x.bare := rfl
@[simp] theorem Ctx.bare_setD (x : Ctx) (n : Nat) (v : Word) : (x.setD n v).bare = x.bare := rfl
@[simp] theorem Ctx.bare_setA (x : Ctx) (n : Nat) (v : Word) : (x.setA n v).bare = x.bare := rfl
@[simp] theorem Ctx.bare_setS (x : Ctx) (n : Nat) (v : Desc) : (x.setS n v).bare = x.bare := rfl
@[simp] theorem Ctx.bare_setCF (x : Ctx) (f : Flags) : (x.setCF f).bare = x.bare := rfl
@[simp] theorem Ctx.bare_setZC (x : Ctx) (z c : Bool) : (x.setZC z c).bare = x.bare := rfl
@[simp] theorem Ctx.bare_setPiece (x : Ctx) (n k : Nat) (v : Word) : (x.setPiece n k v).bare = x.bare := rfl
@[simp] theorem Ctx.bare_setAcc (x : Ctx) (n v : Nat) : (x.setAcc n v).bare = x.bare := by
  simp only [Ctx.setAcc, Ctx.bare_setPiece]

/-- An instruction that changed only restorable registers and loads, and retires. -/
theorem Ctx.retired {x y : Ctx} {h : Hdr} (hw : x.wait = .none) (hy : y.bare = x.bare) (hc : y.regs.cpc = x.regs.cpc) :
    Retired h x (y.retire h) := by
  have hyw : y.wait = .none := by
    have h0 : y.bare.wait = x.bare.wait := congrArg Ctx.wait hy
    exact Eq.trans h0 hw
  have h1 := Ctx.of_bare ((Ctx.bare_retire y h hyw).trans hy)
  have h2 : (y.retire h).regs.cpc = { x.regs.cpc with off := (x.regs.cpc.off + h.len) % 2 ^ 48 } := by
    rw [Ctx.retire_regs, hc]
  exact And.intro h1 h2

/-- A context that can issue waits for nothing. -/
theorem State.canIssue_wait {s : State} {c : Nat} (h : s.canIssue c = true) : (s.cx c).wait = .none := by
  simp only [State.canIssue, Bool.and_eq_true, beq_iff_eq] at h
  exact h.1.1.1.1.1.2

theorem Ready.wait {op : Op} {h : Hdr} {s : State} (hr : Ready op h s) : (s.cx h.ctx.val).wait = .none :=
  State.canIssue_wait hr.1

/-- Writing one context changes nothing else. -/
theorem OnlyCtx.setCx (s : State) (c : Nat) (x : Ctx) : OnlyCtx c s (s.setCx c x) :=
  ⟨rfl, fun _ hc => State.cx_setCx_ne s x hc⟩

/-- Readiness is only a matter of what the instruction reads and of its prefixes. -/
theorem Ready.mono {op op' : Op} {h : Hdr} {s : State} (hr : Ready op h s)
    (hp : izBadAt op' h = izBadAt op h) (hcl : op'.cls = op.cls) (hrd : ∀ n ∈ op'.rd, n ∈ op.rd) (hcf : op'.cf = true → op.cf = true)
    (hacc : ∀ n ∈ op'.acc, n ∈ op.acc) (hs : op'.stop = true → op.stop = true) : Ready op' h s := by
  obtain ⟨h1, h2, h3, h4, h5, h6⟩ := hr
  refine ⟨h1, ?_, ?_, ?_, h5, h6⟩
  · simpa only [fetchCheck, hp, hcl] using h2
  · simp only [State.interlocked, Bool.or_eq_false_iff, List.any_eq_false, Bool.and_eq_false_iff] at h3 ⊢
    refine ⟨⟨fun n hn => h3.1.1 n (hrd n hn), ?_⟩, fun n hn => h3.2 n (hacc n hn)⟩
    rcases h3.1.2 with h | h
    · left; cases hh : op'.cf with
      | false => rfl
      | true => rw [hcf hh] at h; exact h
    · exact .inr h
  · cases hh : op'.stop with
    | false => cases ho : op.stop <;> simp_all
    | true => rw [hs hh] at h4; exact h4

/-! ### Register instructions -/

/-- `alu`: Dx and CF, at the operand width. -/
theorem alu_ready {h : Hdr} {d : Fin 16} {src : Src} {s : State} (u wr : Bool) (f : Flags → Nat → Word → Word → AluOut)
    (hr : Ready (opWNPL (d.val :: usesSrc src) true) h s) :
    let r := f (s.cx h.ctx.val).regs.cf (widthBits h.width) ((s.cx h.ctx.val).dreg d.val) ((s.cx h.ctx.val).src src)
    alu h d src u s f wr = .next (s.setCx h.ctx.val
      ((((if wr then (s.front (opWNPL []) h).setD d.val r.val else s.front (opWNPL []) h)).setCF r.cf).retire h)) := by
  have hr' : Ready (opWNPL (d.val :: usesSrc src) u) h s :=
    hr.mono rfl rfl (fun _ h => h) (fun _ => rfl) (fun _ h => h) (fun h => h)
  simp only [alu, simple_ready _ hr', State.front, Ctx.seqFront_regs, Ctx.seqFront_dreg, Ctx.seqFront_src]
  rfl

end Sys2Proof.Machine
end

