-- ==== Sys2Proof/Laws/Segments.lean ====
section
/-!
SUPPORT. What the shared operations on segments, transfers' output and register writes do: one lemma each for the case
that every ordinary run takes.
-/

namespace Sys2Proof.Machine

/-- With no change of a domain's entry pending, what sees the domain sees its entry. -/
theorem State.seePd_settled {α : Type} (s : State) (d : Nat) (k : State → α) (f : α → (State → State) → α)
    (h : ∀ o ∈ s.pdOld, o.dom ≠ d) : s.seePd d k f = k s := by
  have hn : s.pdOld.find? (fun o => o.dom == d) = none := by
    simpa [List.find?_eq_none] using h
  simp [State.seePd, hn]

/-- A cached descriptor is what a lookup answers, and nothing changes. -/
theorem State.lookup_hit (s : State) (dom sel : Nat) (g : Desc)
    (h : s.segCache.find? (fun e => e.1 == segKey dom sel) = some (segKey dom sel, g)) :
    s.lookup dom sel = (some g, s) := by
  simp [State.lookup, h]

/-- With no overlap a transfer's write puts its own bytes. -/
@[simp] theorem State.putOut_calm (s : State) (bs : List Byte) : s.putOut false bs = bs := rfl
/-- With no overlap no free value is drawn. -/
@[simp] theorem State.putTaken_calm (s : State) : s.putTaken false = s := rfl

/-- A command that has answered a next state goes on from it. -/
@[simp] theorem andThen_next (s : State) (k : State → Res) : andThen (.next s) k = k s := rfl
/-- A command that has stopped stays stopped. -/
@[simp] theorem andThen_fault (e : Fault) (k : State → Res) : andThen (.fault e) k = .fault e := rfl

/-- A value that its table allows is stored, and what follows from it happens. -/
theorem State.storeOk_good (s : State) (r : Reg) (v : Nat) (h : regBad r v = none) :
    s.storeOk r v = (s.setReg r (wordOf v)).done := by
  simp [State.storeOk, State.store, h]

/-- A value that its table calls unpredictable stops the write by name. -/
theorem State.storeOk_bad (s : State) (r : Reg) (v rule : Nat) (h : regBad r v = some rule) :
    s.storeOk r v = .fault (.unpredictable rule) := by
  simp [State.storeOk, h]

/-- A write with a reserved bit set is unpredictable at every register. -/
theorem State.writeReg_reserved (s : State) (r : Reg) (m x : Nat) (h : reservedSet r m x = true) :
    s.writeReg r m x = .fault (.unpredictable 14) := by
  simp [State.writeReg, h]

end Sys2Proof.Machine
end

