-- ==== Sys2Proof/WellFormed.lean ====
section
/-!
DEFINITION. Which commands are well formed: operands that the spec's formats can carry. Nothing in the machine rests on it.
-/

namespace Sys2Proof

/-- An instruction's length, and no prefix without a prefix block (R135, R137, R143). -/
def Hdr.wf (h : Hdr) : Bool :=
  decide (h.len ≤ 12) &&
    (if h.blk then decide (3 ≤ h.len)
     else decide (1 ≤ h.len) && h.width == .w64 && h.rpt == .once && h.spec == .plain && !h.lock && !h.king)

/-- A displacement is at most 32 bits, sign-extended, and NSEL stands only with NIB (R136, R140). -/
def Mem.wf (m : Mem) (h : Hdr) : Bool :=
  ((m.disp.setWidth 32).signExtend 64 == m.disp) && (!m.nsel || h.width == .w4)

/-- A skip transfer names no destination and no segment register of one (R142). -/
def XOpnd.wf (x : XOpnd) : Bool := x.dst.isSome || x.dseg.isNone

/-- A packet's fields fit its header, and its payload is LEN words (R271, R273). -/
def Pkt.wf (p : Pkt) : Bool :=
  decide (1 ≤ p.type ∧ p.type < 240 ∧ p.vc < 4 ∧ p.hops < 16 ∧ p.dst < 65536 ∧ p.src < 65536 ∧ p.tag < 4096 ∧
    p.addr < 2 ^ 46 ∧ p.len < 256 ∧ p.fbe < 16 ∧ p.lbe < 16 ∧ p.cst < 256 ∧ p.woff < 128 ∧ p.attr < 4 ∧ p.resv < 16 ∧
    p.aux < 2 ^ 46 ∧ (p.flags.getD 0) < 16) &&
    p.data.length == (if p.type / 64 % 2 = 1 then 4 * p.len else 0)

/-- A read of host memory returns at most 4 KiB. -/
def ReadResult.wf : ReadResult → Bool
  | .data b => decide (b.length ≤ 4096)
  | .error => true
  | .poison b => decide (b.length ≤ 4096)

/-- An access is of 1, 2, 4 or 8 bytes at a multiple of its size; a register takes 4 or 8 (R15). -/
def accessWf (off bytes : Nat) : Bool := (bytes == 1 || bytes == 2 || bytes == 4 || bytes == 8) && off % bytes == 0

/-- A command is well formed. -/
def Instr.wf : Instr → Bool
  | .doorbell _ _ _ => true
  | .kingPipeDecision => true
  | .generalPipeDecision => true
  | .entryReturn _ _ => true
  | .hostReadCompletion _ r => r.wf
  | .ringAccessFailure _ _ _ _ => true
  | .completionWrite _ => true
  | .enableQ _ _ => true
  | .drainQ _ _ => true
  | .drainAbort _ _ => true
  | .suspend _ _ => true
  | .resume _ _ => true
  | .resetQ _ _ => true
  | .grpWrite _ _ => true
  | .clrForeign => true
  | .functionLevelReset _ => true
  | .flrComplete _ => true
  | .registerWrite _ off bytes val => accessWf off bytes && decide (val.toNat < 2 ^ (8 * bytes))
  | .arbiterWindowStart _ => true
  | .arbiterDecision _ reqs _ => decide reqs.Nodup
  | .qscCommit => true
  | .fxbCommit => true
  | .dmgCommit _ => true
  | .eicCommit => true
  | .kstSwap => true
  | .clrOverq => true
  | .chessClockFlagFall _ => true
  | .stalemateScan _ => true
  | .pgmStatClr _ => true
  | .nop h => h.wf
  | .halt h => h.wf
  | .post h _ _ => h.wf
  | .spt h => h.wf
  | .ret h => h.wf
  | .call h _ => h.wf
  | .jmp h _ => h.wf
  | .jcc h _ _ => h.wf
  | .tic h _ => h.wf
  | .callf h _ => h.wf
  | .mov h _ _ => h.wf
  | .ld h _ m => h.wf && m.wf h
  | .ldi h _ m _ => h.wf && m.wf h
  | .st h m _ => h.wf && m.wf h
  | .sti h m _ _ => h.wf && m.wf h
  | .mova h _ _ => h.wf
  | .movd h _ _ => h.wf
  | .adda h _ _ => h.wf
  | .suba h _ _ => h.wf
  | .cmpa h _ _ => h.wf
  | .lds h _ _ => h.wf
  | .segmentTableRead _ _ _ => true
  | .movs h _ _ => h.wf
  | .movsCf h _ => h.wf
  | .xchg h _ _ => h.wf
  | .add h _ _ => h.wf
  | .adc h _ _ => h.wf
  | .sub h _ _ => h.wf
  | .sbb h _ _ => h.wf
  | .andI h _ _ => h.wf
  | .orI h _ _ => h.wf
  | .xorI h _ _ => h.wf
  | .cmp h _ _ => h.wf
  | .testI h _ _ => h.wf
  | .neg h _ => h.wf
  | .notI h _ => h.wf
  | .shl h _ _ => h.wf
  | .shr h _ _ => h.wf
  | .sar h _ _ => h.wf
  | .rol h _ _ => h.wf
  | .ror h _ _ => h.wf
  | .mul h _ _ => h.wf
  | .mulu h _ _ => h.wf
  | .div h _ _ => h.wf
  | .divu h _ _ => h.wf
  | .productLands _ => true
  | .quotientLands _ => true
  | .minI h _ _ => h.wf
  | .maxI h _ _ => h.wf
  | .minu h _ _ => h.wf
  | .maxu h _ _ => h.wf
  | .sext h _ _ => h.wf
  | .zext h _ _ => h.wf
  | .popc h _ _ => h.wf
  | .clz h _ _ => h.wf
  | .ctz h _ _ => h.wf
  | .bswap h _ _ => h.wf
  | .btst h _ => h.wf
  | .bset h _ => h.wf
  | .bclr h _ => h.wf
  | .bnot h _ => h.wf
  | .bld h _ _ => h.wf
  | .bst h _ _ => h.wf
  | .sema h _ => h.wf
  | .semr h _ => h.wf
  | .semt h _ => h.wf
  | .waitb h _ _ _ => h.wf
  | .twaitb h _ _ _ => h.wf
  | .bitWaitSatisfied _ => true
  | .waitTimeout _ => true
  | .bind h _ => h.wf
  | .unbind h => h.wf
  | .drd h _ _ => h.wf
  | .dwr h _ _ => h.wf
  | .dcmd h _ _ => h.wf
  | .dcmdC h _ => h.wf
  | .waitc h _ => h.wf
  | .xfer h x => h.wf && x.wf
  | .xfert h x _ => h.wf && x.wf
  | .waitx h _ => h.wf
  | .balloc h _ _ _ => h.wf
  | .bfree h _ => h.wf
  | .stripe h m _ => h.wf && m.wf h
  | .gather h m _ => h.wf && m.wf h
  | .accclr h _ => h.wf
  | .accadd h _ _ => h.wf
  | .acccnt h _ _ => h.wf
  | .accmin h _ _ => h.wf
  | .accmax h _ _ => h.wf
  | .accminu h _ _ => h.wf
  | .accmaxu h _ _ => h.wf
  | .crcstep h _ _ => h.wf
  | .fold h _ _ => h.wf
  | .movdAcc h _ _ => h.wf
  | .movacc h _ _ => h.wf
  | .ext h _ _ _ _ => h.wf
  | .checkpointRetire _ => true
  | .squashComplete _ => true
  | .horizonExpiry _ => true
  | .snoop _ _ => true
  | .gbtClr _ => true
  | .invalidation _ _ _ _ _ => true
  | .invalidationComplete => true
  | .atsInvalidation _ _ => true
  | .atsInvalidationComplete _ _ => true
  | .translationResponse _ _ _ => true
  | .transferAdmit _ => true
  | .transferSpill _ => true
  | .laneGrant _ => true
  | .transferComplete _ _ => true
  | .transferFailure _ _ _ _ _ => true
  | .groupClockGate _ => true
  | .ballocWaitExpiry _ => true
  | .freeRingRefill _ ix => decide (ix.length ≤ 16)
  | .bpmHfree _ => true
  | .poolEnable _ => true
  | .poolDisable _ => true
  | .linkEnable _ => true
  | .linkDisable _ => true
  | .linkHold _ => true
  | .linkHoldClear _ => true
  | .linkRetrain _ => true
  | .pluClrCnt _ => true
  | .linkTrained _ _ => true
  | .trainingTimeout _ => true
  | .peerTimeout _ => true
  | .initTimeout _ => true
  | .retryHoldExpiry _ => true
  | .lidResend _ => true
  | .lid _ _ => true
  | .lcap _ _ => true
  | .linit _ _ => true
  | .lasn _ _ => true
  | .lcrd _ _ => true
  | .lcrdDue _ _ => true
  | .linkLoss _ => true
  | .routeSwap => true
  | .fabricReady => true
  | .mrd _ p => p.wf
  | .mwr _ p => p.wf
  | .mwrn _ p => p.wf
  | .dcmdPacket _ p => p.wf
  | .supd _ p => p.wf
  | .xreq _ p => p.wf
  | .cpl _ p => p.wf
  | .cpld _ p => p.wf
  | .xrsp _ p => p.wf
  | .transactionTimeout _ => true
  | .txnStatClr => true
  | .extCntClr => true
  | .dpDataWrite _ _ => true
  | .portRemove _ => true
  | .portRestore _ => true
  | .hostLinkUp _ _ => true
  | .hostLinkDown => true
  | .hostRetrain => true
  | .hpuStatClr => true
  | .cacheEnableWrite _ => true
  | .busMasterEnableChange _ _ => true
  | .vfEnableClear => true
  | .atsEnableClear _ => true
  | .dStateChange _ _ => true
  | .ideFailure => true
  | .msixUnmask _ _ => true
  | .apertureAccess _ n w => w.all fun l => l.length == n.val
  | .bankGrant _ _ _ _ => true
  | .bankRelease _ _ _ => true
  | .bankHandover _ _ _ _ _ => true
  | .bankReleaseComplete => true
  | .testStep _ _ => true
  | .spmStatClr => true
  | .fifoPush _ _ _ _ data => decide (data.length ≤ 512)
  | .fifoPop _ _ _ _ => true
  | .fifoPeek _ _ => true
  | .groupPop _ _ _ _ => true
  | .fifoMark _ _ => true
  | .fifoRewind _ _ => true
  | .fifoRelease _ _ => true
  | .fifoReset _ => true
  | .fifoEnable _ => true
  | .fifoCntClr _ => true
  | .xoffHoldExpiry _ => true
  | .hardwareFault _ _ _ _ _ => true
  | .eicSelect _ => true
  | .recordIssue _ _ => true
  | .moderationExpiry _ => true
  | .recordWriteError _ _ _ _ => true
  | .srcRaise _ => true
  | .srcAck _ => true
  | .srcClear _ => true
  | .srcCfgWrite _ _ => true
  | .eqDb _ _ => true
  | .eventQueueEnable _ => true
  | .eventQueueDisable _ => true
  | .coreEqEnable _ => true
  | .eicStatClr => true
  | .fswClear _ => true
  | .blockResetComplete _ => true
  | .faultPinHoldExpiry => true
  | .heldRelease _ => true
  | .reactClrCnt _ => true
  | .mailboxGo _ => true
  | .mailboxAbort _ => true
  | .mailboxSelect => true
  | .firmwareRestart => true
  | .info _ => true
  | .echo _ => true
  | .grpList _ => true
  | .queueSet _ => true
  | .queueGet _ => true
  | .queueCmd _ _ => true
  | .domGet _ => true
  | .segSet _ => true
  | .segGet _ data => data.all fun l => l.length == 32
  | .evqSet _ => true
  | .srcSet _ => true
  | .keyLoad _ => true
  | .keyClear _ => true
  | .bufFree _ => true
  | .poolGet _ => true
  | .portGet _ => true
  | .libInfo _ => true
  | .expertUnlock _ => true
  | .expertLock _ => true
  | .grpAssign _ => true
  | .domSet _ => true
  | .evqAssign _ => true
  | .portPropose _ _ => true
  | .portSet _ => true
  | .poolSet _ => true
  | .extSet _ => true
  | .bankSet _ _ => true
  | .fifoSet _ => true
  | .linkSet _ => true
  | .libInstall _ => true
  | .cfgStage _ img => img.all fun l => decide (l.length < 2 ^ 32)
  | .cfgCastle _ => true
  | .cfgRollback _ => true
  | .cfgStatus _ => true
  | .fwUpdate _ img => img.all fun l => decide (l.length < 2 ^ 32)
  | .marginStatus _ => true
  | .marginDefer _ => true
  | .marginAccept _ => true
  | .marginRollBack _ => true
  | .lifeReport _ => true
  | .slotRead _ => true
  | .slotOn _ => true
  | .slotOff _ => true
  | .slotCancel _ => true
  | .slotClear _ => true
  | .slotLed _ => true
  | .rcvInfo => true
  | .rcvLoad img => img.all fun l => decide (l.length < 2 ^ 32)
  | .rcvFlash img => img.all fun l => decide (l.length < 2 ^ 32)
  | .rcvOwnerKey => true
  | .rcvReset => true
  | .blockSwitch _ => true
  | .castlingCommit => true
  | .castlingFlagFall => true
  | .rollbackFlagFall => true
  | .romBoot _ => true
  | .bootWatchdogExpiry => true
  | .fwReady => true
  | .getVersion => true
  | .getCapabilities => true
  | .negotiateAlgorithms => true
  | .getDigests => true
  | .getCertificate _ => true
  | .challenge _ => true
  | .getMeasurements _ => true
  | .keyExchange _ => true
  | .finish => true
  | .heartbeat => true
  | .keyUpdate => true
  | .endSession => true
  | .engineClockGate _ => true
  | .enginePowerGate _ => true
  | .engineOff _ => true
  | .engineWakeComplete _ => true
  | .dozeEntry => true
  | .sleepReq => true
  | .sleepEntry => true
  | .sleepL2Timeout => true
  | .wakeEvent _ => true
  | .wakeComplete _ => true
  | .vddStep => true
  | .eclkStep _ => true
  | .avsbusFailure => true
  | .throttleStep _ => true
  | .thermalTrip => true
  | .measurement _ => true
  | .replanTimer => true
  | .sgpioFrame _ _ _ => true
  | .i3cIbi _ _ _ _ => true
  | .i3cPoll _ _ _ _ => true
  | .i3cOutputRefresh _ _ _ _ => true
  | .windowExpiry _ => true
  | .offGraceExpiry _ => true
  | .poweringTimer _ => true
  | .coldReset => true
  | .pwrGoodFall => true
  | .resetRelease => true
  | .pllLock => true
  | .glbResetChip _ => true
  | .chipReset => true
  | .bootStart => true
  | .tapReset => true
  | .undefinedOpcode _ bytes => decide (1 ≤ bytes.length ∧ bytes.length ≤ 12)
  | .flitCrcError _ => true
  | .malformedWordArrival _ _ => true
  | .pwrGoodRise => true
  | .pwrGoodHoldExpiry => true
  | .ideKm key => key.all fun k => k.length == 32
  | .doeError dwords => decide (dwords > 1024)
  | .extest _ => true
  | .expertWindowRead _ off bytes => accessWf off bytes

end Sys2Proof
end

