-- ==== Sys2Proof/Tests/Slice0.lean ====
section
/-!
SUPPORT. The model's own tests: ill-formed commands that WellFormed refuses, worked encodings of the spec, single steps on small
states, and a witness for the hypotheses of each statement.
-/

namespace Sys2Proof.Tests

open Sys2Proof Sys2Proof.Machine

set_option Elab.async false

/-- A program segment. -/
def seg0 : Desc := { live := true, r := true, w := true, x := true, limit := 4096, base := 65536 }

/-- A context that runs: context 0, of queue 16, with its program at offset 0. -/
def ctx0 : Ctx := { live := true, started := true, qid := 16, regs := { cpc := { sel := 1, seg := seg0 } } }

/-- A machine with some register fields set, and with a context. -/
def stR (l : List (Field × Nat)) (x : Ctx) : State := { State.reset with boot := .ready, ctx := [(0, x)], regs := (State.reset.putAll l).regs }

/-- A machine with that context. -/
def st0 : State := stR [] ctx0

/-- A header of an instruction of that context. -/
def h0 : Hdr := { ctx := 0, len := 4 }

/-! ### Ill-formed commands, which WellFormed refuses, each by one of its checks -/

theorem test_wf_len : (Instr.nop { ctx := 0, len := 13 }).wf = false ∧ (Instr.nop { ctx := 0, len := 0 }).wf = false ∧ (Instr.nop { ctx := 0, len := 12 }).wf = true := by decide
theorem test_wf_block : (Instr.nop { ctx := 0, len := 2, blk := true }).wf = false ∧ (Instr.mov { ctx := 0, len := 3, width := .w8 } 0 (.reg 1)).wf = false ∧
    (Instr.mov { ctx := 0, len := 3, lock := true } 0 (.reg 1)).wf = false ∧ (Instr.mov { ctx := 0, len := 4, blk := true, width := .w8 } 0 (.reg 1)).wf = true := by decide
theorem test_wf_disp : (Instr.ld { ctx := 0, len := 7 } 0 { a := 1, disp := 0x80000000 }).wf = false ∧ (Instr.ld { ctx := 0, len := 7 } 0 { a := 1, disp := 0x7FFFFFFF }).wf = true := by decide
theorem test_wf_nsel : (Instr.ld { ctx := 0, len := 3 } 0 { a := 1, nsel := true }).wf = false := by decide
theorem test_wf_skip : (Instr.xfer { ctx := 0, len := 4 } { dst := none, src := 1, cnt := 2, dseg := some 3 }).wf = false := by decide
theorem test_wf_packet : (Instr.mrd 0 { type := 0, vc := 0, dst := 1, src := 2 }).wf = false ∧ (Instr.mrd 0 { type := 1, vc := 4, dst := 1, src := 2 }).wf = false ∧
    (Instr.mrd 0 { type := 1, vc := 0, dst := 0x10000, src := 2 }).wf = false ∧ (Instr.mrd 0 { type := 1, vc := 0, dst := 1, src := 2, len := 0x100 }).wf = false ∧
    (Instr.mwr 0 { type := 0x41, vc := 0, dst := 1, src := 2, len := 2, data := [0] }).wf = false ∧ (Instr.mrd 0 { type := 1, vc := 0, dst := 1, src := 2 }).wf = true := by decide
theorem test_wf_access : (Instr.registerWrite .pf 0x4 8 0).wf = false ∧ (Instr.registerWrite .pf 0x6 3 0).wf = false ∧ (Instr.registerWrite .pf 0x4 4 (2 ^ 32)).wf = false ∧
    (Instr.expertWindowRead .pf 0x2 4).wf = false ∧ (Instr.registerWrite .pf 0x4 4 5).wf = true := by decide
theorem test_wf_reqs : (Instr.arbiterDecision { kind := 0, i := 0 } [1, 2, 1] 0).wf = false := by decide
theorem test_wf_refill : (Instr.freeRingRefill 0 (List.replicate 17 0)).wf = false := by decide +kernel
theorem test_wf_aperture : (Instr.apertureAccess 0 4 (some [1, 2])).wf = false := by decide
theorem test_wf_push : (Instr.fifoPush 0 0 0 0 (List.replicate 513 0)).wf = false := by decide +kernel
theorem test_wf_entries : (Instr.segGet 0 (some [1])).wf = false := by decide
theorem test_wf_read : (Instr.hostReadCompletion 0 (.data (List.replicate 4097 0))).wf = false := by decide +kernel
theorem test_wf_image (l : List Byte) (h : 2 ^ 32 ≤ l.length) : (Instr.cfgStage 0 (some l)).wf = false ∧ (Instr.fwUpdate 0 (some l)).wf = false ∧
    (Instr.rcvLoad (some l)).wf = false ∧ (Instr.rcvFlash (some l)).wf = false := by
  have g : decide (l.length < 2 ^ 32) = false := decide_eq_false (by omega)
  exact ⟨g, g, g, g⟩
theorem test_wf_bytes : (Instr.undefinedOpcode 0 []).wf = false ∧ (Instr.undefinedOpcode 0 (List.replicate 13 0)).wf = false := by decide
theorem test_wf_key : (Instr.ideKm (some [1])).wf = false ∧ (Instr.doeError 1024).wf = false := by decide

/-! ### The worked encodings of chapter 5: each row's bytes form a defined instruction, and the two examples of R144 and R138 -/

/-- The bytes at offset 0 of a segment of 4 KiB, with EXT2 bound. -/
def izAt (b : List Byte) (limit : Nat := 4096) : Option Nat := ({ bytes := b, off := 0, limit := limit, bound := fun n => n == 2 } : IzEnv).decode
theorem test_iz_rows : ∀ b ∈ [[0x80, 0x00], [0x31, 0x60, 0x04], [0x7E, 0x11, 0x03, 0x02], [0x10, 0x09], [0x52, 0x60, 0x01], [0x11, 0xF5], [0x03, 0x60, 0x41], [0x02], [0x82, 0x80, 0x04, 0x00],
      [0x33, 0x90, 0x01], [0xE0, 0x03, 0x32, 0x30, 0x91, 0x02, 0x10], [0xE0, 0x04, 0x32, 0x40, 0x55, 0x03], [0xFA, 0x45, 0x03, 0x01]], izAt b = none := by decide +kernel
theorem test_iz_bad : izAt [0xE0, 0x04, 0x33, 0x40, 0x55, 0x03] = some 0x11 ∧ izAt [0xE0, 0x2B, 0x30, 0x12] = some 0x11 ∧ izAt [0xE0, 0x2B, 0x30, 0x12] 2 = some 0x11 ∧
    izAt [0xE0, 0x2B, 0x30, 0x12] 1 = some 0x20 ∧ izAt [0xFB, 0x45, 0x03, 0x01] = some 0x10 ∧ izAt [0x31, 0x60, 0x04] 2 = some 0x20 := by decide +kernel

/-! ### Bank owners in a version (R373, log entry 82) -/

theorem test_bank_owner : let v : Ver := { banks := [(3, 0x4000)] }
    let s := State.reset.putAll [(Fld.bankOwn.STATE 5, 1), (Fld.bankOwn.OWNER 5, 0x6000)]
    (s.spmBegin v).get (Fld.bankOwn.STATE 5) = 2 ∧ ((s.spmBegin v).takeSpm v).get (Fld.bankOwn.OWNER 3) = 0x4000 ∧
    ((s.spmBegin v).takeSpm v).get (Fld.bankOwn.STATE 3) = 1 ∧ ((s.spmBegin v).takeSpm v).get (Fld.bankOwn.STATE 5) = 0 ∧
    ((s.spmBegin v).spmBack).get (Fld.bankOwn.STATE 5) = 1 := by decide +kernel
/-- Hypotheses of StepRunsTheFrontCommandOrOneCyclePasses. -/
theorem test_step_front : ({ State.reset with pending := [.clrForeign, .clrOverq] } : State).pending = .clrForeign :: [.clrOverq] := by
  decide
/-- Hypotheses of StepRunsTheFrontCommandOrOneCyclePasses. -/
theorem test_idle : State.reset.pending = [] := rfl

/-- Hypotheses of ShiftResults, and of ArithmeticAndLogicResults. -/
theorem test_ready_alu : Ready { w := true, nib := true, rep := true, lock := true, rd := [0, 1], cf := true } h0 st0 := by
  unfold Ready; decide +kernel
theorem test_ready_shift : Ready { w := true, nib := true, rep := true, lock := true, rd := [0, 1] } h0 st0 := by
  unfold Ready; decide +kernel

/-- Hypotheses of MinMaxExtendAndCountResults, with the widths that its clauses ask for. -/
theorem test_ready_minmax : Ready { w := true, nib := true, rep := true, lock := true, rd := [0, 1] }
    { h0 with blk := true, width := .w16 } st0 ∧ ({ h0 with blk := true, width := .w16 } : Hdr).width ≠ .w64 ∧
    ({ h0 with blk := true, width := .w16 } : Hdr).width ≠ .w8 ∧ ({ h0 with blk := true, width := .w16 } : Hdr).width ≠ .w4 := by
  unfold Ready; decide +kernel

/-- Hypotheses of MoveAndAddressResults. -/
theorem test_ready_move : Ready { w := true, nib := true, rep := true, lock := true, rd := [0, 1, 2, 3], cf := true } h0 st0 ∧
    h0.width = .w64 ∧ (st0.cx 0).regs.mul = none ∧ (st0.cx 0).regs.div = none := by
  unfold Ready; decide +kernel

/-- A machine whose context has some D registers. -/
def stD (d0 d1 : Word) : State := { st0 with ctx := [(0, { ctx0 with regs := { ctx0.regs with d := [(0, d0), (1, d1)] } })] }
/-- Hypotheses of MultiplyAndDivideResults: nothing pending, with each case of the division at width 64. -/
theorem test_ready_mul : Ready { w := true, lock := true, rd := [0, 1] } h0 st0 ∧ (st0.cx 0).regs.mul = none ∧
    (st0.cx 0).regs.div = none ∧ ((st0.cx 0).dreg 1).toNat % 2 ^ 64 = 0 := by unfold Ready; decide +kernel
theorem test_div_min : Ready { w := true, lock := true, rd := [0, 1] } h0 (stD (2 ^ 63) (-1)) ∧
    (((stD (2 ^ 63) (-1)).cx 0).dreg 1).toNat % 2 ^ 64 = 2 ^ 64 - 1 ∧
    (((stD (2 ^ 63) (-1)).cx 0).dreg 0).toNat % 2 ^ 64 = 2 ^ 63 := by unfold Ready; decide +kernel
theorem test_div_plain : Ready { w := true, lock := true, rd := [0, 1] } h0 (stD 7 2) ∧
    (((stD 7 2).cx 0).dreg 1).toNat % 2 ^ 64 ≠ 0 := by unfold Ready; decide +kernel
/-- A machine with a product and a quotient pending. -/
def stP : State := { st0 with ctx := [(0, { ctx0 with regs := { ctx0.regs with mul := some (1, 2), div := some (3, 4) } })] }
theorem test_pending : Ready { w := true, lock := true, rd := [0, 1] } h0 stP ∧ (stP.cx 0).regs.mul = some (1, 2) ∧
    (stP.cx 0).regs.div = some (3, 4) := by unfold Ready; decide +kernel

/-- A machine whose accumulator 3 holds a CRC-32C. -/
def stA : State := { st0 with ctx := [(0, { ctx0 with regs := { ctx0.regs with
  acc := [(12, 0xFFFFFFFF), (13, 0x82F63B78), (14, 32)] } })] }
/-- Hypotheses of AccumulatorResults, with m = 32. -/
theorem test_ready_acc : Ready { w := true, rep := true, lock := true, rd := [0, 1], acc := [3] } h0 stA ∧ h0.width ≠ .w4 ∧
    h0.width = .w64 ∧ 8 ≤ ((stA.cx 0).piece 3 2).toNat % 2 ^ 7 ∧ ((stA.cx 0).piece 3 2).toNat % 2 ^ 7 ≤ 64 := by
  unfold Ready; decide +kernel

/-- A machine whose program has called from another segment, and whose STU caches the descriptor of selector 1. -/
def stC : State := { stR [(Fld.pdData.VALID 5, 1), (Fld.pdData.ST_LOG2 5, 4)] { ctx0 with pdom := 5, regs := { ctx0.regs with
    d := [(1, BitVec.ofNat 64 (2 ^ 48 + 64))], stack := [{ sel := 1, off := 8, seg := seg0 }] } } with segCache := [(segKey 5 1, seg0)] }
/-- Hypotheses of ControlTransferResults, for each of its clauses. -/
theorem test_ready_control : Ready { lock := true, rd := [0, 1], cf := true } h0 stC ∧ (stC.cx 0).ckpts = [] ∧
    (stC.cx 0).regs.stack = [{ sel := 1, off := 8, seg := seg0 }] ∧ stC.selOk 0 1 = true ∧ seg0.x = true ∧
    8 < seg0.limit ∧ seg0.inval = false ∧ stC.lookup (stC.cx 0).pdom 1 = (some seg0, stC) ∧
    stC.on (Fld.qctx.SUSP_REQ 16) = false := by unfold Ready; decide +kernel
/-- A machine whose queue is being suspended. -/
def stS : State := stR [(Fld.qctx.SUSP_REQ 16, 1)] ctx0
theorem test_ready_susp : Ready { lock := true, rd := [0, 1], cf := true } h0 stS ∧ (stS.cx 0).ckpts = [] ∧
    stS.on (Fld.qctx.SUSP_REQ 16) = true := by unfold Ready; decide +kernel

/-- A machine whose program has a chess clock, and has or has not posted. -/
def stK (p : Bool) : State := stR [] { ctx0 with clock := some 100, posted := p }
/-- Hypotheses of ProgramEndsAndPosts, for each of its clauses. -/
theorem test_ready_ends : (∀ p, Quiet (stK p) ∧ Ready { rd := [0], stop := true } h0 (stK p) ∧ Unburdened ((stK p).cx 0) ∧
    ((stK p).cx 0).clock.isSome = true ∧ ((stK p).cx 0).posted = p) ∧
    IzEnv.decode { bytes := [0], off := 0, limit := 4096, bound := fun _ => false } = some 0x10 := by
  unfold Ready Quiet Unburdened; decide +kernel

/-- A machine whose program stands at an offset, with a mark of invalidation or not and a call depth. -/
def stE (off : Nat) (inv : Bool) (depth : Nat) : State := { st0 with ctx := [(0, { ctx0 with regs :=
                                                                                             { ctx0.regs with cpc := { sel := 1, off := off, seg := { seg0 with inval := inv } }, stack := List.replicate depth {} } })] }
/-- Hypotheses of AutomaticEndsOfInstructions, for each of its clauses. -/
theorem test_ends_hyp : (∀ o ∈ [0, 4094], ∀ i, ∀ n ∈ [0, 16], Quiet (stE o i n) ∧ (stE o i n).canIssue 0 = true ∧
    Unburdened ((stE o i n).cx 0) ∧ ((stE o i n).cx 0).posted = false ∧ ((stE o i n).cx 0).regs.cpc.seg.live = true) ∧
    fetchCheck {} h0 ((stE 0 false 0).cx 0).regs.cpc = none ∧ 4096 < 4094 + h0.len ∧ (stE 0 false 0).selOk 0 7 = false ∧
    4096 ≤ (((4 : Nat) : Int) + toSigned 32 4092 ).toNat ∧ (((4 : Nat) : Int) + toSigned 32 4091).toNat < 4096 := by
  unfold Quiet Unburdened; decide +kernel
theorem test_ends_prefix : ({ h0 with blk := true, lock := true } : Hdr).spec = .plain ∧ 0 + 2 < 4096 := by decide

/-- A machine that can reach the host, whose program has a data segment in S2 and an offset in A2. -/
def stM (a2 : Word) : State := { stR [(Fld.pdData.VALID 5, 1), (Fld.pdData.ST_LOG2 5, 4), (Fld.hpuStat.LINK_UP, 1),
                                 (Fld.hpuStat.CACHE_EN, 1)] { ctx0 with pdom := 5, regs := { ctx0.regs with
    a := [(2, a2)], d := [(1, 0x1122334455667788)], seg := [(2, seg0)] } } with bme := [0] }
theorem quiet_stM (a2 : Word) : Quiet (stM a2) := Quiet.of_puts _ rfl (by decide)
/-- Hypotheses of LoadsReadHostMemoryAndDeliver and StoresWriteHostMemory, at an aligned and at an unaligned address. -/
theorem test_mem_hyp : Ready { w := true, nib := true, rep := true, lock := true, rd := [3, 1] } h0 (stM 8) ∧
    ((stM 8).cx 0).ckpts = [] ∧ ((stM 8).cx 0).loads = [] ∧ SMap.get (stM 8).held [] 0 = [] ∧
    (∀ r ∈ (stM 8).hreq, r.1 < (stM 8).hreqNext) ∧ SMap.wf (stM 8).hreq noReq = true ∧ ((stM 8).cx 0).sreg 2 = seg0 ∧
    (stM 8).hostOk 0 = true ∧ (stM 8).atsOn 0 = false ∧ (stM 8).on Fld.hpuStat.CACHE_EN = true ∧
    (stM 8).get (Fld.pdData.FUNC 5) = 0 := by unfold Ready; decide +kernel
theorem test_mem_addr : (((stM 8).cx 0).areg 2 + 0).toNat + 8 ≤ seg0.limit ∧ (seg0.base + 8) % 8 = 0 ∧
    (((stM 13).cx 0).areg 2 + 0).toNat + 8 ≤ seg0.limit ∧ (seg0.base + 13) % 8 ≠ 0 := by decide +kernel
theorem test_mem_unaligned : Ready { w := true, nib := true, rep := true, lock := true, rd := [3, 1] } h0 (stM 13) ∧
    ((stM 13).cx 0).sreg 2 = seg0 ∧ (stM 13).hostOk 0 = true := by unfold Ready; decide +kernel

/-- Hypotheses of SegmentLoadsTakeTheTableEntry: selector 1 cached (in `stC`), and selector 2 not. -/
theorem quiet_stC : Quiet stC := Quiet.of_puts _ rfl (by decide)
theorem test_lds_hit : Ready { lock := true, rd := [] } h0 stC ∧ stC.selOk 0 1 = true ∧
    stC.lookup (stC.cx 0).pdom 1 = (some seg0, stC) := by unfold Ready; decide +kernel
theorem test_lds_miss : Ready { lock := true, rd := [] } h0 (stM 0) ∧ (stM 0).selOk 0 2 = true ∧
    (∀ r ∈ (stM 0).segCache, r.1 ≠ segKey 5 2) ∧ SMap.get (stM 0).segRead 0 (segKey 5 2) = 0 ∧
    NSet.has (stM 0).stuHold 5 = false ∧ (∀ r ∈ (stM 0).hreq, r.1 < (stM 0).hreqNext ∧ r.2.purp ≠ .table 5 2) ∧
    SMap.wf (stM 0).hreq noReq = true ∧ SMap.wf (stM 0).ctx {} = true ∧ (stM 0).hostOk 0 = true ∧ (stM 0).atsOn 0 = false := by
  unfold Ready; decide +kernel
/-- Entries of each kind at the top of its address space. -/
theorem test_lds_entry : (∀ k < 3, bitsOf (BitVec.ofNat 64 (1 + 2 * k + 0x38) : Word).toNat 1 2 = k ∧ (BitVec.ofNat 64 (1 + 2 * k + 0x38) : Word).getLsbD 0 = true ∧
    bitsOf (BitVec.ofNat 64 (1 + 2 * k + 0x38) : Word).toNat 7 9 = 0 ∧ bitsOf (BitVec.ofNat 64 (1 + 2 * k + 0x38) : Word).toNat 44 20 = 0) ∧
    (stM 0).on Fld.hpuStat.MODE = false ∧ (2 ^ 57 - 4096 : Word).toNat + (4096 : Word).toNat ≤ 2 ^ 57 ∧ (stM 0).pdOld = [] ∧ stC.pdOld = [] := by decide +kernel

/-- A machine whose domain owns a semaphore block and an event block, and may read another of each. -/
def stB : State := stR [(Fld.semOwn.RESTRICT 0 1, 1), (Fld.semOwn.PDOM 0 1, 5), (Fld.semOwn.RESTRICT 0 2, 1),
  (Fld.semOwn.RO_OTHERS 0 2, 1), (Fld.gebOwn.RESTRICT 3, 1), (Fld.gebOwn.PDOM 3, 5), (Fld.gebOwn.RESTRICT 4, 1),
  (Fld.gebOwn.RO_OTHERS 4, 1)] { ctx0 with pdom := 5 }
/-- Hypotheses of BitInstructionResults, at the ends of every range and for each of its clauses. -/
theorem test_bits_hyp : Ready { lock := true, rd := [3, 1] } h0 stB ∧ (stB.cx 0).ckpts = [] ∧ (stB.cx 0).lock = none ∧
    (∀ a ∈ [0, 0xff, 0x100, 0x3ff, 0x400, 0x440, 0x480, 0xfff, 0x1000, 0x10c0, 0x1100, 0x1fff],
      (stB.cx 0).pendBit a = false ∧ stB.lockedByOther 0 (semRes 0 a) = false ∧ stB.semWaiters 0 a = []) := by
  unfold Ready; decide +kernel
theorem test_bits_owner : stB.get (Fld.semOwn.RESTRICT 0 0) = 0 ∧ stB.get (Fld.semOwn.PDOM 0 ((0x440 - 0x400) / 64)) = 5 ∧
    stB.get (Fld.semOwn.RO_OTHERS 0 ((0x480 - 0x400) / 64)) = 1 ∧ stB.get (Fld.gebOwn.RESTRICT 0) = 0 ∧
    stB.get (Fld.gebOwn.PDOM ((0x10c0 - 0x1000) / 64)) = 5 ∧ stB.get (Fld.gebOwn.RO_OTHERS ((0x1100 - 0x1000) / 64)) = 1 := by
  decide +kernel

/-- A machine whose semaphore bit 0x400 is held by context 0, with context 1 waiting in SEMA or not. -/
def stSem (q : Option Nat) (w : Bool) : State := { stR [] { ctx0 with seqCount := q } with
                                                   ctx := [(0, { ctx0 with seqCount := q })] ++ (if w then [(1, { ctx0 with wait := .sema 4 0x400 })] else [])
                                                   sem := [(0x400, { set := true, owner := some 0 })] }
/-- Hypotheses of SemaphoreResults, for each of its clauses: bit 0x400 set and bit 0xfff free. -/
theorem test_sem_hyp : Ready { lock := true, rd := [] } h0 (stSem none false) ∧ Ready { lock := true, rd := [] } h0 (stSem (some 1) false) ∧
    Ready { lock := true, rd := [] } h0 (stSem none true) ∧ (∀ q w, ∀ e ∈ (stSem q w).ctx, e.2.lock = none) ∧
    ((stSem none false).semBit 0 0x400).set = true ∧ ((stSem none false).semBit 0 0xfff).set = false ∧
    (stSem none false).get (Fld.semOwn.RESTRICT 0 0) = 0 ∧ (stSem none false).get (Fld.semOwn.RESTRICT 0 47) = 0 ∧
    (stSem none false).semWaiters 0 0x400 = [] ∧ (stSem none true).semWaiters 0 0x400 = [1] ∧
    (stSem none true).isMasked { kind := akSem, i := 0 } 1 = false := by
  refine ⟨?_, ?_, ?_, ?_, ?_⟩
  · unfold Ready; decide +kernel
  · unfold Ready; decide +kernel
  · unfold Ready; decide +kernel
  · intro q w e he; cases w <;> simp [stSem, ctx0] at he
    · rw [he]
    · rcases he with he | he <;> rw [he]
  · decide +kernel

/-- A machine whose context waits on private bit 7, set or not, with a timeout. -/
def stW (strict set : Bool) : State := stR [] { ctx0 with wait := .bit 4 7 true strict (some 64), regs := { ctx0.regs with
  bits := if set then [7] else [] } }
/-- Hypotheses of BitWaitsBeginAndEnd, for each of its clauses. -/
theorem test_wait_hyp : Ready { spec := true, rd := [3] } h0 st0 ∧ st0.eligible 0 = false ∧ st0.bitBarred 0 7 false = false ∧
    st0.bitVal 0 7 = false ∧ st0.on (Fld.qctx.SUSP_REQ 16) = false ∧ Ready { spec := true, rd := [3] } h0 stS ∧
    stS.eligible 0 = false ∧ stS.on (Fld.qctx.SUSP_REQ 16) = true ∧ stS.bitVal 0 0x110 = true := by unfold Ready; decide +kernel
theorem test_wait_ends : ∀ strict set, Quiet (stW strict set) ∧ (stW strict set).eligible 0 = false ∧
    (stW strict set).bitVal 0 7 = set ∧ Unburdened ((stW strict set).cx 0) ∧ ((stW strict set).cx 0).posted = false ∧
    ((stW strict set).cx 0).wait = .bit h0.len 7 true strict (some 64) ∧ ((stW strict set).cx 0).live = true := by
  unfold Quiet Unburdened; decide +kernel

/-- A machine with device port 3 at node 3 of a device behind link 1, of domain 5, removed or not, bound or not. -/
def stDp (rem : Nat) (bnd : Option (Nat × Nat)) (chain : List Chained) : State :=
  { stR [(Fld.pdData.VALID 5, 1), (Fld.dpData.VALID 3, 1), (Fld.dpData.PDOM 3, 5), (Fld.dpData.REMOVED 3, rem),
    (Fld.dpData.NODE 3, 3), (Fld.dpData.GEN 3, 1), (Fld.rtCtl.SELF, 1), (⟨⟨.nodeRtA, 0, 0⟩, 24, 4⟩, 1), (Fld.dpData.VALID 4, 1),
    (Fld.pluStat.STATE 1, 4), (Fld.pluCred.TX_HDR 1 1, 2), (Fld.pluCred.TX_DATA 1 1, 2), (Fld.extBind.VALID 6, 1),
    (Fld.extBind.NODE 6, 3)]
    { ctx0 with pdom := 5, chain := chain, regs := { ctx0.regs with bound := bnd, d := [(1, 3), (2, 0x55), (5, 4)] } } with
    link := [(1, { granted := some (3, 0) })] }
set_option maxRecDepth 4000 in
theorem quiet_stDp (b : Option (Nat × Nat)) (l : List Chained) (h : (stDp 0 b l).stalled = []) : Quiet (stDp 0 b l) :=
  Quiet.of_puts _ rfl (by decide +kernel) (h6 := h)
/-- Hypotheses of BindingResults, for each of its clauses (port 3 by D1; port 0 by D0). -/
theorem test_bind_hyp : Ready { stop := true, rd := [1] } h0 (stDp 0 none []) ∧ (stDp 0 none []).get (Fld.dpData.VALID 3) = 1 ∧
    (stDp 0 none []).get (Fld.dpData.PDOM 3) = 5 ∧ (stDp 0 none []).get (Fld.dpData.REMOVED 3) = 0 ∧
    (((stDp 0 none []).cx 0).dreg 1).toNat % 4096 = 3 ∧ (stDp 0 none []).get (Fld.dpData.VALID 0) = 0 ∧
    Unburdened ((stDp 0 none []).cx 0) ∧ ((stDp 0 none []).cx 0).posted = false := by unfold Ready Unburdened; decide +kernel
theorem test_bind_removed : Ready { stop := true, rd := [1] } h0 (stDp 1 none []) ∧ (stDp 1 none []).get (Fld.dpData.REMOVED 3) = 1 ∧
    Ready { lock := true, king := true, stop := true, rd := [1, 2] } h0 (stDp 1 none []) := by unfold Ready; decide +kernel
theorem test_bind_domain : (((stDp 0 none []).cx 0).dreg 5).toNat % 4096 = 4 ∧ (stDp 0 none []).get (Fld.dpData.VALID 4) = 1 ∧
    (stDp 0 none []).get (Fld.dpData.PDOM 4) ≠ ((stDp 0 none []).cx 0).pdom := by decide +kernel

/-- A response that reaches the device from node 3 by link 1. -/
def rsp (ty len : Nat) (data : List Byte) : Pkt := { type := ty, vc := 2, dst := 1, src := 3, len := len, fbe := 0, lbe := 0, data := data }
/-- The state a command answers. -/
def after (r : Res) : State := match r with | .next t => t | _ => State.reset
/-- Hypotheses of DeviceRegisterAccesses and DeviceCommands. -/
theorem test_dev_hyp : ((stDp 0 (some (3, 1)) []).cx 0).ckpts = [] ∧ ((stDp 0 (some (3, 1)) []).cx 0).lock = none ∧
    (stDp 0 (some (3, 1)) []).eligible 0 = false ∧ (stDp 0 (some (3, 1)) []).portLive 3 1 = true ∧
    8 * 511 < 2 ^ (12 + (stDp 0 (some (3, 1)) []).get (Fld.dpData.REG_LOG2 3)) ∧
    (stDp 0 (some (3, 1)) []).lockedByOther 0 ⟨2, 2, 3⟩ = false ∧
    Ready { lock := true, spec := true, king := true, stop := true, rd := [1, 2] } h0 (stDp 0 (some (3, 1)) []) ∧
    Leaves (stDp 0 (some (3, 1)) []) 3 1 1 1 15 0 ∧ (stDp 0 (some (3, 1)) []).get (Fld.dpData.NODE 3) = 3 := by
  unfold Ready Leaves; decide +kernel
theorem test_dev_read : Arriving 1 (rsp 0xC0 2 [1, 2, 3, 4, 5, 6, 7, 8]) (after (exec (.drd h0 4 (.imm 511)) (stDp 0 (some (3, 1)) []))) := by
  unfold Arriving; decide +kernel
theorem test_dev_write : Arriving 1 (rsp 0x80 0 []) (after (exec (.dwr h0 (.imm 511) 2) (stDp 0 (some (3, 1)) []))) := by
  unfold Arriving; decide +kernel

/-- Hypotheses of DeviceCommands: the arrival of a completion, with a command of another port outstanding or none, and a failed
chain. -/
theorem test_dcmd_arrives : Arriving 1 (rsp 0x80 0 []) (after (exec (.dcmd h0 2 4) (stDp 0 (some (3, 1)) []))) ∧
    Arriving 1 (rsp 0x80 0 []) (after (exec (.dcmdC h0 2) (stDp 0 (some (3, 1)) []))) := by unfold Arriving; decide +kernel
/-- A machine whose program has one chained command outstanding, or a failed one. -/
def stF (chain : List Chained) (fails : List ChainFail) : State := stR [] { ctx0 with chain := chain, fails := fails }
theorem test_waitc_hyp : (∀ k ∈ [[], [Chained.mk 4 1 0 0 (some 9) false]], ∀ f ∈ [[], [ChainFail.mk 3 15 7 2 false]],
    Ready { spec := true } h0 (stF k f) ∧ (stF k f).eligible 0 = false ∧ Quiet (stF k f)) := by unfold Ready Quiet; decide +kernel

/-- Hypotheses of ExtensionRequests. -/
theorem test_ext_hyp : Ready { lock := true, stop := true, rd := [1, 2] } h0 (stDp 0 none []) ∧
    NSet.has (stDp 0 none []).extHold 6 = false ∧ (stDp 0 none []).get (Fld.extBind.VALID 6) = 1 ∧
    (stDp 0 none []).get (Fld.extBind.DOM_EN 6) = 0 ∧ (stDp 0 none []).lockedByOther 0 ⟨3, 30, 6⟩ = false ∧
    (stDp 0 none []).extOut 6 < (stDp 0 none []).extMax 6 ∧ NSet.has (stDp 0 none []).masked 30 = false ∧
    (stDp 0 none []).get (Fld.extBind.NODE 6) = 3 ∧ Leaves (stDp 0 none []) 3 1 1 1 15 0 := by unfold Ready Leaves; decide +kernel
theorem test_ext_arrives : Arriving 1 (rsp 0xC4 2 [1, 2, 3, 4, 5, 6, 7, 8]) (after (exec (.ext h0 6 1 2 7) (stDp 0 none []))) := by
  unfold Arriving; decide +kernel

/-- A machine whose program has a count in D1 and a data segment, with its transfer slots as given. -/
def stXl (l : List (Field × Nat)) (n : Nat) (slots : List Nat) : State := { stR l
                                                                            { ctx0 with pdom := 5, slots := slots, regs := { ctx0.regs with d := [(1, BitVec.ofNat 64 n)], a := [(3, 0x100), (4, 0x200)],
                                                                                                                                            seg := [(3, { seg0 with sel := 3 }), (4, { seg0 with sel := 4 })] } } with bme := [0] }
def stX (n : Nat) (slots : List Nat) : State := stXl [(Fld.pdData.VALID 5, 1), (Fld.hpuStat.LINK_UP, 1)] n slots
theorem quiet_stX (n : Nat) (l : List Nat) : Quiet (stX n l) := Quiet.of_puts _ rfl (by decide)
/-- The operands [A4] from [A3], count in D1. -/
def opX (dc : Bool) : XOpnd := { dst := some 4, src := 3, cnt := 1, dc := dc }
/-- Hypotheses of TransfersIssueIntoTheirQueue: counts 0, 1 and 2^40 - 1 apart from the range, a plain stream and one with CRC-32C. -/
theorem test_xfer_hyp : Ready { king := true, stop := true, rd := [1], acc := (stX 256 []).xferAcc 0 3 } h0 (stX 256 []) ∧
    Ready { king := true, stop := true, rd := [1], acc := (stX 0 []).xferAcc 0 0 } h0 (stX 0 []) ∧
    (((stX 0 []).cx 0).linkOf (opX false)).n = 0 ∧ (((stX 256 []).cx 0).linkOf (opX false)).n = 256 ∧
    linkCheck 0 (((stX 256 []).cx 0).linkOf (opX false)) true = none ∧ linkCheck 3 (((stX 256 []).cx 0).linkOf (opX true)) false = none ∧
    ((stX 256 []).cx 0).freeSlot = some 0 ∧ Ready {} h0 (stX 256 []) ∧ Ready {} h0 (stX 256 [2]) := by
  unfold Ready; decide +kernel
theorem test_xfer_tsel : tselOk 0 = true ∧ tselOk 3 = true ∧ tRdst 3 ≠ 2 ∧ tCiph 3 = 0 ∧ 256 % piIn 3 = 0 ∧
    (stX 256 []).keyCheck 5 3 = none ∧ endLenBad 3 0 256 = false := by decide +kernel

/-- The transfer of 256 bytes in the queue of its cluster. -/
def stQ : State := after (exec (.xfer h0 (opX false)) (stX 256 []))
/-- Hypotheses of PlainTransferRunsToItsEnd. -/
theorem test_admit_hyp : stQ.admitReqs 0 = [0] ∧ stQ.xqHead 0 = some 0 ∧ stQ.placeIn 0 (stQ.xg 0) = some (0, 0) ∧
    stQ.hostOk (stQ.get (Fld.pdData.FUNC 5)) = true ∧ stQ.atsOn 0 = false ∧ (∀ z ∈ stQ.xfer, z.2.stuck = false ∧ z.2.mover.isSome = false) ∧ (∀ r ∈ stQ.hreq, r.1 < stQ.hreqNext) ∧
    SMap.wf stQ.hreq noReq = true ∧ SMap.wf stQ.xfer {} = true ∧ (stQ.cx 0).wait = .none ∧ (stQ.cx 0).lastXfer = some 0 ∧
    (stQ.xg 0) = { ctx := 0, slot := 0, dom := 5, func := 0, closed := true, order := 0,
                   links := [{ skip := false, src := { seg0 with sel := 3 }, sOff := 0x100, dst := { seg0 with sel := 4 }, dOff := 0x200, n := 256 }] } := by
  decide +kernel
theorem test_admit_quiet : Quiet stQ ∧ seg0.base + 0x100 + 256 ≤ seg0.base + 0x200 ∧ (seg0.base + 0x100) % 512 + 256 ≤ 512 ∧ (seg0.base + 0x200) % 512 + 256 ≤ 512 := by
  unfold Quiet; decide +kernel

/-- A transformed transfer that waits for a lane in mover 0 of group 0, with lane 0 held by mover 5. -/
def stL : State := { stX 256 [1] with
  xfer := [(1, { (stQ.xg 0) with slot := 1, tsel := 3, mover := some (0, 0) })], laneWait := [0], lanes := [(0, 5)] }
/-- Hypotheses of LanesSpillAndFailuresOfTransfers, for each of its clauses. -/
theorem test_lane_hyp : stL.laneWait.head? = some 0 ∧ stL.laneFirst 0 = some 1 ∧ (stL.xg 1).mover = some (0, 0) ∧ (stL.xg 1).req = false ∧
    (stL.xg 1).links[(stL.xg 1).linkIx]? = (stQ.xg 0).links[0]? ∧ (stL.xg 1).rd < 256 ∧ SMap.wf stL.xfer {} = true ∧ stL.hostOk 0 = true ∧
    (∀ e ∈ stL.xfer, e.2.stuck = false ∧ stL.wantsRead e.2 = false) ∧
    NSet.has stL.masked 25 = false ∧ (∀ e ∈ stL.lanes, e.1 ≠ 1) ∧ ¬(∀ e ∈ stL.lanes, e.1 ≠ 0) ∧ stQ.xqHead 0 = some 0 ∧
    stL.xf 1 = some (stL.xg 1) ∧ (stL.xg 1).links ≠ [] ∧ (stL.xg 1).stripe = none ∧ Unburdened { stL.cx 0 with slots := [] } ∧
    (stL.cx 0).slots = [1] ∧ (stL.cx 0).posted = false ∧ stL.on (Fld.xferLog.VALID 0) = false := by
  unfold Unburdened; decide +kernel
theorem test_gate_hyp : (∀ e ∈ stL.xfer, e.2.mover.isSome = true → e.2.group ≠ 1) ∧ stL.xqHead 2 = none ∧ stL.xqHead 3 = none ∧
    (∀ e ∈ stL.lanes, e.1 / 2 ≠ 5 - 4) ∧ Quiet stQ := by unfold Quiet; decide +kernel
theorem quiet_stL : Quiet stL := Quiet.of_puts [(Fld.pdData.VALID 5, 1), (Fld.hpuStat.LINK_UP, 1)] rfl (by decide)

/-- A descriptor of two data shards of device port 3 and no parity, of the buffer in S3 at offset 0. -/
def descS : List Byte := toBytes 8 (2 + 3 * 2 ^ 12) ++ List.replicate 24 0 ++ toBytes 8 (3 + 2 ^ 12) ++ toBytes 8 0 ++
  toBytes 8 (3 + 2 ^ 12) ++ toBytes 8 0x1000
/-- A machine whose program can stripe to device port 3, with a shard length in D1. -/
def stSt (n : Nat) : State := stXl [(Fld.pdData.VALID 5, 1), (Fld.hpuStat.LINK_UP, 1), (Fld.dpData.VALID 3, 1), (Fld.dpData.PDOM 3, 5),
  (Fld.dpData.DATA_LIMIT 3, 0x10000)] n []
/-- Its STRIPE waits for the header of the descriptor at offset 0x100, and with the header for the rest. -/
def stSt1 (n : Nat) : State := after (exec (.stripe h0 { a := 3, disp := 0 } 1) (stSt n))
def stSt2 (n : Nat) : State := after (exec (.hostReadCompletion 0 (.data (descS.take 32))) (stSt1 n))
/-- Hypotheses of StripeAndGatherReadTheirDescriptor, for shard lengths 0 and 64. -/
theorem test_stripe_hyp : Ready { king := true, stop := true, rd := [1] } h0 (stSt 64) ∧ Ready { king := true, stop := true, rd := [1] } h0 (stSt 0) ∧
    ((stSt 64).cx 0).freeSlot = some 0 ∧ (∀ r ∈ (stSt 64).hreq, r.1 < (stSt 64).hreqNext) ∧ (stSt 64).hostOk 0 = true ∧
    (stSt 64).atsOn 0 = false ∧ (stSt 64).get (Fld.pdData.FUNC 5) = 0 ∧ ((stSt 64).cx 0).sreg 3 = { seg0 with sel := 3 } := by
  unfold Ready; decide +kernel
theorem test_stripe_parts : ∀ n ∈ [0, 64], Quiet (stSt1 n) ∧ Quiet (stSt2 n) ∧ ((stSt1 n).cx 0).wait = .stripe h0 false { seg0 with sel := 3 } 0x100 n [] ∧
    ((stSt2 n).cx 0).wait = .stripe h0 false { seg0 with sel := 3 } 0x100 n (descS.take 32) ∧
    (stSt1 n).hreq.map (fun r => (r.1, r.2.purp, r.2.n)) = [(0, .desc 0, 32)] ∧
    (stSt2 n).hreq.map (fun r => (r.1, r.2.purp, r.2.n)) = [(1, .desc 0, 32)] ∧ (stSt2 n).pendAcc 0 0 = false ∧
    SMap.wf (stSt2 n).hreq noReq = true ∧ (stSt2 n).hreqNext = 2 ∧ (stSt2 n).txn = [] := by unfold Quiet; decide +kernel
theorem test_stripe_desc : (∀ gather, stripeFields gather descS = true ∧
    (stSt2 64).shardPorts 5 gather descS 64 = none ∧ (stSt2 64).keyCheck 5 (sTsel descS) = none ∧
    bufCheck { seg0 with sel := 3 } (if gather then .w else .r) (sBoff descS) (sK descS * 64) = none) ∧
    descLen (descS.take 32) = 64 ∧ descLen descS = descS.length ∧ sK descS = 2 ∧ sM descS = 0 ∧ sBsreg descS = 3 ∧
    stripeSizeBad (sTsel descS) 64 = false ∧ 0x100 + 32 + 32 ≤ seg0.limit := by decide +kernel
theorem quiet_stSt (n : Nat) : Quiet (stSt n) := Quiet.of_puts _ rfl (by decide)

/-- A machine with pool 2 of domain 5, 8 buffers, of which some are free; its cache, its wait limit, and a program that waits or not. -/
def stPool (free limit : Nat) (cache : List Nat) (w : Wait) : State := { stR [(Fld.poolData.EN 2, 1), (Fld.poolData.PDOM 2, 5),
                                                                         (Fld.poolData.NBUF 2, 8), (Fld.poolData.FREE 2, free), (Fld.poolData.FRESH 2, 7), (Fld.poolData.WAIT_LIMIT 2, limit),
                                                                         (Fld.poolData.LOW_WM 2, 3), (Fld.hpuStat.LINK_UP, 1)] { ctx0 with pdom := 5, wait := w, regs := { ctx0.regs with
    d := [(1, BitVec.ofNat 64 (3 + 2 * 2 ^ 32))] } } with pool := [(2, { cache := cache })], bme := [0] }
/-- Hypotheses of PoolAllocationResults, for each of its clauses. -/
theorem test_pool_hyp : (∀ f ∈ [0, 3, 4], ∀ l ∈ [0, 9], ∀ k ∈ [[], [3, 4]], Ready {} h0 (stPool f l k .none) ∧
    (stPool f l k .none).get (Fld.poolData.EN 2) = 1 ∧ (stPool f l k .none).get (Fld.poolData.PDOM 2) = 5 ∧
    (stPool f l k .none).get (Fld.poolData.FREE 2) = f ∧ (stPool f l k .none).get (Fld.poolData.WAIT_LIMIT 2) = l ∧
    ((stPool f l k .none).pl 2).cache = k ∧ ((stPool f l k .none).pl 2).waiters = [] ∧
    (stPool f l k .none).get (Fld.poolData.FRESH 2) = 7 ∧ Unburdened ((stPool f l k .none).cx 0)) := by
  unfold Ready Unburdened; decide +kernel
theorem quiet_stPool : ∀ w ∈ [Wait.none, .balloc 4 1 2 2], Quiet (stPool 0 9 [] w) ∧ Quiet (stPool 0 0 [] w) ∧ Quiet (stPool 3 0 [] w) ∧ Quiet (stPool 3 0 [3, 4] w) := by
  unfold Quiet; decide +kernel
theorem test_pool_wait : ((stPool 0 9 [] (.balloc 4 1 2 2)).cx 0).wait = .balloc h0.len 1 2 2 ∧
    Unburdened ((stPool 0 9 [] (.balloc 4 1 2 2)).cx 0) ∧ (stPool 0 9 [] (.balloc 4 1 2 2)).get (Fld.poolData.FREE 2) = 0 := by
  unfold Unburdened; decide +kernel

/-- Hypotheses of PoolFreesAndRefills: buffer 3, by D1, with a cache that has room or is full, and a refill of two entries. -/
theorem test_free_hyp : (∀ k ∈ [[4, 5], List.replicate 16 4], (stPool 3 0 k .none).get (Fld.poolData.EN 2) = 1 ∧
    3 < (stPool 3 0 k .none).get (Fld.poolData.NBUF 2) ∧ (stPool 3 0 k .none).alreadyFree 2 3 = false ∧
    (stPool 3 0 k .none).hostOk 0 = true ∧ (stPool 3 0 k .none).atsOn 0 = false ∧ (stPool 3 0 k .none).watch = [] ∧ Ready { rd := [1] } h0 (stPool 3 0 k .none) ∧
    ((stPool 3 0 k .none).cx 0).dreg 1 = BitVec.ofNat 64 (3 + 2 * 2 ^ 32)) ∧
    (3 + 2 * 2 ^ 32) / 2 ^ 32 % 4096 = 2 ∧ (stPool 3 0 [] .none).get (Fld.poolData.EN 3) = 0 ∧
    (stPool 3 0 [] .none).get (Fld.poolData.NBUF 2) ≤ 8 := by unfold Ready; decide +kernel
theorem test_refill_hyp : ∃ s : State, s.hreq = [(7, { purp := .ring 2, func := 0, addr := 0, n := 8 })] ∧
    (s.pl 2).ring = [5, 6] ∧ (s.pl 2).waiters = [] ∧ (s.pl 2).cache = [] :=
  ⟨{ stPool 2 0 [] .none with hreq := [(7, { purp := .ring 2, func := 0, addr := 0, n := 8 })],
                              pool := [(2, { ring := [5, 6], ringTail := 2 })] }, by decide +kernel⟩

/-- Hypotheses of PoolsOpenAndClose: a pool of 8 buffers that is disabled, one without buffers, and one that is enabled. -/
theorem test_enable_hyp : (stR [(Fld.poolData.NBUF 2, 8)] ctx0).poolReject 2 = none ∧ (stR [(Fld.poolData.NBUF 2, 8)] ctx0).poolFar 2 = false ∧ st0.poolReject 2 = some 4 ∧ Quiet st0 ∧
    st0.get (Fld.poolData.EN 2) = 0 ∧ (∀ e ∈ (stPool 3 0 [] .none).ctx, e.2.ckpts = []) ∧
    SMap.wf (stPool 3 0 [] .none).ctx {} = true ∧ (stPool 3 0 [] .none).get (Fld.poolData.EN 2) = 1 := by unfold Quiet; decide +kernel
theorem quiet_pool8 : Quiet (stR [(Fld.poolData.NBUF 2, 8)] ctx0) := Quiet.of_puts _ rfl (by decide)

/-- A checkpoint of a wait on private bit 7, and a machine whose context holds it or is being squashed. -/
def ck7 (o : Option Resolved) : Ckpt := { saved := ctx0.regs, loads := [], fails := [], wait := .bit 4 7 true false none, lock := false,
                                          predicted := .bit true, outcome := o, site := 0, horizon := 1, quota := 1, margin := 0, verify := [], segs := [], allocs := [] }
def stG (o : Option Resolved) (set : Bool) (held : List Held) (watch : List (Nat × Nat × Nat × Nat)) : State :=
  { stR [(Fld.hpuStat.LINK_UP, 1)] { ctx0 with ckpts := [ck7 o], regs := { ctx0.regs with bits := if set then [7] else [] } } with
    held := if held.isEmpty then [] else [(0, held)], watch := if watch.isEmpty then [] else [(0, watch)], bme := [0] }
def stGs (o : Option Resolved) : State := stR [] { ctx0 with squash := some o, wait := .bit 4 7 true false none }
/-- Hypotheses of GambitCheckpoints, for each of its clauses. -/
theorem test_gambit_hyp : ((stG (some (.bit true)) false [] []).cx 0).ckpts = [ck7 (some (.bit true))] ∧
    SMap.get (stG (some (.bit true)) false [⟨0, 3, [(4, 1), (5, 2)], 1, 0, 1, 0⟩] []).held [] 0 =
      [{ func := 0, line := 3, bytes := (List.range 2).zip [1, 2] |>.map fun e => (4 + e.1, e.2), vc := 1, ctx := 0, ckpt := 1, sel := 0 }] ∧
    (stG none true [] []).bitWith 0 none 7 = true ∧ (stG none false [] []).bitWith 0 none 7 = false ∧
    (stG none false [] [(0, 9, 0, 1)]).watchHits none 0 [9] = [(0, 1)] ∧ (stG none false [] [(0, 9, 0, 1)]).watchHits none 0 [8] = [] ∧
    (stG none false [] []).hostOk 0 = true ∧ ((stGs none).cx 0).squash = some none ∧
    (stGs none).get (Fld.qctx.SUSP_REQ 16) = 0 := by decide +kernel
theorem quiet_stG (o : Option Resolved) (b : Bool) (l : List Held) (w : List (Nat × Nat × Nat × Nat)) : Quiet (stG o b l w) :=
  Quiet.of_puts _ rfl (by decide)
theorem quiet_stGs (o : Option Resolved) : Quiet (stGs o) := Quiet.of_puts [] rfl (by decide)

/-- Hypotheses of InvalidationsAndTranslationsStep, with a cached descriptor and an idle context. -/
theorem test_inv_hyp : stC.inv = none ∧ (∀ e ∈ stC.ctx, e.2.ckpts = []) ∧ SMap.wf stC.ctx {} = true ∧ stC.xfer = [] ∧ stC.hreq = [] ∧
    stC.txn = [] ∧ (∀ e ∈ stC.ctx, e.2.wait = .none) ∧ (stC.cx 0).live = true ∧ stC.segCache.length = 1 := by decide +kernel
/-- A machine with a read of function 0 held for page 5. -/
def stAt : State := { stR [(Fld.hpuStat.LINK_UP, 1)] ctx0 with bme := [0], atsEn := [0], atsPend := [5], hreqNext := 8
                                                               hreq := [(7, { purp := .load 0 7, func := 0, addr := 5 * 4096, n := 8, held := true, op := .io })] }
/-- Hypotheses of InvalidationsAndTranslationsStep, for a page of its own and for page 5 of pages 4 to 7. -/
theorem test_ats_hyp : NSet.has stAt.atsPend (0 * 2 ^ 45 + 5) = true ∧ NSet.has stAt.atsPend 6 = false ∧ stAt.hostOk 0 = true ∧ stAt.xfer = [] ∧
    (∀ e ∈ stAt.ctx, e.2.wait = .none) ∧ (∀ e ∈ stAt.hreq, e.2.held = true) ∧ stAt.atsOn 0 = true ∧
    (∀ k ∈ [0, 2], 5 * 4096 / 4096 / 2 ^ k = 5 / 2 ^ k ∧ stAt.atsUsed (0, 5, k) = false) := by decide +kernel
theorem quiet_stAt : Quiet stAt := by unfold Quiet; decide +kernel

/-- A machine with one runnable queue of a class, and with King service and slot 5 or without. -/
def stDis (cls king : Nat) : State := { stR [(Fld.hpuStat.LINK_UP, 1), (Fld.hpuStat.CACHE_EN, 1), (Fld.qctx.SQ_LOG2 32, 4),
                                        (Fld.qctx.CQ_LOG2 32, 4), (Fld.qctx.SQ_TAIL 32, 3), (Fld.qctx.STATE 32, 2), (Fld.qctx.CLASS 32, cls), (Fld.qscCtl.KING_EN, king),
                                        (Fld.kstActive.VALID 5, king)] ctx0 with bme := [0] }
/-- Hypotheses of DispatchDecisions, for each of its clauses. -/
theorem test_dispatch_king : (stDis 0 1).enabledQueues = [32] ∧ (stDis 0 1).qEligible 32 = true ∧ (stDis 0 1).get (Fld.qctx.CLASS 32) = 0 ∧
    ((stDis 0 1).freeSlots ((stDis 0 1).get (Fld.grp.FUNC 2))).head? = some 5 ∧ ((stDis 0 1).ar { kind := akKing }).quotaMask = false := by
  decide +kernel
theorem test_dispatch_general : (stDis 2 0).enabledQueues = [32] ∧ (stDis 2 0).qEligible 32 = true ∧ (stDis 2 0).generalCtx 0 = some 1 ∧
    (stDis 2 0).get (Fld.qctx.CLASS 32) = 2 := by decide +kernel
theorem quiet_stDis : Quiet (stDis 0 1) ∧ Quiet (stDis 2 0) :=
  ⟨Quiet.of_puts _ rfl (by decide +kernel), Quiet.of_puts _ rfl (by decide +kernel)⟩

/-- Hypotheses of ArbitersGrantByRemainingCredit: requesters 1 and 3 of the class arbiter, the King one of the path arbiter, and an
engine whose context 1 holds a lock or not. -/
theorem test_arb_hyp : State.reset.arbOwner { kind := akClass } = none ∧ State.reset.isMasked { kind := akClass } 3 = false ∧
    (State.reset.ar { kind := akPath }).quotaMask = false ∧ State.reset.isMasked { kind := akPath } 0 = false ∧
    SMap.wf (State.reset.ar { kind := akClass }).spent 0 = true ∧
    AMap.wf ArbId.lt (fun _ => {}) State.reset.arb = true ∧ State.reset.swapAt = none ∧ 8 ≤ State.reset.get Fld.qscCtl.WIN_LOG2 ∧
    State.reset.get Fld.qscCtl.WIN_LOG2 ≤ 16 ∧ State.reset.get Fld.kingQuota.QUOTA ≠ 0 ∧ 6 ≤ State.reset.get Fld.fxbCtl.WIN_LOG2 ∧
    State.reset.get Fld.fxbCtl.WIN_LOG2 ≤ 14 ∧ 6 ≤ State.reset.get Fld.eicCtl.WIN_LOG2 ∧ State.reset.get Fld.eicCtl.WIN_LOG2 ≤ 14 ∧
    6 ≤ State.reset.get (Fld.dmgCtl.WIN_LOG2 3) ∧ State.reset.get (Fld.dmgCtl.WIN_LOG2 3) ≤ 14 := by
  decide +kernel
theorem test_arb_owner : (stR [] { ctx0 with seqCount := some 1 }).arbOwner { kind := akEngine } = some 0 ∧
    (stR [] { ctx0 with fresh := true }).arbOwner { kind := akEngine } = none ∧
    (stR [] { ctx0 with fresh := true }).isMasked { kind := akEngine } 0 = false ∧
    (({ State.reset with arb := [({ kind := akPath }, { hpUsed := 64, quotaMask := true })] } : State).ar { kind := akPath }).quotaMask = true := by
  decide +kernel
theorem test_swap_hyp : ∃ s : State, Quiet s ∧ s.swapAt = some 0 ∧ 0 + 2 ≤ s.fclk :=
  ⟨{ State.reset with swapAt := some 0, fclk := 2 }, by unfold Quiet; decide +kernel⟩

/-- A machine whose contexts 0 and 1 each wait for the bit that the other owns. -/
def stStale (seen : List (Nat × Nat)) : State := { stR [(Fld.pgmCtl.STALE_EN 0, 1)] ctx0 with
  ctx := [(0, { ctx0 with wait := .sema 4 0x401, order := 3 }), (1, { ctx0 with wait := .sema 4 0x400, order := 4 })]
  sem := [(0x400, { set := true, owner := some 0 }), (0x401, { set := true, owner := some 1 })]
  staleSeen := if seen.isEmpty then [] else [(0, seen)] }
/-- Hypotheses of StalematesAreBrokenOnTheSecondScan, for each of its clauses. -/
theorem test_stale_hyp : (stStale []).cycles 0 = [[(0, 0x401), (1, 0x400)]] ∧ (stStale [(0, 0x401), (1, 0x400)]).cycles 0 = [[(0, 0x401), (1, 0x400)]] ∧
    (stStale []).on (Fld.pgmCtl.STALE_EN 0) = true ∧ SMap.get (stStale []).staleSeen [] 0 = [] ∧
    SMap.get (stStale [(0, 0x401), (1, 0x400)]).staleSeen [] 0 = [(0, 0x401), (1, 0x400)] := by decide +kernel
theorem test_stale_quiet (l : List (Nat × Nat)) : Quiet (stStale l) ∧ Unburdened ((stStale l).cx 0) ∧ Unburdened ((stStale l).cx 1) :=
  ⟨Quiet.of_puts _ rfl (by decide), by unfold Unburdened; exact ⟨rfl, rfl, rfl, rfl, rfl, rfl, rfl, rfl, rfl, rfl, rfl⟩,
   by unfold Unburdened; exact ⟨rfl, rfl, rfl, rfl, rfl, rfl, rfl, rfl, rfl, rfl, rfl⟩⟩

/-- A machine with an enabled queue 32 of the PF in a state, with rings of 16 and Doze or not. -/
def stDb (st infl susp doze : Nat) : State := stR [(Fld.grp.ASSIGNED 2, 1), (Fld.qctx.SQ_LOG2 32, 4), (Fld.qctx.CQ_LOG2 32, 4), (Fld.qctx.STATE 32, st),
  (Fld.qctx.IN_FLIGHT 32, infl), (Fld.qctx.SUSP_REQ 32, susp), (Fld.pcmStat.DSTATE, doze)] ctx0
/-- Hypotheses of DoorbellsMoveTheRingIndices, for each of its clauses, at the largest tail of the ring. -/
theorem test_db_hyp : (∀ st, Quiet (stDb st 0 0 0)) ∧ (stDb 1 0 0 1).on (Fld.grp.ASSIGNED (32 / 16)) = true ∧
    (stDb 1 0 0 1).get (Fld.grp.FUNC (32 / 16)) = 0 ∧ (stDb 0 0 0 0).get (Fld.qctx.STATE 32) = 0 ∧
    (15 : Nat) < 2 ^ (stDb 1 0 0 0).get (Fld.qctx.SQ_LOG2 32) ∧ (stDb 4 0 1 0).get (Fld.qctx.STATE 32) = 4 ∧
    (stDb 4 0 1 0).get (Fld.qctx.SUSP_REQ 32) = 1 ∧ (stDb 5 2 0 0).get (Fld.qctx.STATE 32) = 5 ∧
    0 < (stDb 5 2 0 0).get (Fld.qctx.IN_FLIGHT 32) ∧ (0 + 2 ^ (stDb 1 0 0 0).get (Fld.qctx.CQ_LOG2 32) - 0) % 2 ^ 4 ≤ (stDb 1 0 0 0).cqUsed 32 := by
  refine ⟨fun st => Quiet.of_puts _ rfl ?_, ?_⟩
  · simp; decide
  · decide +kernel
theorem test_db_off : ({ stDb 1 0 0 0 with flr := [3], vfEn := true } : State).reaches (ownAcc 3) = false ∧ State.reset.reaches (ownAcc 0) = false ∧
    (stDb 1 0 0 1).reaches (ownAcc 0) = true ∧ State.reset.on (Fld.grp.ASSIGNED 0) = false := by
  decide +kernel

/-- A machine whose context 0 waits for its submission entry, and with a completion entry handed in for queue 16. -/
def stEn : State := { stR [(Fld.hpuStat.LINK_UP, 1), (Fld.qctx.STATE 16, 3), (Fld.qctx.IN_FLIGHT 16, 1), (Fld.qctx.CQ_LOG2 16, 4), (Fld.qctx.CQ_TAIL 16, 15),
                      (Fld.pdData.VALID 0, 1), (Fld.pdData.ST_LOG2 0, 4)]
                      { ctx0 with started := false, wait := .entry } with
                      bme := [0]
                      hreq := [(0, { purp := .entry 0, func := 0, addr := 4096, n := 64 })]
                      segCache := [(segKey 0 1, seg0)]
                      cpl := [{ qid := 16, tag := 7, status := 0x10, epoch := 0, residual := 0, auto := true, ioc := true, result := 0, order := 9 }] }
/-- Hypotheses of QueuesExchangeEntriesWithTheHost, for each of its clauses: offset 4095 of a segment of 4096 bytes. -/
theorem test_entry_hyp : stEn.hreq.find? (fun r => r.2.purp == .entry 0) = some (0, { purp := .entry 0, func := 0, addr := 4096, n := 64 }) ∧
    (stEn.cx 0).live = true ∧ stEn.selOk 0 1 = true ∧ stEn.segCache.find? (fun k => k.1 == segKey 0 1) = some (segKey 0 1, seg0) ∧
    seg0.x = true ∧ 4095 < seg0.limit ∧ (stEn.cpl.find? fun e => e.qid == 16).isSome = true ∧ stEn.hostOk 0 = true ∧ stEn.translated 0 480 = true ∧
    stEn.watchHits none 0 (linesOf 480 32) = [] ∧ stEn.get (Fld.qctx.CQ_LOG2 16) ≤ 20 ∧ stEn.get (Fld.qctx.STATE 16) = 3 ∧
    (stEn.qd 16).stopping ≠ stopReset ∧
    (0xFFFFF : Nat) / 2 ^ 21 = 0 ∧ stEn.pdOld = [] ∧ (2 ^ 53 - 1 : Nat) / 2 ^ 53 = 0 := by decide +kernel
theorem test_entry_quiet : Quiet stEn ∧ Unburdened (stEn.cx 0) :=
  ⟨Quiet.of_puts _ rfl (by decide), by unfold Unburdened; exact ⟨rfl, rfl, rfl, rfl, rfl, rfl, rfl, rfl, rfl, rfl, rfl⟩⟩

/-- A machine with the expert window open. -/
def stUn : State := stR [(Fld.glbExpert.UNLOCKED, 1)] ctx0
/-- Hypotheses of RegisterWritesFollowTheFieldTypes, for each of its clauses: CLS_W, the last byte of the first expert blocks, a log. -/
theorem test_regw_hyp : stUn.reaches .pf = true ∧ stUn.place (0x020B0010 / 8 * 8) = some ⟨.clsW, 0, 0⟩ ∧ stUn.on Fld.glbExpert.UNLOCKED = true ∧
    stUn.get Fld.cfsStat.STATE < 2 ∧ is32 RegId.clsW = false ∧ stUn.viewReg ⟨.clsW, 0, 0⟩ = stUn.reg ⟨.clsW, 0, 0⟩ ∧
    (∀ f ∈ rowsOf ⟨.clsW, 0, 0⟩, f.ty ≠ .wo) ∧ stUn.place 0x02140110 = some ⟨.segvLog, 0, 0⟩ ∧
    (stUn.reg ⟨.clsW, 0, 0⟩).toNat = maskBits (stUn.reg ⟨.clsW, 0, 0⟩).toNat (maskOf ⟨.clsW, 0, 0⟩ fun _ => true) ∧ stUn.acp = [] ∧ stUn.deferred = [] ∧
    reservedSet ⟨.clsW, 0, 0⟩ (accMask 0x020B0010 4) (accVal 0x020B0010 4 0xFFFFFFFF) = false ∧ State.reset.on Fld.glbExpert.UNLOCKED = false := by
  decide +kernel
theorem test_regw_quiet : Quiet stUn := Quiet.of_puts _ rfl (by decide)

/-- Hypotheses of ReservedOffsetsReadZero: the last offset before the MSI-X table, and one of an expert block. -/
theorem test_reserved_hyp : stUn.barHas 0x7FF8 = false ∧ stUn.barHas 0x020B0038 = false ∧ stUn.barHas 0x10020 = true ∧
    stUn.reaches .pf = true ∧ stUn.on Fld.glbExpert.UNLOCKED = true := by decide +kernel

/-- A machine with queue 16 in a state, and a program of it in a wait or none. -/
def stQc (st infl susp : Nat) (x : Ctx) : State := stR [(Fld.grp.ASSIGNED 1, 1), (Fld.qctx.SQ_LOG2 16, 4), (Fld.qctx.CQ_LOG2 16, 4), (Fld.qctx.CQ_BASE 16, 1), (Fld.qctx.STATE 16, st),
  (Fld.qctx.IN_FLIGHT 16, infl), (Fld.qctx.SUSP_REQ 16, susp)] x
/-- The context's wait of the tests: for bit 0x100 to become 1. -/
def wb0 : Wait := .bit 4 0x120 true false none
/-- Hypotheses of QueueCommandsChangeState, for each of its clauses. -/
theorem test_qc_hyp : (stQc 0 0 0 {}).on (Fld.grp.ASSIGNED 1) = true ∧ (stQc 0 0 0 {}).ringBad 16 = false ∧ (stQc 0 0 0 {}).ringFar 16 = false ∧ (stQc 0 0 0 {}).ringClash 16 = false ∧ State.reset.ringClash 16 = true ∧ reservedIn ⟨.grp, 4095, 0⟩ 0xFFF7FF = false ∧ (stQc 0 0 0 {}).kingCount < 1024 ∧
    (∀ st < 7, (stQc st 0 0 {}).get (Fld.qctx.STATE 16) = st) ∧ ((stQc 3 1 0 ctx0).cx 0).live = true ∧ ((stQc 3 1 0 ctx0).cx 0).qid = 16 ∧
    (stQc 3 1 0 ctx0).get (Fld.qctx.IN_FLIGHT 16) = 1 ∧ (stQc 4 1 1 ctx0).get (Fld.qctx.SUSP_REQ 16) = 1 ∧ ((stQc 3 1 0 ctx0).cx 0).posted = false ∧
    State.reset.on (Fld.grp.ASSIGNED 1) = false ∧
    (stQc 3 1 0 { ctx0 with wait := wb0 }).bitMet 0 none wb0 = false := by decide +kernel
theorem test_qc_hyp2 : (stR [(Fld.gebOwn.RESTRICT 0, 1), (Fld.gebOwn.PDOM 0, 5)] { ctx0 with wait := .bit 4 0x1000 true false none, parked := true }).bitBarred 0 0x1000 false = true ∧
    (({ ctx0 with wait := .ld h0 { a := 1, disp := 0 } } : Ctx).midway = true) ∧ (stQc 3 1 0 ctx0).qctlBusy = false ∧ { stQc 3 1 0 ctx0 with qctlUntil := 1 }.qctlBusy = true := by decide +kernel
theorem test_qc_quiet (st infl susp : Nat) : Quiet (stQc st infl susp {}) ∧ Quiet (stQc st infl susp ctx0) ∧ Quiet (stQc st infl susp { ctx0 with wait := wb0 }) ∧ Unburdened ctx0 :=
  ⟨Quiet.of_puts _ rfl (by simp; decide), Quiet.of_puts _ rfl (by simp; decide), Quiet.of_puts _ rfl (by simp; decide), by unfold Unburdened; exact ⟨rfl, rfl, rfl, rfl, rfl, rfl, rfl, rfl, rfl, rfl, rfl⟩⟩

/-- A machine with its host link up and no block reset of the HPU, some outstanding reads and entries. -/
def stHl (h : SMap HReq) (e : List Cpl) (x : Ctx) : State := { stR [(Fld.hpuStat.LINK_UP, 1), (Fld.hpuStat.MODULES, 4), (Fld.fclReact.BLOCK_RESET 0, 0),
                                                               (Fld.fclReact.CHIP_RESET 0, 0), (Fld.qctx.STATE 16, 3), (Fld.qctx.IN_FLIGHT 16, 1)] x with
                                                               hreq := h
                                                               cpl := e
                                                               ideSecure := true }
/-- Hypotheses of HostPortFollowsItsLink, for each of its clauses. -/
theorem test_hl_hyp : Watched 0 (stHl [] [] ctx0) ∧ (stHl [] [] ctx0).on Fld.hpuStat.LINK_UP = true ∧ (stHl [] [] ctx0).txn = [] ∧
    ((stHl [] [] ctx0).lk 8).fwd = [] ∧ (stHl [] [] ctx0).get (Fld.qctx.STATE 16) = 3 ∧ ((stHl [] [] ctx0).qd 16).stopping = 0 ∧
    ({ State.reset with boot := .firmware } : State).hostTrains = true ∧ (5 : Nat) ≤ State.reset.get Fld.hpuCtl.MAX_RATE ∧
    State.reset.get Fld.hpuCtl.MOD_EN = 15 := by unfold Watched; decide +kernel
/-- A machine whose host link in Roloa-native mode is in some state of its bring-up. -/
def stHj (h : HostLink) (l : LinkDyn) : State := { stR [(Fld.hpuStat.LINK_UP, 1), (Fld.hpuStat.MODE, 1), (Fld.rtCtl.HOST, 2)] ctx0 with
  hostLink := h
  link := SMap.set [] {} 8 l }
theorem test_hj_hyp : Quiet (stHj { st := 3 } {}) ∧ (stHj { st := 3 } {}).hostNode = 2 ∧
    ((stHj { st := 3 } { gotLcap := true, gotLinit := [0, 1, 2, 3] }).lk 8).gotLcap = true ∧
    ((stHj { st := 3 } { gotLcap := true, gotLinit := [0, 1, 2, 3] }).lk 8).gotLinit.length = 4 ∧ (0x201 : BitVec 24).toNat / 256 = 2 ∧ wordBad 0x100 = true ∧
    (stHj { st := 4, adv := [(1, (8, 16))] } {}).txCred 8 1 = (0, 0) ∧ SMap.get (stHj { st := 4, adv := [(1, (8, 16))] } {}).hostLink.adv (0, 0) 1 = (8, 16) := by
  unfold Quiet; decide +kernel
/-- The host's first LID of version 1.0, node 2 (R277, R337). -/
theorem test_host_lid : (match exec (.lid 8 0x201) (stHj { st := 2 } {}) with | .next t => t.hostLink.st | _ => 0) = 3 := by decide +kernel
theorem test_hl_quiet : Quiet (stHl [] [] ctx0) ∧ Quiet (stHl [(0, { purp := .entry 0, func := 0, addr := 64, n := 64 })] [] ctx0) ∧
    Quiet (stHl [] [{ qid := 16, tag := 0, status := 0, epoch := 0, residual := 0, auto := false, ioc := false, result := 0, order := 0 }] {}) := by
  unfold Quiet; decide +kernel
theorem test_ide_hyp : ∃ s : State, Quiet s ∧ s.ideEn = true ∧ s.get Fld.hpuStat.MODE = 0 ∧ s.spdm.sess = 2 ∧ s.ideKey ≠ [] ∧ s.ideFault = false :=
  ⟨{ State.reset with ideEn := true, spdm := { sess := 2 }, ideKey := [1] }, Quiet.of_puts [] rfl (by decide), by decide +kernel⟩
/-- Bank 0 of the aperture, of the host: the last byte of a line. -/
theorem test_aper_hyp : (stR [(Fld.bankOwn.STATE 0, 1), (Fld.bankOwn.OWNER 0, 0x1000)] ctx0).get (Fld.bankOwn.STATE 0) = bankOwned ∧
    State.reset.get (Fld.bankOwn.STATE 0) = 0 ∧ State.reset.get Fld.spmAper.BASE_BANK = 0 ∧ State.reset.enabledQueues = [] ∧ (stR [] ctx0).reaches .pf = true := by decide +kernel

/-- A machine whose VF 3 owns group 1, with a program of it that waits for its entry. -/
def stFl (f : Nat) : State := { stR [(Fld.grp.ASSIGNED 1, 1), (Fld.grp.FUNC 1, f), (Fld.qctx.STATE 16, 3), (Fld.qctx.IN_FLIGHT 16, 1), (Fld.pdData.FUNC 7, f),
                                (Fld.hpuStat.LINK_UP, 1)] { ctx0 with wait := .entry } with
                                bme := [f]
                                vfEn := true
                                hreq := [(0, { purp := .entry 0, func := f, addr := 64, n := 64 })]
                                segCache := [(segKey 7 1, seg0)]
                                msixEn := [f]
                                pba := [f * 2048 + 63]
                                msix := [((f * 2048 + 63) * 4 + 3, 1)] }
/-- Hypotheses of FunctionsStopAndReset, for each of its clauses: VF 3, and the last vector of its table. -/
theorem test_fl_hyp : (stFl 3).on (Fld.grp.ASSIGNED (16 / 16)) = true ∧ (stFl 3).get (Fld.grp.FUNC 1) = 3 ∧ (stFl 3).xfer = [] ∧ (stFl 3).acp = [] ∧
    (stFl 3).inv = none ∧ (stFl 3).vfEn = true ∧ ((stFl 3).cx 0).live = true ∧ ((stFl 3).qd 16).stopping = 0 ∧ (stFl 3).get (Fld.qctx.STATE 16) = 3 ∧
    NSet.has (stFl 3).pba (3 * 2048 + 63) = true ∧ NSet.has (stFl 3).msixEn 3 = true ∧ (stFl 3).hostOk 3 = true ∧ NSet.has (stFl 3).msixFmask 3 = false ∧ (stFl 3).outReset = false ∧ (stFl 3).deferred = [] ∧ (stFl 3).on Fld.hpuStat.MODE = false ∧
    (stFl 3).msixWord 3 63 3 % 2 = 1 := by decide +kernel
theorem test_fl_quiet (f : Nat) : Quiet (stFl f) ∧ Unburdened ((stFl 3).cx 0) :=
  ⟨Quiet.of_puts _ rfl (by simp; decide), by unfold Unburdened; exact ⟨rfl, rfl, rfl, rfl, rfl, rfl, rfl, rfl, rfl, rfl, rfl⟩⟩

/-- A machine whose link 7 is in a state, with what its bring-up has so far. -/
def stPl (st att : Nat) (l : LinkDyn) : State := { stR [(Fld.pluCtl.EN 7, if st = 0 then 0 else 1), (Fld.pluStat.STATE 7, st), (Fld.pluStat.ATTEMPTS 7, att),
                                                   (Fld.pluCtl.AUTO_RETRAIN 7, 1), (Fld.rtCtl.SELF, 1), (Fld.fclReact.BLOCK_RESET 8, 0), (Fld.fclReact.CHIP_RESET 8, 0)] ctx0 with
                                                   link := [(7, l)] }
/-- What is there before the last LINIT word. -/
def lk3 : LinkDyn := { gotLid := true, gotLcap := true, gotLinit := [0, 1, 2], nodeDone := true, granted := some (128, 4), initOrd := 2 }
/-- Hypotheses of PeerLinksComeUp, for each of its clauses. -/
theorem test_pl_hyp : (∀ st < 7, (stPl st 2 {}).lState 7 = st) ∧ Watched 8 (stPl 3 2 {}) ∧ Watched 8 (stPl 1 0 {}) ∧ Watched 8 (stPl 2 0 {}) ∧
    (stPl 0 0 {}).pluBad 7 = false ∧ (stPl 0 0 {}).get (Fld.pluCtl.EN 7) = 0 ∧ (stPl 3 0 {}).blockClash 7 (128, 4) = false ∧
    (stPl 3 0 {}).blockClash 7 (0, 1) = true ∧ (stPl 3 0 lk3).lk 7 = lk3 ∧ lk3.gotLinit.contains 3 = false ∧
    ((stPl 5 0 { retryHold := true }).lk 7).retryHold = true ∧ ((stPl 1 0 { lowHold := true, trained := some 5 }).lk 7).lowHold = true ∧
    (stPl 3 0 lk3).blockRivals 7 (128, 4) = [] ∧ { stPl 3 0 {} with link := [(3, lk3), (7, { initOrd := 1 })] }.blockRivals 7 (128, 4) = [3] ∧
    (stPl 3 0 lk3).freeTag 3 = some 0 ∧ ((stPl 3 0 lk3).put (Fld.pluStat.STATE 7) 4).reachable 128 = false ∧ State.reset.routeBad = false ∧ (stPl 6 0 {}).fabricReady = false := by
  unfold Watched; decide +kernel
theorem test_pl_quiet : Quiet (stPl 3 2 lk3) ∧ Quiet (stPl 0 0 {}) ∧ Quiet { stPl 6 0 {} with routesLoaded := true } := by
  unfold Quiet; decide +kernel

/-- Hypotheses of PeerLinksGoDown, for each of its clauses: link 7 Joined, held, or with a read of context 0 outstanding. -/
def stPj (tx : AMap Nat Txn) : State := { stR [(Fld.pluCtl.EN 7, 1), (Fld.pluStat.STATE 7, 4), (Fld.pluStat.GRANTED 7, 4), (Fld.pluStat.PEER_NODE 7, 128),
                                          (Fld.pluCred.PEER_HDR 7 1, 10), (Fld.pluCred.PEER_DATA 7 1, 20), (Fld.pluCred.TX_HDR 7 1, 9), (Fld.pluCred.TX_DATA 7 1, 20),
                                          (Fld.fclReact.BLOCK_RESET 8, 0), (Fld.fclReact.CHIP_RESET 8, 0)] { ctx0 with wait := .drd 4 0 0 0 9 } with
                                          link := [(7, { owedHdr := [(1, 300)] })]
                                          txn := tx }
theorem test_pj_hyp : Watched 8 (stPj []) ∧ (stPj []).lState 7 = 4 ∧ ((stPj []).lk 7).fwd = [] ∧ (stPj []).validPorts = [] ∧
    (stPj []).get (Fld.pluCtl.HOLD 7) = 0 ∧ SMap.wf ((stPj []).lk 7).owedHdr 0 = true ∧
    (stPj []).get (Fld.pluCred.TX_HDR 7 1) + 1 ≤ (stPj []).get (Fld.pluCred.PEER_HDR 7 1) ∧ SMap.get ((stPj []).lk 7).txq [] 1 = [] ∧ wordBad 0x7F = true ∧ wordBad 0x100 = true ∧ wordBad 0 = false := by
  unfold Watched; decide +kernel
theorem test_pj_quiet : Quiet (stPj []) ∧ Quiet (stPj [(9, { purp := .drd 0, type := 0, node := 128, addr := 0, n := 8, vc := 1, port := some (0, 0), tmo := 0,
                                                             link := some 7, got := [] })]) ∧ Unburdened ((stPj []).cx 0) := by
  unfold Quiet Unburdened; decide +kernel

/-- A machine whose link 1 is Joined with an endpoint of node 3, that owns bank 527. -/
def stRq : State := { stR [(Fld.rtCtl.SELF, 1), (Fld.rtCtl.HOST, 2), (⟨⟨.nodeRtA, 0, 0⟩, 24, 4⟩, 1), (Fld.pluStat.STATE 1, 4), (Fld.pluCred.TX_HDR 1 2, 2),
                      (Fld.pluCred.TX_DATA 1 2, 2), (Fld.bankOwn.STATE 527, 1), (Fld.bankOwn.OWNER 527, 0x3001), (Fld.hpuPeer.EN 1, 1), (Fld.hpuStat.LINK_UP, 1),
                      (Fld.pluStat.PEER_MPS 1, 3), (Fld.dpData.VALID 3, 1), (Fld.dpData.NODE 3, 3)] ctx0 with
                      link := [(1, { granted := some (3, 0) })]
                      bme := [0] }
/-- A request of node 3 for the last word of bank 527, and for other targets. -/
def rq (ty dst addr len : Nat) (d : List Byte) : Pkt := { type := ty, vc := 1, dst := dst, src := 3, tag := 77, addr := addr, len := len, fbe := 15,
                                                          lbe := if len ≤ 1 then 0 else 15, data := d }
/-- Hypotheses of RequestsOfPeersAreServed, for its clauses at SELF. -/
theorem test_rq_hyp : stRq.lState 1 = 4 ∧ (stRq.lk 1).fwd = [] ∧ stRq.srcOk 1 3 = true ∧ stRq.route 1 15 1 = .self ∧ stRq.route 3 15 9 = .link 1 15 ∧
    (∀ q ∈ [rq 0x20 1 (0x4000000000 + 528 * 0x10000 - 1) 1 [], rq 0x60 1 (0x4000000000 + 528 * 0x10000 - 1) 1 [1, 2, 3, 4], rq 0x62 1 0 2 [1, 2, 3, 4, 5, 6, 7, 8],
      rq 0x70 1 0 4 [0, 0, 0, 0, 0, 0, 0, 0, 0, 0, 0, 0, 0, 0, 0, 0], rq 0x68 1 15 1 [1, 2, 3, 4]],
      pktShape q = true ∧ malformedWord q = none ∧ reqBad q = false ∧ (stRq.owe 1 1 (dataCredits q)).isSome = true) ∧
    reqBad (rq 0x20 1 127 2 []) = true ∧ stRq.supdPorts (rq 0x68 1 15 1 [1, 2, 3, 4]) = [3] ∧ stRq.supdPorts (rq 0x68 1 1024 1 [1, 2, 3, 4]) = [] := by
  decide +kernel
/-- Hypotheses of its clauses for other targets. -/
theorem test_rq_others : stRq.route 2 15 1 = .host ∧ stRq.hostOk 0 = true ∧ stRq.get (Fld.hpuPeer.EN 1) = 1 ∧ stRq.route 3 15 1 = .unroutable ∧
    stRq.srcOk 1 4 = false ∧ stRq.watchHits none 0 (linesOf 0 4) = [] := by decide +kernel
theorem test_rq_quiet : Quiet stRq := by unfold Quiet; decide +kernel

/-- A machine with port 3 at node 3 of a Joined link, removed or not, and a program that waits for it. -/
def stPr (valid rem : Nat) (tx : AMap Nat Txn) (w : Wait) : State := { stR [(Fld.rtCtl.SELF, 1), (⟨⟨.nodeRtA, 0, 0⟩, 24, 4⟩, 1), (Fld.pluStat.STATE 1, 4),
                                                                       (Fld.dpData.VALID 3, valid), (Fld.dpData.REMOVED 3, rem), (Fld.dpData.NODE 3, 3), (Fld.dpSel.PORT, 3)]
                                                                       { ctx0 with wait := w, regs := { ctx0.regs with bound := some (3, 0) } } with
                                                                       link := [(1, { granted := some (3, 0) })]
                                                                       txn := tx }
/-- Hypotheses of PortsAndTimeouts, for each of its clauses. -/
theorem test_pr_hyp : (stPr 1 0 [] (.drd 4 0 3 0 9)).dependsOn 0 3 = true ∧ (stPr 1 0 [] .none).dependsOn 0 3 = false ∧ (stPr 1 1 [] .none).reachable 3 = true ∧
    (stPr 1 1 [] .none).reachable 4 = false ∧ (stPr 1 1 [] .none).get (Fld.dpData.REMOVED 3) = 1 ∧ (stPr 0 0 [] .none).get (Fld.dpData.VALID 3) = 0 ∧
    (stPr 1 0 [] .none).get Fld.dpSel.PORT = 3 ∧ ((stPr 1 0 [(9, { noTxn with purp := .drd 0, port := some (3, 0) })] .none).txnOf 9).isSome = true ∧
    (∀ w < 4, reservedIn ⟨.dpData, 3, w⟩ 0 = false) ∧ reservedIn ⟨.dpData, 3, 0⟩ 0x30001 = false ∧ ((stPr 0 0 [] .none).setReg ⟨.dpData, 3, 0⟩ 0x30001).portClash 3 = false := by decide +kernel
theorem test_pr_quiet : (∀ v < 2, ∀ r < 2, Quiet (stPr v r [] .none) ∧ Quiet (stPr v r [] (.drd 4 0 3 0 9))) ∧ Unburdened ((stPr 1 0 [] (.drd 4 0 3 0 9)).cx 0) :=
  ⟨fun _ _ _ _ => ⟨Quiet.of_puts _ rfl (by simp; decide), Quiet.of_puts _ rfl (by simp; decide)⟩, by unfold Unburdened; decide +kernel⟩

/-- A machine with bank 527 in a state, busy or not, and the test in a chunk of it or not. -/
def stBk (st busy en ch : Nat) : State := { stR [(Fld.bankOwn.STATE 527, st), (Fld.bankOwn.OWNER 527, 0x2001), (Fld.bankOwn.TEST_OK 527, 1), (Fld.bankOwn.BORROWED 527, 1),
                                            (Fld.bankCmd.BUSY, busy), (Fld.spmCtl.TEST_EN, en), (Fld.testStat.ACTIVE, 1), (Fld.testStat.BANK, 527), (Fld.testStat.CHUNK, ch), (Fld.fclReact.CHIP_RESET 31, 0)] ctx0 with
                                            spm := [(527 * 0x40000, 7), (528 * 0x40000 - 1, 9)] }
/-- Hypotheses of BanksChangeOwnersAndAreTested, for each of its clauses: the last bank, the last chunk. -/
theorem test_bk_hyp : (∀ st < 3, (stBk st 0 1 0).get (Fld.bankOwn.STATE 527) = st) ∧ (stBk 1 1 0 0).get Fld.bankCmd.BUSY = 1 ∧ ownerOk false 0x2FFF = true ∧
    ownerOk false 0x7000 = false ∧ Watched 31 (stBk 0 0 1 61) ∧ (stBk 0 0 1 62).get Fld.testStat.CHUNK + 1 = 63 ∧ (stBk 1 0 1 3).get (Fld.bankOwn.TEST_OK 527) = 1 ∧
    SMap.get (stBk 0 0 1 0).testHold 0 527 = 0 ∧ (stBk 0 0 0 3).get (Fld.bankOwn.BORROWED 527) = 1 := by unfold Watched; decide +kernel
theorem test_bk_quiet : (∀ st < 2, Quiet (stBk st 0 1 5)) ∧ Quiet (stBk 1 1 0 0) ∧ Quiet (stBk 0 0 1 62) := by unfold Quiet; decide +kernel

/-- A machine whose FIFO 63 holds `n` words, pushed by link 3 and read by domain 0x15, of group 7. -/
def stFi (n mark drop : Nat) : State := { stR [(Fld.fifoCfg.EN 63, 1), (Fld.fifoCfg.PROD 63, 0x3003), (Fld.fifoCfg.CONS 63, 0x2015), (Fld.fifoCfg.GROUP 63, 7),
                                          (Fld.fifoWm.HI_WM 63, 4096), (Fld.fifoWm.LO_WM 63, 10), (Fld.fifoPtr.WR 63, n), (Fld.fifoPtrB.WR 63, n), (Fld.fifoStat.MARK_ACT 63, mark),
                                          (Fld.fifoStat.DROP_PKT 63, drop)] ctx0 with
                                          fifoMem := [(63 * 4096, 0x1000000050000000000000009)] }
/-- Hypotheses of EventFifosHoldTheirWords, for each of its clauses: empty, one word, one short of full, full. -/
theorem test_fi_hyp : (∀ n ∈ [0, 1, 4095, 4096], (stFi n 0 0).fLevel 63 = n) ∧ (stFi 1 0 0).fMayPop 63 0x2015 = true ∧ (stFi 1 0 0).fMayPush 63 0x3003 = true ∧
    (stFi 1 0 0).fMayPop 63 0x2016 = false ∧ (stFi 1 0 0).groupPick 7 0x2015 = some 63 ∧ (stFi 0 0 0).groupPick 7 0x2015 = none ∧
    (stFi 1 1 0).get (Fld.fifoStat.MARK_ACT 63) = 1 ∧ (stFi 1 0 0).xDriven 2 = false ∧ State.reset.get (Fld.fifoCfg.EN 63) = 0 ∧
    ((stFi 1 0 0).fWord 63 0).toNat / 2 ^ 116 % 64 = 0 := by decide +kernel
theorem test_fi_quiet (n : Nat) : Quiet (stFi n 0 0) ∧ Quiet (stFi n 1 0) := ⟨Quiet.of_puts _ rfl (by simp; decide), Quiet.of_puts _ rfl (by simp; decide)⟩

/-- A machine with event queue 4095 of the PF, 16 slots, its last slot next, and software source 0x107FF pending for it; source 0x107FE pending as well at a
group priority of `g`, and one in entry or none. -/
def stEq (en g tail head : Nat) (x : EicTgt) : State := { stR [(Fld.hpuStat.LINK_UP, 1), (Fld.eqData.EN 4095, en), (Fld.eqData.LOG2 4095, 4), (Fld.eqData.TAIL 4095, tail),
                                                          (Fld.eqData.HEAD 4095, head), (Fld.eqData.PHASE 4095, 1), (Fld.eqData.VEC 4095, 2047), (Fld.eicCtl.PRIGROUP, 4), (Fld.srcCfg.MASK 0x107FF, 0), (Fld.srcCfg.MASK 0x107FE, 0), (Fld.srcCfg.PRI 0x107FF, 0x30), (Fld.srcCfg.TGT 0x107FF, 4095),
                                                          (Fld.srcStat.PEND 0x107FF, 1), (Fld.srcStat.CNT 0x107FF, 255), (Fld.srcCfg.PRI 0x107FE, 0x10 * g), (Fld.srcCfg.TGT 0x107FE, 4095), 
                                                          (Fld.srcStat.PEND 0x107FE, 1),
                                                          (Fld.srcCfg.MASK 0x10BFF, 0), (Fld.coreEq.EN 3, 1), (Fld.coreEq.LOG2 3, 4), (Fld.coreEq.TAIL 3, 15), (Fld.coreEq.HEAD 3, 15), (Fld.coreEq.PHASE 3, 1), (Fld.srcStat.PEND 0x10BFF, 1)] ctx0 with
                                                          bme := [0]
                                                          eic := [(4095, x), (4099, { held := some (0x10BFF, 0) })] }
/-- A machine in which queue source 17, of an unassigned group, is the one pending source of event queue 4095. -/
def stMr : State := { stR [(Fld.eqData.EN 4095, 1), (Fld.eqData.LOG2 4095, 4), (Fld.srcCfg.MASK 17, 0), (Fld.srcCfg.TGT 17, 4095), (Fld.srcStat.PEND 17, 1), (Fld.qctx.STATE 17, 3)] ctx0 with bme := [0] }
/-- Hypotheses of EventsReachTheirTargets, for each of its clauses: selection, preemption, full, unusable, misrouted, the record with a wrap, a core's record. -/
theorem test_eq_hyp : (stEq 1 5 15 15 {}).tgtPending 4095 = [0x107FE, 0x107FF] ∧ (stEq 1 5 15 15 {}).tgtUsable 4095 = true ∧ (stEq 1 5 15 15 {}).tgtFull 4095 = false ∧
    (∀ r ∈ [0x107FE, 0x107FF], (stEq 1 5 15 15 {}).routeOk r = true) ∧ (stEq 1 5 15 15 {}).grpPri 0x30 < (stEq 1 5 15 15 {}).grpPri 0x50 ∧
    (stEq 1 5 15 0 {}).tgtFull 4095 = true ∧ (stEq 0 5 15 0 {}).tgtUsable 4095 = false ∧ stMr.tgtPending 4095 = [17] ∧ stMr.routeOk 17 = false ∧
    stMr.tgtUsable 4095 = true := by decide +kernel
theorem test_eq_rec : (let s : State := { stEq 1 2 15 15 {} with eic := [(4095, { held := some (0x107FF, 0x30) })] }
    (s.arbDecide { kind := akEic } s.eicReqs s.eicHp 1).map (·.1) = some 4095) ∧
    (stEq 1 2 15 15 {}).hostOk 0 = true ∧ (stEq 1 2 15 15 {}).translated 0 240 = true ∧ (stEq 1 2 15 15 {}).watchHits none 0 (linesOf 240 16) = [] ∧
    (stEq 1 2 15 15 {}).get (Fld.srcCfg.MASK 0x107FF) = 0 ∧ (stEq 1 2 15 15 {}).tgtUsable 4099 = true ∧ (stEq 1 2 15 15 {}).tgtFull 4099 = false ∧
    (let s := stEq 1 2 15 15 { held := some (0x107FF, 0x30) }
     (s.arbDecide { kind := akEic } s.eicReqs s.eicHp 1).map (·.1) = some 4099) ∧ ((stEq 1 2 15 15 { due := true }).et 4095).due = true ∧ 2047 < msixCount 0 ∧
    (stEq 1 2 15 15 {}).reaches (ownAcc 0) = true ∧ (stEq 1 2 15 15 {}).get Fld.hpuStat.MODE = 0 ∧ isLevel 0x10406 = true ∧ isLevel 0x107FF = false ∧
    reservedIn ⟨.eqDb, 1023, 0⟩ 0xFFFFF00000FFF = false ∧ reservedIn ⟨.srcCfg, 0x10BFF, 0⟩ 0x3FFFFF = false ∧ (stEq 0 5 15 15 {}).eqFar 4095 = false ∧ (stEq 0 5 15 15 {}).eqClash 4095 = false := by decide +kernel
theorem test_eq_quiet : Quiet (stEq 1 5 15 15 {}) ∧ Quiet (stEq 1 2 15 15 { held := some (0x107FF, 0x30) }) ∧ Quiet stMr := by unfold Quiet; decide +kernel

/-- A machine in which some FSW bits, and the reaction set of a block, are given; context 511 of cluster 3 may run. -/
def stFl2 (b w blockr chip cnt : Nat) (l : List (Field × Nat)) : State := { stR ([(Fld.fclFsw.FSW, w), (Fld.fclFirst.FIRST_V, 1), (Fld.fclFirst.FIRST, 6),
                                                                            (Fld.fclReact.BLOCK_RESET b, blockr), (Fld.fclReact.CHIP_RESET b, chip), (Fld.fclReact.RST_CNT b, cnt), (Fld.fclReact.PIN b, 1), (Fld.fclReact.INT b, 1),
                                                                            (Fld.fclReact.NMI b, 1)] ++ l) ctx0 with
                                                                            ctx := [(511, ctx0)] }
/-- Hypotheses of FaultsAreLoggedRecordedAndReactedTo, for each of its clauses: the first and last block of each kind, the reactions, the limit. -/
theorem test_fcl_hyp : (∀ b ∈ [9, 20, 21, 24, 25, 28, 29, 31, 32, 33, 42, 63], Watched b (stFl2 b 0 0 0 0 [])) ∧ hasErrLog 63 = true ∧ kindOk 63 2 = true ∧
    kindOk 9 1 = true ∧ kindOk 42 9 = true ∧ (stFl2 42 0 1 0 8 []).get Fld.fclCtl.ESC_LIMIT = 8 ∧ (stFl2 15 0 1 0 7 []).get (Fld.fclReact.RST_CNT 15) = 7 ∧
    (stFl2 35 0 0 1 0 []).get (Fld.fclReact.CHIP_RESET 35) = 1 ∧ (stFl2 35 0 0 1 0 []).fltLine 35 = false ∧
    (stFl2 9 (2 ^ 9) 0 0 0 [(Fld.errLog.VALID 9, 1)]).get (Fld.errLog.VALID 9) = 1 ∧ clusterOf 511 = 15 - 12 ∧ ((stFl2 15 0 1 0 0 []).cx 511).live = true := by
  unfold Watched; decide +kernel
theorem test_fcl_unb : Unburdened ((stFl2 15 0 1 0 0 []).cx 511) ∧ ((stFl2 15 0 1 0 0 []).cx 511).posted = false ∧ ((stFl2 15 0 1 0 0 []).cx 511).lock = none := by
  unfold Unburdened; decide +kernel
theorem test_fcl_fsw : (stFl2 9 (2 ^ 9) 0 0 0 [(Fld.errLog.VALID 9, 1)]).fltLine 9 = true ∧ (stFl2 9 (2 ^ 9 + 1) 0 0 0 []).fltLine 0 = false ∧
    (stFl2 9 (2 ^ 9) 0 0 0 []).fswWith Fld.fclReact.PIN = true ∧ (stFl2 9 0 0 0 0 []).fswWith Fld.fclReact.PIN = false ∧
    ({ stFl2 9 0 0 0 0 [] with inReset := [9, 40] } : State).xfer = [] ∧ (stFl2 63 (2 ^ 63) 0 0 0 [(Fld.fclReact.HELD 63, 1)]).get (Fld.fclReact.HELD 63) = 1 := by decide +kernel
theorem test_fcl_quiet : Quiet (stFl2 9 (2 ^ 9) 0 0 0 [(Fld.errLog.VALID 9, 1)]) ∧ Quiet (stFl2 15 0 1 0 0 []) ∧ Quiet (stFl2 9 0 0 0 0 []) ∧ Quiet (stFl2 42 0 1 0 8 []) ∧
    Quiet { stFl2 9 0 0 0 0 [] with inReset := [9, 40] } := by unfold Quiet; decide +kernel

/-- A machine in cold reset with both reset inputs low. -/
def stRs : State := { State.reset with pkgReset := false, pwrGood := false }
/-- Hypotheses of ResetsAndPinsFollowTheirEvents, for each of its clauses. -/
theorem test_rs_hyp : State.reset.pkgReset = false ∧ State.reset.pwrGood = true ∧ State.reset.chipPend = none ∧ stRs.pwrGood = false ∧
    (∀ c < 7, ({ stRs with chipPend := some c } : State).chipPend = some c) ∧ stRs.chipReset = false ∧ stRs.faultLow = stRs.fswWith Fld.fclReact.PIN ∧
    ({ stRs with pkgReset := true } : State).pkgReset = true ∧ ({ stRs with chipReset := true } : State).chipReset = true := by decide +kernel
theorem test_rs_regs : ∀ r ∈ (stFl2 9 (2 ^ 9) 0 1 3 []).regs, r.2 ≠ r.1.reset ∧ ∀ r' ∈ (stFl2 9 (2 ^ 9) 0 1 3 []).regs, r'.1 = r.1 → r' = r := by decide +kernel

/-- A machine whose window 5 holds a request, its GO given or not, firmware ready or not; four other windows' commands run or none. -/
def stMb (busy ready hdr : Nat) (pay : Nat) (run : List AcpCmd) : State := { stR [(Fld.mbStat.BUSY 5, busy), (Fld.dvsec.FW_READY, ready), (⟨⟨.mbReq, 5, 0⟩, 0, 64⟩, hdr),
                                                                             (⟨⟨.mbReq, 5, 1⟩, 0, 64⟩, pay), (Fld.mbCfg.IRQ_DONE 5, 1)] ctx0 with
                                                                             boot := .ready
                                                                             acp := run }
/-- Hypotheses of MailboxWindowsCarryOneCommand, for each of its clauses: a right request, an expert-level one of a VF, a wrong length, reserved bits. -/
theorem test_mb_hyp : (stMb 0 1 0 0 []).fwReady = true ∧ (stMb 0 0 0 0 []).fwReady = false ∧ (stMb 1 1 0x41705 0x2009 []).mailPending = [5] ∧
    ((stMb 1 1 0x41705 0x2009 []).arbDecide { kind := akMail } [5] (fun _ => false) 1).map (·.1) = some 5 ∧ acpFrame 5 0x41705 0x2009 = none ∧
    acpRow (0x41740 % 256) ≠ none ∧ acpFrame 5 0x41740 0 = some (1, 0) ∧ acpFrame 5 0x81705 0 = some (2, 0) ∧ acpFrame 5 0x1041705 0 = some (3, 0) ∧
    acpFrame 5 0x41705 0x1002009 = some (3, 2) ∧ acpFrame 5 0x61702 0 = some (2, 0) ∧
    (stMb 1 1 0 0 [{ win := 1, hdr := 1, pay := 0 }, { win := 2, hdr := 1, pay := 0 }, { win := 3, hdr := 1, pay := 0 }, { win := 4, hdr := 1, pay := 0 }]).acp.length = 4 ∧
    (stMb 1 1 0x41705 0x2009 []).castle = none ∧ (stMb 1 1 0 0 []).get Fld.pcmStat.DSTATE ≠ 1 := by decide +kernel
theorem test_mb_own : (stMb 1 1 0 0 []).reaches .pf = true ∧ ({ stMb 1 1 0 0 [] with vfEn := true } : State).reaches (ownAcc 5) = true ∧
    ({ stMb 1 1 0 0 [] with d3hot := [0, 5] } : State).reaches (ownAcc 5) = false ∧ (stMb 1 1 0 0 []).deferred = [] := by decide +kernel
theorem test_mb_quiet (b r h p : Nat) (l : List AcpCmd) : Quiet (stMb b r h p l) := Quiet.of_puts _ rfl (by simp; decide)

/-- A command of window 5 with an opcode, a length and a payload. -/
def cmd5 (opc len pay : Nat) : AcpCmd := { win := 5, hdr := opc + 0x1700 + len * 2 ^ 16, pay := pay }
/-- A machine that runs it: VF 5 owns group 0x200, domain 0x120, event queue 7, pool 3, port 9 and key slot 2. -/
def stBa (c : AcpCmd) : State := { stR [(Fld.mbStat.BUSY 5, 1), (Fld.hpuStat.LINK_UP, 1), (Fld.dvsec.FW_READY, 1), (Fld.grp.ASSIGNED 0x200, 1), (Fld.grp.FUNC 0x200, 5), (Fld.pdData.FUNC 0x120, 5),
                                   (Fld.pdData.VALID 0x120, 1), (Fld.pdData.ST_LOG2 0x120, 4), (Fld.eqData.FUNC 7, 5), (Fld.poolData.PDOM 3, 0x120), (Fld.poolData.EN 3, 1), (Fld.poolData.NBUF 3, 4), (Fld.poolData.FRESH 3, 4),
                                   (Fld.dpData.PDOM 9, 0x120), (Fld.srcCfg.MASK 0x10005, 0)] ctx0 with
                                   ctx := []
                                   bme := [0]
                                   acp := [c] }
/-- Hypotheses of BasicAcpCommandsAnswer: each command runs alone with the right framing, for own resources and for others. -/
theorem test_ba_srv : ∀ e ∈ [(1, 0, 0), (2, 104, 7), (3, 4, 0xFFF), (4, 32, 0x2009 + 6 * 2 ^ 64 + 6 * 2 ^ 128 + 0x1200105 * 2 ^ 192), (5, 4, 0x2009), (6, 4, 0x112009), (7, 4, 0x120),
      (8, 40, 0x120 + 15 * 2 ^ 16 + 1 * 2 ^ 32), (9, 4, 0x120 + 15 * 2 ^ 16), (10, 32, 7 + 0x21 * 2 ^ 64), (11, 16, 0x10005 + 2 ^ 32), (12, 72, 2 + 0x120 * 2 ^ 16), (13, 4, 2),
      (14, 8, 3 + 3 * 2 ^ 32), (15, 4, 3), (16, 4, 9), (17, 0, 0), (18, 0, 0), (19, 0, 0)],
    let c := cmd5 e.1 e.2.1 e.2.2
    (∀ d ∈ (stBa c).acp, d.win = c.win → d = c) ∧ c.opc = e.1 ∧ acpFrame c.win c.hdr c.pay = none ∧ c.pay < 2 ^ 832 ∧ c.hdr < 2 ^ 64 ∧ (stBa c).acpBarred c = false := by
  decide +kernel
theorem test_ba_holds (b : Nat) : (stBa (cmd5 4 32 0)).holds b = false := by
  have h : (stBa (cmd5 4 32 0)).get Fld.cfsStat.STATE = 0 := by decide +kernel
  simp [State.holds, h]
theorem test_ba_own : let s := stBa (cmd5 1 0 0)
    s.ownGroup 5 0x200 = true ∧ s.ownGroup 5 0x201 = false ∧ s.get (Fld.qctx.STATE 0x2009) = 0 ∧ s.ownDom 5 0x120 = true ∧ s.ownDom 5 0x121 = false ∧ s.selBad 0x120 15 = false ∧
    s.selBad 0x120 16 = true ∧ s.ownEq 5 7 = true ∧ s.ownEq 5 8 = false ∧ s.queueRings none ++ s.eventRings (some 7) = [] ∧ s.ownSrc 5 0x10005 = true ∧ s.ownSrc 5 0x10006 = false ∧ s.ownKey 5 2 = true ∧ s.ownPool 5 3 = true ∧
    s.ownPool 5 4 = false ∧ s.ownPort 5 9 = true ∧ s.ownPort 5 8 = false ∧ s.hostOk 0 = true ∧ s.inv = none ∧ s.alreadyFree 3 3 = false ∧
    s.stuTaken (cmd5 8 40 0) = false ∧ s.watchHits none 0 (linesOf 480 32) = [] ∧ s.eic = [] ∧ s.get (Fld.srcCfg.MASK 0x10005) = 0 ∧ s.segCache = [] := by decide +kernel
theorem test_ba_quiet : Quiet (stBa (cmd5 4 32 0)) := by unfold Quiet; decide +kernel

/-- A command of the PF's window, and a machine that runs it: domain 0x120 valid or not, node 3 reachable over link 1, pool 3 on or off. -/
def cmd0 (opc len pay : Nat) : AcpCmd := { win := 0, hdr := opc + len * 2 ^ 16, pay := pay }
def stEx (valid en : Nat) (c : AcpCmd) : State := { stR [(Fld.mbStat.BUSY 0, 1), (Fld.hpuStat.LINK_UP, 1), (Fld.dvsec.FW_READY, 1), (Fld.pdData.VALID 0x120, valid), (Fld.pdData.ST_LOG2 0x120, 4),
                                                    (Fld.poolData.EN 3, en), (Fld.poolData.NBUF 3, 4), (Fld.rtCtl.SELF, 1), (⟨⟨.nodeRtA, 0, 0⟩, 24, 4⟩, 1), (Fld.pluStat.STATE 1, 4)] ctx0 with
                                                    ctx := []
                                                    bme := [0]
                                                    link := [(1, { granted := some (3, 0) })]
                                                    acp := [c] }
/-- Hypotheses of ExpertAcpCommandsAnswer: each command runs alone with the right framing. -/
theorem test_ex_srv : ∀ e ∈ [(0x40, 16, 0x200 + 0xB * 2 ^ 64), (0x41, 40, 0x120 + 0x2001 * 2 ^ 64), (0x42, 4, 7 + 5 * 2 ^ 16), (0x43, 4, 3 + 2 * 2 ^ 16), (0x44, 40, 9 + 0x30004 * 2 ^ 64),
      (0x45, 72, 3 + 0x90 * 2 ^ 64 + 8 * 2 ^ 192), (0x46, 16, 7 + 7 * 2 ^ 64), (0x47, 12, 527 + 2 ^ 10 + 2 ^ 64), (0x48, 24, 63 + 0x100 * 2 ^ 64 + 0x00010002 * 2 ^ 128),
      (0x49, 8, 1 + 4 * 2 ^ 32), (0x4A, 12, 0x10000 + 3 * 2 ^ 64)],
    let c := cmd0 e.1 e.2.1 e.2.2
    (∀ d ∈ (stEx 1 0 c).acp, d.win = c.win → d = c) ∧ c.opc = e.1 ∧ acpFrame c.win c.hdr c.pay = none ∧ c.pay < 2 ^ 832 ∧ c.hdr < 2 ^ 64 ∧ (stEx 1 0 c).acpBarred c = false := by
  decide +kernel
theorem test_ex_hyp : let s := stEx 1 0 (cmd0 0x41 40 0)
    (∀ i < 16, s.get (Fld.qctx.STATE (0x200 * 16 + i)) = 0) ∧ s.stuTaken (cmd0 0x41 40 0) = false ∧ s.libSel = 0 ∧ s.inv = none ∧ s.xfer = [] ∧ s.reachable 3 = true ∧ s.reachable 4 = false ∧
    s.get (Fld.dpData.VALID 9) = 0 ∧ (stEx 1 1 (cmd0 0x45 72 0)).get (Fld.poolData.EN 3) = 1 ∧ s.extOut 7 = 0 ∧ s.fLevel 63 = 0 ∧ s.hostOk 0 = true ∧
    (s.regs.filter fun e => e.1.id == .pdData && e.1.j == 0).length = 1 ∧ (∀ e ∈ s.regs, e.1.id = .pdData → e.1.i = 0x120) ∧ s.deferred = [] ∧ s.on Fld.hpuStat.MODE = false ∧
    (∀ j < 4, maskBits ((cmd0 0x45 72 (3 + 2 ^ 64 + 4 * 2 ^ 192)).word (8 + 8 * j)) (cfgMask ⟨.poolData, 3, j⟩) =
      maskBits ((stEx 1 1 (cmd0 0x45 72 0)).reg ⟨.poolData, 3, j⟩).toNat (cfgMask ⟨.poolData, 3, j⟩)) := by decide +kernel
/-- A left fold that evaluates its accumulator at every step. -/
def foldNow (f : Nat → Nat → Nat) : Nat → List Nat → Nat
  | a, [] => a
  | 0, b :: l => foldNow f (f 0 b) l
  | a + 1, b :: l => foldNow f (f (a + 1) b) l
theorem test_foldNow_eq (f : Nat → Nat → Nat) (l : List Nat) : ∀ a, foldNow f a l = l.foldl f a := by
  induction l with
  | nil => intro a; cases a <;> rfl
  | cons b l ih => intro a; cases a <;> simp [foldNow, ih]
/-- A descriptor with two ports, without its CRC. -/
def dsc : List Byte := toBytes 4 0x414F4C52 ++ toBytes 8 1 ++ toBytes 4 0x1102 ++ List.replicate 0xF0 0 ++ toBytes 8 0 ++ toBytes 8 0x10000 ++ toBytes 8 0x100000 ++ toBytes 8 0x1000 ++
  toBytes 8 0x10000 ++ toBytes 8 0x11000 ++ toBytes 16 0 ++ List.replicate (0xFFC - 0x140) 0
theorem test_ex_crc : foldNow (crcByte 0x82F63B78) (2 ^ 32 - 1) (dsc.map BitVec.toNat) ^^^ (2 ^ 32 - 1) = 0xa8e39d66 := by decide +kernel
theorem test_ex_desc : descOk (dsc ++ toBytes 4 0xa8e39d66) = true := by
  have l : dsc.length = 0xFFC := by decide +kernel
  have t : (dsc ++ toBytes 4 0xa8e39d66).take 0xFFC = dsc := List.take_left' l
  have c : crcRefl 0x82F63B78 32 (dsc.map BitVec.toNat) = 0xa8e39d66 := by rw [crcRefl, ← test_foldNow_eq]; exact test_ex_crc
  have a : ((dsc ++ toBytes 4 0xa8e39d66).length == 4096 && imgNum (dsc ++ toBytes 4 0xa8e39d66) 0 4 == 0x414F4C52 && imgNum (dsc ++ toBytes 4 0xa8e39d66) 4 1 == 1 &&
      decide (imgNum (dsc ++ toBytes 4 0xa8e39d66) 0xC 1 % 128 ≤ 119) && decide (imgNum (dsc ++ toBytes 4 0xa8e39d66) 0xD 1 % 16 ≤ 8)) = true := by decide +kernel
  have e : imgNum (dsc ++ toBytes 4 0xa8e39d66) 0xFFC 4 = 0xa8e39d66 := by decide +kernel
  have w : disjointAll ((List.range (imgNum (dsc ++ toBytes 4 0xa8e39d66) 0xC 1 % 128)).flatMap (descWindows (dsc ++ toBytes 4 0xa8e39d66))) = true := by decide +kernel
  unfold descOk
  simp only [t, c, e, w, a, Bool.and_true, beq_self_eq_true]
/-- The reading of a descriptor for PORT_PROPOSE: begun over link 1 with tag 0, and finished. -/
theorem test_ex_propose : let s : State := { stEx 1 0 (cmd0 0x43 4 (3 + 2 * 2 ^ 16)) with regs := ((stEx 1 0 (cmd0 0x43 4 0)).putAll [(Fld.pluCred.TX_HDR 1 3, 1)]).regs }
    s.reachable 3 = true ∧ (s.freeTag 3).isSome = true ∧ s.route 3 15 9 = .link 1 15 ∧ 1 ≤ s.get (Fld.pluCred.TX_HDR 1 3) ∧
    (({ s with disc := [(proposeKey 0, { node := 3, got := dsc ++ toBytes 4 0xa8e39d66, stage := 3 })] } : State).discOf (proposeKey 0)).stage = 3 := by decide +kernel
theorem test_ex_quiet : Quiet (stEx 1 0 (cmd0 0x41 40 0)) ∧ Quiet (stEx 0 1 (cmd0 0x45 72 0)) := by unfold Quiet; decide +kernel

/-- A configuration image: its version, its modes, and one section of a block with one record. -/
def cim (ver blk off val : Nat) : List Byte :=
  toBytes 4 0x47464342 ++ toBytes 4 1 ++ toBytes 4 ver ++ toBytes 4 0xA0 ++ toBytes 4 0 ++ toBytes 4 1 ++ toBytes 8 0 ++ List.replicate 96 0 ++
    toBytes 16 (blk + 2 ^ 32) ++ toBytes 8 (off + 2 ^ 26) ++ toBytes 8 val
/-- A machine with two slots, whose versions 7 and 8 differ in PGM 1's staleness bound, and with a command; a castling stands at `st`, its blocks switched as `sw` says. -/
def stCf (st part sw : Nat) (k : Option Castle) (c : List AcpCmd) (pv : Option Nat := none) : State := { stR [(Fld.mbStat.BUSY 0, 1), (Fld.cfsStat.STATE, st), (Fld.cfsPart.MAP, part), (Fld.cfsSwmap.MAP, sw), (Fld.hpuStat.LINK_UP, 1), (Fld.dvsec.FW_READY, 1)] ctx0 with
  ctx := []
  bme := [0]
  cfgOn := true
  cfgSlot := [(0, cim 7 13 0x020D0100 0x18), (1, cim 8 13 0x020D0100 0x1A)]
  roleA := { seq := 5, ok := true, active := some 0, prev := pv, staged := some 1 }
  castle := k
  acp := c }
def cas (rb : Bool) (w : Option Nat) : Castle := { slot := 1, byRollback := rb, startTs := 9, win := w }
/-- The same image with its digest. -/
def cimd (ver blk off val : Nat) : List Byte :=
  let b := cim ver blk off val
  b.take 0x20 ++ sha384 b ++ b.drop 0x50
/-- Hypotheses of ConfigurationsAreStagedAndCastled: the commands run with the right framing, an image passes the checks, and the Previous slot is valid. -/
theorem test_cf_srv : ∀ e ∈ [(0x4E, 0, 0, 0), (0x4B, 12, 0x1000 + 0xA0 * 2 ^ 64, 0), (0x4B, 12, 0x1000 + 0xA0 * 2 ^ 64, 1), (0x4C, 8, 8 + 400 * 2 ^ 32, 0), (0x4D, 0, 0, 0)],
    let c : AcpCmd := { win := 0, hdr := e.1 + e.2.1 * 2 ^ 16, pay := e.2.2.1, phase := e.2.2.2 }
    let s := stCf 0 0 0 none [c]
    (∀ d ∈ s.acp, d.win = c.win → d = c) ∧ c.opc = e.1 ∧ acpFrame c.win c.hdr c.pay = none ∧ c.pay < 2 ^ 832 ∧ c.hdr < 2 ^ 64 ∧ s.acpBarred c = false ∧ s.hostOk 0 = true := by
  decide +kernel
theorem test_cf_roles : let s := stCf 0 0 0 none []
    s.roles.staged = some 1 ∧ s.slotVer (some 1) = 8 ∧ s.planWant = none ∧ s.planWait = [] ∧ s.deferred = [] ∧ s.stagedPlan = false ∧ s.validPrev = none ∧ s.castle = none := by decide +kernel
theorem test_cf_stage : (stCf 1 0 0 none []).stageCheck (cimd 9 13 0x020D0100 0x1A) = none := by decide +kernel
theorem test_cf_stage_bad : (stCf 1 0 0 none []).stageCheck (cim 9 13 0x020D0100 0x1A) = some (11, none) ∧
    (stCf 1 0 0 none []).stageCheck (cim 9 13 0x020D0104 0x1A) = some (3, some 0x90) := by decide +kernel
theorem test_cf_prev : ({ stCf 0 0 0 none [] (some 2) with cfgSlot := [(2, cimd 6 13 0x020D0100 0x1A)] } : State).validPrev = some 2 := by decide +kernel
theorem test_cf_quiet : Quiet (stCf 2 0x2000 (2 ^ 64 - 1) (some (cas false (some 0))) []) := by unfold Quiet; decide +kernel
theorem test_cf_move : let k := cas false (some 0)
    (stCf 2 0x2000 (2 ^ 64 - 1 - 0x2000) (some k) []).safePoint (stCf 2 0x2000 (2 ^ 64 - 1 - 0x2000) (some k) []).newVer 13 = true ∧
    (let u := stCf 2 0x2000 (2 ^ 64 - 1 - 0x2000) (some k) []
     (u.blkSwitch u.newVer 13).tableBad u.newVer 13 = none) ∧
    (stCf 3 0x2000 (2 ^ 64 - 1) (some k) []).safePoint (stCf 3 0x2000 (2 ^ 64 - 1) (some k) []).activeVer 13 = true ∧
    (let s := stCf 2 0x2000 (2 ^ 64 - 1) (some k) []
     s.kingBad s.activeVer s.newVer = false ∧ differIn s.activeVer s.newVer 37 = false ∧ differIn s.activeVer s.newVer 38 = false ∧ s.get Fld.failLog.VALID = 0 ∧ s.fwHolds 10 = false) := by decide +kernel
theorem test_cf_late : Watched 36 (stCf 3 0x6000 (2 ^ 64 - 1 - 0x4000) (some (cas false (some 0))) [{ win := 0, hdr := 0x8004C, pay := 8, phase := 1 }]) := by unfold Watched; decide +kernel
theorem test_cf_king : let s := stCf 2 0x800 (2 ^ 64 - 1) (some (cas false (some 0))) []
    let u : State := { s with regs := (s.putAll [(Fld.qctx.STATE 0, 1)]).regs, cfgSlot := [(0, cim 7 13 0x020D0100 0x18), (1, (cim 8 10 0x020A00A0 0).set 0x10 4)] }
    u.kingBad u.activeVer u.newVer = true := by decide +kernel

/-- Forty-eight big-endian bytes. -/
def be48 (n : Nat) : List Byte := (toBytes 48 n).reverse
/-- The x and y of a key that a small signature of the header below fits, and that signature. -/
def sgX : Nat := 0x0238F1EA82BD0A33C11D7DA32EE5D1A1E202713BFE15333F13B11A0D22D53036C988B4DF9187863D391F54625CD7048D
def sgY : Nat := 0x3958A83FCE72D2BE3C22AB0846DF8E26CF0246371EDC910E35747AD92BEB687E67F07CD664C6E314124E026CAA49661E
def sgE : Nat := 0x280C06219B898AFA7073ED461C8EA05CDAB46E1218C4DA5E4B6E1C9CB6A1572DBD61A523A2B0B18705BBEB849FCB0C0E
/-- A firmware image of 256 zero bytes at address 0, signed with key slot 0. -/
def fwHd : List Byte :=
  toBytes 4 0x57464342 ++ toBytes 4 1 ++ toBytes 8 4 ++ toBytes 16 256 ++ sha384 (List.replicate 256 0) ++ List.replicate 176 0
def fwIm : List Byte :=
  fwHd ++ List.replicate 256 0 ++ toBytes 16 0x47534342 ++ be48 sgX ++ be48 sgY ++ be48 sgE ++ be48 sgE ++ List.replicate 48 0
/-- A machine at a boot stage, with fields set and with a command of window 0. -/
def stBt (b : BootStage) (l : List (Field × Nat)) (c : List AcpCmd) : State := { stR ([(Fld.mbStat.BUSY 0, 1), (Fld.hpuStat.LINK_UP, 1)] ++ l) ctx0 with
  ctx := []
  bme := [0]
  boot := b
  acp := c }
def cmdB (opc len pay ph : Nat) (ab : Bool := false) : AcpCmd := { win := 0, hdr := opc + len * 2 ^ 16, pay := pay, phase := ph, aborted := ab }
/-- The image passes the checks of R449 where the vendor's key hash 0 is that of its key: the hash is fused, and a constant of Config without a body. -/
theorem test_bt_valid (h : Config.vendorHash 0 = sha384 (be48 sgX ++ be48 sgY)) : State.reset.fwCheck fwIm = none := by
  have a : fwHdrOk fwIm = true := by decide +kernel
  have b : (sha384 (fwBody fwIm) != fwDigest fwIm) = false := by decide +kernel
  have k : sigKey (fwVendorBlk fwIm) = 0 := by decide +kernel
  have p : sha384 (((fwVendorBlk fwIm).drop 0x10).take 48 ++ ((fwVendorBlk fwIm).drop 0x40).take 48) = sha384 (be48 sgX ++ be48 sgY) := by
    decide +kernel
  have e : ((fwVendorBlk fwIm).length == 256 && imgNum (fwVendorBlk fwIm) 0 4 == 0x47534342 &&
      (imgNum (fwVendorBlk fwIm) 4 1 / 4 % 2 == 1) == false && State.reset.keyLive false 0 &&
      ecdsaOk (beNum (((fwVendorBlk fwIm).drop 0x10).take 48)) (beNum (((fwVendorBlk fwIm).drop 0x40).take 48))
        (beNum (((fwVendorBlk fwIm).drop 0x70).take 48)) (beNum (((fwVendorBlk fwIm).drop 0xA0).take 48))
        (sha384 (fwIm.take 0x100 ++ (fwVendorBlk fwIm).take 16))) = true := by decide +kernel
  have s : State.reset.sigOk false (fwVendorBlk fwIm) (fwIm.take 0x100) = true := by
    simp only [Bool.and_eq_true] at e
    obtain ⟨⟨⟨⟨e1, e2⟩, e3⟩, e4⟩, e5⟩ := e
    simp only [State.sigOk, State.keyHash, k, h, p, e1, e2, e3, e4, e5]; simp
  have v : decide (fwSvn fwIm < State.reset.fuses.fwSvn) = false := by decide +kernel
  have o : (State.reset.fuses.ownFw || fwOwned fwIm) = false := by decide +kernel
  have v' := of_decide_eq_false v
  simp only [State.fwCheck, a, b, s, v', o]; simp
/-- Hypotheses of DeviceBootsRecoversAndAttests: the commands run with the right framing; the fuse check fails once and again; no slot is valid. -/
theorem test_bt_srv : ∀ e ∈ [(0x4F, 12, 0x1000 + 0x300 * 2 ^ 64, 0), (0x4F, 12, 0x1000, 1), (0x4F, 12, 0x1000, 2), (0x80, 0, 0, 0), (0x81, 12, 0x1000, 0), (0x81, 12, 0x1000, 1), (0x82, 16, 0x1000 + 2 ^ 96, 1),
      (0x82, 16, 0x1000 + 2 ^ 96, 2), (0x83, 56, 0x302 + 7 * 2 ^ 64, 0), (0x84, 0, 0, 0)],
    let c := cmdB e.1 e.2.1 e.2.2.1 e.2.2.2
    let s := stBt .recovery [] [c]
    (∀ d ∈ s.acp, d.win = c.win → d = c) ∧ c.opc = e.1 ∧ acpFrame c.win c.hdr c.pay = none ∧ c.pay < 2 ^ 832 ∧ c.hdr < 2 ^ 64 ∧ s.acpBarred c = false ∧ s.hostOk 0 = true := by
  decide +kernel
theorem test_bt_fuse : Watched 35 (stBt .rom [(Fld.fclReact.CHIP_RESET 35, 0)] []) := by unfold Watched; decide +kernel
theorem test_bt_hyp : ((stBt .rom [(Fld.fclFsw.FSW, 2 ^ 35)] []).get Fld.fclFsw.FSW).testBit 35 = true ∧ (stBt .rom [(Fld.glbBoot.RCV_REQ, 1)] []).get Fld.glbBoot.RCV_REQ = 1 ∧
    (stBt .rom [] []).fwValid 0 = false ∧ (stBt .rom [] []).fwValid 1 = false ∧ (stBt .rom [] []).get (Fld.errLog.VALID 35) = 0 ∧ (stBt .firmware [] []).bootSlot = none ∧
    (stBt .firmware [] []).pluBad 0 = false ∧ (stBt .recovery [] []).fuses.okProg.testBit 2 = false ∧ (stBt .ready [] []).fwCheck [] = some 3 ∧
    (stBt .ready [(Fld.dvsec.FW_READY, 1)] []).get Fld.hpuStat.MODE = 0 := by decide +kernel
theorem test_bt_boot : ({ stBt .rom [] [] with cfgSlot := [(1, cimd 7 13 0x020D0100 0x18)], roleA := { seq := 1, ok := true, prev := some 1 } } : State).bootSlot = some (1, true) := by
  decide +kernel
theorem test_bt_quiet : Quiet (stBt .rom [] []) := by unfold Quiet; decide +kernel

/-- A machine with no context, with fields set; King slot 85 (cluster 5, engine 14) is valid where `l` says so. -/
def stPw (l : List (Field × Nat)) : State := { stR l ctx0 with ctx := [] }
def kingL : List (Field × Nat) := [(Fld.kstActive.VALID 85, 1), (Fld.qscCtl.KING_EN, 1)]
/-- Hypotheses of PowerClocksAndVoltageMove, for each of its clauses. -/
theorem test_pw_eng : let s := stPw kingL
    s.w 3 = 0 ∧ s.kingEngine 94 = true ∧ s.kingEngine 95 = false ∧ s.warmEngine 1 = true ∧ s.warmEngine 2 = false ∧ (stPw [(⟨⟨.engState, 0, 0⟩, 4, 2⟩, 1)]).w 2 = 1 ∧
    (stPw [(⟨⟨.engState, 0, 0⟩, 4, 2⟩, 2)]).w 2 = 2 ∧ (stPw [(⟨⟨.engState, 0, 0⟩, 2, 2⟩, 3)]).w 1 = 3 ∧ s.liveCtx = [] ∧ NSet.has s.waking 3 = false ∧
    NSet.has ({ s with waking := [3] } : State).waking 3 = true := by decide +kernel
theorem test_pw_sleep : let s := stPw kingL
    s.get Fld.pcmCtl.DOZE_EN = 1 ∧ s.mailPending = [] ∧ s.xfer = [] ∧ s.acp = [] ∧ (∀ q < 17, s.get (Fld.qctx.IN_FLIGHT q) = 0) ∧ (stPw [(Fld.qctx.IN_FLIGHT 65535, 1)]).get (Fld.qctx.IN_FLIGHT 65535) = 1 ∧
    (stPw [(Fld.pcmCtl.SLEEP_REQ, 1)]).get Fld.pcmCtl.SLEEP_REQ = 1 ∧ (stPw [(Fld.pcmStat.DSTATE, 2)]).get Fld.pcmStat.DSTATE = 2 ∧ s.get Fld.pcmCtl.WAKE_EN / 2 ^ 5 % 2 = 1 ∧
    s.wakeLow = false := by decide +kernel
theorem test_pw_idle (q : Nat) : State.reset.get (Fld.qctx.IN_FLIGHT q) = 0 := by
  simp [State.get, State.reg, State.reset, Fld.qctx.IN_FLIGHT, AMap.get, Reg.reset, rowsOf, bitsOf]
theorem test_pw_volt : (stPw [(Fld.pcmStat.VDD_MV, 790)]).vddTarget = 794 ∧ (stPw [(Fld.pcmStat.VDD_MV, 790)]).get Fld.pcmStat.VDD_MV = 790 ∧
    (∀ c < 8, (stPw [(Fld.pcmStat.VDD_MV, 800)]).clk c ≤ (stPw [(Fld.pcmStat.VDD_MV, 800)]).effTarget c) ∧ ({ stPw [] with eclk := [(2, 15)] } : State).clk 2 = 14 ∧
    ({ stPw [] with eclk := [(2, 25)] } : State).clk 2 = 24 ∧ (stPw []).effTarget 2 = 16 := by decide +kernel
theorem test_pw_avs : Watched 40 (stPw [(Fld.fclReact.CHIP_RESET 40, 0)]) := by unfold Watched; decide +kernel
theorem test_pw_falls : let s : State := { stPw kingL with throttle := (List.range 8).map fun c => (c, if c = 5 then 9 else 1) }
    s.kingLow = false ∧ s.kingCluster 5 = true ∧ s.effTarget 5 = 8 ∧ (∀ c < 8, c ≠ 5 → s.effTarget c = 0 ∧ s.kingCluster c = false) ∧ s.get Fld.pcmCtl.T_THROT = 100 ∧
    s.get Fld.cfsStat.STATE = 0 := by decide +kernel
theorem test_pw_quiet : Quiet (stPw kingL) := by unfold Quiet; decide +kernel

/-- A machine with version 7 active from slot 0, the Staged slot as said, and with fields set and a command. -/
def stMg (l : List (Field × Nat)) (stg : Option Nat) (c : List AcpCmd) : State := { stR ([(Fld.mbStat.BUSY 0, 1), (Fld.hpuStat.LINK_UP, 1), (Fld.dvsec.FW_READY, 1), (Fld.pcmStat.VDD_MV, 794)] ++ l) ctx0 with
  ctx := []
  bme := [0]
  cfgOn := true
  cfgSlot := [(0, cim 7 13 0x020D0100 0x18), (1, cim 8 13 0x020D0100 0x1A), (2, (cim 0x80000003 13 0x020D0100 0x1A).set 5 1)]
  roleA := { seq := 5, ok := true, active := some 0, prev := none, staged := stg }
  acp := c }
/-- Hypotheses of MarginsAreMeasuredAndPlanned, for each of its clauses. -/
theorem test_mg_srv : ∀ e ∈ [(0x50, 8, 0), (0x50, 8, 1 + 0x80000003 * 2 ^ 32), (0x50, 8, 2 + 0x80000003 * 2 ^ 32), (0x50, 8, 3), (0x51, 8, 0x1000)],
    let c : AcpCmd := { win := 0, hdr := e.1 + e.2.1 * 2 ^ 16, pay := e.2.2 }
    let s := stMg [] none [c]
    (∀ d ∈ s.acp, d.win = c.win → d = c) ∧ c.opc = e.1 ∧ acpFrame c.win c.hdr c.pay = none ∧ c.pay < 2 ^ 832 ∧ c.hdr < 2 ^ 64 ∧ s.acpBarred c = false ∧ s.hostOk 0 = true := by
  decide +kernel
theorem test_mg_hyp : let s := stMg [(Fld.agmCtl.AUTO, 0)] none []
    s.activeSlot = some 0 ∧ s.get Fld.agmCtl.AUTO = 0 ∧ (stMg [] none []).get Fld.agmCtl.AUTO = 1 ∧ s.roles.staged = none ∧ (stMg [] (some 2) []).stagedPlan = true ∧ (stMg [] (some 1) []).stagedPlan = false ∧
    (stMg [] (some 2) []).slotVer (some 2) = 0x80000003 ∧ s.get Fld.cfsStat.STATE = 0 ∧ s.get Fld.agmCtl.LANE_MIN = 16 ∧ s.activePlan = false ∧ s.validPrev = none ∧ s.watch = [] := by decide +kernel
theorem test_mg_calc : (stMg [(Fld.agmDeg.DEG_MV 3, 100)] none []).planCalc = ([16, 16, 16, 10, 16, 16, 16, 16], 86, false) ∧ (stMg [] none []).planCalc.2.2 = false := by decide +kernel
theorem test_mg_back : let s : State := { stMg [] none [] with cfgSlot := [(1, cimd 8 13 0x020D0100 0x1A), (2, (cim 0x80000003 13 0x020D0100 0x1A).set 5 1)], roleA := { seq := 5, ok := true, active := some 2, prev := some 1 } }
    s.activePlan = true ∧ s.validPrev = some 1 := by decide +kernel
theorem test_mg_quiet : Quiet (stMg [] none []) := by unfold Quiet; decide +kernel

/-- A machine whose SGPIO0 carries slot 17 at position 1 of two, in state `x` with inputs `inp`, with port 0x300 in it, and with a command. -/
def stSl (x inp : Nat) (l : List (Field × Nat)) (c : List AcpCmd) : State := { stR ([(Fld.mbStat.BUSY 0, 1), (Fld.dvsec.FW_READY, 1), (Fld.hpcCtl.SG0_EN, 1), (Fld.hpcCtl.SG_LEN0, 1), (Fld.slotCfg.EN 17, 1),
                                                                               (Fld.slotCfg.POS 17, 1), (Fld.slotStat.STATE 17, x), (⟨⟨.slotStat, 17, 0⟩, 3, 4⟩, inp), (Fld.slotStat.PWR_EN 17, if 3 ≤ x ∧ x ≤ 6 then 1 else 0), (Fld.dpData.VALID 0x300, 1), (Fld.dpData.SLOT_EN 0x300, 1),
                                                                               (Fld.dpData.SLOT 0x300, 17)] ++ l) ctx0 with
                                                                               ctx := []
                                                                               acp := c }
/-- Hypotheses of SlotsFollowInputsTimersAndCommands, for each of its clauses: a press decided at its third sample (R501's example), and the last sample before. -/
theorem test_sl_press : let s : State := { stSl 4 5 [] [] with slotDeb := [(69, 3101)] }
    s.get (Fld.slotStat.BTN 17) = 0 ∧ SMap.get s.slotDeb 0 (4 * 17 + 1) - 1 = 3100 ∧ 1000 * s.get Fld.hpcCtl.DEB_MS ≤ 23580 - 3100 ∧ ¬(1000 * s.get Fld.hpcCtl.DEB_MS ≤ 23000 - 3100) ∧
    s.get Fld.pcmStat.DSTATE = 0 ∧ NSet.has s.slotOffPend 17 = false ∧ s.get Fld.hpcCtl.SG0_EN = 1 ∧ s.get Fld.hpcCtl.SG_LEN0 = 1 ∧ s.get (Fld.slotCfg.POS 17) = 1 ∧ s.slotPorts 17 = [0x300] := by
  decide +kernel
theorem test_sl_states : (∀ x < 8, (stSl x 5 [] []).slot 17 = x) ∧ (stSl 4 5 [] []).get (Fld.slotStat.LATCH 17) = 1 ∧ (stSl 1 1 [] []).get (Fld.slotStat.LATCH 17) = 0 ∧
    (stSl 1 5 [(Fld.slotCfg.AUTO_ON 17, 1)] []).get (Fld.slotCfg.AUTO_ON 17) = 1 ∧ (stSl 6 5 [(Fld.slotCfg.AUTO_OFF 17, 1)] []).get (Fld.slotCfg.AUTO_OFF 17) = 1 ∧
    (stSl 3 5 [] []).get (Fld.slotStat.PFAULT 17) = 0 ∧ (stSl 4 5 [(Fld.slotCfg.BUS 17, 3), (Fld.slotCfg.ADDR 17, 127)] []).get (Fld.slotCfg.BUS 17) = 2 + 1 ∧
    NSet.has ({ stSl 6 5 [] [] with slotOffPend := [17] } : State).slotOffPend 17 = true := by decide +kernel
theorem test_sl_fail : Watched 39 (stSl 4 5 [] []) ∧ Watched 39 ({ stSl 4 5 [] [] with sgOnes := [(0, 2)], i3cNack := [(2 * 128 + 9, 2)] } : State) := by unfold Watched; decide +kernel
theorem test_sl_fails : let s : State := { stSl 4 5 [] [] with sgOnes := [(0, 2)], i3cNack := [(2 * 128 + 9, 2)] }
    2 ≤ SMap.get s.sgOnes 0 0 ∧ 2 ≤ SMap.get s.i3cNack 0 (2 * 128 + 9) ∧ s.get Fld.hpcErr.VALID = 0 ∧ SMap.get s.sgOnes 0 1 = 0 := by decide +kernel
theorem test_sl_srv : ∀ e ∈ [0, 1, 2, 3, 4, 5],
    let c : AcpCmd := { win := 0, hdr := 0x52 + 16 * 2 ^ 16, pay := 17 + e * 2 ^ 32 + 0x7FF * 2 ^ 64 }
    let s := stSl 4 5 [] [c]
    (∀ d ∈ s.acp, d.win = c.win → d = c) ∧ c.opc = 0x52 ∧ c.fld 4 0 4 = e ∧ acpFrame c.win c.hdr c.pay = none ∧ c.pay < 2 ^ 832 ∧ c.hdr < 2 ^ 64 ∧ s.acpBarred c = false := by decide +kernel
theorem test_sl_quiet : Quiet (stSl 4 5 [] []) := by unfold Quiet; decide +kernel

/-- A header with REP, and a machine in which every register is 0 and a load into D2 is outstanding. -/
def hRep : Hdr := { ctx := 0, len := 5, blk := true, width := .w8, rpt := .rep }
def stRep : State := stR [] { ctx0 with regs := { ctx0.regs with repc := 7 } }
/-- Hypotheses of RepeatWithCountZeroExecutesZeroTimes. -/
theorem test_rep_hyp : stRep.canIssue 0 = true ∧ fetchCheck { w := true, nib := true, rep := true, lock := true, rd := [2] } hRep (stRep.cx 0).regs.cpc = none ∧ (stRep.cx 0).speculating = false ∧
    (stRep.cx 0).regs.repOn = false ∧ (stRep.cx 0).pendD 15 = false ∧ (stRep.cx 0).dreg 15 = 0 := by decide +kernel

/-- Hypotheses of StepsKeepMemoryFormAndOnlyRaiseFuses: a programming of an owner key steps, and so does a command that may change no fuse. -/
theorem test_inv_step : (stBt .recovery [] [cmdB 0x83 56 (0x302 + 7 * 2 ^ 64) 0]).memWf = true ∧ ran (step { stBt .recovery [] [cmdB 0x83 56 (0x302 + 7 * 2 ^ 64) 0] with pending := [.rcvOwnerKey] }) = true ∧
    ran (step { State.reset with pending := [.clrForeign] }) = true ∧ ran (step State.reset) = true := by decide +kernel

end Sys2Proof.Tests
end

section
/-! ### Reset -/

namespace Sys2Proof.Machine

/-- No register is listed at reset, so each reads the reset value of its table. -/
@[simp] theorem State.reg_reset (r : Reg) : State.reset.reg r = r.reset := rfl

/-- No context is listed at reset. -/
@[simp] theorem State.cx_reset (c : Nat) : State.reset.cx c = {} := rfl

/-- An empty memory reads 0 everywhere (log entry 3). -/
theorem Memory.read_nil (a : Nat) : Memory.read [] a = 0 := rfl

/-- A field at reset is cut out of the reset value of its word. -/
theorem State.get_reset (f : Field) : State.reset.get f = bitsOf f.reg.reset.toNat f.lo f.w := rfl

/-- At reset the plan ceilings and the planner's targets of all clusters are step 16 (R470, R484). -/
theorem ceilings_reset : ∀ c < 8, State.reset.ceil c = 16 ∧ State.reset.regByte .agmTgt 0 0 c = 16 := by decide

end Sys2Proof.Machine

open Sys2Proof Sys2Proof.Machine

/-- Settles O60: nothing is listed at reset, so registers, contexts and memories read their defaults; the sample of the tables is
evaluated. -/
theorem resetLeavesTheStatedValues : Obligations.ResetLeavesTheStatedValues := by
  unfold Obligations.ResetLeavesTheStatedValues
  refine ⟨rfl, rfl, rfl, State.cx_reset, State.reg_reset, rfl, rfl, rfl, rfl, rfl, rfl, rfl,
    fun _ => ⟨rfl, rfl⟩, fun a => ⟨Memory.read_nil a, Memory.read_nil a⟩, ?_, ceilings_reset⟩
  simp only [State.get_reset]
  decide
end

section
/-! ### Reserved offsets of BAR0 -/

namespace Sys2Proof

theorem toBytes_zero (n : Nat) : toBytes n 0 = List.replicate n 0#8 := by
  induction n with
  | zero => rfl
  | succ n ih => simp [toBytes, ih, List.replicate_succ]

theorem ofBytes_replicate_zero (n : Nat) : ofBytes (List.replicate n 0#8) = 0 := by
  induction n with
  | zero => rfl
  | succ n ih => simp [List.replicate_succ, ofBytes, ih]

/-- Every stretch of a zero word spells 0. -/
theorem ofBytes_zero_stretch (n k m : Nat) : ofBytes (((toBytes n 0).drop k).take m) = 0 := by
  simp [toBytes_zero, ofBytes_replicate_zero]

end Sys2Proof

namespace Sys2Proof.Machine

/-- The bytes of an access lie in one of the regions of BAR0 that hold registers (R16), outside the doorbell pages, the aperture
and the tables of MSI-X. -/
def InRegisterRegion (off bytes : Nat) : Prop :=
  off + bytes ≤ 0x7000 ∨ (0x7100 ≤ off ∧ off + bytes ≤ 0x8000) ∨ (0x10000 ≤ off ∧ off + bytes ≤ 0x01000000) ∨
    (0x02000000 ≤ off ∧ off + bytes ≤ 0x03000000)

/-- No register stands where `barHas` finds nothing. -/
theorem State.place_of_barHas_false {s : State} {o : Nat} (h : s.barHas o = false) : s.place o = none := by
  simp only [State.barHas, Bool.or_eq_false_iff] at h
  exact Option.not_isSome_iff_eq_none.1 (by simp [h.1.2])

/-- Where `barHas` finds nothing a read meets a zero word (R19). -/
theorem State.barWord_of_barHas_false {s : State} {o : Nat} (h : s.barHas o = false) : s.barWord o = 0 := by
  have hp := State.place_of_barHas_false h
  simp only [State.barHas, Bool.or_eq_false_iff, decide_eq_false_iff_not, not_or, Bool.and_eq_false_imp, decide_eq_true_eq] at h
  obtain ⟨⟨⟨h1, h2, h3⟩, -⟩, h4⟩ := h
  by_cases hx : expertBase ≤ o ∧ o < expertEnd
  · have hb : s.viewBlock ((o - expertBase) / 0x10000) (o % 0x10000) = none :=
      Option.not_isSome_iff_eq_none.1 (by simp [h4 hx])
    simp [State.barWord, h1, h2, h3, hx, hb, hp]
  · simp [State.barWord, h1, h2, h3, hx, hp]

/-- The expert window is open to firmware, and to the PF while it is unlocked; nothing else of BAR0 is shut. -/
theorem State.expertShut_false {s : State} {acc : Accessor} {o : Nat} (hacc : acc = .firmware ∨ acc = .pf)
    (h : acc = .pf → expertBase ≤ o → s.on Fld.glbExpert.UNLOCKED = true) : s.expertShut acc o = false := by
  rcases hacc with rfl | rfl
  · simp [State.expertShut]
  · by_cases hx : expertBase ≤ o
    · simp [State.expertShut, h rfl hx]
    · simp [State.expertShut, hx]

/-- A read of the PF or of firmware below the aperture, where the expert window is open, is a read of the registers' words. -/
theorem State.barRead_open {s : State} {acc : Accessor} {o n : Nat} (hacc : acc = .firmware ∨ acc = .pf) (hr : s.reaches acc = true)
    (ha : o < aperBase) (hx : s.expertShut acc o = false) : s.barRead acc o n =
      if regSize o n then (((toBytes 8 (s.barWord (o / 8 * 8)).toNat).drop (o % 8)).take n, s)
      else if (List.range ((o + n - 1) / 8 - o / 8 + 1)).any fun i => s.barHas ((o / 8 + i) * 8) then
        (freeBytes s.freeCnt n, s.takeFree)
      else (List.replicate n 0, s) := by
  rcases hacc with rfl | rfl <;> simp [State.barRead, hr, hx, Nat.not_le.2 ha]

/-- A read of bytes among which no register stands answers 0 and changes nothing. -/
theorem State.barRead_reserved {s : State} {acc : Accessor} {o n : Nat} (hacc : acc = .firmware ∨ acc = .pf)
    (hr : s.reaches acc = true) (ha : o < aperBase) (hx : s.expertShut acc o = false) (hn : 1 ≤ n)
    (hw : ∀ w, o / 8 ≤ w → w ≤ (o + n - 1) / 8 → s.barHas (w * 8) = false) :
    ofBytes (s.barRead acc o n).1 = 0 ∧ (s.barRead acc o n).2 = s := by
  rw [State.barRead_open hacc hr ha hx]
  have h0 : s.barWord (o / 8 * 8) = 0 := State.barWord_of_barHas_false (hw _ (Nat.le_refl _) (by omega))
  have hnone : ((List.range ((o + n - 1) / 8 - o / 8 + 1)).any fun i => s.barHas ((o / 8 + i) * 8)) = false := by
    rw [List.any_eq_false]
    intro i hi
    simp only [hw (o / 8 + i) (by omega) (by have := List.mem_range.1 hi; omega), Bool.false_eq_true, not_false_eq_true]
  by_cases hs : regSize o n = true
  · simp only [hs, h0, if_true]
    exact ⟨ofBytes_zero_stretch 8 (o % 8) n, trivial⟩
  · simp only [hs, hnone, Bool.false_eq_true, if_false]
    exact ⟨ofBytes_replicate_zero n, trivial⟩

/-- A write of the PF or of firmware in a register region, where no register stands, changes nothing. -/
theorem State.writePf_reserved {s : State} {acc : Accessor} {o n v : Nat} (hin : InRegisterRegion o n) (hn : 1 ≤ n)
    (hx : s.expertShut acc o = false) (hw : s.barHas (o / 8 * 8) = false) : s.writePf acc o n v = .next s := by
  have ha : ¬aperBase ≤ o := by unfold InRegisterRegion at hin; unfold aperBase; omega
  have hd : ¬(doorBase ≤ o ∧ o < expertBase) := by unfold InRegisterRegion at hin; unfold doorBase expertBase; omega
  have hm : ¬(0x8000 ≤ o ∧ o < 0x10000) := by unfold InRegisterRegion at hin; omega
  simp only [State.writePf, ha, hx, hd, hm, State.place_of_barHas_false hw, if_false, Bool.false_eq_true]

/-- A write by the PF or by firmware goes to the PF's view of BAR0. -/
theorem execRegisterWrite_own {s : State} {acc : Accessor} {o n : Nat} {v : BitVec 64} (hacc : acc = .firmware ∨ acc = .pf)
    (hr : s.reaches acc = true) (hb : o < cfgSpaceBase) : exec (.registerWrite acc o n v) s = s.writePf acc o n v.toNat := by
  show execRegisterWrite acc o n v s = _
  rcases hacc with rfl | rfl <;> simp [execRegisterWrite, Nat.not_le.2 hb, State.barWrite, hr]

/-- A read by the PF or by firmware within BAR0 sends out what the bytes spell. -/
theorem execExpertWindowRead_own {s : State} {acc : Accessor} {o n : Nat} (hr : s.reaches acc = true)
    (hb : o + n ≤ cfgSpaceBase) (hn : 1 ≤ n) : exec (.expertWindowRead acc o n) s =
      .next ((s.barRead acc o n).2.emit (.rdata o (ofBytes (s.barRead acc o n).1))) := by
  show execExpertWindowRead acc o n s = _
  have h1 : ¬cfgSpaceBase ≤ o := by omega
  simp [execExpertWindowRead, hr, h1, Nat.not_lt.2 hb]

end Sys2Proof.Machine

open Sys2Proof Sys2Proof.Machine

/-- Settles O36: where no register stands, a read meets zero words and a write finds no place. -/
theorem reservedOffsetsReadZero : Obligations.ReservedOffsetsReadZero := by
  unfold Obligations.ReservedOffsetsReadZero
  intro acc off bytes val s hacc hr h1 h8 hin hw hlock
  have hx : s.expertShut acc off = false := State.expertShut_false hacc hlock
  have hend : off + bytes ≤ aperBase := by unfold aperBase; omega
  have hcfg : aperBase < cfgSpaceBase := by decide
  constructor
  · obtain ⟨hz, hs⟩ := State.barRead_reserved hacc hr (by omega) hx h1 hw
    rw [execExpertWindowRead_own hr (by omega) h1, hz, hs]
    rfl
  · rw [execRegisterWrite_own hacc hr (by omega)]
    exact State.writePf_reserved hin h1 hx (hw _ (Nat.le_refl _) (by omega))
end

section
/-! ### Contexts in the table -/

namespace Sys2Proof.Machine

/-- A live context stands in the table. -/
theorem State.mem_ctx_of_live {s : State} {c : Nat} (h : (s.cx c).live = true) : (c, s.cx c) ∈ s.ctx := by
  unfold State.cx at h ⊢
  generalize s.ctx = m at h ⊢
  induction m with
  | nil => cases h
  | cons e r ih =>
    obtain ⟨k, x⟩ := e
    by_cases hk : k = c
    · subst hk
      simp [SMap.get, AMap.get]
    · simp only [SMap.get, AMap.get, hk, if_false] at h ih ⊢
      exact List.mem_cons_of_mem _ (ih h)

/-- The entries of a table with one key written: the others, and the new one unless it is the default. -/
theorem SMap.mem_set {β : Type} [DecidableEq β] {m : SMap β} {d : β} {k : Nat} {v : β} {e : Nat × β}
    (h : e ∈ SMap.set m d k v) : (e ∈ m ∧ e.1 ≠ k) ∨ (e = (k, v) ∧ v ≠ d) := by
  unfold SMap.set AMap.set at h
  split at h
  · exact .inl ((AMap.mem_erase m k e).1 h)
  · next hv =>
    rcases AMap.mem_ins _ _ _ _ h with h | h
    · exact .inr ⟨h, hv⟩
    · exact .inl ((AMap.mem_erase m k e).1 h)

/-- The numbers of the live contexts after one context is written. -/
theorem State.mem_liveCtx_set {s t : State} {c c' : Nat} {x : Ctx} (ht : t.ctx = SMap.set s.ctx {} c x) (h : c' ∈ t.liveCtx) :
    (c' ∈ s.liveCtx ∧ c' ≠ c) ∨ (c' = c ∧ x.live = true) := by
  obtain ⟨e, he, rfl⟩ := List.mem_map.1 h
  obtain ⟨hm, hl⟩ := List.mem_filter.1 he
  rw [ht] at hm
  rcases SMap.mem_set hm with ⟨hm, hne⟩ | ⟨rfl, -⟩
  · exact .inl ⟨List.mem_map.2 ⟨e, List.mem_filter.2 ⟨hm, hl⟩, rfl⟩, hne⟩
  · exact .inr ⟨rfl, hl⟩

theorem State.mem_liveCtx {s : State} {c : Nat} (h : (s.cx c).live = true) : c ∈ s.liveCtx :=
  List.mem_map.2 ⟨_, List.mem_filter.2 ⟨State.mem_ctx_of_live h, h⟩, rfl⟩

/-- What `State.stalled` asks of a live context. -/
def State.stalls (s : State) (c : Nat) : Bool :=
  let x := s.cx c
  x.squash.isNone && (x.chain.any (fun e => e.sent.isNone && x.chain.all fun o => !(o.port == e.port && decide (o.pos < e.pos))) ||
    (match x.wait with
      | .dcmd _ _ p _ _ none => x.chain.all (fun o => o.port != p)
      | .stripe _ _ _ _ _ d => !s.descOut c && !(decide (d.length ≥ descLen d) && s.pendAcc c (tAcc (sTsel d)))
      | _ => false))

theorem State.stalled_eq_nil {s : State} : s.stalled = [] ↔ ∀ c ∈ s.liveCtx, s.stalls c = false := by
  show s.liveCtx.filter s.stalls = [] ↔ _
  simp [List.filter_eq_nil_iff]

theorem State.semFree_eq_nil {s : State} :
    s.semFree = [] ↔ ∀ e ∈ s.ctx, ∀ len b, e.2.wait = .sema len b → e.2.live = true → (s.semBit (clusterOf e.1) b).set = true := by
  unfold State.semFree
  rw [show ∀ l : List (Nat × Nat), l.eraseDups = [] ↔ l = [] from fun l => by cases l <;> simp [List.eraseDups_cons]]
  rw [List.filterMap_eq_nil_iff]
  refine forall₂_congr fun e _ => ?_
  cases hw : e.2.wait <;> simp

/-- The machine stays quiet when one context goes on, or ends, and its reads are abandoned: no error line has a new cause, what
decides about waiting is the same, and the context has no command left to send. -/
theorem Quiet.ofCtx {s t : State} {c : Nat} {x : Ctx} (q : Quiet s) (hf : SameFaults s t)
    (hw : SameWaits s { t with ctx := s.ctx, txn := s.txn, hreq := s.hreq }) (ht : t.ctx = SMap.set s.ctx {} c x)
    (hx : x.wait = .none) (hs : x.watchStop = false)
    (hl : x.live = true → (s.cx c).live = true ∧ x.squash = (s.cx c).squash ∧ x.chain = (s.cx c).chain)
    (hd : ∀ c', c' ≠ c → t.descOut c' = s.descOut c') (hh : ∀ e ∈ t.hreq, ∃ e0 ∈ s.hreq, e.2.held = e0.2.held) : Quiet t := by
  obtain ⟨q1, q2, q3, q4, q5, q6, q7, q8⟩ := q
  have hcx : ∀ c', c' ≠ c → t.cx c' = s.cx c' := fun c' hc => by
    simp only [State.cx, ht]; exact SMap.get_set_ne _ _ _ _ hc
  have hcc : t.cx c = x := by simp only [State.cx, ht]; exact SMap.get_set_same _ _ _ _
  have hgo : t.canGo = s.canGo := hw.canGo
  refine ⟨hf.rises.trans q1, hf.2.2.2.2.trans q2, ?_, ?_, ?_, ?_, hgo.trans q7, ?_⟩
  · rw [State.semFree_eq_nil] at q3 ⊢
    intro e he len b hew hel
    rw [ht] at he
    rcases SMap.mem_set he with ⟨he, -⟩ | ⟨rfl, -⟩
    · have := q3 e he len b hew hel
      simpa only [State.semBit, show t.sem = s.sem from hw.sem] using this
    · simp [hx] at hew
  · rw [State.stalled_eq_nil] at q4 ⊢
    intro c' hc'
    rcases State.mem_liveCtx_set ht hc' with ⟨h, hne⟩ | ⟨rfl, h⟩
    · have := q4 c' h
      simpa only [State.stalls, State.pendAcc, hcx c' hne, hd c' hne, show t.xfer = s.xfer from hw.xfer] using this
    · obtain ⟨h1, h2, h3⟩ := hl h
      have hold := q4 c' (State.mem_liveCtx h1)
      simp only [State.stalls, hcc, hx, h2, h3, Bool.or_false, Bool.and_eq_false_imp, Bool.or_eq_false_iff] at hold ⊢
      exact fun hs => (hold hs).1
  · intro hm e he
    obtain ⟨e0, h0, h1⟩ := hh e he
    rw [h1]
    exact q5 ((hw.on (f := Fld.hpuStat.MODE) (by simp [waitIds, Fld.hpuStat.MODE])).symm.trans hm) e0 h0
  · rw [show t.disc = s.disc from hw.disc]; exact q6
  · intro e he
    rw [ht] at he
    rcases SMap.mem_set he with ⟨he, -⟩ | ⟨rfl, -⟩
    · exact q8 e he
    · exact hs

end Sys2Proof.Machine
end

section
/-! ### What the following of a queue's STATE changes -/

namespace Sys2Proof.Machine

/-- `t` is `s` but for registers of the queues and of the event sources, what no register shows of the queues, the engines that
wake, and the misrouted episodes. -/
structure OnlyQueues (s t : State) : Prop where
  rest : { t with regs := s.regs, qdyn := s.qdyn, waking := s.waking, misEp := s.misEp } = s
  reg : ∀ r : Reg, r.id ≠ .qctx → r.id ≠ .srcStat → t.reg r = s.reg r

namespace OnlyQueues
variable {s t u : State}

theorem refl (s : State) : OnlyQueues s s := ⟨rfl, fun _ _ _ => rfl⟩

theorem trans (h : OnlyQueues s t) (g : OnlyQueues t u) : OnlyQueues s u := by
  refine ⟨?_, fun r h1 h2 => (g.reg r h1 h2).trans (h.reg r h1 h2)⟩
  have h1 := h.rest
  rw [← g.rest] at h1
  exact h1

theorem put (h : OnlyQueues s t) {f : Field} (v : Nat) (hf : f.reg.id = .qctx ∨ f.reg.id = .srcStat) : OnlyQueues s (t.put f v) := by
  refine ⟨h.rest, fun r h1 h2 => ?_⟩
  rw [State.reg_put_ne, h.reg r h1 h2]
  rintro rfl
  exact hf.elim h1 h2

theorem setQd (h : OnlyQueues s t) (q : Nat) (x : QDyn) : OnlyQueues s (t.setQd q x) := ⟨h.rest, h.reg⟩

theorem raise (h : OnlyQueues s t) (src : Nat) : OnlyQueues s (t.raise src) := by
  unfold State.raise State.incSat State.setPend
  refine OnlyQueues.put ?_ _ (.inr rfl)
  split
  · exact h
  · have h1 := h.put (f := Fld.srcStat.PEND src) 1 (.inr rfl)
    exact ⟨h1.rest, h1.reg⟩

theorem kingWake (h : OnlyQueues s t) (q : Nat) : OnlyQueues s (t.kingWake q) := by
  unfold State.kingWake
  dsimp only
  split
  · exact ⟨h.rest, h.reg⟩
  · exact h

theorem qReached (h : OnlyQueues s t) (q st : Nat) : OnlyQueues s (t.qReached q st) := by
  unfold State.qReached
  dsimp only
  split
  · split
    · exact (h.setQd _ _).raise _
    · exact h.setQd _ _
  · exact h

theorem qUpdate (h : OnlyQueues s t) (q : Nat) : OnlyQueues s (t.qUpdate q) := by
  have hS := fun v => h.put (f := Fld.qctx.STATE q) v (.inl rfl)
  unfold State.qUpdate
  dsimp only
  generalize (if t.get (Fld.qctx.IN_FLIGHT q) > 0 then 3 else if t.sqPending q > 0 then 2 else 1) = st'
  have hK : OnlyQueues s (if st' = 2 ∧ t.get (Fld.qctx.STATE q) ≠ 2 then (t.put (Fld.qctx.STATE q) st').kingWake q
      else t.put (Fld.qctx.STATE q) st') := by
    split
    · exact (hS _).kingWake q
    · exact hS _
  split
  · exact h
  · split
    · split
      · exact ((hS _).setQd _ _).qReached _ _
      · exact h
    · split
      · split
        · exact h
        · split
          · exact hS _
          · exact (hS _).qReached _ _
      · split
        · split
          · exact hK
          · exact (hK.setQd _ _).qReached _ _
        · exact hK

theorem ctx (h : OnlyQueues s t) : t.ctx = s.ctx := (congrArg State.ctx h.rest :)
theorem out (h : OnlyQueues s t) : t.out = s.out := (congrArg State.out h.rest :)
theorem cpl (h : OnlyQueues s t) : t.cpl = s.cpl := (congrArg State.cpl h.rest :)
theorem cx (h : OnlyQueues s t) (c : Nat) : t.cx c = s.cx c := by simp only [State.cx, h.ctx]

theorem get (h : OnlyQueues s t) {f : Field} (h1 : f.reg.id ≠ .qctx) (h2 : f.reg.id ≠ .srcStat) : t.get f = s.get f := by
  simp only [State.get, h.reg f.reg h1 h2]

/-- The queues' registers cause no error line. -/
theorem sameFaults (h : OnlyQueues s t) : SameFaults s t := by
  refine ⟨fun r hr => h.reg r ?_ ?_, (congrArg State.hostFault h.rest :), (congrArg State.ideFault h.rest :),
    (congrArg State.inReset h.rest :), (congrArg State.hits h.rest :)⟩ <;>
  · intro e
    rw [e] at hr
    exact absurd hr (by decide)

/-- Nothing that waits follows the queues' registers. -/
theorem sameWaits (h : OnlyQueues s t) : SameWaits s t := by
  refine ⟨fun r hr => h.reg r ?_ ?_, (congrArg State.ctx h.rest :), (congrArg State.sem h.rest :), (congrArg State.xfer h.rest :),
    (congrArg State.txn h.rest :), (congrArg State.hreq h.rest :), (congrArg State.disc h.rest :), (congrArg State.atc h.rest :),
    (congrArg State.atsEn h.rest :), (congrArg State.bme h.rest :), (congrArg State.d3hot h.rest :)⟩ <;>
  · intro e
    rw [e] at hr
    exact absurd hr (by decide)

theorem quiet (h : OnlyQueues s t) (q : Quiet s) : Quiet t := h.sameFaults.quiet h.sameWaits q

end OnlyQueues

end Sys2Proof.Machine
end

section
/-! ### The end of a program that has nothing outstanding -/

namespace Sys2Proof.Machine

/-- `t` is `s` after context `c` has been freed: its reads are abandoned, its held stores and watched lines are gone, and it waits
in no pool. -/
structure Freed (c : Nat) (s t : State) : Prop where
  rest : { t with ctx := s.ctx, hreq := s.hreq, txn := s.txn, qdyn := s.qdyn, held := s.held, watch := s.watch, pool := s.pool } = s
  ctx : t.ctx = SMap.set s.ctx {} c {}
  desc : ∀ c', c' ≠ c → t.descOut c' = s.descOut c'
  held : ∀ e ∈ t.hreq, ∃ e0 ∈ s.hreq, e.2.held = e0.2.held

/-! #### Reads that are abandoned -/

theorem Purpose.ofCtx_desc {c c' : Nat} (h : c' ≠ c) {p : Purpose} (hp : p.ofCtx c = true) : (p == .desc c') = false := by
  cases p <;> simp_all [Purpose.ofCtx]
  omega

theorem abandonH_desc {c c' : Nat} (h : c' ≠ c) (l : SMap HReq) :
    (abandonH (Purpose.ofCtx c) l).any (fun e => e.2.purp == .desc c') = l.any fun e => e.2.purp == .desc c' := by
  simp only [abandonH, List.any_map]
  congr 1
  funext e
  by_cases hp : e.2.purp.ofCtx c = true
  · simp [hp, Purpose.ofCtx_desc h hp]
  · simp [hp]

theorem abandonT_desc {c c' : Nat} (h : c' ≠ c) (l : AMap Nat Txn) :
    (abandonT (Purpose.ofCtx c) l).any (fun e => e.2.purp == .desc c') = l.any fun e => e.2.purp == .desc c' := by
  simp only [abandonT, List.any_map]
  congr 1
  funext e
  by_cases hp : e.2.purp.ofCtx c = true
  · simp only [Function.comp, hp, if_true, Purpose.ofCtx_desc h hp]
    split <;> rfl
  · simp [hp]

/-- The host reads after those of a context have been abandoned: the read of its entry, if it was held, is withdrawn, and else keeps
the entry's index. -/
def abandonReads (c q ix : Nat) (l : SMap HReq) : SMap HReq :=
  abandonH (Purpose.ofCtx c) ((l.filter fun e => !(e.2.held && e.2.purp == .entry c)).map fun e =>
    if e.2.purp == .entry c then (e.1, { e.2 with purp := .goneEntry q ix }) else e)

theorem State.abandon_hreq (s : State) (c : Nat) : (s.abandon c).hreq = abandonReads c (s.cx c).qid (s.cx c).sqIdx s.hreq := by
  unfold State.abandon
  dsimp only
  split <;> rfl

theorem State.abandon_txn (s : State) (c : Nat) : (s.abandon c).txn = abandonT (Purpose.ofCtx c) s.txn := by
  unfold State.abandon
  dsimp only
  split <;> rfl

theorem State.abandon_rest {s a : State} {c : Nat} (h : s.abandon c = a) :
    { a with hreq := s.hreq, txn := s.txn, qdyn := s.qdyn } = s := by
  subst h
  unfold State.abandon
  dsimp only
  split <;> rfl

theorem abandonReads_desc {c c' : Nat} (h : c' ≠ c) (q ix : Nat) (l : SMap HReq) :
    (abandonReads c q ix l).any (fun e => e.2.purp == .desc c') = l.any fun e => e.2.purp == .desc c' := by
  rw [abandonReads, abandonH_desc h, List.any_map, List.any_filter]
  congr 1
  funext e
  by_cases hp : e.2.purp = .entry c
  · simp only [hp, Function.comp, beq_self_eq_true, Bool.and_true, if_true]
    exact Bool.and_false _
  · simp [hp]

theorem abandonReads_held {c q ix : Nat} {l : SMap HReq} {e : Nat × HReq} (h : e ∈ abandonReads c q ix l) :
    ∃ e0 ∈ l, e.2.held = e0.2.held := by
  obtain ⟨e1, h1, rfl⟩ := List.mem_map.1 h
  obtain ⟨e0, h0, rfl⟩ := List.mem_map.1 h1
  refine ⟨e0, (List.mem_filter.1 h0).1, ?_⟩
  split <;> split <;> rfl

/-! #### Freeing a context -/

/-- With no path paused for room in a watch set, a change of one wakes nobody. -/
theorem State.setWatch_eq {s : State} (h : ∀ e ∈ s.ctx, e.2.watchStop = false) (cl : Nat) (ws : List (Nat × Nat × Nat × Nat)) :
    s.setWatch cl ws = { s with watch := SMap.set s.watch [] cl ws } := by
  have hmap : (s.ctx.map fun e => if clusterOf e.1 == cl && e.2.watchStop then (e.1, { e.2 with paused := false, watchStop := false })
      else e) = s.ctx := by
    rw [List.map_congr_left (g := id) fun e he => by simp [h e he], List.map_id]
  unfold State.setWatch
  dsimp only
  split
  · rw [hmap]
  · rfl

/-- A context with no transfer and no buffer is freed. -/
theorem State.freeCtx_freed {s : State} {c : Nat} (hws : ∀ e ∈ s.ctx, e.2.watchStop = false) (hs : (s.cx c).slots = [])
    (ha : (s.cx c).regs.allocs = []) (hf : (s.cx c).regs.freesHeld = []) (b : Bool) : Freed c s (s.freeCtx c b) := by
  have hH := State.abandon_hreq s c
  have hT := State.abandon_txn s c
  unfold State.freeCtx
  generalize hA : s.abandon c = a at hH hT ⊢
  have hab := State.abandon_rest hA
  have hctx : a.ctx = s.ctx := (congrArg State.ctx hab :)
  have hdrop : ∃ w hl, a.dropHeld c 0 = { a with held := hl, watch := w } :=
    ⟨_, _, State.setWatch_eq (s := { a with held := _ }) (by rw [← hctx] at hws; exact hws) _ _⟩
  obtain ⟨w, hl, hdrop⟩ := hdrop
  have hfreed : ∀ pl, Freed c s { a with held := hl, watch := w, pool := pl, ctx := SMap.set s.ctx {} c {} } := fun pl => by
    refine ⟨(congrArg (fun u : State => { u with ctx := s.ctx, held := s.held, watch := s.watch, pool := s.pool }) hab :), rfl,
      fun c' hc => ?_, fun e he => ?_⟩
    · simp only [State.descOut, hH, hT, abandonReads_desc hc, abandonT_desc hc]
    · exact abandonReads_held (by rw [← hH]; exact he)
  simp only [hs, ha, hf, hdrop, forAll, List.foldl_nil, List.map_nil, List.append_nil, State.freeHandles, ite_self]
  split
  · simp only [State.setCx, State.setPl, hctx]
    exact hfreed _
  · simp only [State.setCx, hctx]
    exact hfreed _

namespace Freed
variable {c : Nat} {s t : State}

theorem regs (h : Freed c s t) : t.regs = s.regs := (congrArg State.regs h.rest :)
theorem out (h : Freed c s t) : t.out = s.out := (congrArg State.out h.rest :)
theorem cpl (h : Freed c s t) : t.cpl = s.cpl := (congrArg State.cpl h.rest :)
theorem cx_same (h : Freed c s t) : t.cx c = {} := by simp only [State.cx, h.ctx]; exact SMap.get_set_same _ _ _ _
theorem cx_ne (h : Freed c s t) {c' : Nat} (hc : c' ≠ c) : t.cx c' = s.cx c' := by
  simp only [State.cx, h.ctx]; exact SMap.get_set_ne _ _ _ _ hc

theorem sameFaults (h : Freed c s t) : SameFaults s t :=
  SameFaults.of_regs h.regs (congrArg State.hostFault h.rest :) (congrArg State.ideFault h.rest :) (congrArg State.inReset h.rest :)
    (congrArg State.hits h.rest :)

/-- A quiet machine in which a context is freed is quiet. -/
theorem quiet (h : Freed c s t) (q : Quiet s) : Quiet t := by
  refine q.ofCtx h.sameFaults ⟨fun r _ => ?_, rfl, (congrArg State.sem h.rest :), (congrArg State.xfer h.rest :), rfl, rfl,
    (congrArg State.disc h.rest :), (congrArg State.atc h.rest :), (congrArg State.atsEn h.rest :), (congrArg State.bme h.rest :),
    (congrArg State.d3hot h.rest :)⟩ h.ctx rfl rfl (fun hl => absurd hl (by decide)) h.desc h.held
  simp only [State.reg, h.regs]

end Freed

/-! #### The ends of a program (R63, R103) -/

theorem OnlyQueues.endLeave {s t : State} (h : OnlyQueues s t) (x : Ctx) : OnlyQueues s (t.endLeave x) := by
  unfold State.endLeave State.qLeave
  split
  · exact h.qUpdate _
  · exact (h.put _ (.inl rfl)).qUpdate _

/-- The program of context `c` is gone: the context is freed, the entries `more` have been handed in, and its queue has followed. -/
def ProgramGone (c : Nat) (s t : State) (more : List Cpl) : Prop :=
  ∃ u, Freed c { s with cpl := s.cpl ++ more } u ∧ OnlyQueues u t

theorem ProgramGone.quiet {c : Nat} {s t : State} {more : List Cpl} (h : ProgramGone c s t more) (q : Quiet s) : Quiet t := by
  obtain ⟨u, hu, ht⟩ := h
  exact ht.quiet (hu.quiet q)

theorem ProgramGone.ended {c : Nat} {s t : State} {more : List Cpl} (h : ProgramGone c s t more) : Ended c s t more := by
  obtain ⟨u, hu, ht⟩ := h
  exact ⟨(ht.cx c).trans hu.cx_same, fun c' hc => (ht.cx c').trans (hu.cx_ne hc), ht.out.trans hu.out, ht.cpl.trans hu.cpl⟩

theorem State.unspec_eq {s : State} {c : Nat} (h : (s.cx c).ckpts = []) : s.unspec c = s := by
  simp [State.unspec, Ctx.speculating, h]

theorem State.breakLock_eq {s : State} {c : Nat} (h : (s.cx c).lock = none) (cause : Nat) : s.breakLock c cause = s := by
  simp [State.breakLock, h]

/-- A program that has nothing outstanding and has not posted ends with a status and one entry of AUTO 0 (R103). -/
theorem State.autoEnd_gone {s : State} {c st : Nat} {i : EndInfo} (hws : ∀ e ∈ s.ctx, e.2.watchStop = false)
    (hu : Unburdened (s.cx c)) (hp : (s.cx c).posted = false) (hst : st < 0x20 ∨ 0x23 < st) (hi : i.residual = none) :
    ProgramGone c s (s.autoEnd c st i) [s.cplOf c st false 0 (s.residualOf c)] := by
  obtain ⟨-, hsl, -, -, hck, -, hal, hfr, hlk, -, hdue⟩ := hu
  have hseg : s.segv c st i.sel i.port = s := by
    unfold State.segv
    rw [if_neg (by omega)]
  have hend : s.autoEnd c st i = ((s.handCpl (s.cplOf c st false 0 (s.residualOf c))).freeCtx c true).endLeave (s.cx c) := by
    unfold State.autoEnd
    simp only [hdue, State.unspec_eq hck, hlk, hseg, State.breakLock_eq hlk, hp, hi, Option.isSome_none, Option.getD_none,
      Bool.false_eq_true, if_false]
    rfl
  rw [hend]
  exact ⟨_, State.freeCtx_freed (s := s.handCpl _) hws hsl hal hfr true, (OnlyQueues.refl _).endLeave _⟩

/-- What the end of a command adds in a quiet machine changes nothing that `Ended` speaks of. -/
theorem Ended.calm {c : Nat} {s t u : State} {more : List Cpl} (h : Ended c s t more) (g : Calm t u) : Ended c s u more := by
  have hctx : u.ctx = t.ctx := (congrArg State.ctx g.rest :)
  obtain ⟨h1, h2, h3, h4⟩ := h
  simp only [State.cx] at h1 h2
  exact ⟨by simp only [State.cx, hctx, h1], fun c' hc => by simp only [State.cx, hctx, h2 c' hc],
    (congrArg State.out g.rest :).trans h3, (congrArg State.cpl g.rest :).trans h4⟩

end Sys2Proof.Machine
end

section
/-! ### Bit waits -/

namespace Sys2Proof.Machine

@[simp] theorem Ctx.retireAt_regs (x : Ctx) (len : Nat) (l : Bool) : (x.retireAt len l).regs =
    { x.regs with cpc := { x.regs.cpc with off := (x.regs.cpc.off + len) % 2 ^ 48 }, repOn := false } := by
  simp [Ctx.retireAt]

/-- What a retiring instruction leaves of its context beside the registers, the wait and the locked sequence. -/
theorem Ctx.retireAt_rest (x : Ctx) (len : Nat) (l : Bool) : x.retireAt len l =
    { x with wait := .none, regs := (x.retireAt len l).regs, seqCount := (x.retireAt len l).seqCount, lock := (x.retireAt len l).lock } := by
  unfold Ctx.retireAt
  rw [Ctx.countSeq_rest]

@[simp] theorem Ctx.retireAt_wait (x : Ctx) (len : Nat) (l : Bool) : (x.retireAt len l).wait = .none := by
  rw [Ctx.retireAt_rest]

theorem State.updCx_setCx (s : State) (c : Nat) (x : Ctx) (f : Ctx → Ctx) : (s.setCx c x).updCx c f = s.setCx c (f x) := by
  simp only [State.updCx, State.cx_setCx_same]
  simp only [State.setCx, SMap.set_set]

/-! #### The end of a wait -/

/-- A bit wait of `len` bytes is over: CPC has moved past its instruction, and of the flags a TWAITB has set Z. -/
def BitWaitOver (len : Nat) (strict z : Bool) (x y : Ctx) : Prop :=
  y.wait = .none ∧ y.regs = { x.regs with
    cpc := { x.regs.cpc with off := (x.regs.cpc.off + len) % 2 ^ 48 }, repOn := false,
    cf := if strict then x.regs.cf else { x.regs.cf with z := z } }

/-- A context whose bit wait ends with an outcome that lets it go on. -/
def Ctx.endBitWait (x : Ctx) (len : Nat) (strict z : Bool) : Ctx := (if strict then x else x.setZ z).retireAt len x.waitLock

theorem Ctx.endBitWait_over (x : Ctx) (len : Nat) (strict z : Bool) : BitWaitOver len strict z x (x.endBitWait len strict z) := by
  unfold Ctx.endBitWait
  cases strict
  · exact ⟨Ctx.retireAt_wait _ _ _, Ctx.retireAt_regs _ _ _⟩
  · exact ⟨Ctx.retireAt_wait _ _ _, Ctx.retireAt_regs _ _ _⟩

/-- What the end of a bit wait keeps of the context. -/
theorem Ctx.endBitWait_keeps (x : Ctx) (len : Nat) (strict z : Bool) :
    let y := x.endBitWait len strict z
    y.live = x.live ∧ y.squash = x.squash ∧ y.chain = x.chain ∧ y.watchStop = x.watchStop := by
  unfold Ctx.endBitWait
  rw [Ctx.retireAt_rest]
  cases strict <;> exact ⟨rfl, rfl, rfl, rfl⟩

/-- A wait that counts in no history and meets no squash ends at once. -/
theorem State.resolveLive_plain {s : State} {c : Nat} (he : (s.cx c).elig = false) (hs : (s.cx c).squash = none) (r : Resolved) (up : Bool) :
    s.resolveLive c r up = s.finishWait c r := by
  simp [State.resolveLive, State.hist, he, hs]

/-- A bit wait goes on with its outcome, unless it is a WAITB whose timeout has expired (R119). -/
theorem State.finishWait_bit {s : State} {c len a : Nat} {v strict sat : Bool} {tmo : Option Nat}
    (hw : (s.cx c).wait = .bit len a v strict tmo) (hsat : strict = true → sat = true) :
    s.finishWait c (.bit sat) = s.setCx c ((s.cx c).endBitWait len strict sat) := by
  cases strict
  · simp only [State.finishWait, hw, Bool.false_eq_true, if_false]; rfl
  · simp only [State.finishWait, hw, hsat rfl, if_true]; rfl

/-- WAITB ends the program with 0x41 when its timeout expires (R103). -/
theorem State.finishWait_timeout {s : State} {c len a : Nat} {v : Bool} {tmo : Option Nat} (hw : (s.cx c).wait = .bit len a v true tmo) :
    s.finishWait c (.bit false) = s.autoEnd c 0x41 := by
  simp only [State.finishWait, hw, if_true, Bool.false_eq_true, if_false]

/-- A context that goes on after a wait leaves a quiet machine quiet. -/
theorem Quiet.endBitWait {s : State} {c : Nat} (q : Quiet s) (hl : (s.cx c).live = true) (len : Nat) (strict z : Bool) :
    Quiet (s.setCx c ((s.cx c).endBitWait len strict z)) := by
  obtain ⟨h1, h2, h3, h4⟩ := Ctx.endBitWait_keeps (s.cx c) len strict z
  have hws : (s.cx c).watchStop = false := q.2.2.2.2.2.2.2 _ (State.mem_ctx_of_live hl)
  exact q.ofCtx (SameFaults.of_regs rfl rfl rfl rfl rfl) (SameWaits.refl s) rfl (Ctx.endBitWait_over _ _ _ _).1 (h4.trans hws)
    (fun _ => ⟨hl, h2, h3⟩) (fun _ _ => rfl) (fun e he => ⟨e, he, rfl⟩)

/-! #### The beginning of a wait -/

/-- A context that has begun a wait of an instruction that admits no LOCK and counts in no history. -/
def Ctx.beginsWait (x : Ctx) (w : Wait) (lock : Bool) (sp : Spec) : Ctx :=
  { x.endSeq with wait := w, waitLock := lock, waitSpec := sp, elig := false, outlast := false }

/-- The bits that a context reads do not depend on its locked sequence, but for the mirror of the sequence itself (R156). -/
theorem State.bitVal_endSeq {s : State} {c a : Nat} (h : (s.cx c).seqCount = none ∨ a ≠ 0x115) :
    (s.setCx c (s.cx c).endSeq).bitVal c a = s.bitVal c a := by
  have hm : (s.setCx c (s.cx c).endSeq).mirrorBit c a = s.mirrorBit c a := by
    unfold State.mirrorBit
    simp only [State.cx_setCx_same]
    split
    case h_11 => rcases h with h | h
                 · simp [Ctx.endSeq, h]
                 · exact absurd rfl h
    all_goals rfl
  simp only [State.bitVal, State.bitWith, hm, State.cx_setCx_same]
  rfl

/-- WAITB and TWAITB outside Gambit: the checks pass, and the wait ends at once or begins (R119, R157). -/
theorem waitOp_ready {h : Hdr} {bit : BitVec 16} {v strict : Bool} {dt : Fin 16} {s : State}
    (hr : Ready { spec := true, rd := [dt.val] } h s) (hel : s.eligible h.ctx.val = false) (hck : (s.cx h.ctx.val).ckpts = [])
    (ha : bit.toNat < 0x2000) (hb : s.bitBarred h.ctx.val bit.toNat false = false)
    (hseq : (s.cx h.ctx.val).seqCount = none ∨ bit.toNat ≠ 0x115) (hp : (s.cx h.ctx.val).pendBit bit.toNat = false)
    (hlive : ∀ p g, (s.cx h.ctx.val).regs.bound = some (p, g) → s.portLive p g = true) :
    let c := h.ctx.val
    let x := s.cx c
    let n := (x.dreg dt.val).toNat % 2 ^ 32 * 64
    let w : Wait := .bit h.len bit.toNat v strict (if n = 0 then none else some n)
    let s2 := s.setCx c (x.beginsWait w h.lock h.spec)
    waitOp strict h bit v dt s =
      if s.bitVal c bit.toNat = v then .next (s2.resolveLive c (.bit true) true) else .next (s2.parkCheck c) := by
  unfold waitOp
  rw [issue_ready _ hr, show (s.cx h.ctx.val).seqFront { spec := true, rd := [dt.val] } h = (s.cx h.ctx.val).endSeq from rfl]
  have hval := State.bitVal_endSeq hseq
  have hel' : (s.setCx h.ctx.val (s.cx h.ctx.val).endSeq).eligible h.ctx.val = false := by
    simp only [State.eligible, State.cx_setCx_same] at hel ⊢
    exact hel
  have hnp : ∀ t, (s.setCx h.ctx.val (s.cx h.ctx.val).endSeq).predictBit h bit.toNat strict t = none := by
    intro t
    simp [State.predictBit, State.mayPredict, hel']
  generalize h.ctx.val = c at *
  have hcheck : (s.setCx c (s.cx c).endSeq).bitCheck c bit.toNat false false = none := by
    have hb' : (s.setCx c (s.cx c).endSeq).bitBarred c bit.toNat false = s.bitBarred c bit.toNat false := by
      simp only [State.bitBarred, State.cx_setCx_same]; rfl
    simp [State.bitCheck, hb', hb, Nat.not_le.2 ha]
  have hbegin : ∀ w : Wait, (s.setCx c (s.cx c).endSeq).beginWait c w h.lock h.spec = s.setCx c ((s.cx c).beginsWait w h.lock h.spec) := by
    intro w
    unfold State.beginWait
    rw [State.updCx_setCx, hel', Bool.and_false]
    rfl
  have hpend : (s.cx c).endSeq.pendBit bit.toNat = false := hp
  have hspec : (s.cx c).endSeq.speculating = false := by simp [Ctx.speculating, Ctx.endSeq, hck]
  have hport : ∀ b, (s.cx c).endSeq.regs.bound = some b → (s.setCx c (s.cx c).endSeq).portLive b.1 b.2 = true := fun b hb => hlive b.1 b.2 hb
  simp only [State.cx_setCx_same, hcheck, hpend, hspec, hval, hbegin, hnp, Bool.false_and, Bool.false_eq_true, if_false, beq_iff_eq]
  cases hbd : (s.cx c).endSeq.regs.bound with
  | none => simp only [Bool.and_false, Bool.false_eq_true, if_false]; rfl
  | some b => simp only [hport b hbd, Bool.not_true, Bool.and_false, Bool.false_eq_true, if_false]; rfl

/-- A context that waits parks where SUSP_REQ is 1, and its queue follows (R121). -/
theorem State.parkCheck_waiting {s : State} {c len a : Nat} {v strict : Bool} {tmo : Option Nat} (x : Ctx)
    (hw : x.wait = .bit len a v strict tmo) (hl : x.live = true) (hs : x.seqCount = none) (hck : x.ckpts = []) (hq : x.squash = none) :
    (s.setCx c x).parkCheck c =
      if s.on (Fld.qctx.SUSP_REQ x.qid) then (s.setCx c { x with parked := true }).qUpdate x.qid else s.setCx c x := by
  have hon : (s.setCx c x).on (Fld.qctx.SUSP_REQ x.qid) = s.on (Fld.qctx.SUSP_REQ x.qid) := rfl
  simp only [State.parkCheck, State.parks, State.park, State.cx_setCx_same, State.updCx_setCx, hw, hl, hs, hck, hq, hon, Bool.true_and,
    Option.isNone_none, List.isEmpty_nil, Bool.and_true]

/-- A context that can issue is live, neither parked nor being squashed. -/
theorem State.canIssue_live {s : State} {c : Nat} (h : s.canIssue c = true) :
    (s.cx c).live = true ∧ (s.cx c).parked = false ∧ (s.cx c).squash = none := by
  simp only [State.canIssue, Bool.and_eq_true, Bool.not_eq_true', Option.isNone_iff_eq_none] at h
  obtain ⟨⟨⟨⟨⟨⟨⟨hl, -⟩, -⟩, hp⟩, -⟩, hs⟩, -⟩, -⟩ := h
  exact ⟨hl, hp, hs⟩

/-- A bit wait outside Gambit that resolves, other than by the timeout of a WAITB, goes on at once. -/
theorem State.resolveLive_bit {s : State} {c len a : Nat} {v strict sat : Bool} {tmo : Option Nat}
    (hw : (s.cx c).wait = .bit len a v strict tmo) (he : (s.cx c).elig = false) (hs : (s.cx c).squash = none)
    (hsat : strict = true → sat = true) (up : Bool) :
    s.resolveLive c (.bit sat) up = s.setCx c ((s.cx c).endBitWait len strict sat) := by
  rw [State.resolveLive_plain he hs, State.finishWait_bit hw hsat]

/-- A waiting bit is sampled: at the awaited value the wait resolves, at another nothing happens (R119). -/
theorem execBitWaitSatisfied_waiting {ctx : Fin 1024} {s : State} {len a : Nat} {v strict : Bool} {tmo : Option Nat}
    (hl : (s.cx ctx.val).live = true) (hp : (s.cx ctx.val).parked = false) (hck : (s.cx ctx.val).ckpts = [])
    (hw : (s.cx ctx.val).wait = .bit len a v strict tmo) :
    exec (.bitWaitSatisfied ctx) s =
      if s.bitVal ctx.val a = v then .next (s.resolveLive ctx.val (.bit true) true) else .next s := by
  show execBitWaitSatisfied ctx s = _
  have hmet : s.bitMet ctx.val (s.cx ctx.val).regs.bound (s.cx ctx.val).wait = (s.bitVal ctx.val a == v) := by rw [hw]; rfl
  simp only [execBitWaitSatisfied, hl, hp, hmet, Ctx.bitCk, hck, List.length_nil, List.range_zero, List.find?_nil, Bool.not_true,
    Bool.or_self, Bool.false_eq_true, if_false, beq_iff_eq]

/-- A timeout expires: the wait resolves by the value that the bit has then (R8). -/
theorem execWaitTimeout_waiting {ctx : Fin 1024} {s : State} {len a : Nat} {v strict : Bool} {tmo : Option Nat}
    (hl : (s.cx ctx.val).live = true) (hp : (s.cx ctx.val).parked = false) (hck : (s.cx ctx.val).ckpts = [])
    (hw : (s.cx ctx.val).wait = .bit len a v strict tmo) (ht : tmo.isSome = true) :
    exec (.waitTimeout ctx) s = (s.resolveLive ctx.val (.bit (s.bitVal ctx.val a == v)) (s.bitVal ctx.val a == v)).done := by
  show execWaitTimeout ctx s = _
  have hmet : s.bitMet ctx.val (s.cx ctx.val).regs.bound (s.cx ctx.val).wait = (s.bitVal ctx.val a == v) := by rw [hw]; rfl
  have hleft : (s.cx ctx.val).wait.left = tmo := by rw [hw]; rfl
  simp only [execWaitTimeout, hl, hp, hmet, hleft, ht, Ctx.soonest, Ctx.speculating, hck, List.length_nil, List.range_zero,
    List.filterMap_nil, List.foldl_nil, Option.map_none, List.isEmpty_nil, Bool.not_true, Bool.not_false, Bool.or_self, Bool.and_self,
    Bool.false_eq_true, if_false, if_true]

/-- A context whose bit wait ends in a quiet machine: beside it only what `Calm` names changes. -/
theorem State.done_endBitWait {s : State} {c : Nat} (q : Quiet s) (hl : (s.cx c).live = true) (len : Nat) (strict z : Bool) :
    ∃ t, (s.setCx c ((s.cx c).endBitWait len strict z)).done = .next t ∧
      { s with ctx := t.ctx } = s.setCx c ((s.cx c).endBitWait len strict z) ∧ OnlyRegs [] { s with ctx := t.ctx } t := by
  obtain ⟨t, ht, hcalm⟩ := State.done_of_quiet (q.endBitWait hl len strict z)
  have hctx : { s with ctx := t.ctx } = s.setCx c ((s.cx c).endBitWait len strict z) := by
    rw [show t.ctx = _ from (congrArg State.ctx hcalm.rest :)]; rfl
  exact ⟨t, ht, hctx, by rw [hctx]; exact ⟨hcalm.rest, fun r _ => hcalm.reg r⟩⟩

end Sys2Proof.Machine

open Sys2Proof Sys2Proof.Machine

/-- Settles O16: the wait begins after the checks and ends or parks at once; a sample or a timeout resolves it, and only the timeout
of a WAITB on another value ends the program. -/
theorem bitWaitsBeginAndEnd : Obligations.BitWaitsBeginAndEnd := by
  unfold Obligations.BitWaitsBeginAndEnd
  intro h bit v strict dt s c x a op n wait on
  refine ⟨fun hr hel hck ha hb hseq hp hlive => ?_, fun tmo hl hpk hck hsq hseq hw he => ?_⟩
  · obtain ⟨hl, hpk, hsq⟩ := State.canIssue_live hr.1
    have hop : exec op s = waitOp strict h bit v dt s := by cases strict <;> rfl
    rw [hop, waitOp_ready hr hel hck ha hb hseq hp hlive]
    have hpark := State.parkCheck_waiting (s := s) (c := c) (x.beginsWait wait h.lock h.spec) rfl hl rfl hck hsq
    refine ⟨fun hv => ⟨s.setCx c ((x.beginsWait wait h.lock h.spec).endBitWait h.len strict true), ?_, OnlyCtx.setCx _ _ _, ?_⟩,
      fun hv hon => ?_, fun hv hon => ?_⟩
    · rw [if_pos hv, State.resolveLive_bit (by rw [State.cx_setCx_same]; rfl) (by rw [State.cx_setCx_same]; rfl)
        (by rw [State.cx_setCx_same]; exact hsq) (fun _ => rfl)]
      simp only [State.cx_setCx_same]
      simp only [State.setCx, SMap.set_set]
      rfl
    · rw [State.cx_setCx_same]
      exact Ctx.endBitWait_over (x.beginsWait wait h.lock h.spec) h.len strict true
    · have hoff : s.on (Fld.qctx.SUSP_REQ (x.beginsWait wait h.lock h.spec).qid) = false := hon
      refine ⟨s.setCx c (x.beginsWait wait h.lock h.spec), ?_, OnlyCtx.setCx _ _ _, ?_⟩
      · rw [if_neg hv]
        exact congrArg _ (hpark.trans (if_neg (Bool.eq_false_iff.1 hoff)))
      · rw [State.cx_setCx_same]
        exact ⟨rfl, rfl, hpk⟩
    · have hon' : s.on (Fld.qctx.SUSP_REQ (x.beginsWait wait h.lock h.spec).qid) = true := hon
      have hq := (OnlyQueues.refl (s.setCx c { x.beginsWait wait h.lock h.spec with parked := true })).qUpdate x.qid
      refine ⟨(s.setCx c { x.beginsWait wait h.lock h.spec with parked := true }).qUpdate x.qid, ?_, ?_⟩
      · rw [if_neg hv]
        exact congrArg _ (hpark.trans (if_pos hon'))
      · have hcc := (hq.cx c).trans (State.cx_setCx_same _ _ _)
        exact ⟨by rw [hcc]; rfl, by rw [hcc]; rfl, by rw [hcc], fun c' hc => (hq.cx c').trans (State.cx_setCx_ne _ _ hc), hq.out⟩
  · have hover := fun z => Ctx.endBitWait_over x h.len strict z
    have hon : ∀ z, on (s.setCx c (x.endBitWait h.len strict z)) z := fun z =>
      ⟨OnlyCtx.setCx _ _ _, by rw [State.cx_setCx_same]; exact hover z⟩
    have hres := fun sat hs => State.resolveLive_bit (c := c) (sat := sat) hw he hsq hs
    have hsample := execBitWaitSatisfied_waiting (ctx := h.ctx) hl hpk hck hw
    have htime := execWaitTimeout_waiting (ctx := h.ctx) hl hpk hck hw
    have hdone : Quiet s → ∀ z, ∃ t, (s.setCx c (x.endBitWait h.len strict z)).done = .next t ∧
        OnlyRegs [] { s with ctx := t.ctx } t ∧ on { s with ctx := t.ctx } z := fun q z => by
      obtain ⟨t, ht, hctx, hregs⟩ := State.done_endBitWait q hl h.len strict z
      exact ⟨t, ht, hregs, by rw [hctx]; exact hon z⟩
    refine ⟨fun hv => ⟨⟨_, ?_, hon true⟩, fun q ht => ?_⟩, fun hv => ⟨?_, fun q ht hst => ?_, fun q ht hst hu hpost => ?_⟩⟩
    · rw [hsample, if_pos hv, hres true (fun _ => rfl)]
    · rw [htime ht, beq_iff_eq.2 hv, hres true (fun _ => rfl)]
      exact hdone q true
    · rw [hsample, if_neg hv]
    · rw [htime ht, beq_eq_false_iff_ne.2 hv, hres false (fun h => absurd h (by rw [hst]; decide))]
      exact hdone q false
    · subst hst
      rw [htime ht, beq_eq_false_iff_ne.2 hv, State.resolveLive_plain he hsq, State.finishWait_timeout hw]
      have hgone := State.autoEnd_gone (st := 0x41) (i := {}) q.2.2.2.2.2.2.2 hu hpost (.inr (by decide)) rfl
      obtain ⟨t, ht, hcalm⟩ := State.done_of_quiet (hgone.quiet q)
      exact ⟨t, ht, hgone.ended.calm hcalm⟩
end

section
/-! ### What a command that changes registers alone leaves quiet, and what STATE of a queue becomes -/

namespace Sys2Proof.Machine

namespace OnlyRegs
variable {ids : List RegId} {s t : State}

theorem refl (ids : List RegId) (s : State) : OnlyRegs ids s s := ⟨rfl, fun _ _ _ _ => rfl⟩

theorem trans {u : State} (h : OnlyRegs ids s t) (g : OnlyRegs ids t u) : OnlyRegs ids s u :=
  ⟨g.1.trans h.1, fun r h1 h2 h3 => (g.2 r h1 h2 h3).trans (h.2 r h1 h2 h3)⟩

theorem mono {ids' : List RegId} (h : OnlyRegs ids s t) (hi : ∀ i ∈ ids, i ∈ ids') : OnlyRegs ids' s t :=
  ⟨h.1, fun r h1 h2 h3 => h.2 r (fun hr => h1 (hi _ hr)) h2 h3⟩

theorem put (h : OnlyRegs ids s t) {f : Field} (v : Nat) (hf : f.reg.id ∈ ids) : OnlyRegs ids s (t.put f v) := by
  refine ⟨h.1, fun r h1 h2 h3 => ?_⟩
  rw [State.reg_put_ne, h.2 r h1 h2 h3]
  rintro rfl
  exact h1 hf

theorem incSat (h : OnlyRegs ids s t) {f : Field} (hf : f.reg.id ∈ ids) : OnlyRegs ids s (t.incSat f) := h.put _ hf

theorem raise (h : OnlyRegs ids s t) {src : Nat} (hs : RegId.srcStat ∈ ids) : OnlyRegs ids s (t.raise src) := by
  refine OnlyRegs.incSat ?_ hs
  unfold State.setPend
  split
  · exact h
  · have h1 := h.put (f := Fld.srcStat.PEND src) 1 hs
    exact ⟨h1.1, h1.2⟩

/-- What the end of a command adds in a quiet machine stays within what `OnlyRegs` leaves open. -/
theorem calm {u : State} (h : OnlyRegs ids s t) (g : Calm t u) : OnlyRegs ids s u :=
  ⟨g.rest.trans h.1, fun r h1 h2 h3 => (g.reg r h2 h3).trans (h.2 r h1 h2 h3)⟩

/-- Registers from which no error line and no wait follows leave a quiet machine quiet. -/
theorem quiet (h : OnlyRegs ids s t) (hd : ∀ i ∈ faultIds ++ waitIds, i ∉ ids) (q : Quiet s) : Quiet t := by
  obtain ⟨hb, hr⟩ := h
  have hreg : ∀ r : Reg, r.id ∈ faultIds ++ waitIds → t.reg r = s.reg r := fun r hm =>
    hr r (hd _ hm) (fun e => absurd (e ▸ hm) (by decide)) (fun e => absurd (e ▸ hm) (by decide))
  refine SameFaults.quiet (s := s) ⟨fun r hm => hreg r (List.mem_append_left _ hm), (congrArg State.hostFault hb :),
    (congrArg State.ideFault hb :), (congrArg State.inReset hb :), (congrArg State.hits hb :)⟩
    ⟨fun r hm => hreg r (List.mem_append_right _ hm), (congrArg State.ctx hb :), (congrArg State.sem hb :), (congrArg State.xfer hb :),
      (congrArg State.txn hb :), (congrArg State.hreq hb :), (congrArg State.disc hb :), (congrArg State.atc hb :),
      (congrArg State.atsEn hb :), (congrArg State.bme hb :), (congrArg State.d3hot hb :)⟩ q

end OnlyRegs

/-! #### Counters -/

theorem State.get_incSat_same (s : State) (f : Field) (h : f.lo + f.w ≤ 64 := by decide) : (s.incSat f).get f = s.more f := by
  have hlt := State.get_lt s f
  unfold State.incSat
  rw [State.get_put_same s f _ h, State.more]
  split
  · exact Nat.mod_eq_of_lt ‹_›
  · exact Nat.mod_eq_of_lt hlt

/-! #### Writes that change nothing -/

theorem putBits_bitsOf (v lo w : Nat) : putBits v lo w (bitsOf v lo w) = v := by
  have hle : bitsOf v lo w * 2 ^ lo ≤ v :=
    Nat.le_trans (Nat.mul_le_mul_right _ (Nat.mod_le _ _)) (Nat.div_mul_le_self v (2 ^ lo))
  unfold putBits
  rw [Nat.mod_eq_of_lt (bitsOf_lt v lo w)]
  omega

/-- Writing a field with the value it has changes no register. -/
theorem State.reg_put_get (s : State) (f : Field) (r : Reg) : (s.put f (s.get f)).reg r = s.reg r := by
  by_cases h : r = f.reg
  · subst h
    simp only [State.put, State.get, State.reg_setReg_same, putBits_bitsOf, BitVec.ofNat_toNat, BitVec.setWidth_eq]
  · exact State.reg_put_ne s _ h

/-! #### Event sources and wakes touch no other register -/

theorem State.reg_raise (s : State) (src : Nat) {r : Reg} (h : r.id ≠ .srcStat) : (s.raise src).reg r = s.reg r := by
  have hne : ∀ f : Field, f.reg.id = .srcStat → r ≠ f.reg := fun f hf e => h (e ▸ hf)
  unfold State.raise State.incSat State.setPend
  rw [State.reg_put_ne _ _ (hne _ rfl)]
  split
  · rfl
  · exact State.reg_put_ne s (f := Fld.srcStat.PEND src) 1 (hne _ rfl)

theorem State.reg_kingWake (s : State) (q : Nat) (r : Reg) : (s.kingWake q).reg r = s.reg r := by
  unfold State.kingWake
  dsimp only
  split <;> rfl

theorem State.reg_qReached (s : State) (q st : Nat) {r : Reg} (h : r.id ≠ .srcStat) : (s.qReached q st).reg r = s.reg r := by
  unfold State.qReached
  dsimp only
  split
  · split
    · exact State.reg_raise _ _ h
    · rfl
  · rfl

/-! #### STATE follows (R60) -/

/-- STATE of a queue after it has followed what is pending, in flight, suspended or stopping (R60, R62). -/
def State.stateAfter (s : State) (q : Nat) : Nat :=
  let st := s.get (Fld.qctx.STATE q)
  if st = 0 ∨ st = 6 then st
  else if st = 5 then if s.get (Fld.qctx.IN_FLIGHT q) = 0 then 0 else 5
  else if s.on (Fld.qctx.SUSP_REQ q) then if st = 4 then 4 else if s.qBusy q then 3 else 4
  else if s.get (Fld.qctx.IN_FLIGHT q) > 0 then 3 else if s.sqPending q > 0 then 2 else 1

/-- Of the registers but those of event sources, `qUpdate` writes STATE alone. -/
theorem State.reg_qUpdate (s : State) (q : Nat) {r : Reg} (h : r.id ≠ .srcStat) :
    (s.qUpdate q).reg r = (s.put (Fld.qctx.STATE q) (s.stateAfter q)).reg r := by
  have hkeep : ∀ v, s.get (Fld.qctx.STATE q) = v → (s.put (Fld.qctx.STATE q) v).reg r = s.reg r := fun v hv =>
    hv ▸ State.reg_put_get s _ r
  unfold State.qUpdate State.stateAfter
  dsimp only
  split
  · exact (hkeep _ rfl).symm
  · split
    · next h5 =>
      split
      · rw [State.reg_qReached _ _ _ h]; rfl
      · exact (hkeep 5 h5).symm
    · split
      · split
        · next h4 => exact (hkeep 4 h4).symm
        · split
          · rfl
          · rw [State.reg_qReached _ _ _ h]
      · generalize (if s.get (Fld.qctx.IN_FLIGHT q) > 0 then 3 else if s.sqPending q > 0 then 2 else 1) = st'
        have hK : (if st' = 2 ∧ s.get (Fld.qctx.STATE q) ≠ 2 then (s.put (Fld.qctx.STATE q) st').kingWake q
            else s.put (Fld.qctx.STATE q) st').reg r = (s.put (Fld.qctx.STATE q) st').reg r := by
          split
          · exact State.reg_kingWake _ _ _
          · rfl
        split
        · split
          · exact hK
          · rw [State.reg_qReached _ _ _ h]; exact hK
        · exact hK

theorem State.get_qUpdate (s : State) (q : Nat) {f : Field} (h : f.reg.id ≠ .srcStat) :
    (s.qUpdate q).get f = (s.put (Fld.qctx.STATE q) (s.stateAfter q)).get f := by
  simp only [State.get, State.reg_qUpdate s q h]

theorem State.get_kingWake (s : State) (q : Nat) (f : Field) : (s.kingWake q).get f = s.get f := by
  simp only [State.get, State.reg_kingWake]

end Sys2Proof.Machine
end

section
/-! ### Doorbells -/

namespace Sys2Proof.Machine

/-- Two fields have no bit in common: they stand in different words, or at different bits of one. -/
def Field.apart (f g : Field) : Prop := f.reg ≠ g.reg ∨ ((f.lo + f.w ≤ g.lo ∨ g.lo + g.w ≤ f.lo) ∧ f.lo + f.w ≤ 64)

theorem State.get_put_apart (s : State) {f g : Field} (v : Nat) (h : f.apart g) : (s.put g v).get f = s.get f := by
  rcases h with h | ⟨h, h64⟩
  · exact State.get_put_reg s v h
  · exact State.get_put_disj s v h h64

/-! #### The return from Doze -/

theorem State.leaveDoze_onlyRegs (s : State) : OnlyRegs [.pcmStat, .srcStat] s s.leaveDoze := by
  unfold State.leaveDoze State.setDstate
  split
  · split
    · exact OnlyRegs.refl _ _
    · exact ((OnlyRegs.refl _ s).put _ (by decide)).raise (by decide)
  · exact OnlyRegs.refl _ _

theorem State.reg_leaveDoze (s : State) {r : Reg} (h1 : r.id ≠ .pcmStat) (h2 : r.id ≠ .srcStat) : s.leaveDoze.reg r = s.reg r := by
  unfold State.leaveDoze State.setDstate
  split
  · split
    · rfl
    · rw [State.reg_raise _ _ h2]
      exact State.reg_put_ne s _ fun e => h1 (e ▸ rfl)
  · rfl

theorem State.get_leaveDoze (s : State) {f : Field} (h1 : f.reg.id ≠ .pcmStat) (h2 : f.reg.id ≠ .srcStat) :
    s.leaveDoze.get f = s.get f := by
  simp only [State.get, State.reg_leaveDoze s h1 h2]

theorem State.dstate_leaveDoze (s : State) :
    s.leaveDoze.get Fld.pcmStat.DSTATE = if s.get Fld.pcmStat.DSTATE = 1 then 0 else s.get Fld.pcmStat.DSTATE := by
  unfold State.leaveDoze State.setDstate
  split
  · next h =>
    rw [if_neg (by rw [h]; decide)]
    show (State.raise _ _).get Fld.pcmStat.DSTATE = 0
    rw [State.get, State.reg_raise _ _ (by decide)]
    exact State.get_put_same s Fld.pcmStat.DSTATE 0
  · rfl

/-! #### The indices -/

/-- The indices that a doorbell names are taken, the new entries of a King queue judged (R48, R50, R89). -/
def State.takeIndices (s : State) (q : Nat) (sqV cqV : Bool) (tail head : Nat) : State :=
  let s2 := if cqV then s.put (Fld.qctx.CQ_HEAD q) head else s
  if sqV then (s2.judgeKing q (s2.get (Fld.qctx.SQ_TAIL q)) tail).put (Fld.qctx.SQ_TAIL q) tail else s2

theorem OnlyQueues.judgeKing {s t : State} (h : OnlyQueues s t) (q old new : Nat) : OnlyQueues s (t.judgeKing q old new) := by
  unfold State.judgeKing
  dsimp only
  split
  · exact h.setQd _ _
  · exact h

theorem State.reg_judgeKing (s : State) (q old new : Nat) (r : Reg) : (s.judgeKing q old new).reg r = s.reg r := by
  unfold State.judgeKing
  dsimp only
  split <;> rfl

theorem State.takeIndices_onlyQueues (s : State) (q : Nat) (sqV cqV : Bool) (tail head : Nat) :
    OnlyQueues s (s.takeIndices q sqV cqV tail head) := by
  have h2 : OnlyQueues s (if cqV then s.put (Fld.qctx.CQ_HEAD q) head else s) := by
    split
    · exact (OnlyQueues.refl s).put _ (.inl rfl)
    · exact OnlyQueues.refl s
  unfold State.takeIndices
  dsimp only
  split
  · exact (h2.judgeKing _ _ _).put _ (.inl rfl)
  · exact h2

section
variable (s : State) (q : Nat) (sqV cqV : Bool) (tail head : Nat)

theorem State.get_takeIndices {f : Field} (h1 : f.apart (Fld.qctx.SQ_TAIL q)) (h2 : f.apart (Fld.qctx.CQ_HEAD q)) :
    (s.takeIndices q sqV cqV tail head).get f = s.get f := by
  have hJ : ∀ (t : State) old new, (t.judgeKing q old new).get f = t.get f := fun t old new => by
    simp only [State.get, State.reg_judgeKing]
  unfold State.takeIndices
  cases sqV <;> cases cqV <;> simp [State.get_put_apart _ _ h1, State.get_put_apart _ _ h2, hJ]

theorem State.tail_takeIndices (h : tail < 2 ^ 20) :
    (s.takeIndices q sqV cqV tail head).get (Fld.qctx.SQ_TAIL q) = if sqV then tail else s.get (Fld.qctx.SQ_TAIL q) := by
  have hc : (if cqV then s.put (Fld.qctx.CQ_HEAD q) head else s).get (Fld.qctx.SQ_TAIL q) = s.get (Fld.qctx.SQ_TAIL q) := by
    split
    · exact State.get_put_reg s _ (by simp [Fld.qctx.SQ_TAIL, Fld.qctx.CQ_HEAD])
    · rfl
  unfold State.takeIndices
  dsimp only
  cases sqV
  · exact hc
  · exact (State.get_put_same _ (Fld.qctx.SQ_TAIL q) _ (by simp [Fld.qctx.SQ_TAIL])).trans (Nat.mod_eq_of_lt h)

theorem State.head_takeIndices (h : head < 2 ^ 20) :
    (s.takeIndices q sqV cqV tail head).get (Fld.qctx.CQ_HEAD q) = if cqV then head else s.get (Fld.qctx.CQ_HEAD q) := by
  have hc : (if cqV then s.put (Fld.qctx.CQ_HEAD q) head else s).get (Fld.qctx.CQ_HEAD q) =
      if cqV then head else s.get (Fld.qctx.CQ_HEAD q) := by
    split
    · exact (State.get_put_same _ (Fld.qctx.CQ_HEAD q) _ (by simp [Fld.qctx.CQ_HEAD])).trans (Nat.mod_eq_of_lt h)
    · rfl
  unfold State.takeIndices
  dsimp only
  cases sqV
  · exact hc
  · refine (State.get_put_reg _ _ (by simp [Fld.qctx.SQ_TAIL, Fld.qctx.CQ_HEAD])).trans (Eq.trans ?_ hc)
    simp only [State.get, State.reg_judgeKing]

end

/-- What a doorbell that takes indices leaves: beside the return from Doze only the queue's part changes. -/
theorem OnlyQueues.onlyRegs_doze {s u : State} (h : OnlyQueues s.leaveDoze u) :
    OnlyRegs [.qctx, .pcmStat, .srcStat] { s with qdyn := u.qdyn, waking := u.waking } u := by
  have h1 := congrArg (fun u' : State => { u' with qdyn := u.qdyn, waking := u.waking }.besides) h.rest
  have h2 := congrArg (fun u' : State => { u' with qdyn := u.qdyn, waking := u.waking }) s.leaveDoze_onlyRegs.1
  refine ⟨Eq.trans (h1 :) (h2 :), fun r hr _ _ => ?_⟩
  simp only [List.mem_cons, List.not_mem_nil, or_false, not_or] at hr
  exact (h.reg r hr.1 hr.2.2).trans (s.reg_leaveDoze hr.2.1 hr.2.2)

/-! #### The cases of a doorbell -/

theorem bitsOf_one_beq (v k : Nat) : (bitsOf v k 1 == 1) = v.testBit k := by
  rw [Nat.testBit_eq_decide_div_mod_eq]
  rfl

section
variable {func : Fin 1024} {qid : BitVec 16} {val : BitVec 64} {s : State}

theorem execDoorbell_unreached (h : s.reaches (ownAcc func) = false) : exec (.doorbell func qid val) s = .next s := by
  show execDoorbell func qid val s = _
  simp [execDoorbell, h]

theorem execDoorbell_foreign (h : s.reaches (ownAcc func) = true)
    (ho : ¬(s.on (Fld.grp.ASSIGNED (qid.toNat / 16)) = true ∧ s.get (Fld.grp.FUNC (qid.toNat / 16)) = func.val)) :
    exec (.doorbell func qid val) s = .next (s.leaveDoze.incSat Fld.qmuStat.DB_FOREIGN) := by
  show execDoorbell func qid val s = _
  have hno : (!s.on (Fld.grp.ASSIGNED (qid.toNat / 16)) || s.qFunc qid.toNat != func.val) = true := by
    by_cases ha : s.on (Fld.grp.ASSIGNED (qid.toNat / 16)) = true
    · have hf : s.qFunc qid.toNat ≠ func.val := fun e => ho ⟨ha, e⟩
      simp [hf]
    · simp [ha]
  simp only [execDoorbell, h, hno, Bool.not_true, Bool.false_eq_true, if_false, if_true]

variable (h : s.reaches (ownAcc func) = true)
  (ho : s.on (Fld.grp.ASSIGNED (qid.toNat / 16)) = true ∧ s.get (Fld.grp.FUNC (qid.toNat / 16)) = func.val)
include h ho

theorem execDoorbell_dropped (hst : s.get (Fld.qctx.STATE qid.toNat) = 0 ∨ s.get (Fld.qctx.STATE qid.toNat) = 6) :
    exec (.doorbell func qid val) s = .next (s.leaveDoze.incSat (Fld.qctx.DB_DROPPED qid.toNat)) := by
  show execDoorbell func qid val s = _
  have hown : (!s.on (Fld.grp.ASSIGNED (qid.toNat / 16)) || s.qFunc qid.toNat != func.val) = false := by
    simp [ho.1, State.qFunc, ho.2]
  simp only [execDoorbell, h, hown, hst, Bool.not_true, Bool.false_eq_true, if_false, if_true]

/-- A doorbell for an enabled queue takes the indices that it names and that the rings admit. -/
theorem execDoorbell_enabled (hst : ¬(s.get (Fld.qctx.STATE qid.toNat) = 0 ∨ s.get (Fld.qctx.STATE qid.toNat) = 6))
    (hr1 : val.toNat / 2 ^ 21 % 2 ^ 11 = 0) (hr2 : val.toNat / 2 ^ 53 = 0)
    (htail : val.toNat.testBit 20 = true → val.toNat % 2 ^ 20 < 2 ^ s.get (Fld.qctx.SQ_LOG2 qid.toNat))
    (hhead : val.toNat.testBit 52 = true → val.toNat / 2 ^ 32 % 2 ^ 20 < 2 ^ s.get (Fld.qctx.CQ_LOG2 qid.toNat) ∧
      (s.get (Fld.qctx.CQ_TAIL qid.toNat) + 2 ^ s.get (Fld.qctx.CQ_LOG2 qid.toNat) - val.toNat / 2 ^ 32 % 2 ^ 20) %
        2 ^ s.get (Fld.qctx.CQ_LOG2 qid.toNat) ≤ s.cqUsed qid.toNat) :
    exec (.doorbell func qid val) s =
      if (val.toNat.testBit 20 || val.toNat.testBit 52) = true then
        (((s.leaveDoze.takeIndices qid.toNat (val.toNat.testBit 20) (val.toNat.testBit 52) (val.toNat % 2 ^ 20)
          (val.toNat / 2 ^ 32 % 2 ^ 20)).qUpdate qid.toNat).kingWake qid.toNat).done
      else .next s := by
  show execDoorbell func qid val s = _
  have hown : (!s.on (Fld.grp.ASSIGNED (qid.toNat / 16)) || s.qFunc qid.toNat != func.val) = false := by
    simp [ho.1, State.qFunc, ho.2]
  have hres : ¬(bitsOf val.toNat 21 11 ≠ 0 ∨ bitsOf val.toNat 53 11 ≠ 0) := by
    rw [bitsOf, bitsOf, hr1, hr2]
    exact fun e => e.elim (absurd rfl) (absurd (Nat.zero_mod _))
  have h0 : bitsOf val.toNat 0 20 = val.toNat % 2 ^ 20 := by rw [bitsOf, Nat.pow_zero, Nat.div_one]
  have h32 : bitsOf val.toNat 32 20 = val.toNat / 2 ^ 32 % 2 ^ 20 := rfl
  generalize hsq : val.toNat.testBit 20 = sqV at htail ⊢
  generalize hcq : val.toNat.testBit 52 = cqV at hhead ⊢
  generalize val.toNat % 2 ^ 20 = tail at h0 htail ⊢
  generalize val.toNat / 2 ^ 32 % 2 ^ 20 = head at h32 hhead ⊢
  have hsize : ((sqV && decide (tail ≥ 2 ^ s.get (Fld.qctx.SQ_LOG2 qid.toNat))) ||
      (cqV && decide (head ≥ 2 ^ s.get (Fld.qctx.CQ_LOG2 qid.toNat)))) = false := by
    simp only [Bool.or_eq_false_iff, Bool.and_eq_false_imp, decide_eq_false_iff_not, Nat.not_le, ge_iff_le]
    exact ⟨htail, fun hc => (hhead hc).1⟩
  have hclaim : (cqV && decide ((s.get (Fld.qctx.CQ_TAIL qid.toNat) + 2 ^ s.get (Fld.qctx.CQ_LOG2 qid.toNat) - head) %
      2 ^ s.get (Fld.qctx.CQ_LOG2 qid.toNat) > s.cqUsed qid.toNat)) = false := by
    simp only [Bool.and_eq_false_imp, decide_eq_false_iff_not, gt_iff_lt, Nat.not_lt]
    exact fun hc => (hhead hc).2
  simp only [execDoorbell, h, hown, hst, hres, bitsOf_one_beq, hsq, hcq, h0, h32, hsize, hclaim, Bool.not_true, Bool.false_eq_true, if_false]
  cases sqV <;> cases cqV <;> simp only [State.takeIndices, Bool.not_true, Bool.not_false, Bool.and_true, Bool.and_false, Bool.or_true, Bool.or_false,
    Bool.false_eq_true, if_true, if_false]

end

end Sys2Proof.Machine

open Sys2Proof Sys2Proof.Machine

/-- Settles O33: each branch of a doorbell writes its counter or its indices, and STATE follows them (R60). -/
theorem doorbellsMoveTheRingIndices : Obligations.DoorbellsMoveTheRingIndices := by
  unfold Obligations.DoorbellsMoveTheRingIndices
  intro func qid val s hq q v tail head n owned awake off
  have hreach : ¬off → s.reaches (ownAcc func) = true := fun h => by simpa [off] using h
  have hawake : ∀ {t u : State}, Calm t u → (∀ f : Field, f.reg.id = .pcmStat → t.get f = s.leaveDoze.get f) → awake u := fun {t u} hc hp => by
    show u.get Fld.pcmStat.DSTATE = _
    rw [hc.get _ (by decide) (.inl (by decide)), hp _ rfl, State.dstate_leaveDoze]
  have hdoze := State.leaveDoze_onlyRegs s
  refine ⟨execDoorbell_unreached, fun hoff hno => ?_, fun hoff ho hst => ?_, fun hoff ho h1 h5 hr1 hr2 hsq hcq => ?_,
    fun hoff ho h1 h5 hone htail hhead hr1 hr2 => ?_⟩
  · refine ⟨_, execDoorbell_foreign (hreach hoff) hno, ?_, hawake (Calm.refl _) fun f hf => ?_, ?_⟩
    · rw [State.get_incSat_same _ Fld.qmuStat.DB_FOREIGN, State.more, State.more, State.get_leaveDoze (f := Fld.qmuStat.DB_FOREIGN) _ nofun nofun]
    · exact State.get_put_id _ _ (by rw [hf]; decide)
    · exact (hdoze.mono (by decide)).incSat (by decide)
  · refine ⟨_, execDoorbell_dropped (hreach hoff) ho hst, ?_, fun f hf hne => ?_, ?_, hawake (Calm.refl _) fun f hf => ?_, ?_⟩
    · rw [State.get_incSat_same _ _ (by simp [Fld.qctx.DB_DROPPED]), State.more, State.more,
        State.get_leaveDoze (f := Fld.qctx.DB_DROPPED q) _ nofun nofun]
    · exact (State.get_put_reg _ _ hne).trans (State.get_leaveDoze _ (by rw [hf]; decide) (by rw [hf]; decide))
    · refine (State.get_put_apart _ _ (.inr ?_)).trans (State.get_leaveDoze _ nofun nofun)
      simp [Fld.qctx.DB_DROPPED, Fld.qctx.COMPLETIONS]
    · exact State.get_put_id _ _ (by rw [hf]; nofun)
    · exact (hdoze.mono (by decide)).incSat (.head _)
  · have hst : ¬(s.get (Fld.qctx.STATE q) = 0 ∨ s.get (Fld.qctx.STATE q) = 6) := by omega
    rw [execDoorbell_enabled (hreach hoff) ho hst hr1 hr2 (by simp [v] at hsq; simp [hsq]) (by simp [v] at hcq; simp [hcq])]
    simp [v] at hsq hcq
    simp [hsq, hcq]
  · have hst : ¬(s.get (Fld.qctx.STATE q) = 0 ∨ s.get (Fld.qctx.STATE q) = 6) := by omega
    have hexec := execDoorbell_enabled (hreach hoff) ho hst hr1 hr2 htail hhead
    rw [if_pos hone] at hexec
    generalize hX : s.leaveDoze.takeIndices qid.toNat (val.toNat.testBit 20) (val.toNat.testBit 52) (val.toNat % 2 ^ 20)
      (val.toNat / 2 ^ 32 % 2 ^ 20) = X at hexec
    have hOX : OnlyQueues s.leaveDoze X := hX ▸ State.takeIndices_onlyQueues _ _ _ _ _ _
    have hOU := (hOX.qUpdate q).kingWake q
    obtain ⟨t, ht, hcalm⟩ := State.done_of_quiet (hOU.quiet (hdoze.quiet (by decide) hq))
    have hget : ∀ f : Field, f.reg.id = .qctx → t.get f = (X.put (Fld.qctx.STATE q) (X.stateAfter q)).get f := fun f hf => by
      rw [hcalm.get f (by rw [hf]; decide) (.inl (by rw [hf]; decide)), State.get_kingWake, State.get_qUpdate _ _ (by rw [hf]; decide)]
    have hXget : ∀ f : Field, f.reg.id = .qctx → f.apart (Fld.qctx.SQ_TAIL q) → f.apart (Fld.qctx.CQ_HEAD q) → X.get f = s.get f :=
      fun f hf h1 h2 => by
        rw [← hX, State.get_takeIndices _ _ _ _ _ _ h1 h2, State.get_leaveDoze _ (by rw [hf]; decide) (by rw [hf]; decide)]
    have hSt : ∀ f : Field, f.reg.id = .qctx → f.apart (Fld.qctx.STATE q) → t.get f = X.get f := fun f hf h3 =>
      (hget f hf).trans (State.get_put_apart _ _ h3)
    have hIn : ∀ f : Field, f.reg.id = .qctx → f.apart (Fld.qctx.SQ_TAIL q) → f.apart (Fld.qctx.CQ_HEAD q) →
        f.apart (Fld.qctx.STATE q) → t.get f = s.get f := fun f hf h1 h2 h3 =>
      (hSt f hf h3).trans (hXget f hf h1 h2)
    have hXst : X.get (Fld.qctx.STATE q) = s.get (Fld.qctx.STATE q) := hXget _ rfl (.inl nofun) (.inl nofun)
    have hXfl : X.get (Fld.qctx.IN_FLIGHT q) = s.get (Fld.qctx.IN_FLIGHT q) := hXget _ rfl (.inl nofun) (.inl nofun)
    have hXsr : X.get (Fld.qctx.SUSP_REQ q) = s.get (Fld.qctx.SUSP_REQ q) := hXget _ rfl (.inl nofun) (.inl nofun)
    have hpend : t.sqPending q = X.sqPending q := by
      simp only [State.sqPending, hSt (Fld.qctx.SQ_LOG2 q) rfl (.inl nofun), hSt (Fld.qctx.SQ_TAIL q) rfl (.inl nofun),
        hSt (Fld.qctx.SQ_HEAD q) rfl (.inl nofun)]
    have hstate : ∀ v, v < 8 → X.stateAfter q = v → t.get (Fld.qctx.STATE q) = v := fun v hv hs => by
      rw [hget _ rfl, hs]
      exact (State.get_put_same _ (Fld.qctx.STATE q) v (by simp [Fld.qctx.STATE])).trans (Nat.mod_eq_of_lt hv)
    refine ⟨t, hexec.trans ht, ?_, ?_, fun h3 hsr => ?_, fun h4 hsr => ?_, fun h5' hfl => ?_, fun f hf n1 n2 n3 => ?_, ?_, ?_, ?_, ?_,
      hawake hcalm fun f hf => hOU.get (by rw [hf]; nofun) (by rw [hf]; nofun), ?_⟩
    · rw [hSt (Fld.qctx.SQ_TAIL q) rfl (.inl nofun), ← hX,
        State.tail_takeIndices _ _ _ _ _ _ (Nat.mod_lt _ (by decide)), State.get_leaveDoze (f := Fld.qctx.SQ_TAIL q) _ nofun nofun]
    · rw [hSt (Fld.qctx.CQ_HEAD q) rfl (.inl nofun), ← hX,
        State.head_takeIndices _ _ _ _ _ _ (Nat.mod_lt _ (by decide)), State.get_leaveDoze (f := Fld.qctx.CQ_HEAD q) _ nofun nofun]
    · have hlt : ∀ {b c : Prop} [Decidable b] [Decidable c], (if b then 3 else if c then 2 else 1) < 8 := by
        intro b c _ _
        split
        · decide
        · split <;> decide
      refine hstate _ hlt ?_
      rw [hpend]
      simp only [State.stateAfter, State.on, hXst, hXfl, hXsr, hsr, hst, if_false, if_neg (show ¬s.get (Fld.qctx.STATE q) = 5 by omega)]
      rfl
    · exact hstate 4 (by decide) (by simp [State.stateAfter, State.on, hXst, hXsr, h4, hsr])
    · exact hstate 5 (by decide) (by simp [State.stateAfter, hXst, hXfl, h5', Nat.ne_of_gt hfl])
    · exact hIn f hf (.inl n1) (.inl n2) (.inl n3)
    · exact hIn _ rfl (.inr (by simp [Fld.qctx.SQ_HEAD, Fld.qctx.SQ_TAIL])) (.inl nofun) (.inl nofun)
    · exact hIn _ rfl (.inl nofun) (.inr (by simp [Fld.qctx.CQ_TAIL, Fld.qctx.CQ_HEAD])) (.inl nofun)
    · exact hIn _ rfl (.inl nofun) (.inr (by simp [Fld.qctx.CQ_PHASE, Fld.qctx.CQ_HEAD])) (.inl nofun)
    · exact hIn _ rfl (.inl nofun) (.inl nofun) (.inr (by simp [Fld.qctx.IN_FLIGHT, Fld.qctx.STATE]))
    · rw [show t.qdyn = _ from (congrArg State.qdyn hcalm.rest :), show t.waking = _ from (congrArg State.waking hcalm.rest :)]
      exact hOU.onlyRegs_doze.calm hcalm
end

section
/-! ### Words bit by bit -/

namespace Sys2Proof.Machine

theorem or_eq_add_of_and_eq_zero {a b : Nat} (h : a &&& b = 0) : a ||| b = a + b := by
  have ha : a < 2 ^ (a + b) := Nat.lt_of_le_of_lt (Nat.le_add_right a b) Nat.lt_two_pow_self
  have hb : b < 2 ^ (a + b) := Nat.lt_of_le_of_lt (Nat.le_add_left b a) Nat.lt_two_pow_self
  have hn : (BitVec.ofNat (a + b) a).toNat = a ∧ (BitVec.ofNat (a + b) b).toNat = b :=
    ⟨Nat.mod_eq_of_lt ha, Nat.mod_eq_of_lt hb⟩
  have h0 : BitVec.ofNat (a + b) a &&& BitVec.ofNat (a + b) b = 0#(a + b) := BitVec.eq_of_toNat_eq (by simp [hn, h])
  have hs := BitVec.toNat_add_of_and_eq_zero h0
  rw [BitVec.add_eq_or_of_and_eq_zero _ _ h0, BitVec.toNat_or, hn.1, hn.2] at hs
  exact hs

theorem testBit_sub_and (v m i : Nat) : (v - (v &&& m)).testBit i = (v.testBit i && !m.testBit i) := by
  have h0 : (v ^^^ (v &&& m)) &&& (v &&& m) = 0 := Nat.eq_of_testBit_eq fun j => by
    simp only [Nat.testBit_and, Nat.testBit_xor, Nat.zero_testBit]
    cases v.testBit j <;> cases m.testBit j <;> rfl
  have h1 : (v ^^^ (v &&& m)) ||| (v &&& m) = v := Nat.eq_of_testBit_eq fun j => by
    simp only [Nat.testBit_or, Nat.testBit_and, Nat.testBit_xor]
    cases v.testBit j <;> cases m.testBit j <;> rfl
  rw [or_eq_add_of_and_eq_zero h0] at h1
  rw [show v - (v &&& m) = v ^^^ (v &&& m) by omega]
  simp only [Nat.testBit_and, Nat.testBit_xor]
  cases v.testBit i <;> cases m.testBit i <;> rfl

theorem testBit_maskBits (v m i : Nat) : (maskBits v m).testBit i = (v.testBit i && m.testBit i) := Nat.testBit_and ..

theorem testBit_mergeBits (v m x i : Nat) : (mergeBits v m x).testBit i = if m.testBit i then x.testBit i else v.testBit i := by
  have h0 : (v - maskBits v m) &&& maskBits x m = 0 := Nat.eq_of_testBit_eq fun j => by
    rw [Nat.testBit_and, maskBits, testBit_sub_and, testBit_maskBits, Nat.zero_testBit]
    cases m.testBit j <;> simp
  rw [mergeBits, ← or_eq_add_of_and_eq_zero h0, Nat.testBit_or, maskBits, testBit_sub_and, testBit_maskBits]
  cases m.testBit i <;> simp

/-- A run of ones. -/
theorem testBit_ones (n k i : Nat) : ((2 ^ n - 1) * 2 ^ k).testBit i = decide (k ≤ i ∧ i < k + n) := by
  rw [Nat.testBit_mul_two_pow, Nat.testBit_two_pow_sub_one]
  by_cases h : k ≤ i <;> simp [h]
  omega

theorem testBit_accMask (o n i : Nat) : (accMask o n).testBit i = decide (8 * (o % 8) ≤ i ∧ i < 8 * (o % 8) + 8 * n) :=
  testBit_ones _ _ _

theorem testBit_accVal (o n v i : Nat) : (accVal o n v).testBit i =
    (decide (8 * (o % 8) ≤ i ∧ i < 8 * (o % 8) + 8 * n) && v.testBit (i - 8 * (o % 8))) := by
  rw [accVal, Nat.testBit_mul_two_pow, Nat.testBit_mod_two_pow]
  by_cases h : 8 * (o % 8) ≤ i
  · simp only [h, decide_true, Bool.true_and, true_and]
    rw [decide_eq_decide.2 (show i - 8 * (o % 8) < 8 * n ↔ i < 8 * (o % 8) + 8 * n by omega)]
  · simp [h]

/-! #### What a write leaves in a word -/

/-- What a write of a bit with the value `x` leaves of a bit `b` of a field of a type (R12). -/
def RType.bit (ty : RType) (x b : Bool) : Bool :=
  match ty with
  | .rw | .rwc | .rwi | .rws | .rwo => x
  | .w1c => b && !x
  | .w1s => b || x
  | .ro | .wo => b

/-- What one row leaves in a word `w` when the bits `m` are written with the value `x` (R12). -/
def FieldRow.write (m x w : Nat) (f : FieldRow) : Nat :=
  let k := maskBits f.mask m
  match f.ty with
  | .rw | .rwc | .rwi | .rws | .rwo => mergeBits w k x
  | .w1c => w - maskBits w (maskBits x k)
  | .w1s => mergeBits w (maskBits x k) x
  | .ro | .wo => w

theorem writtenWord_eq (r : Reg) (old m x : Nat) : writtenWord r old m x = (rowsOf r).foldl (FieldRow.write m x) old := rfl

theorem FieldRow.testBit_mask (f : FieldRow) (i : Nat) : f.mask.testBit i = decide (f.lo ≤ i ∧ i < f.lo + f.w) := testBit_ones _ _ _

theorem FieldRow.testBit_write (m x w : Nat) (f : FieldRow) (i : Nat) : (f.write m x w).testBit i =
    if (f.mask.testBit i && m.testBit i) = true then f.ty.bit (x.testBit i) (w.testBit i) else w.testBit i := by
  rw [← testBit_maskBits]
  unfold FieldRow.write RType.bit
  dsimp only
  generalize maskBits f.mask m = k
  cases f.ty <;> dsimp only
  all_goals simp only [testBit_mergeBits, maskBits, testBit_sub_and, Nat.testBit_and, ite_self]
  all_goals cases k.testBit i <;> cases x.testBit i <;> simp

/-- Rows that do not hold a bit, or hold it read-only, keep it. -/
theorem testBit_writes_of_kept {m x i : Nat} {l : List FieldRow} (w : Nat)
    (h : ∀ f ∈ l, f.mask.testBit i = true → m.testBit i = true → f.ty = .ro) :
    (l.foldl (FieldRow.write m x) w).testBit i = w.testBit i := by
  induction l generalizing w with
  | nil => rfl
  | cons f l ih =>
    rw [List.foldl_cons, ih _ fun g hg => h g (List.mem_cons_of_mem _ hg), FieldRow.testBit_write]
    split
    · next hb =>
      obtain ⟨h1, h2⟩ := Bool.and_eq_true_iff.1 hb
      rw [h f (List.mem_cons_self ..) h1 h2]
      rfl
    · rfl

/-- No two rows of a table hold one bit. -/
def RowsApart (l : List FieldRow) : Prop := l.Pairwise fun f g => f.lo + f.w ≤ g.lo ∨ g.lo + g.w ≤ f.lo

/-- Where no two rows share a bit, a written bit follows the type of the row that holds it. -/
theorem testBit_writes {m x i : Nat} {l : List FieldRow} (hl : RowsApart l) {f : FieldRow} (hf : f ∈ l)
    (hi : f.mask.testBit i = true) (hm : m.testBit i = true) (w : Nat) :
    (l.foldl (FieldRow.write m x) w).testBit i = f.ty.bit (x.testBit i) (w.testBit i) := by
  obtain ⟨l1, l2, rfl⟩ := List.append_of_mem hf
  obtain ⟨-, h2, h1⟩ := List.pairwise_append.1 hl
  have hoff : ∀ g : FieldRow, (f.lo + f.w ≤ g.lo ∨ g.lo + g.w ≤ f.lo) → g.mask.testBit i = true → m.testBit i = true → g.ty = .ro := by
    intro g hg hgi
    rw [FieldRow.testBit_mask, decide_eq_true_iff] at hi hgi
    omega
  rw [List.foldl_append, List.foldl_cons, testBit_writes_of_kept _ fun g hg => hoff g ((List.pairwise_cons.1 h2).1 g hg),
    FieldRow.testBit_write, hi, hm, testBit_writes_of_kept _ fun g hg => hoff g (h1 g hg f (List.mem_cons_self ..)).symm]
  rfl

/-! #### The fields after a write -/

section
variable {r : Reg} {f : FieldRow} (old o n v : Nat)

/-- A field that is read-only, or lies outside the access, keeps its value. -/
theorem field_written_kept (hr : RowsApart (rowsOf r)) (hf : f ∈ rowsOf r)
    (h : f.ty = .ro ∨ f.lo + f.w ≤ 8 * (o % 8) ∨ 8 * (o % 8) + 8 * n ≤ f.lo) :
    bitsOf (writtenWord r old (accMask o n) (accVal o n v)) f.lo f.w = bitsOf old f.lo f.w := by
  refine Nat.eq_of_testBit_eq fun i => ?_
  rw [bitsOf_testBit, bitsOf_testBit]
  by_cases hi : i < f.w
  · simp only [hi, decide_true, Bool.true_and, writtenWord_eq]
    have hfi : f.mask.testBit (f.lo + i) = true := by
      rw [FieldRow.testBit_mask, decide_eq_true_iff]
      omega
    by_cases hm : (accMask o n).testBit (f.lo + i) = true
    · have hro : f.ty = .ro := h.resolve_right fun h => by
        rw [testBit_accMask, decide_eq_true_iff] at hm
        omega
      rw [testBit_writes hr hf hfi hm, hro]
      rfl
    · exact testBit_writes_of_kept _ fun g _ _ h => absurd h hm
  · simp [hi]

variable (hr : RowsApart (rowsOf r)) (hf : f ∈ rowsOf r) (hin : 8 * (o % 8) ≤ f.lo ∧ f.lo + f.w ≤ 8 * (o % 8) + 8 * n)
include hr hf hin

/-- A bit of a field inside the access follows its field's type. -/
theorem testBit_field_written (i : Nat) : (bitsOf (writtenWord r old (accMask o n) (accVal o n v)) f.lo f.w).testBit i =
    (decide (i < f.w) && f.ty.bit (v.testBit (f.lo - 8 * (o % 8) + i)) (old.testBit (f.lo + i))) := by
  rw [bitsOf_testBit]
  by_cases hi : i < f.w
  · have hfi : f.mask.testBit (f.lo + i) = true := by
      rw [FieldRow.testBit_mask, decide_eq_true_iff]
      omega
    have hm : 8 * (o % 8) ≤ f.lo + i ∧ f.lo + i < 8 * (o % 8) + 8 * n := by omega
    rw [writtenWord_eq, testBit_writes hr hf hfi (by rw [testBit_accMask]; exact decide_eq_true hm), testBit_accVal,
      decide_eq_true hm, Bool.true_and, show f.lo + i - 8 * (o % 8) = f.lo - 8 * (o % 8) + i by omega]
  · simp [hi]

/-- A writable field inside the access takes the value given for it. -/
theorem field_written_rw (ht : f.ty = .rw ∨ f.ty = .rwc ∨ f.ty = .rwi) :
    bitsOf (writtenWord r old (accMask o n) (accVal o n v)) f.lo f.w = v / 2 ^ (f.lo - 8 * (o % 8)) % 2 ^ f.w := by
  refine Nat.eq_of_testBit_eq fun i => ?_
  rw [testBit_field_written old o n v hr hf hin, ← bitsOf, bitsOf_testBit]
  rcases ht with ht | ht | ht <;> rw [ht] <;> rfl

/-- A bit that is cleared by writing 1 is cleared so, and keeps its value else. -/
theorem field_written_w1c (ht : f.ty = .w1c) (h1 : f.w = 1) :
    bitsOf (writtenWord r old (accMask o n) (accVal o n v)) f.lo f.w =
      if v / 2 ^ (f.lo - 8 * (o % 8)) % 2 ^ f.w = 1 then 0 else bitsOf old f.lo f.w := by
  have hg : v / 2 ^ (f.lo - 8 * (o % 8)) % 2 ^ f.w = 1 ↔ v.testBit (f.lo - 8 * (o % 8)) = true := by
    rw [h1, Nat.testBit_eq_decide_div_mod_eq]
    exact decide_eq_true_iff.symm
  refine Nat.eq_of_testBit_eq fun i => ?_
  rw [testBit_field_written old o n v hr hf hin, ht, h1]
  rw [h1] at hg
  simp only [hg]
  by_cases hi : i < 1
  · obtain rfl : i = 0 := by omega
    split
    · next hb => simp [RType.bit, hb]
    · next hb => rw [bitsOf_testBit]; simp [RType.bit, hb]
  · split <;> simp [hi, bitsOf_testBit]

end
end Sys2Proof.Machine
end

section
/-! ### Registers whose write stores the word and does no more -/

namespace Sys2Proof.Machine

/-- Registers of weights, windows, slots, peers, the aperture and the logs. -/
def plainIds : List RegId :=
  [.clsW, .cluW, .qwData, .kingQuota, .fxbCtl, .fxbVc, .kstShadow, .gbtCtl, .hpuPeer, .spmAper, .dmgCtl, .dmgCw, .segvLog, .ownLog,
    .staleLog, .srcLog, .lockbrk, .extLog, .eccLog, .ptrLog, .pluErr, .hpcErr]

theorem State.regEffect_plain : ∀ id ∈ plainIds, ∀ (i j : Nat) (s : State) (m x new : Nat),
    s.regEffect ⟨id, i, j⟩ m x new = s.store ⟨id, i, j⟩ new := by
  simp only [plainIds, List.mem_cons, List.not_mem_nil, or_false, forall_eq_or_imp, forall_eq]
  and_intros <;> exact fun _ _ _ _ _ _ => rfl

/-- Rows in their order, each above the one before, within a word. -/
def ascending (k : Nat) : List FieldRow → Bool
  | [] => decide (k ≤ 64)
  | f :: l => decide (k ≤ f.lo) && ascending (f.lo + f.w) l

theorem ascending_plain : ∀ id ∈ plainIds, ∀ i j : Nat, ascending 0 (rowsOf ⟨id, i, j⟩) = true := by
  simp only [plainIds, List.mem_cons, List.not_mem_nil, or_false, forall_eq_or_imp, forall_eq]
  and_intros <;> exact fun _ _ => rfl

theorem ascending_mem {k : Nat} {l : List FieldRow} (h : ascending k l = true) : ∀ f ∈ l, k ≤ f.lo ∧ f.lo + f.w ≤ 64 := by
  have hend : ∀ {k l}, ascending k l = true → k ≤ 64 := by
    intro k l h
    induction l generalizing k with
    | nil => exact of_decide_eq_true h
    | cons g l ih =>
      obtain ⟨h1, h2⟩ := Bool.and_eq_true_iff.1 h
      have := ih h2
      have := of_decide_eq_true h1
      omega
  induction l generalizing k with
  | nil => exact fun _ hf => absurd hf List.not_mem_nil
  | cons g l ih =>
    obtain ⟨h1, h2⟩ := Bool.and_eq_true_iff.1 h
    have h1 := of_decide_eq_true h1
    rintro f (_ | ⟨_, hf⟩)
    · exact ⟨h1, hend h2⟩
    · have := ih h2 f hf
      omega

theorem ascending_apart {k : Nat} {l : List FieldRow} (h : ascending k l = true) : RowsApart l := by
  induction l generalizing k with
  | nil => exact List.Pairwise.nil
  | cons g l ih =>
    obtain ⟨-, h2⟩ := Bool.and_eq_true_iff.1 h
    exact List.Pairwise.cons (fun f hf => .inl (ascending_mem h2 f hf).1) (ih h2)

/-- Those of these registers from which an error line follows. -/
theorem plain_fault : ∀ id ∈ plainIds, id ∈ faultIds → id ∈ [RegId.lockbrk, .eccLog, .ptrLog, .pluErr, .hpcErr] := by decide

/-- They hold its cause at bit 0, cleared by writing 1. -/
theorem valid_row_plain : ∀ id ∈ [RegId.lockbrk, .eccLog, .ptrLog, .pluErr, .hpcErr], ∀ i j : Nat,
    ⟨0, 1, .w1c, 0⟩ ∈ rowsOf ⟨id, i, j⟩ := by
  simp only [List.mem_cons, List.not_mem_nil, or_false, forall_eq_or_imp, forall_eq]
  and_intros <;> exact fun _ _ => .head _

theorem plain_not_mem {id : RegId} (h : id ∈ plainIds) :
    id ≠ .fclFsw ∧ id ≠ .fclReact ∧ id ≠ .errLog ∧ id ≠ .xferLog ∧ id ≠ .cfsStat ∧ id ∉ waitIds ∧ id ≠ .kingStat ∧ id ≠ .srcStat := by
  revert id
  decide

/-! #### The error lines after such a write -/

/-- No line rises where causes have only gone. -/
theorem State.rises_of_fewer {s t : State} (h : s.rises = []) (hc : ∀ i, t.fltCause i = true → s.fltCause i = true)
    (h1 : t.inReset = s.inReset) (h2 : t.reg ⟨.fclFsw, 0, 0⟩ = s.reg ⟨.fclFsw, 0, 0⟩)
    (h3 : ∀ i, t.on (Fld.fclReact.HELD i) = s.on (Fld.fclReact.HELD i)) : t.rises = [] := by
  unfold State.rises below at h ⊢
  rw [List.filter_eq_nil_iff] at h ⊢
  intro i hi hr
  refine h i hi ?_
  simp only [State.fltLine, h1, h2, h3, Bool.and_eq_true] at hr ⊢
  exact ⟨hr.1, ⟨hc i hr.2.1.1, hr.2.1.2⟩, hr.2.2⟩

theorem ite_true_imp {c : Prop} [Decidable c] {a a' b b' : Bool} (ha : a = true → a' = true) (hb : b = true → b' = true) :
    (if c then a else b) = true → (if c then a' else b') = true := by
  split
  · exact ha
  · exact hb

section
variable {s : State} {r : Reg} {v : Word} (hr : r.id ∈ plainIds)
  (hv : r.id ∈ faultIds → bitsOf v.toNat 0 1 ≠ 0 → bitsOf (s.reg r).toNat 0 1 ≠ 0)
include hr hv

theorem State.fltCause_setReg_plain (i : Nat) (h : (s.setReg r v).fltCause i = true) : s.fltCause i = true := by
  obtain ⟨-, -, n3, n4, n5, -⟩ := plain_not_mem hr
  have hkeep : ∀ f : Field, f.reg.id ≠ r.id → (s.setReg r v).get f = s.get f := fun f hf => by
    simp only [State.get, State.reg_setReg_ne s v fun e : f.reg = r => hf (congrArg Reg.id e)]
  have hvalid : ∀ r' : Reg, r'.id ∈ faultIds → (s.setReg r v).on ⟨r', 0, 1⟩ = true → s.on ⟨r', 0, 1⟩ = true := fun r' hr' => by
    by_cases e : r' = r
    · subst e
      simp only [State.on, State.get, State.reg_setReg_same, bne_iff_ne]
      exact hv hr'
    · simp only [State.on, State.get, State.reg_setReg_ne s v e]
      exact id
  have he : (s.setReg r v).on (Fld.errLog.VALID i) = s.on (Fld.errLog.VALID i) := by
    rw [State.on, State.on, hkeep _ n3.symm]
  have hx : ∀ g, (s.setReg r v).on (Fld.xferLog.MERR g) = s.on (Fld.xferLog.MERR g) := fun g => by
    rw [State.on, State.on, hkeep _ n4.symm]
  have hs : (s.setReg r v).get Fld.cfsStat.STATE = s.get Fld.cfsStat.STATE := hkeep _ n5.symm
  have hl : ∀ b, (s.setReg r v).on (Fld.lockbrk.VALID b) = true → s.on (Fld.lockbrk.VALID b) = true := fun b => hvalid _ (by simp [faultIds])
  have hp : ∀ b, (s.setReg r v).on (Fld.pluErr.VALID b) = true → s.on (Fld.pluErr.VALID b) = true := fun b => hvalid _ (by simp [faultIds])
  have h31 : (s.setReg r v).on Fld.eccLog.VALID = true → s.on Fld.eccLog.VALID = true := hvalid _ (by simp [faultIds])
  have h32 : (s.setReg r v).on Fld.ptrLog.VALID = true → s.on Fld.ptrLog.VALID = true := hvalid _ (by simp [faultIds])
  have h39 : (s.setReg r v).on Fld.hpcErr.VALID = true → s.on Fld.hpcErr.VALID = true := hvalid _ (by simp [faultIds])
  unfold State.fltCause at h ⊢
  rw [he, hs, hx, show (s.setReg r v).hostFault = s.hostFault from rfl, show (s.setReg r v).ideFault = s.ideFault from rfl] at h
  rw [Bool.or_eq_true] at h ⊢
  have hlp : ∀ a b, ((s.setReg r v).on (Fld.pluErr.VALID a) || (s.setReg r v).on (Fld.lockbrk.VALID b)) = true →
      (s.on (Fld.pluErr.VALID a) || s.on (Fld.lockbrk.VALID b)) = true := fun a b h => by
    rw [Bool.or_eq_true] at h ⊢
    exact h.imp (hp a) (hl b)
  exact h.imp_right (ite_true_imp id (ite_true_imp (hlp _ _) (ite_true_imp (hl _) (ite_true_imp id (ite_true_imp (hl _)
    (ite_true_imp h31 (ite_true_imp h32 (ite_true_imp id (ite_true_imp h39 id)))))))))

theorem Quiet.setReg_plain (q : Quiet s) : Quiet (s.setReg r v) := by
  obtain ⟨n1, n2, -, -, -, nw, -, -⟩ := plain_not_mem hr
  have hw : SameWaits s (s.setReg r v) := (SameWaits.refl s).setReg v nw
  obtain ⟨q1, q2, q3, q4, q5, q6, q7, q8⟩ := q
  refine ⟨State.rises_of_fewer q1 (State.fltCause_setReg_plain hr hv) rfl ?_ fun i => ?_, q2, hw.semFree.trans q3, hw.stalled.trans q4, ?_, q6,
    hw.canGo.trans q7, q8⟩
  · exact State.reg_setReg_ne s v fun e => n1 (e ▸ rfl)
  · rw [State.on, State.get, State.reg_setReg_ne s v fun e : (Fld.fclReact.HELD i).reg = r => n2 (e ▸ rfl)]
    rfl
  · rw [hw.on (f := Fld.hpuStat.MODE) (by simp [waitIds, Fld.hpuStat.MODE])]
    exact q5

end
end Sys2Proof.Machine
end

section
/-! ### Reads and writes of a register in the expert window -/

namespace Sys2Proof

theorem ofBytes_toBytes (n v : Nat) : ofBytes (toBytes n v) = v % 256 ^ n := by
  induction n generalizing v with
  | zero => simp [toBytes, ofBytes, Nat.mod_one]
  | succ n ih => rw [toBytes, ofBytes, ih, BitVec.toNat_ofNat, Nat.pow_succ' (m := 256), Nat.mod_mul]

theorem take_toBytes {m n : Nat} (h : m ≤ n) (v : Nat) : (toBytes n v).take m = toBytes m v := by
  induction m generalizing n v with
  | zero => rfl
  | succ m ih =>
    obtain ⟨n, rfl⟩ : ∃ k, n = k + 1 := ⟨n - 1, by omega⟩
    rw [toBytes, toBytes, List.take_succ_cons, ih (by omega)]

theorem drop_toBytes (n k v : Nat) : (toBytes (n + k) v).drop k = toBytes n (v / 256 ^ k) := by
  induction k generalizing v with
  | zero => simp
  | succ k ih => rw [← Nat.add_assoc, toBytes, List.drop_succ_cons, ih, Nat.div_div_eq_div_mul, Nat.pow_succ']

/-- The bytes from `k` on, `m` of them, spell the bits that they hold. -/
theorem ofBytes_stretch {n k m : Nat} (h : k + m ≤ n) (v : Nat) :
    ofBytes (((toBytes n v).drop k).take m) = v / 2 ^ (8 * k) % 2 ^ (8 * m) := by
  obtain ⟨d, rfl⟩ : ∃ d, n = d + k := ⟨n - k, by omega⟩
  rw [drop_toBytes, take_toBytes (by omega), ofBytes_toBytes, Nat.pow_mul, Nat.pow_mul]

end Sys2Proof

namespace Sys2Proof.Machine

theorem inArr_eq_none {o base n : Nat} {f : Nat → Reg} (h : o < base ∨ base + 8 * n ≤ o) : inArr o base n f = none :=
  if_neg (by omega)

/-- No register stands where a word is computed whole. -/
theorem State.blockReg_of_viewBlock {s : State} {b o : Nat} {w : Word} (h : s.viewBlock b o = some w) : s.blockReg b o = none := by
  have hb : (b = 10 ∧ o = 0x110) ∨ (21 ≤ b ∧ b ≤ 24 ∧ 0x1000 ≤ o ∧ o < 0x1800) ∨ (b = 29 ∧ 0x200 ≤ o ∧ o < 0x400) ∨
      (b = 32 ∧ (o = 8 ∨ o = 0x100 ∨ o = 0x108)) := by
    unfold State.viewBlock at h
    refine Classical.byContradiction fun hn => ?_
    simp (disch := omega) only [if_neg, reduceCtorEq] at h
  unfold State.blockReg
  rcases hb with hb | hb | hb | hb <;>
    simp (disch := omega) only [if_neg, if_pos, at1, atI, atW, atN, inArr_eq_none, firstOf]

/-- In the expert blocks a read of a register's offset meets its view, without the write-only fields. -/
theorem State.barWord_expert {s : State} {o : Nat} {r : Reg} (h : expertBase ≤ o ∧ o < expertEnd) (hp : s.place o = some r) :
    s.barWord o = wordOf (maskBits (s.viewReg r).toNat (maskOf r fun f => f.ty != .wo)) := by
  have hb : s.viewBlock ((o - expertBase) / 0x10000) (o % 0x10000) = none := by
    cases hv : s.viewBlock ((o - expertBase) / 0x10000) (o % 0x10000) with
    | none => rfl
    | some w =>
      have h1 : ¬o < mailBase := by unfold mailBase; unfold expertBase at h; omega
      have h2 : ¬o < 0x00140000 := by unfold expertBase at h; omega
      rw [State.place, if_neg h1, if_neg h2, if_pos h, State.blockReg_of_viewBlock hv] at hp
      cases hp
  have h1 : ¬(0x7000 ≤ o ∧ o < 0x7100) := by unfold expertBase at h; omega
  have h2 : ¬(0x8000 ≤ o ∧ o < 0x10000) := by unfold expertBase at h; omega
  have h3 : ¬o = 0x10020 := by unfold expertBase at h; omega
  simp only [State.barWord, h1, h2, h3, h, hb, hp, if_false, if_true, and_self]

/-- The access lies in the expert blocks, and is of a size and alignment that registers take. -/
structure ExpertAccess (s : State) (acc : Accessor) (o n : Nat) : Prop where
  own : acc = .firmware ∨ acc = .pf
  reaches : s.reaches acc = true
  lo : expertBase ≤ o
  hi : o + n ≤ expertEnd
  size : n = 4 ∨ n = 8
  aligned : o % n = 0

namespace ExpertAccess
variable {s : State} {acc : Accessor} {o n : Nat} {r : Reg} (h : ExpertAccess s acc o n)
include h

theorem regSize : regSize o n = true := by
  have := h.aligned
  rcases h.size with hs | hs <;> simp_all [Machine.regSize]

theorem within : o % 8 + n ≤ 8 := by
  have := h.aligned
  rcases h.size with hs | hs <;> subst hs <;> omega

theorem below : o + n ≤ cfgSpaceBase ∧ o < cfgSpaceBase ∧ o < aperBase ∧ 1 ≤ n := by
  have := h.hi
  have hs : 1 ≤ n := by rcases h.size with hs | hs <;> omega
  unfold expertEnd at this
  unfold aperBase cfgSpaceBase
  omega

theorem word : expertBase ≤ o / 8 * 8 ∧ o / 8 * 8 < expertEnd := by
  have h1 := h.lo
  have h2 := h.hi
  have h3 := h.below.2.2.2
  unfold expertBase expertEnd at *
  omega

/-- A read answers the bits that its bytes hold of the register's view. -/
theorem read (hx : s.expertShut acc o = false) (hp : s.place (o / 8 * 8) = some r) : exec (.expertWindowRead acc o n) s =
    .next { s with out := .rdata o ((wordOf (maskBits (s.viewReg r).toNat (maskOf r fun f => f.ty != .wo))).toNat / 2 ^ (8 * (o % 8)) %
      2 ^ (8 * n)) :: s.out } := by
  obtain ⟨hc, -, ha, hn⟩ := h.below
  rw [execExpertWindowRead_own h.reaches hc hn, State.barRead_open h.own h.reaches ha hx, if_pos h.regSize,
    State.barWord_expert h.word hp, ofBytes_stretch h.within]
  rfl

/-- A write reaches the register, with the bits of its bytes, unless it is held back. -/
theorem write (hx : s.expertShut acc o = false) (hp : s.place (o / 8 * 8) = some r) (h32 : is32 r.id = true → o % 8 = 0 ∧ n = 4)
    (hb : acc = .pf → ∀ b m, s.heldBack b r m = false) (v : BitVec 64) :
    exec (.registerWrite acc o n v) s = s.writeReg r (accMask o n) (accVal o n v.toNat) := by
  obtain ⟨-, hc, ha, hn⟩ := h.below
  have hd : ¬(doorBase ≤ o ∧ o < expertBase) := fun hd => absurd h.lo (Nat.not_le.2 hd.2)
  have h1 : 33554432 ≤ o := h.lo
  have hm : ¬(0x8000 ≤ o ∧ o < 0x10000) := by omega
  have hmb : ¬(mailBase ≤ o ∧ o < 0x140000) := by omega
  have h32' : (is32 r.id && decide (o % 8 ≥ 4)) = false := by
    cases hi : is32 r.id
    · rfl
    · simp [(h32 hi).1]
  have hmask : (if is32 r.id = true then maskBits (accMask o n) (2 ^ 32 - 1) else accMask o n) = accMask o n := by
    split
    · next hi =>
      obtain ⟨e1, rfl⟩ := h32 hi
      rw [accMask, e1]
      decide
    · rfl
  rw [execRegisterWrite_own h.own h.reaches hc, State.writePf]
  simp only [Nat.not_le.2 ha, hx, hd, hm, hmb, hp, h32', h.regSize, hmask, if_false, Bool.false_eq_true, Bool.not_true]
  rcases h.own with rfl | rfl
  · rfl
  · cases blockAt o with
    | none => rfl
    | some b => simp [hb rfl]

end ExpertAccess

/-! #### A locked window (R422) -/

section
variable {s : State} {o n : Nat} (hl : s.on Fld.glbExpert.UNLOCKED = false)
include hl

theorem State.expertShut_locked (h1 : expertBase ≤ o) (h2 : o < aperBase) : s.expertShut .pf o = true := by
  simp [State.expertShut, hl, h1, h2]

variable (h : ExpertAccess s .pf o n)
include h

theorem ExpertAccess.write_locked (v : BitVec 64) : exec (.registerWrite .pf o n v) s = .next s.denied := by
  obtain ⟨-, hc, ha, -⟩ := h.below
  rw [execRegisterWrite_own h.own h.reaches hc]
  simp only [State.writePf, Nat.not_le.2 ha, State.expertShut_locked hl h.lo ha, if_false, if_true]

theorem ExpertAccess.read_locked : exec (.expertWindowRead .pf o n) s = .next (s.denied.emit (.rdata o 0)) := by
  obtain ⟨hc, -, ha, hn⟩ := h.below
  have hb : s.barRead .pf o n = (List.replicate n 0, s.denied) := by
    simp [State.barRead, h.reaches, Nat.not_le.2 ha, State.expertShut_locked hl h.lo ha]
  rw [execExpertWindowRead_own h.reaches hc hn, hb]
  dsimp only
  rw [show ofBytes (List.replicate n (0 : Byte)) = 0 from ofBytes_replicate_zero n]

end

/-- What a denied access counts, and nothing else. -/
theorem State.denied_frame (s : State) : s.denied.get Fld.glbExpert.DENIED = s.more Fld.glbExpert.DENIED ∧
    { s.denied with regs := s.regs } = s ∧ ∀ r, r ≠ Fld.glbExpert.DENIED.reg → s.denied.reg r = s.reg r :=
  ⟨State.get_incSat_same s _, rfl, fun _ hr => State.reg_put_ne s _ hr⟩

/-- A cause of an error line that a write stores was there before. -/
theorem valid_bit_written {r : Reg} (hid : r.id ∈ plainIds) (hf : r.id ∈ faultIds) (old o v : Nat) {n : Nat} (hn : 1 ≤ n)
    (h : bitsOf (writtenWord r old (accMask o n) (accVal o n v)) 0 1 ≠ 0) : bitsOf old 0 1 ≠ 0 := by
  have hrow := valid_row_plain r.id (plain_fault r.id hid hf) r.i r.j
  have hapart := ascending_apart (ascending_plain r.id hid r.i r.j)
  by_cases ho : o % 8 = 0
  · have hw := field_written_w1c old o n v hapart hrow (by dsimp only; omega) rfl rfl
    dsimp only at hw
    rw [hw] at h
    split at h
    · exact absurd rfl h
    · exact h
  · have hw := field_written_kept old o n v hapart hrow (.inr (.inl (by dsimp only; omega)))
    dsimp only at hw
    rwa [hw] at h

end Sys2Proof.Machine

open Sys2Proof Sys2Proof.Machine

/-- Settles O35: the write stores the word row by row, and in a quiet machine nothing follows from it, since a cause of an error
line can only go. -/
theorem registerWritesFollowTheFieldTypes : Obligations.RegisterWritesFollowTheFieldTypes := by
  unfold Obligations.RegisterWritesFollowTheFieldTypes
  intro acc off bytes val r s hq hacc hreach hlo hhi hsize halign at_ inside given fld
  have hA : ExpertAccess s acc off bytes := ⟨hacc, hreach, hlo, hhi, hsize, halign⟩
  refine ⟨fun hp hid hopen h32 => ⟨fun hres => ?_, fun hview hwo hmask => ?_⟩, fun hpf hlocked => ?_⟩
  · have hx := State.expertShut_false (o := off) hacc fun e _ => (hopen e).1
    have hheld : acc = .pf → ∀ b m, s.heldBack b r m = false := fun e b m => by
      obtain ⟨-, hst, hfw, hdef⟩ := hopen e
      simp [State.heldBack, State.holds, Nat.not_le.2 hst, hfw, hdef]
    have hasc := ascending_plain r.id hid r.i r.j
    have hapart := ascending_apart hasc
    generalize hnew : writtenWord r (s.reg r).toNat (accMask off bytes) (accVal off bytes val.toNat) = new at *
    have hexec : exec (.registerWrite acc off bytes val) s = s.store r new := by
      rw [hA.write hx hp h32 hheld, State.writeReg, hres, hnew]
      exact State.regEffect_plain r.id hid r.i r.j s _ _ _
    have hfield : ∀ f ∈ rowsOf r, bitsOf (wordOf new).toNat f.lo f.w = bitsOf new f.lo f.w := fun f hf =>
      bitsOf_mod _ _ _ _ (ascending_mem hasc f hf).2
    have hQ : Quiet (s.setReg r (wordOf new)) := hq.setReg_plain hid fun hf h => by
      rw [hfield _ (valid_row_plain r.id (plain_fault r.id hid hf) r.i r.j), ← hnew] at h
      exact valid_bit_written hid hf _ off val.toNat hA.below.2.2.2 h
    obtain ⟨t, ht, hcalm⟩ := State.done_of_quiet hQ
    obtain ⟨-, -, -, -, -, -, nk, ns⟩ := plain_not_mem hid
    have hget : ∀ f ∈ rowsOf r, t.get (fld f) = bitsOf new f.lo f.w := fun f hf => by
      rw [hcalm.get (fld f) nk (.inl ns), ← hfield f hf, State.get, State.reg_setReg_same]
    refine ⟨t, hexec.trans ht, fun f hf hin hty => ?_, fun f hf hin hty h1 => ?_, fun f hf hty => ?_, fun r' hne h1 h2 => ?_, ?_⟩
    · rw [hget f hf, ← hnew, field_written_rw _ _ _ _ hapart hf hin hty]
    · rw [hget f hf, ← hnew, field_written_w1c _ _ _ _ hapart hf hin hty h1]
      rfl
    · rw [hget f hf, ← hnew, field_written_kept _ _ _ _ hapart hf hty]
      rfl
    · rw [hcalm.reg r' h1 h2, State.reg_setReg_ne _ _ hne]
    · exact hcalm.rest
  · have hx := State.expertShut_false (o := off) hacc fun e _ => (hopen e).1
    have hall : maskOf r (fun f => f.ty != .wo) = maskOf r fun _ => true := by
      rw [maskOf, maskOf, List.filter_congr fun f hf => (bne_iff_ne.2 (hwo f hf) : (f.ty != .wo) = true)]
    rw [hA.read hx hp, hview, hall, ← hmask, wordOf, BitVec.ofNat_toNat, BitVec.setWidth_eq]
  · subst hpf
    obtain ⟨hcnt, hrest, hregs⟩ := s.denied_frame
    exact ⟨⟨_, hA.write_locked hlocked val, hcnt, hrest, hregs⟩, _, hA.read_locked hlocked, hcnt, hrest, rfl, hregs⟩
end

section
/-! ### The host port: a context entered twice -/

namespace Sys2Proof.Machine

/-- The host link is up, the HPU's error causes no reset, and the table of contexts has two entries for context 0: the first, the one
that `State.cx` reads, is not live and waits for a translation; the second is live. No command leads here. -/
def twiceEntered : State :=
  { State.reset.putAll [(Fld.hpuStat.LINK_UP, 1), (Fld.fclReact.BLOCK_RESET 0, 0), (Fld.fclReact.CHIP_RESET 0, 0)] with
    ctx := [(0, { wait := .xlate { ctx := 0, len := 8 } { a := 0, disp := 0 } 0 0 [] }), (0, { live := true })] }

/-- No context that `State.cx` reads is live. -/
theorem twiceEntered_dead (c : Nat) : (twiceEntered.cx c).live = false := by
  cases c <;> rfl

theorem twiceEntered_quiet : Quiet twiceEntered := by unfold Quiet; decide +kernel

theorem twiceEntered_watched : Watched 0 twiceEntered := by unfold Watched; decide +kernel

/-- The loss of the link ends the context whose number stands among the live ones. -/
theorem twiceEntered_lost : twiceEntered.hostLost.settle.ctx.length = 0 := by decide +kernel

end Sys2Proof.Machine

open Sys2Proof Sys2Proof.Machine

/-- Refutes O39: of `State` nothing is asked but `Quiet`, so the table of contexts may hold two entries for one context. The loss of the
host link (R329) goes through the live entries by their numbers (`State.liveCtx`) and reads each context by its number
(`State.cx`), which finds the first entry. In `twiceEntered` that entry waits for a translation and is not live, so no premise of the
clause speaks of it, yet the context is ended and the contexts are not those of before. The counterexample is a table out of canonical
form, which no run reaches. -/
theorem not_hostPortFollowsItsLink : ¬ Obligations.HostPortFollowsItsLink := by
  unfold Obligations.HostPortFollowsItsLink
  intro h
  obtain ⟨-, -, hdown, -⟩ := h twiceEntered twiceEntered_quiet
  have hwait : ∀ c h m f p w, (twiceEntered.cx c).live = true → (twiceEntered.cx c).wait ≠ .xlate h m f p w := fun c _ _ _ _ _ hl =>
    absurd hl (by simp [twiceEntered_dead c])
  obtain ⟨hlost, -⟩ := hdown rfl rfl rfl rfl rfl twiceEntered_watched hwait
  obtain ⟨⟨t, ht, -, -, -, hctx⟩, -⟩ := hlost rfl rfl
  rw [show exec .hostLinkDown twiceEntered = .next twiceEntered.hostLost.settle from rfl, Host.Outcome.next.injEq] at ht
  exact absurd (congrArg List.length hctx) (by rw [← ht, twiceEntered_lost]; decide)
end

section
/-! ### Instructions that access host memory: what is ready, where they go, and what they make outstanding -/

namespace Sys2Proof.Machine

/-! #### Tables that grow at their end -/

theorem AMap.erase_of_absent {κ β : Type} [DecidableEq κ] {m : AMap κ β} {k : κ} (h : ∀ e ∈ m, e.1 ≠ k) : m.erase k = m := by
  induction m with
  | nil => rfl
  | cons e r ih => simp only [AMap.erase, h e (List.mem_cons_self ..), if_false, ih fun e' he => h e' (List.mem_cons_of_mem _ he)]

/-- A key above all others is put at the end. -/
theorem SMap.set_fresh {β : Type} [DecidableEq β] {m : SMap β} {d : β} {k : Nat} {v : β} (h : ∀ e ∈ m, e.1 < k) (hv : v ≠ d) :
    SMap.set m d k v = m ++ [(k, v)] := by
  have hins : ∀ l : SMap β, (∀ e ∈ l, e.1 < k) → AMap.ins natLt l k v = l ++ [(k, v)] := by
    intro l
    induction l with
    | nil => exact fun _ => rfl
    | cons e r ih =>
      intro hl
      have he : natLt k e.1 = false := by simpa [natLt] using Nat.le_of_lt (hl e (List.mem_cons_self ..))
      simp only [AMap.ins, he, Bool.false_eq_true, if_false, ih fun e' he' => hl e' (List.mem_cons_of_mem _ he'), List.cons_append]
  rw [SMap.set, AMap.set, if_neg hv, AMap.erase_of_absent fun e he => Nat.ne_of_lt (h e he), hins m h]

/-- A key above all others that is put and taken away again. -/
theorem SMap.set_fresh_reset {β : Type} [DecidableEq β] {m : SMap β} {d : β} {k : Nat} (v : β) (h : ∀ e ∈ m, e.1 < k) :
    SMap.set (SMap.set m d k v) d k d = m := by
  rw [SMap.set_set, SMap.set, AMap.set, if_pos rfl, AMap.erase_of_absent fun e he => Nat.ne_of_lt (h e he)]

/-! #### Readiness -/

theorem izBadAt_eq_none {op : Op} {h : Hdr} : izBadAt op h = none ↔ op.undef = none ∧ badPrefix op h = none := by
  unfold izBadAt
  cases op.undef <;> cases badPrefix op h <;> simp
  split <;> simp

/-- A ready instruction is not repeated. -/
theorem Ready.once {op : Op} {h : Hdr} {s : State} (hr : Ready op h s) : h.rpt = .once := hr.2.2.2.2.1

/-- No stop waits for a ready instruction to end (R188). -/
theorem Ready.due {op : Op} {h : Hdr} {s : State} (hr : Ready op h s) : (s.cx h.ctx.val).due = 0 := hr.2.2.2.2.2

/-- A ready instruction has no byte that R138 or R144 forbids. -/
theorem Ready.legal {op : Op} {h : Hdr} {s : State} (hr : Ready op h s) : izBadAt op h = none := by
  have h2 := hr.2.1
  unfold fetchCheck at h2
  split at h2
  · cases h2
  · split at h2
    · cases h2
    · split at h2
      · split at h2 <;> cases h2
      · assumption

/-- A chain of checks that finds nothing finds nothing whatever bytes it would name. -/
theorem firstBad_none {blk rule refused bad : Prop} [Decidable blk] [Decidable rule] [Decidable refused] [Decidable bad]
    {i j k j' k' : Nat}
    (h : (if blk then if rule then some i else if refused then some j else if bad then some j else none
      else if bad then some k else none) = none) :
    (if blk then if rule then some i else if refused then some j' else if bad then some j' else none
      else if bad then some k' else none) = none := by
  split at h
  · next hblk =>
    rw [if_pos hblk]
    split at h
    · cases h
    · next hrule =>
      rw [if_neg hrule]
      split at h
      · cases h
      · next hrefused =>
        rw [if_neg hrefused]
        split at h
        · cases h
        · next hbad => rw [if_neg hbad]
  · next hblk =>
    rw [if_neg hblk]
    split at h
    · cases h
    · next hbad => rw [if_neg hbad]

/-- At which byte the prefixes are judged matters only where they are illegal. -/
theorem badPrefix_at {op : Op} {h : Hdr} (hp : badPrefix op h = none) (k : Nat) : badPrefix { op with at_ := k } h = none := by
  unfold badPrefix at hp ⊢
  exact firstBad_none hp

@[simp] theorem Ctx.seqFront_sreg (x : Ctx) (op : Op) (h : Hdr) (n : Nat) : (x.seqFront op h).sreg n = x.sreg n := by
  simp [Ctx.sreg]

@[simp] theorem Ctx.seqFront_ckpts (x : Ctx) (op : Op) (h : Hdr) : (x.seqFront op h).ckpts = x.ckpts := by
  rw [Ctx.seqFront_rest]

@[simp] theorem Ctx.seqFront_pdom (x : Ctx) (op : Op) (h : Hdr) : (x.seqFront op h).pdom = x.pdom := by
  rw [Ctx.seqFront_rest]

/-- An instruction stays ready when its prefixes are judged at another byte and it reads fewer registers. -/
theorem Ready.atByte {op : Op} {h : Hdr} {s : State} (hr : Ready op h s) (k : Nat) {rd : List Nat} (hrd : ∀ n ∈ rd, n ∈ op.rd) :
    Ready { op with at_ := k, rd := rd, undef := none } h s := by
  have hbad : izBadAt { op with at_ := k, rd := rd, undef := none } h = none :=
    izBadAt_eq_none.2 ⟨rfl, badPrefix_at (izBadAt_eq_none.1 hr.legal).2 k⟩
  exact hr.mono (hbad.trans hr.legal.symm) rfl hrd id (fun _ => id) id

/-- LD and LDI that are ready issue their load (R153, R163). -/
theorem exec_load {h : Hdr} {d k : Fin 16} {m : Mem} {s : State} {i : Instr} {o : Nat}
    (hr : Ready { w := true, nib := true, rep := true, lock := true, rd := [k.val] } h s) (hn : m.nsel = true → h.width = .w4)
    (hi : i = .ld h d m ∧ o = ((s.cx h.ctx.val).areg m.a.val + m.disp).toNat ∨
      i = .ldi h d m k ∧ o = ((s.cx h.ctx.val).areg m.a.val + m.disp + (s.cx h.ctx.val).dreg k.val).toNat) :
    exec i s = loadAt h d.val m o s (s.setCx h.ctx.val ((s.cx h.ctx.val).seqFront { lock := true } h)) := by
  have honce := hr.once
  have hund : ∀ a, nselBad (m.nsel && h.width != .w4) a = none := fun a => by
    unfold nselBad
    rw [if_neg]
    simpa using hn
  obtain ⟨rfl, rfl⟩ | ⟨rfl, rfl⟩ := hi
  · show execLd h d m s = _
    simp only [execLd, honce, hund, beq_self_eq_true, if_true]
    rw [issue_ready _ (hr.atByte 0 (rd := []) (fun _ hx => absurd hx List.not_mem_nil))]
    simp only [Ctx.offset, State.cx_setCx_same, Ctx.seqFront_areg]
    rfl
  · show execLdi h d m k s = _
    simp only [execLdi, honce, hund, beq_self_eq_true, if_true]
    rw [issue_ready _ (hr.atByte 1 (rd := [k.val]) (fun _ => id))]
    simp only [Ctx.offset, State.cx_setCx_same, Ctx.seqFront_areg, Ctx.seqFront_dreg]
    rfl

/-- ST and STI that are ready make their store (R153, R163). -/
theorem exec_store {h : Hdr} {d k : Fin 16} {m : Mem} {s : State} {i : Instr} {o : Nat}
    (hr : Ready { w := true, rep := true, lock := true, rd := [k.val, d.val] } h s) (hn : m.nsel = false)
    (hi : i = .st h m d ∧ o = ((s.cx h.ctx.val).areg m.a.val + m.disp).toNat ∨
      i = .sti h m k d ∧ o = ((s.cx h.ctx.val).areg m.a.val + m.disp + (s.cx h.ctx.val).dreg k.val).toNat) :
    exec i s = storeAt h d.val m o s (s.setCx h.ctx.val ((s.cx h.ctx.val).seqFront { lock := true } h)) := by
  have honce := hr.once
  obtain ⟨rfl, rfl⟩ | ⟨rfl, rfl⟩ := hi
  · show execSt h m d s = _
    simp only [execSt, honce, nselBad, hn, beq_self_eq_true, if_true, Bool.false_eq_true, if_false]
    rw [issue_ready _ (hr.atByte 0 (rd := [d.val]) (fun _ hx => List.mem_cons_of_mem _ hx))]
    simp only [Ctx.offset, State.cx_setCx_same, Ctx.seqFront_areg]
    rfl
  · show execSti h m k d s = _
    simp only [execSti, honce, nselBad, hn, beq_self_eq_true, if_true, Bool.false_eq_true, if_false]
    rw [issue_ready _ (hr.atByte 1 (rd := [k.val, d.val]) (fun _ => id))]
    simp only [Ctx.offset, State.cx_setCx_same, Ctx.seqFront_areg, Ctx.seqFront_dreg]
    rfl

/-! #### Where an access goes -/

/-- A segment grants a right (R196). -/
def Desc.grants (g : Desc) : Right → Bool
  | .r => g.r
  | .w => g.w
  | .x => g.x

/-- An access that lies in a live and valid segment with the right passes the checks of R196. -/
theorem segCheck_inside {g : Desc} {o n : Nat} {need : Right} (hl : g.live = true) (hi : g.inval = false)
    (hr : g.grants need = true) (hn : 0 < n) (hlim : o + n ≤ g.limit) (h64 : o + n ≤ 2 ^ 64) :
    segCheck g need o n = none := by
  have hr' : ¬(o + n - 1 ≥ 2 ^ 64 ∨ o + n - 1 ≥ g.limit) := by omega
  simp only [segCheck, hl, hi, Bool.not_true, Bool.false_eq_true, if_false, if_neg hr']
  cases need <;>
  · simp only [Desc.grants] at hr
    simp only [hr, Bool.not_true, Bool.false_eq_true, if_false]

theorem State.target_host {g : Desc} (hk : g.kind = 0) (s : State) (dom o : Nat) (wr : Bool) :
    s.target dom g o wr = .host (s.get (Fld.pdData.FUNC dom)) (g.base + o) := by
  simp only [State.target, hk]; rfl

/-- Outside speculation no use of a descriptor is noted. -/
theorem Ctx.useSeg_plain {x : Ctx} (h : x.ckpts = []) (dom sel : Nat) : x.useSeg dom sel = x := by
  simp [Ctx.useSeg, h]

theorem widthBytes_pos (w : Width) : 0 < widthBytes w := by cases w <;> decide

/-- Requests of a function reach the host under their own addresses: the link is up in CXL mode, and ATS is off (R199, R329). -/
structure State.DirectHost (s : State) (func : Nat) : Prop where
  ok : s.hostOk func = true
  cxl : s.on Fld.hpuStat.MODE = false
  ats : s.atsOn func = false

theorem State.DirectHost.hostAddr {s : State} {func : Nat} (h : s.DirectHost func) (a : Nat) : s.hostAddr func a = (false, a) := by
  simp [State.hostAddr, h.ats]

theorem State.DirectHost.translated {s : State} {func : Nat} (h : s.DirectHost func) (a : Nat) : s.translated func a = true := by
  simp [State.translated, h.ats]

/-! #### The context goes on -/

theorem State.setCx_setCx (s : State) (c : Nat) (x y : Ctx) : (s.setCx c x).setCx c y = s.setCx c y := by
  simp only [State.setCx, SMap.set_set]

/-- In a quiet machine no live context is paused for room in a watch set. -/
theorem Quiet.watchStop {s : State} {c : Nat} (q : Quiet s) (hl : (s.cx c).live = true) : (s.cx c).watchStop = false := by
  obtain ⟨-, -, -, -, -, -, -, hstop⟩ := q
  exact hstop _ (State.mem_ctx_of_live hl)

/-- In a quiet machine no live context has a command to send. -/
theorem Quiet.stalls {s : State} {c : Nat} (q : Quiet s) (hl : (s.cx c).live = true) : s.stalls c = false := by
  obtain ⟨-, -, -, hst, -⟩ := q
  exact State.stalled_eq_nil.1 hst c (State.mem_liveCtx hl)

/-- A machine in which one context goes on, and that differs beside only in what has left and in the number of the next read, stays
quiet. -/
theorem Quiet.goesOn {s t : State} {c : Nat} {z : Ctx} (q : Quiet s) (hl : (s.cx c).live = true) (hw : (s.cx c).wait = .none)
    (hz : z.bare = (s.cx c).bare) (ht : t = { s with ctx := SMap.set s.ctx {} c z, out := t.out, hreqNext := t.hreqNext }) : Quiet t := by
  have hwait : z.wait = .none := (congrArg Ctx.wait hz :).trans hw
  have hstop : z.watchStop = false := (congrArg Ctx.watchStop hz :).trans (q.watchStop hl)
  rw [ht]
  exact q.ofCtx (SameFaults.of_regs rfl rfl rfl rfl rfl) ⟨fun _ _ => rfl, rfl, rfl, rfl, rfl, rfl, rfl, rfl, rfl, rfl, rfl⟩
    rfl hwait hstop (fun _ => ⟨hl, (congrArg Ctx.squash hz :), (congrArg Ctx.chain hz :)⟩) (fun _ _ => rfl) fun e he => ⟨e, he, rfl⟩

end Sys2Proof.Machine
end

section
/-! ### Stores to host memory -/

namespace Sys2Proof.Machine

/-! #### Watched lines -/

theorem mem_linesOf {a n l : Nat} : l ∈ linesOf a n ↔ 0 < n ∧ a / 64 ≤ l ∧ l ≤ (a + n - 1) / 64 := by
  unfold linesOf
  split
  · simp; omega
  · simp only [List.mem_map, List.mem_range]
    constructor
    · rintro ⟨i, hi, rfl⟩
      omega
    · rintro ⟨-, h1, h2⟩
      exact ⟨l - a / 64, by omega, by omega⟩

/-- The lines of a part of a range are lines of the range. -/
theorem linesOf_part {a n k j : Nat} (h : k + j ≤ n) : linesOf (a + k) j ⊆ linesOf a n := by
  intro l hl
  rw [mem_linesOf] at hl ⊢
  omega

/-- A write of lines that nobody else watches hits nothing, and neither does a write of some of them. -/
theorem State.watchHits_subset {s : State} {b : Option Nat} {func : Nat} {l l' : List Nat} (hs : l' ⊆ l) (h : s.watchHits b func l = []) :
    s.watchHits b func l' = [] := by
  unfold State.watchHits at h ⊢
  rw [List.filterMap_eq_nil_iff] at h ⊢
  intro w hw
  have hwl := h w hw
  split at hwl
  · cases hwl
  · next hno => exact if_neg fun hyes => hno ⟨hyes.1, hs hyes.2.1, hyes.2.2⟩

/-! #### Writes on their way -/

theorem toBytes_length (n v : Nat) : (toBytes n v).length = n := by
  induction n generalizing v with
  | zero => rfl
  | succ n ih => rw [toBytes, List.length_cons, ih]

/-- Writes to host memory have left, the first of them first. -/
def State.sendWrites (s : State) (func : Nat) (ws : List (Nat × List Byte)) : State :=
  { s with out := (ws.map fun w => Out.hostWrite func false w.1 w.2).reverse ++ s.out }

/-- A write of lines that nobody else watches leaves at once and does nothing else. -/
theorem State.hostWriteBy_unwatched {s : State} {b : Option Nat} {func a : Nat} {bs : List Byte} (hd : s.DirectHost func)
    (hw : s.watchHits b func (linesOf a bs.length) = []) : s.hostWriteBy b func a bs = s.sendWrites func [(a, bs)] := by
  unfold State.hostWriteBy
  simp only [hd.ok, hd.cxl, hd.hostAddr, hw, if_true, Bool.false_eq_true, if_false]
  rfl

theorem State.hostWrites_unwatched {b : Option Nat} {func : Nat} (ws : List (Nat × List Byte)) {s : State} (hd : s.DirectHost func)
    (hw : ∀ w ∈ ws, s.watchHits b func (linesOf w.1 w.2.length) = []) :
    forAll ws (fun t w => t.hostWriteBy b func w.1 w.2) s = s.sendWrites func ws := by
  induction ws generalizing s with
  | nil => rfl
  | cons w r ih =>
    show forAll r _ (s.hostWriteBy b func w.1 w.2) = _
    rw [State.hostWriteBy_unwatched hd (hw w (List.mem_cons_self ..)),
      ih (s := s.sendWrites func [w]) ⟨hd.ok, hd.cxl, hd.ats⟩ fun w' hw' => hw w' (List.mem_cons_of_mem _ hw')]
    simp [State.sendWrites]

/-- The writes that a store of some bytes at an address becomes (R148). -/
def storeWrites (a : Nat) (bs : List Byte) : List (Nat × List Byte) := (storeParts a bs).map fun p => (a + p.1, p.2)

theorem storeWrites_aligned {a : Nat} {bs : List Byte} (h : a % bs.length = 0) : storeWrites a bs = [(a, bs)] := by
  simp [storeWrites, storeParts, alignedParts, h]

theorem storeWrites_unaligned {a : Nat} {bs : List Byte} (h : a % bs.length ≠ 0) : storeWrites a bs =
    [(a, bs.take (bs.length - a % bs.length)), (a + (bs.length - a % bs.length), bs.drop (bs.length - a % bs.length))] := by
  simp only [storeWrites, storeParts, alignedParts, h, if_false, List.map_cons, List.map_nil, List.drop_zero, Nat.add_zero]
  rw [List.take_of_length_le (l := bs.drop _) (by rw [List.length_drop]; omega)]

/-- Every write of a store writes some of its lines. -/
theorem storeWrites_lines {a : Nat} {bs : List Byte} : ∀ w ∈ storeWrites a bs, linesOf w.1 w.2.length ⊆ linesOf a bs.length := by
  intro w hw
  by_cases h : a % bs.length = 0
  · rw [storeWrites_aligned h, List.mem_singleton] at hw
    subst hw
    exact fun _ => id
  · rw [storeWrites_unaligned h, List.mem_cons, List.mem_singleton] at hw
    obtain rfl | rfl := hw
    · exact linesOf_part (k := 0) (by rw [List.length_take]; omega)
    · exact linesOf_part (by rw [List.length_drop]; omega)

/-- A store outside speculation whose bytes nobody else watches and no read of its context overlaps: its writes leave and it
retires. -/
theorem storeHost_direct {h : Hdr} {m : Mem} {func a : Nat} {bs : List Byte} {s0 s : State} (honce : h.rpt = .once)
    (hck : (s.cx h.ctx.val).ckpts = []) (hov : s.readOverlaps h.ctx.val func a bs.length = false)
    (hwa : s.watchHits (some h.ctx.val) func (linesOf a bs.length) = []) (hd : s.DirectHost func) :
    storeHost h m func a bs s0 s =
      ((s.sendWrites func (storeWrites a bs)).updCx h.ctx.val fun y => y.retire h).done := by
  have hpage : ∀ ws, s.missingPage func ws = none := fun ws => by
    simp [State.missingPage, hd.translated]
  have hws := State.hostWrites_unwatched (storeWrites a bs) hd fun w hw => State.watchHits_subset (storeWrites_lines w hw) hwa
  unfold storeHost
  simp only [Ctx.speculating, hck, hov, hd.ok, hpage, List.isEmpty_nil, Bool.not_true, Bool.false_eq_true, if_false, Ctx.iterateMem, honce]
  rw [← hws]
  rfl

/-- A store to a host segment that passes its checks (R196, R198). -/
theorem storeAt_host {h : Hdr} {d o : Nat} {m : Mem} {s0 s : State} (hck : (s.cx h.ctx.val).ckpts = [])
    (hk : ((s.cx h.ctx.val).sreg (memSreg m)).kind = 0)
    (hseg : segCheck ((s.cx h.ctx.val).sreg (memSreg m)) .w o (widthBytes h.width) = none) :
    storeAt h d m o s0 s = storeHost h m (s.get (Fld.pdData.FUNC (s.cx h.ctx.val).pdom)) (((s.cx h.ctx.val).sreg (memSreg m)).base + o)
      (toBytes (widthBytes h.width) ((s.cx h.ctx.val).dreg d).toNat) s0 (s.setCx h.ctx.val (s.cx h.ctx.val)) := by
  simp only [storeAt, hseg, State.target_host hk, State.updCx, Ctx.useSeg_plain hck, State.get_setCx]

end Sys2Proof.Machine

open Sys2Proof Sys2Proof.Machine

/-- Settles O12: the checks of the segment pass, the bytes go to host memory, and in a quiet machine nothing follows the command but
what `Calm` names. -/
theorem storesWriteHostMemory : Obligations.StoresWriteHostMemory := by
  unfold Obligations.StoresWriteHostMemory
  intro h d k m s i o _ hn q hr c x g n func a bytes hi hck hov hwa hl hinv hk hw hlim h64 hok hmode hats
  have hlen : bytes.length = n := toBytes_length _ _
  obtain ⟨hlive, -, -⟩ := State.canIssue_live hr.1
  let y := x.seqFront { lock := true } h
  have hseg : segCheck g .w o n = none := segCheck_inside (need := .w) hl hinv hw (widthBytes_pos _) hlim h64
  let v : State := (s.setCx c (y.retire h)).sendWrites func (storeWrites a bytes)
  have hexec : exec i s = v.done := by
    rw [exec_store hr hn hi, storeAt_host (by simpa using hck) (by simpa using hk) (by simpa using hseg)]
    simp only [State.cx_setCx_same, Ctx.seqFront_sreg, Ctx.seqFront_dreg, Ctx.seqFront_pdom, State.setCx_setCx, State.get_setCx]
    refine (storeHost_direct (s := s.setCx c y) (func := func) (a := a) (bs := bytes) hr.once (by rw [State.cx_setCx_same]; simpa [y] using hck)
      (by rw [hlen]; exact hov) (by rw [hlen]; exact hwa) ⟨hok, hmode, hats⟩).trans ?_
    have hupd := State.updCx_setCx (s.sendWrites func (storeWrites a bytes)) c y fun z => z.retire h
    exact congrArg State.done hupd
  obtain ⟨u, hu, hcalm⟩ := State.done_of_quiet (t := v) (q.goesOn hlive hr.wait (z := y.retire h)
    ((Ctx.bare_retire y h (by rw [Ctx.seqFront_wait]; exact hr.wait)).trans (Ctx.bare_seqFront _ _ _)) rfl)
  have hctx : u.ctx = v.ctx := (congrArg State.ctx hcalm.rest :)
  have hout : u.out = v.out := (congrArg State.out hcalm.rest :)
  have hcx : ∀ c', u.cx c' = (s.setCx c (y.retire h)).cx c' := fun c' => by simp only [State.cx, hctx]; rfl
  refine ⟨u, hexec.trans hu, ?_, fun c' hc => ?_, ⟨?_, fun r _ => hcalm.reg r⟩, fun hal => ?_, fun hal => ?_⟩
  · rw [hcx, State.cx_setCx_same, Ctx.retire_regs, Ctx.seqFront_regs]
  · rw [hcx, State.cx_setCx_ne _ _ hc]
  · rw [hcalm.rest, hctx, hout]; rfl
  · rw [hout]
    simp only [v, State.sendWrites, storeWrites_aligned (hlen ▸ hal)]
    rfl
  · rw [hout]
    simp only [v, State.sendWrites, storeWrites_unaligned (hlen ▸ hal), hlen]
    rfl
end

section
/-! ### Loads from host memory -/

namespace Sys2Proof.Machine

/-! #### The reads of a load -/

/-- Loads of context `c` go to host memory at once for function `func`: outside speculation, with no store held in the cluster and
Cache_Enable on (R219, R333). -/
structure State.LoadsAtOnce (s : State) (c func : Nat) : Prop where
  direct : s.DirectHost func
  cache : s.on Fld.hpuStat.CACHE_EN = true
  ckpts : (s.cx c).ckpts = []
  held : SMap.get s.held [] (clusterOf c) = []

/-- The record of the read `id` of `n` bytes for a load. -/
def loadReq (c id func a n vc : Nat) (g : Desc) : HReq :=
  { purp := .load c id, func := func, addr := a, n := n, op := .rdCurr, vc := vc, seg := g }

/-- A read for a load has left for the host. -/
def State.readIssued (s : State) (c func vc : Nat) (g : Desc) (a n : Nat) : State :=
  { s with hreqNext := s.hreqNext + 1
           hreq := SMap.set s.hreq noReq s.hreqNext (loadReq c s.hreqNext func a n vc g)
           out := .hostRead s.hreqNext func .rdCurr false a n vc :: s.out }

/-- The reads for the parts of a load at an address have left, in their order. -/
def State.readsIssued (s : State) (c func vc : Nat) (g : Desc) (a : Nat) : List (Nat × Nat) → State
  | [] => s
  | p :: r => (s.readIssued c func vc g (a + p.1) p.2).readsIssued c func vc g a r

/-- The parts that a load awaits when its first read has the number `id`. -/
def awaitedParts (id : Nat) : List (Nat × Nat) → List LoadPart
  | [] => []
  | p :: r => { req := id, dev := false, off := p.1, n := p.2, data := none, cover := [] } :: awaitedParts (id + 1) r

/-- Reads that leave change nothing beside the table of reads and what has left. -/
theorem State.readsIssued_rest (s : State) (c func vc : Nat) (g : Desc) (a : Nat) (ps : List (Nat × Nat)) :
    { s.readsIssued c func vc g a ps with hreq := s.hreq, hreqNext := s.hreqNext, out := s.out } = s := by
  induction ps generalizing s with
  | nil => rfl
  | cons p r ih =>
    have h := ih (s.readIssued c func vc g (a + p.1) p.2)
    exact congrArg (fun t : State => { t with hreq := s.hreq, hreqNext := s.hreqNext, out := s.out }) h

theorem State.ctx_readsIssued (s : State) (c func vc : Nat) (g : Desc) (a : Nat) (ps : List (Nat × Nat)) :
    (s.readsIssued c func vc g a ps).ctx = s.ctx := (congrArg State.ctx (s.readsIssued_rest c func vc g a ps) :)

theorem State.LoadsAtOnce.readIssued {s : State} {c func : Nat} (h : s.LoadsAtOnce c func) (vc : Nat) (g : Desc) (a n : Nat) :
    (s.readIssued c func vc g a n).LoadsAtOnce c func := ⟨⟨h.direct.ok, h.direct.cxl, h.direct.ats⟩, h.cache, h.ckpts, h.held⟩

/-- A part of a load is read from the host (R148, R163). -/
theorem State.issuePart_host {s : State} {c func : Nat} (h : s.LoadsAtOnce c func) (g : Desc) (a off n : Nat) :
    s.issuePart c g (.host func a) false off n =
      .part { req := s.hreqNext, dev := false, off := off, n := n, data := none, cover := [] }
        (s.readIssued c func (s.memVc c) g (a + off) n) := by
  have hover : s.overlay c func (a + off) n = [] := by simp [State.overlay, h.held]
  have hready : ∀ r : HReq, r.func = func → s.readable r = true := fun r hr => by
    simp [State.readable, hr, h.direct.translated]
  have hread : s.hostRead (.load c s.hreqNext) func .rdCurr (a + off) n (s.memVc c) g = s.readIssued c func (s.memVc c) g (a + off) n := by
    unfold State.hostRead
    simp only [hready, Bool.or_true, if_true]
    unfold State.readOut
    have hok : ({ s with hreqNext := s.hreqNext + 1 } : State).hostOk func = true := h.direct.ok
    have hm : ({ s with hreqNext := s.hreqNext + 1 } : State).on Fld.hpuStat.MODE = false := h.direct.cxl
    have hc : ({ s with hreqNext := s.hreqNext + 1 } : State).on Fld.hpuStat.CACHE_EN = true := h.cache
    have ha : ({ s with hreqNext := s.hreqNext + 1 } : State).hostAddr func (a + off) = (false, a + off) := h.direct.hostAddr _
    simp only [hok, hm, hc, ha, Bool.not_true, Bool.and_false, Bool.or_false, Bool.false_eq_true, if_false]
    rfl
  unfold State.issuePart
  simp only [Ctx.speculating, h.ckpts, List.isEmpty_nil, Bool.not_true, Bool.false_and, Bool.false_eq_true, if_false, hover, hread]

theorem State.issueParts_host {c func : Nat} (g : Desc) (a : Nat) (ps : List (Nat × Nat)) (acc : List LoadPart) {s : State}
    (h : s.LoadsAtOnce c func) : s.issueParts c g (.host func a) false ps acc =
      some (.ok (acc ++ awaitedParts s.hreqNext ps, s.readsIssued c func (s.memVc c) g a ps)) := by
  induction ps generalizing s acc with
  | nil => simp [State.issueParts, awaitedParts, State.readsIssued]
  | cons p r ih =>
    simp only [State.issueParts, State.issuePart_host h, ih _ (h.readIssued _ _ _ _), awaitedParts, State.readsIssued, List.append_assoc,
      List.singleton_append]
    rfl

theorem State.partFails_host {s : State} {c func : Nat} (h : s.LoadsAtOnce c func) (g : Desc) (a : Nat) (ps : List (Nat × Nat)) :
    s.partFails c g (.host func a) false ps = none := by
  simp [State.partFails, State.issuePart_host h]

/-- What a load that has issued awaits (R161, R163). -/
def awaitedLoad (h : Hdr) (d : Nat) (m : Mem) (sel : Nat) (parts : List LoadPart) : Load :=
  { dst := some d, nib := if h.width = .w4 then some m.nsel else none, fz := true, fn := true, w := widthBits h.width, ck := 0,
    parts := parts, sel := sel }

/-- The data of a load that has just issued is not there. -/
theorem awaitedLoad_bytes (h : Hdr) (d : Nat) (m : Mem) (sel id a n : Nat) :
    (awaitedLoad h d m sel (awaitedParts id (alignedParts a n))).bytes = none := by
  unfold alignedParts
  split <;> rfl

/-- A context whose one load outstanding is `l`. -/
def Ctx.awaits (x : Ctx) (l : Load) : Ctx := { x with loads := [l] }

/-- Nothing lands while the one load outstanding has no data. -/
theorem Ctx.landAll_awaits {x : Ctx} {l : Load} (hb : l.bytes = none) (hck : x.ckpts = []) : (x.awaits l).landAll = x.awaits l := by
  have h : (x.awaits l).landAll = { x.awaits l with ckpts := [] } := by
    simp [Ctx.awaits, Ctx.landAll, CtxRegs.landAll, stillOut, hb, hck]
  rw [h, ← hck]
  rfl

/-- A load from a host segment that passes its checks, with none outstanding, reads its parts and retires (R163, R196, R198). -/
theorem loadAt_host {h : Hdr} {d o func : Nat} {m : Mem} {s0 s : State} {x : Ctx} {g : Desc} (honce : h.rpt = .once)
    (hx : s.cx h.ctx.val = x) (hg : x.sreg (memSreg m) = g) (hf : s.get (Fld.pdData.FUNC x.pdom) = func) (hloads : x.loads = [])
    (hp : s.LoadsAtOnce h.ctx.val func) (hk : g.kind = 0) (hseg : segCheck g .r o (widthBytes h.width) = none) :
    let ps := alignedParts (g.base + o) (widthBytes h.width)
    loadAt h d m o s0 s = .next ((s.readsIssued h.ctx.val func (s.memVc h.ctx.val) g (g.base + o) ps).setCx h.ctx.val
      ((x.awaits (awaitedLoad h d m g.sel (awaitedParts s.hreqNext ps))).retire h)) := by
  have hck : x.ckpts = [] := hx ▸ hp.ckpts
  have hlen : x.ckpts.length = 0 := by rw [hck]; rfl
  have hplan : s.planLoad h.ctx.val g o (widthBytes h.width) = .go (.host func (g.base + o)) false := by
    simp only [State.planLoad, hseg, State.target_host hk, hx, hf, Ctx.speculating, hck, List.isEmpty_nil, Bool.not_true,
      Bool.false_and, Bool.and_false, Bool.false_eq_true, if_false]
  have hcx : ∀ ps, (s.readsIssued h.ctx.val func (s.memVc h.ctx.val) g (g.base + o) ps).cx h.ctx.val = x := fun ps => by
    rw [← hx]; simp only [State.cx, State.ctx_readsIssued]
  have hland := Ctx.landAll_awaits (awaitedLoad_bytes h d m g.sel s.hreqNext (g.base + o) (widthBytes h.width)) hck
  unfold loadAt
  simp only [honce, show (Rpt.once == Rpt.rep) = false from rfl, show (Rpt.once == Rpt.repz) = false from rfl, Bool.false_and,
    Bool.false_eq_true, if_false, hx, hg, hplan, State.partFails_host hp, State.issueParts_host _ _ _ _ hp, List.nil_append, State.updCx,
    State.cx_setCx_same, State.setCx_setCx, hcx, Ctx.useSeg_plain hck, hloads, hlen, List.map_nil, beq_iff_eq]
  change Host.Outcome.next (State.setCx _ _ (Ctx.iterateMem (Ctx.landAll (x.awaits (awaitedLoad h d m g.sel
    (awaitedParts s.hreqNext (alignedParts (g.base + o) (widthBytes h.width)))))) h m)) = _
  rw [hland]
  simp only [Ctx.iterateMem, honce]

/-! #### The data returns -/

/-- The chained commands of a context that have not been sent each wait for an earlier one of their port (R111). -/
def Ctx.chainWaits (x : Ctx) : Prop := ∀ e ∈ x.chain, e.sent = none → ∃ o ∈ x.chain, o.port = e.port ∧ o.pos < e.pos

/-- In a quiet machine no context has a chained command to send. -/
theorem Quiet.chainWaits {s : State} {c : Nat} (q : Quiet s) (hl : (s.cx c).live = true) (hs : (s.cx c).squash = none) :
    (s.cx c).chainWaits := by
  have hst := q.stalls hl
  intro e he hsent
  simp only [State.stalls, hs, Option.isNone_none, Bool.true_and, Bool.or_eq_false_iff, List.any_eq_false] at hst
  simpa [hsent] using hst.1 e he

/-- A change that no element of a list brings about. -/
theorem forAll_fixed {α : Type} {f : State → α → State} {s : State} {l : List α} (h : ∀ a ∈ l, f s a = s) : forAll l f s = s := by
  induction l with
  | nil => rfl
  | cons a r ih =>
    show forAll r f (f s a) = s
    rw [h a (List.mem_cons_self ..), ih fun b hb => h b (List.mem_cons_of_mem _ hb)]

/-- A context whose chained commands wait sends none. -/
theorem State.sendChain_waits {s : State} {c : Nat} (h : (s.cx c).chainWaits) : s.sendChain c = s := by
  unfold State.sendChain
  refine forAll_fixed fun e he => if_pos ?_
  cases hs : e.sent with
  | some tag => exact .inr (.inl rfl)
  | none =>
    obtain ⟨o, ho, hp, hlt⟩ := h e he hs
    exact .inr (.inr (.inl (List.any_eq_true.2 ⟨o, ho, by simp [hp, hlt]⟩)))

/-- A context that waits for nothing goes on without more. -/
theorem State.kick_idle {s : State} {c : Nat} (hw : (s.cx c).wait = .none) (hch : (s.cx c).chainWaits) : s.kick c = s := by
  unfold State.kick
  simp only [State.sendChain_waits hch, hw, ite_self]

/-- Outside speculation no read is recorded for verification. -/
theorem State.gotFirst_plain {s : State} {c : Nat} (h : (s.cx c).ckpts = []) (key : Nat) (bs : List Byte) : s.gotFirst c key bs = s := by
  unfold State.gotFirst
  rw [h]
  rfl

/-- Data that lands in a context that waits for nothing, and for which no stop waits, ends no wait. -/
theorem State.ldLanded_idle {s : State} {c : Nat} (hw : (s.cx c).wait = .none) (hdue : (s.cx c).due = 0) :
    s.ldLanded c = s.setCx c (s.cx c) := by
  unfold State.ldLanded State.dueEnd
  simp only [State.updCx, State.cx_setCx_same, hw, hdue, true_or, if_true]

/-- The data of a load comes to a context that goes on without it: the load lands, and nothing else follows. -/
theorem State.loadData_plain {s : State} {c req : Nat} {bs : List Byte} (hw : (s.cx c).wait = .none) (hck : (s.cx c).ckpts = [])
    (hdue : (s.cx c).due = 0) (hch : (s.cx c).chainWaits) :
    s.loadData c req false bs = s.setCx c (((s.cx c).mapLoads (Load.fill false req bs)).landAll) := by
  have hfirst : (s.updCx c fun x => x.mapLoads (Load.fill false req bs)).gotFirst c (2 * req) bs = s.updCx c fun x => x.mapLoads _ :=
    State.gotFirst_plain (by rw [State.cx_updCx_same]; simp [Ctx.mapLoads, hck]) _ _
  unfold State.loadData
  dsimp only
  rw [hfirst, State.ldLanded_idle (by rw [State.cx_updCx_same, State.cx_updCx_same]; exact hw)
    (by rw [State.cx_updCx_same, State.cx_updCx_same]; exact hdue)]
  simp only [State.updCx, State.cx_setCx_same, State.setCx_setCx]
  exact State.kick_idle (by rw [State.cx_setCx_same]; exact hw) (by rw [State.cx_setCx_same]; exact hch)

/-- The data of an outstanding read for a load returns. -/
theorem execHostReadCompletion_load {s : State} {req c k : Nat} {bs : List Byte} {q : HReq}
    (hf : s.hreq.find? (fun e => e.1 == req) = some (req, q)) (hq : q.purp = .load c k) (hh : q.held = false) (hd : q.dead = false)
    (hm : s.on Fld.hpuStat.MODE = false) (hn : bs.length = q.n) :
    exec (.hostReadCompletion req (.data bs)) s = ((s.dropHreq req).loadData c k false bs).done := by
  show execHostReadCompletion req (.data bs) s = _
  unfold execHostReadCompletion
  simp [hf, hh, hm, hq, hd, hn, Purpose.isGone, State.dataBad, State.hostData]

/-! #### What lands -/

theorem ofBytes_lt (bs : List Byte) : ofBytes bs < 256 ^ bs.length := by
  induction bs with
  | nil => decide
  | cons b r ih =>
    have hb := b.isLt
    rw [ofBytes, List.length_cons, Nat.pow_succ]
    omega

/-- The number that a load of a width takes from its bytes (R163): under NIB the nibble that NSEL selects. -/
def loadedNat (w : Width) (hi : Bool) (bs : List Byte) : Nat :=
  if w = .w4 then (if hi then ofBytes bs / 16 else ofBytes bs % 16) else ofBytes bs

theorem loadedNat_lt {w : Width} {hi : Bool} {bs : List Byte} (hn : bs.length = widthBytes w) : loadedNat w hi bs < 2 ^ widthBits w := by
  have hb := ofBytes_lt bs
  rw [hn] at hb
  unfold loadedNat
  cases w with
  | w4 =>
    simp only [widthBytes, widthBits, if_true] at hb ⊢
    split <;> omega
  | _ => simpa [widthBytes, widthBits] using hb

theorem loadValue_awaited {h : Hdr} {d : Nat} {m : Mem} {sel : Nat} {ps : List LoadPart} {bs : List Byte}
    (hn : bs.length = widthBytes h.width) :
    loadValue (awaitedLoad h d m sel ps) bs = BitVec.ofNat 64 (loadedNat h.width m.nsel bs) := by
  have hb := ofBytes_lt bs
  rw [hn] at hb
  unfold loadValue loadedNat awaitedLoad
  cases hw : h.width with
  | w4 =>
    simp only [hw, widthBytes] at hb
    simp only [if_true, bitsOf, Nat.reducePow]
    cases m.nsel
    · simp
    · simp only [if_true]
      rw [Nat.mod_eq_of_lt (by omega)]
  | _ =>
    simp only [hw, widthBytes] at hb
    simp only [widthBits, reduceCtorEq, if_false]
    rw [Nat.mod_eq_of_lt (by omega)]

/-- A load of which the data is there, as a context awaits it, lands in Dx, Z and N (R163). -/
theorem CtxRegs.land_awaited {h : Hdr} {d : Nat} {m : Mem} {sel : Nat} {ps : List LoadPart} {bs : List Byte} (r : CtxRegs)
    (hn : bs.length = widthBytes h.width) :
    let v := loadedNat h.width m.nsel bs
    r.land (awaitedLoad h d m sel ps) bs = { r with
      d := SMap.set r.d 0 d (BitVec.ofNat 64 v)
      cf := { r.cf with z := decide (v = 0), n := v.testBit (widthBits h.width - 1) } } := by
  intro v
  have hv : v < 2 ^ widthBits h.width := loadedNat_lt hn
  have h64 : v < 2 ^ 64 := Nat.lt_of_lt_of_le hv (Nat.pow_le_pow_right (by decide) (by cases h.width <;> decide))
  have htop : decide (v / 2 ^ (widthBits h.width - 1) % 2 = 1) = v.testBit (widthBits h.width - 1) := by
    rw [Nat.testBit_eq_decide_div_mod_eq]
  unfold CtxRegs.land
  simp only [loadValue_awaited hn]
  simp only [awaitedLoad, if_true, BitVec.toNat_ofNat]
  rw [Nat.mod_eq_of_lt h64, Nat.mod_eq_of_lt hv, htop]

/-- A context whose one load has landed: `v` in register `d`, Z and N. -/
def Ctx.loaded (x : Ctx) (w : Width) (d v : Nat) : Ctx :=
  { x with loads := [], regs := { x.regs with
      d := SMap.set x.regs.d 0 d (BitVec.ofNat 64 v)
      cf := { x.regs.cf with z := decide (v = 0), n := v.testBit (widthBits w - 1) } } }

theorem Ctx.dreg_loaded (x : Ctx) (w : Width) (d v j : Nat) :
    (x.loaded w d v).dreg j = if j = d then BitVec.ofNat 64 v else x.dreg j := SMap.get_set _ _ _ _ _

/-- The data of an aligned load comes to a context that awaits it. -/
theorem Ctx.landAll_aligned {x : Ctx} {h : Hdr} {d id a n : Nat} {m : Mem} {sel : Nat} {bs : List Byte} (hck : x.ckpts = [])
    (hl : x.loads = [awaitedLoad h d m sel (awaitedParts id (alignedParts a n))]) (hal : a % n = 0) (hbs : bs.length = n)
    (hn : n = widthBytes h.width) :
    (x.mapLoads (Load.fill false id bs)).landAll = x.loaded h.width d (loadedNat h.width m.nsel bs) := by
  let l := awaitedLoad h d m sel [{ req := id, dev := false, off := 0, n := n, data := some bs, cover := [] }]
  have hfill : Load.fill false id bs (awaitedLoad h d m sel (awaitedParts id (alignedParts a n))) = l := by
    have htake : bs.take n = bs := List.take_of_length_le (Nat.le_of_eq hbs)
    simp only [alignedParts, hal, if_true, awaitedParts, awaitedLoad, Load.fill, List.map_cons, List.map_nil, beq_self_eq_true,
      Bool.and_self, htake, applyOver, List.foldl_nil, l]
  have hbytes : l.bytes = some bs := by simp [l, awaitedLoad, Load.bytes]
  have hland := CtxRegs.land_awaited (d := d) (m := m) (sel := sel)
    (ps := [{ req := id, dev := false, off := 0, n := n, data := some bs, cover := [] }]) x.regs (hbs.trans hn)
  have hmap : x.mapLoads (Load.fill false id bs) = { x with loads := [l], ckpts := [] } := by
    simp [Ctx.mapLoads, hl, hck, hfill]
  rw [hmap]
  simp only [Ctx.landAll, CtxRegs.landAll, stillOut, List.foldl_cons, List.foldl_nil, hbytes, List.map_nil]
  rw [show x.regs.land l bs = _ from hland]
  simp [hbytes, hck, Ctx.loaded]

/-! #### LD and LDI -/

@[simp] theorem Ctx.retire_loads (x : Ctx) (h : Hdr) : (x.retire h).loads = x.loads := by rw [Ctx.retire_rest]

/-- The context of a load that has retired and awaits its parts. -/
def Ctx.loadRetired (x : Ctx) (h : Hdr) (d : Nat) (m : Mem) (parts : List LoadPart) : Ctx :=
  ((x.seqFront { lock := true } h).awaits (awaitedLoad h d m (x.sreg (memSreg m)).sel parts)).retire h

theorem Ctx.bare_loadRetired {x : Ctx} (hw : x.wait = .none) (h : Hdr) (d : Nat) (m : Mem) (parts : List LoadPart) :
    (x.loadRetired h d m parts).bare = x.bare := by
  have hy : ((x.seqFront { lock := true } h).awaits (awaitedLoad h d m (x.sreg (memSreg m)).sel parts)).bare = x.bare :=
    Ctx.bare_seqFront x _ h
  have hyw : ((x.seqFront { lock := true } h).awaits (awaitedLoad h d m (x.sreg (memSreg m)).sel parts)).wait = .none :=
    (congrArg Ctx.wait hy :).trans hw
  exact (Ctx.bare_retire _ h hyw).trans hy

theorem Ctx.regs_loadRetired (x : Ctx) (h : Hdr) (d : Nat) (m : Mem) (parts : List LoadPart) :
    (x.loadRetired h d m parts).regs =
      { x.regs with cpc := { x.regs.cpc with off := (x.regs.cpc.off + h.len) % 2 ^ 48 }, repOn := false } := by
  simp [Ctx.loadRetired, Ctx.awaits]

theorem Ctx.loads_loadRetired (x : Ctx) (h : Hdr) (d : Nat) (m : Mem) (parts : List LoadPart) :
    (x.loadRetired h d m parts).loads = [awaitedLoad h d m (x.sreg (memSreg m)).sel parts] := by
  rw [Ctx.loadRetired, Ctx.retire_loads, Ctx.awaits]

theorem State.readsIssued_setCx (s : State) (c : Nat) (y : Ctx) (k func vc : Nat) (g : Desc) (a : Nat) (ps : List (Nat × Nat)) :
    (s.setCx c y).readsIssued k func vc g a ps = (s.readsIssued k func vc g a ps).setCx c y := by
  induction ps generalizing s with
  | nil => rfl
  | cons p r ih => exact ih (s.readIssued k func vc g (a + p.1) p.2)

/-- LD and LDI from a host segment: the reads of the parts leave, and the instruction retires. -/
theorem exec_load_host {h : Hdr} {d k : Fin 16} {m : Mem} {s : State} {i : Instr} {o : Nat} {x : Ctx} {g : Desc} {func : Nat}
    (hr : Ready { w := true, nib := true, rep := true, lock := true, rd := [k.val] } h s) (hn : m.nsel = true → h.width = .w4)
    (hx : s.cx h.ctx.val = x) (hg : x.sreg (memSreg m) = g) (hf : s.get (Fld.pdData.FUNC x.pdom) = func)
    (hi : i = .ld h d m ∧ o = (x.areg m.a.val + m.disp).toNat ∨
      i = .ldi h d m k ∧ o = (x.areg m.a.val + m.disp + x.dreg k.val).toNat)
    (hloads : x.loads = []) (hp : s.LoadsAtOnce h.ctx.val func) (hk : g.kind = 0) (hseg : segCheck g .r o (widthBytes h.width) = none) :
    let ps := alignedParts (g.base + o) (widthBytes h.width)
    exec i s = .next ((s.readsIssued h.ctx.val func (s.memVc h.ctx.val) g (g.base + o) ps).setCx h.ctx.val
      (x.loadRetired h d.val m (awaitedParts s.hreqNext ps))) := by
  intro ps
  subst hx
  have hcx : (s.setCx h.ctx.val ((s.cx h.ctx.val).seqFront { lock := true } h)).cx h.ctx.val = (s.cx h.ctx.val).seqFront { lock := true } h :=
    State.cx_setCx_same _ _ _
  have hvc : (s.setCx h.ctx.val ((s.cx h.ctx.val).seqFront { lock := true } h)).memVc h.ctx.val = s.memVc h.ctx.val := by
    unfold State.memVc
    rw [hcx, Ctx.seqFront_rest]
    rfl
  have hp' : (s.setCx h.ctx.val ((s.cx h.ctx.val).seqFront { lock := true } h)).LoadsAtOnce h.ctx.val func :=
    ⟨⟨hp.direct.ok, hp.direct.cxl, hp.direct.ats⟩, hp.cache, by rw [hcx, Ctx.seqFront_ckpts]; exact hp.ckpts, hp.held⟩
  rw [exec_load hr hn hi, loadAt_host hr.once hcx (by rw [Ctx.seqFront_sreg]; exact hg) (by rw [Ctx.seqFront_pdom]; exact hf)
    (by rw [Ctx.seqFront_loads]; exact hloads) hp' hk hseg, hvc, State.readsIssued_setCx, State.setCx_setCx, Ctx.loadRetired, hg]
  rfl

/-- The data of the one read of an aligned load returns to a quiet machine: it lands in Dx, Z and N. -/
theorem Quiet.loadReturns {s : State} {c func vc a n d : Nat} {g : Desc} {h : Hdr} {m : Mem} {sel : Nat} {z : Ctx} {bs : List Byte}
    (q : Quiet s) (hc : s.canIssue c = true) (hck : (s.cx c).ckpts = []) (hdue : (s.cx c).due = 0) (hz : z.bare = (s.cx c).bare)
    (hl : z.loads = [awaitedLoad h d m sel (awaitedParts s.hreqNext (alignedParts a n))]) (hal : a % n = 0)
    (hbs : bs.length = n) (hn : n = widthBytes h.width) (hkeys : ∀ r ∈ s.hreq, r.1 < s.hreqNext) (hm : s.on Fld.hpuStat.MODE = false) :
    ∃ u, exec (.hostReadCompletion s.hreqNext (.data bs)) ((s.readIssued c func vc g a n).setCx c z) = .next u ∧
      u.cx c = z.loaded h.width d (loadedNat h.width m.nsel bs) := by
  obtain ⟨hlive, -, hsq⟩ := State.canIssue_live hc
  have hw := State.canIssue_wait hc
  let t := (s.readIssued c func vc g a n).setCx c z
  have hreq : t.hreq = s.hreq ++ [(s.hreqNext, loadReq c s.hreqNext func a n vc g)] :=
    SMap.set_fresh hkeys (by simp [loadReq, noReq] : loadReq c s.hreqNext func a n vc g ≠ noReq)
  have hfind : t.hreq.find? (fun e => e.1 == s.hreqNext) = some (s.hreqNext, loadReq c s.hreqNext func a n vc g) := by
    rw [hreq, List.find?_append, List.find?_eq_none.2 fun e he => by simpa using Nat.ne_of_lt (hkeys e he)]
    simp
  have hcx : (t.dropHreq s.hreqNext).cx c = z := State.cx_setCx_same _ _ _
  have hzck : z.ckpts = [] := (congrArg Ctx.ckpts hz :).trans hck
  have hzch : z.chainWaits := by
    have hch := q.chainWaits hlive hsq
    unfold Ctx.chainWaits at hch ⊢
    rw [show z.chain = (s.cx c).chain from (congrArg Ctx.chain hz :)]
    exact hch
  have hdata : (t.dropHreq s.hreqNext).loadData c s.hreqNext false bs =
      (t.dropHreq s.hreqNext).setCx c (z.loaded h.width d (loadedNat h.width m.nsel bs)) :=
    (State.loadData_plain (by rw [hcx]; exact (congrArg Ctx.wait hz :).trans hw) (by rw [hcx]; exact hzck)
      (by rw [hcx]; exact (congrArg Ctx.due hz :).trans hdue) (by rw [hcx]; exact hzch)).trans
      (by rw [hcx, Ctx.landAll_aligned hzck hl hal hbs hn])
  have hquiet : Quiet ((t.dropHreq s.hreqNext).setCx c (z.loaded h.width d (loadedNat h.width m.nsel bs))) := by
    refine q.goesOn hlive hw (z := z.loaded h.width d (loadedNat h.width m.nsel bs)) hz ?_
    have hback := SMap.set_fresh_reset (d := noReq) (loadReq c s.hreqNext func a n vc g) hkeys
    simp only [t, State.setCx, State.dropHreq, State.setHreq, State.readIssued, hback, SMap.set_set]
  obtain ⟨u, hu, hcalm⟩ := State.done_of_quiet hquiet
  refine ⟨u, ?_, ?_⟩
  · rw [execHostReadCompletion_load hfind rfl rfl rfl hm hbs, hdata]
    exact hu
  · have hctx : u.ctx = _ := (congrArg State.ctx hcalm.rest :)
    simp only [State.cx, hctx]
    exact State.cx_setCx_same _ _ _

end Sys2Proof.Machine

open Sys2Proof Sys2Proof.Machine

/-- Settles O11: the checks of the segment pass, a read leaves for each aligned part, and the data of the one read of an aligned load
lands in a quiet machine, where nothing follows the command but what `Calm` names. -/
theorem loadsReadHostMemoryAndDeliver : Obligations.LoadsReadHostMemoryAndDeliver := by
  unfold Obligations.LoadsReadHostMemoryAndDeliver
  intro h d k m s i o q hr c x g n w func vc a id hi hck hloads hheld _ hkeys hl hinv hk hrd hlim h64 hn hok hmode hats hcache
  have hseg : segCheck g .r o n = none := segCheck_inside (need := .r) hl hinv hrd (widthBytes_pos _) hlim h64
  have hexec := exec_load_host hr hn rfl rfl rfl hi hloads ⟨⟨hok, hmode, hats⟩, hcache, hck, hheld⟩ hk hseg
  let z := x.loadRetired h d.val m (awaitedParts id (alignedParts a n))
  let t := (s.readsIssued c func vc g a (alignedParts a n)).setCx c z
  have hrest := State.readsIssued_rest s c func vc g a (alignedParts a n)
  have hregs : (t.cx c).regs = _ := (congrArg Ctx.regs (State.cx_setCx_same _ _ _)).trans (Ctx.regs_loadRetired x h d.val m _)
  refine ⟨t, hexec, hregs, fun c' hc => ?_, (congrArg State.regs hrest :), fun hal => ?_, fun hal => ⟨?_, fun bs hbs => ?_⟩⟩
  · rw [State.cx_setCx_ne _ _ hc]
    simp only [State.cx, State.ctx_readsIssued]
  · simp only [t, alignedParts, hal, if_false]
    rfl
  · simp only [t, alignedParts, hal, if_true]
    rfl
  · obtain ⟨u, hu, hux⟩ := q.loadReturns (func := func) (vc := vc) (g := g) (a := a) (d := d.val) (m := m) (h := h) (z := z) (bs := bs)
      hr.1 hck hr.due (Ctx.bare_loadRetired hr.wait h d.val m _) (Ctx.loads_loadRetired x h d.val m _) hal hbs rfl hkeys hmode
    have ht : t = (s.readIssued c func vc g a n).setCx c z := by
      simp only [t, alignedParts, hal, if_true]
      rfl
    have hzr : z.regs = _ := Ctx.regs_loadRetired x h d.val m _
    refine ⟨u, ht ▸ hu, fun j => ?_, ?_, ?_, ?_⟩
    · rw [hux, Ctx.dreg_loaded, Ctx.dreg, hzr]
      rfl
    · rw [hux, Ctx.loaded, hzr]
      rfl
    · rw [hux, Ctx.loaded]
    · rw [hux, Ctx.loaded, hregs, hzr]
end

section
/-! ### Counters cleared by a write of 1 -/

namespace Sys2Proof.Machine

/-- Bit `p` of register `r` lies in a field. -/
def Field.holds (g : Field) (r : Reg) (p : Nat) : Bool := decide (g.reg = r ∧ g.lo ≤ p ∧ p < g.lo + g.w)

theorem State.testBit_get (s : State) (f : Field) (i : Nat) :
    (s.get f).testBit i = (decide (i < f.w) && (s.reg f.reg).toNat.testBit (f.lo + i)) := bitsOf_testBit _ _ _ _

theorem testBit_putBits_zero (v lo w p : Nat) :
    (putBits v lo w 0).testBit p = (v.testBit p && !decide (lo ≤ p ∧ p < lo + w)) := by
  by_cases h : lo ≤ p ∧ p < lo + w
  · have hz := congrArg (·.testBit (p - lo)) (bitsOf_putBits_same v lo w 0)
    simpa [bitsOf_testBit, h, show p - lo < w by omega, Nat.add_sub_cancel' h.1] using hz
  · have hk := congrArg (·.testBit 0) (bitsOf_putBits_disj v lo w 0 p 1 (by omega))
    simp only [bitsOf_testBit, Nat.add_zero, decide_true, Nat.zero_lt_one, Bool.true_and] at hk
    simp [hk, h]

/-- `t` is `s` with the fields `fs` at 0, bit by bit. -/
structure Clears (fs : List Field) (s t : State) : Prop where
  rest : { t with regs := s.regs } = s
  bit : ∀ r p, (t.reg r).toNat.testBit p = ((s.reg r).toNat.testBit p && !fs.any fun g => g.holds r p)

namespace Clears
variable {fs gs : List Field} {s t u : State}

theorem trans (h : Clears fs s t) (g : Clears gs t u) : Clears (fs ++ gs) s u := by
  refine ⟨?_, fun r p => ?_⟩
  · have h1 := h.rest
    rw [← g.rest] at h1
    exact h1
  · rw [g.bit, h.bit, List.any_append, Bool.not_or, Bool.and_assoc]

theorem put (s : State) (f : Field) : Clears [f] s (s.put f 0) := by
  refine ⟨rfl, fun r p => ?_⟩
  by_cases hr : f.reg = r
  · subst hr
    have h64 : ∀ x : Word, x.toNat.testBit p = (decide (p < 64) && x.toNat.testBit p) := fun x => by
      by_cases hp : p < 64
      · simp [hp]
      · simp [hp, Nat.testBit_lt_two_pow (Nat.lt_of_lt_of_le x.isLt (Nat.pow_le_pow_right (by decide) (Nat.not_lt.1 hp)))]
    simp only [State.put, State.reg_setReg_same, BitVec.toNat_ofNat, Nat.testBit_mod_two_pow, testBit_putBits_zero, List.any_cons,
      List.any_nil, Bool.or_false, Field.holds, true_and]
    rw [← Bool.and_assoc, ← h64]
  · simp [State.reg_put_ne s _ (Ne.symm hr), Field.holds, hr]

theorem putAll (s : State) (fs : List Field) : Clears fs s (s.putAll (fs.map fun f => (f, 0))) := by
  induction fs generalizing s with
  | nil => exact ⟨rfl, fun r p => by simp [State.putAll]⟩
  | cons f fs ih => exact (put s f).trans (ih (s.put f 0))

/-- A word whose bits all lie in the fields is written 0. -/
theorem setReg (s : State) {r : Reg} (hall : ∀ p, p < 64 → (fs.any fun g => g.holds r p) = true) (hr : ∀ g ∈ fs, g.reg = r) :
    Clears fs s (s.setReg r 0) := by
  refine ⟨rfl, fun r' p => ?_⟩
  by_cases h : r' = r
  · subst h
    rw [State.reg_setReg_same]
    by_cases hp : p < 64
    · simp [hall p hp]
    · have := Nat.testBit_lt_two_pow (Nat.lt_of_lt_of_le (s.reg r').isLt (Nat.pow_le_pow_right (by decide) (Nat.not_lt.1 hp)))
      simp [this]
  · have hno : (fs.any fun g => g.holds r' p) = false :=
      List.any_eq_false.2 fun g hg => by simp [Field.holds, hr g hg, Ne.symm h]
    rw [State.reg_setReg_ne s _ h, hno, Bool.not_false, Bool.and_true]

theorem get_mem (h : Clears fs s t) {g : Field} (hg : g ∈ fs) : t.get g = 0 := by
  refine Nat.eq_of_testBit_eq fun i => ?_
  rw [State.testBit_get, h.bit, Nat.zero_testBit]
  by_cases hi : i < g.w
  · have hin : (fs.any fun f => f.holds g.reg (g.lo + i)) = true := List.any_eq_true.2 ⟨g, hg, by simp [Field.holds, hi]⟩
    simp [hin]
  · simp [hi]

theorem get_outside (h : Clears fs s t) {f : Field} (hf : ∀ g ∈ fs, f.reg ≠ g.reg ∨ f.lo + f.w ≤ g.lo ∨ g.lo + g.w ≤ f.lo) :
    t.get f = s.get f := by
  refine Nat.eq_of_testBit_eq fun i => ?_
  rw [State.testBit_get, State.testBit_get, h.bit]
  by_cases hi : i < f.w
  · have hout : (fs.any fun g => g.holds f.reg (f.lo + i)) = false := List.any_eq_false.2 fun g hg => by
      simp only [Field.holds, decide_eq_true_eq]
      rintro ⟨hr, hlo, hhi⟩
      rcases hf g hg with h | h | h
      · exact h hr.symm
      · omega
      · omega
    simp [hout]
  · simp [hi]

end Clears

/-- Two fields of 32 bits, and four of 16, fill their word. -/
theorem holds_halves (r : Reg) : ∀ p, p < 64 → ([⟨r, 0, 32⟩, ⟨r, 32, 32⟩].any fun g : Field => g.holds r p) = true := fun p hp => by
  simp [Field.holds]
  omega

theorem holds_quarters (r : Reg) : ∀ p, p < 64 →
    ([⟨r, 0, 16⟩, ⟨r, 16, 16⟩, ⟨r, 32, 16⟩, ⟨r, 48, 16⟩].any fun g : Field => g.holds r p) = true := fun p hp => by
  simp [Field.holds]
  omega

/-- The Gambit counters of a cluster are cleared word by word (R227). -/
theorem gbtClr_clears (cl : Nat) (s : State) : Clears
    [Fld.gbtCnt0.OPENED cl, Fld.gbtCnt0.RETIRED cl, Fld.gbtCnt1.SQ_MISS cl, Fld.gbtCnt1.SQ_HORIZON cl,
      Fld.gbtCnt2.SQ_CONFLICT cl, Fld.gbtCnt2.SQ_OTHER cl, Fld.gbtCnt3.PAUSES cl, Fld.gbtCnt3.DRAINED cl] s
    (forAll [RegId.gbtCnt0, .gbtCnt1, .gbtCnt2, .gbtCnt3] (fun t r => t.setReg ⟨r, cl, 0⟩ 0) s) := by
  have word : ∀ (t : State) (id : RegId), Clears [⟨⟨id, cl, 0⟩, 0, 32⟩, ⟨⟨id, cl, 0⟩, 32, 32⟩] t (t.setReg ⟨id, cl, 0⟩ 0) := fun t id =>
    Clears.setReg t (holds_halves _) (by simp)
  exact (((word _ .gbtCnt0).trans (word _ .gbtCnt1)).trans (word _ .gbtCnt2)).trans (word _ .gbtCnt3)

end Sys2Proof.Machine

open Sys2Proof Sys2Proof.Machine

/-- Settles O38: each clear writes 0 to fields, or to a word that its fields fill. -/
theorem counterClearsClearOnlyTheirCounters : Obligations.CounterClearsClearOnlyTheirCounters := by
  unfold Obligations.CounterClearsClearOnlyTheirCounters
  intro cl f b s cleared
  have of : ∀ {c : Instr} {fs : List Field} {t : State}, exec c s = .next t → Clears fs s t → cleared c fs := fun hc h =>
    ⟨_, hc, fun g hg => h.get_mem hg, h.rest, fun k hk => h.get_outside hk⟩
  exact ⟨of rfl (Clears.put s _), of rfl (Clears.put s _), of rfl (Clears.putAll s [_, _, _, _]), of rfl (gbtClr_clears cl.val s),
    of rfl (Clears.putAll s [_, _, _]), of rfl (Clears.putAll s [_, _, _]), of rfl (Clears.putAll s [_, _]),
    of rfl (Clears.putAll s [_, _, _, _]), of rfl (Clears.putAll s [_, _, _]), of rfl (Clears.putAll s [_, _]),
    of rfl (Clears.setReg s (holds_quarters _) (by simp [Fld.pluCnt.SRC_VIOL, Fld.pluCnt.UNROUTED, Fld.pluCnt.HOP_DROP, Fld.pluCnt.REPLAY])),
    of rfl (Clears.put s _)⟩
end

section
/-! ### HALT, POST, flag fall and undefined bytes of a program with nothing outstanding -/

namespace Sys2Proof.Machine

/-! #### Ends reached from a context that has changed -/

theorem Freed.of_setCx {c : Nat} {s t : State} {y : Ctx} (h : Freed c (s.setCx c y) t) : Freed c s t := by
  refine ⟨?_, ?_, h.desc, h.held⟩
  · exact congrArg (fun u : State => { u with ctx := s.ctx }) h.rest
  · rw [h.ctx]
    exact SMap.set_set _ _ _ _ _

theorem ProgramGone.of_setCx {c : Nat} {s t : State} {y : Ctx} {more : List Cpl} (h : ProgramGone c (s.setCx c y) t more) :
    ProgramGone c s t more := by
  obtain ⟨u, hu, ht⟩ := h
  exact ⟨u, Freed.of_setCx (s := { s with cpl := s.cpl ++ more }) hu, ht⟩

/-- A context that takes the place of another leaves no path paused for room in a watch set. -/
theorem watchStop_setCx {s : State} {c : Nat} {y : Ctx} (h : ∀ e ∈ s.ctx, e.2.watchStop = false) (hy : y.watchStop = false) :
    ∀ e ∈ (s.setCx c y).ctx, e.2.watchStop = false := fun e he => by
  rcases SMap.mem_set he with ⟨he, -⟩ | ⟨rfl, -⟩
  · exact h e he
  · exact hy

/-- A program without a lock or a checkpoint ends with no word of its own: it has posted, or is stopped (R63, R102). -/
theorem State.stopSilent_gone {s : State} {c cause : Nat} (hws : ∀ e ∈ s.ctx, e.2.watchStop = false) (hu : Unburdened (s.cx c)) :
    ProgramGone c s (s.stopSilent c cause) [] := by
  obtain ⟨-, hsl, -, -, hck, -, hal, hfr, hlk, -, -⟩ := hu
  have hend : s.stopSilent c cause = (s.freeCtx c true).endLeave (s.cx c) := by
    unfold State.stopSilent
    simp only [State.unspec_eq hck, State.breakLock_eq hlk]
  rw [hend]
  refine ⟨_, ?_, (OnlyQueues.refl _).endLeave _⟩
  simp only [List.append_nil]
  exact State.freeCtx_freed hws hsl hal hfr true

theorem OnlyRegs.putAll {ids : List RegId} {s t : State} (h : OnlyRegs ids s t) (l : List (Field × Nat))
    (hl : ∀ e ∈ l, e.1.reg.id ∈ ids) : OnlyRegs ids s (t.putAll l) := by
  induction l generalizing t with
  | nil => exact h
  | cons e l ih => exact ih (h.put e.2 (hl e (List.mem_cons_self ..))) fun e' he' => hl e' (List.mem_cons_of_mem _ he')

theorem OnlyRegs.logFirst {ids : List RegId} {s t : State} (h : OnlyRegs ids s t) {valid ovf : Field} {l : List (Field × Nat)}
    (hv : valid.reg.id ∈ ids) (ho : ovf.reg.id ∈ ids) (hl : ∀ e ∈ l, e.1.reg.id ∈ ids) : OnlyRegs ids s (t.logFirst valid ovf l) := by
  unfold State.logFirst
  split
  · exact h.put _ ho
  · exact (h.putAll l hl).put _ hv

/-- Other ends are no segment faults (R204). -/
theorem State.segv_eq {s : State} {c st sel : Nat} {port : Bool} (h : st < 0x20 ∨ 0x23 < st) : s.segv c st sel port = s := by
  unfold State.segv
  rw [if_neg (by omega)]

/-- The record of a segment fault touches its log alone (R204). -/
theorem State.segv_onlyRegs (s : State) (c st sel : Nat) (port : Bool) : OnlyRegs [.segvLog] s (s.segv c st sel port) := by
  unfold State.segv
  split
  · refine (OnlyRegs.refl _ s).logFirst (.head _) (.head _) fun e he => ?_
    simp only [List.mem_cons, List.not_mem_nil, or_false] at he
    rcases he with rfl | rfl | rfl | rfl | rfl <;> exact .head _
  · exact OnlyRegs.refl _ s

/-- The entry that an automatic end hands in: none once the program has posted (R102, R103). -/
def State.endEntry (s : State) (c st : Nat) : List Cpl :=
  if (s.cx c).posted then [] else [s.cplOf c st false 0 (s.residualOf c)]

/-- A program with nothing outstanding ends with any status; one of a segment fault is recorded first (R103, R204). -/
theorem State.autoEnd_gone_segv {s : State} {c st : Nat} {i : EndInfo} (hws : ∀ e ∈ s.ctx, e.2.watchStop = false)
    (hu : Unburdened (s.cx c)) (hi : i.residual = none) :
    ProgramGone c (s.segv c st i.sel i.port) (s.autoEnd c st i) (s.endEntry c st) := by
  obtain ⟨-, hsl, -, -, hck, -, hal, hfr, hlk, -, hdue⟩ := hu
  have hctx : (s.segv c st i.sel i.port).ctx = s.ctx := (congrArg State.ctx (s.segv_onlyRegs c st i.sel i.port).1 :)
  generalize hv : s.segv c st i.sel i.port = v at hctx
  have hcx : v.cx c = s.cx c := by simp only [State.cx, hctx]
  have hend : s.autoEnd c st i =
      ((if (s.cx c).posted then v else v.handCpl (s.cplOf c st false 0 (s.residualOf c))).freeCtx c true).endLeave (s.cx c) := by
    unfold State.autoEnd
    simp only [hdue, State.unspec_eq hck, hlk, hv, State.breakLock_eq (s := v) (hcx ▸ hlk), hi, Option.isSome_none, Option.getD_none,
      Bool.false_eq_true, if_false]
    rfl
  rw [hend, State.endEntry]
  rw [← hctx] at hws
  rw [← hcx] at hsl hal hfr
  refine ⟨_, ?_, (OnlyQueues.refl _).endLeave _⟩
  split
  · simp only [List.append_nil]
    exact State.freeCtx_freed hws hsl hal hfr true
  · exact State.freeCtx_freed (s := v.handCpl _) hws hsl hal hfr true

/-! #### A context at its HALT or POST -/

/-- A context without a locked sequence that has come to a wait. -/
def Ctx.comesTo (x : Ctx) (w : Wait) : Ctx := { x.endSeq with wait := w }

theorem Unburdened.lock {x : Ctx} (h : Unburdened x) : x.lock = none := by
  obtain ⟨-, -, -, -, -, -, -, -, hlk, -⟩ := h
  exact hlk

theorem Unburdened.ckpts {x : Ctx} (h : Unburdened x) : x.ckpts = [] := by
  obtain ⟨-, -, -, -, hck, -⟩ := h
  exact hck

/-- A context has as little outstanding as another from which it differs in its clock, its locked sequence and its wait alone. -/
theorem Unburdened.of_eq {x y : Ctx} (h : Unburdened x) (hlk : y.lock = none)
    (hy : y = { x with clock := y.clock, seqCount := y.seqCount, lock := y.lock, wait := y.wait }) : Unburdened y := by
  obtain ⟨h1, h2, h3, h4, h5, h6, h7, h8, -, h10, h11⟩ := h
  rw [hy]
  exact ⟨h1, h2, h3, h4, h5, h6, h7, h8, hlk, h10, h11⟩

theorem Unburdened.comesTo {x : Ctx} (h : Unburdened x) (w : Wait) : Unburdened (x.comesTo w) := h.of_eq rfl rfl

theorem Unburdened.quiet {x : Ctx} (h : Unburdened x) : x.quiet = true := by
  obtain ⟨h1, h2, h3, -⟩ := h
  simp [Ctx.quiet, h1, h2, h3]

/-- What a context that comes to a wait hands in is what it would have handed in before. -/
theorem State.cplOf_comesTo (s : State) (c st : Nat) (w : Wait) (auto : Bool) (r : Word) (n : Nat) :
    (s.setCx c ((s.cx c).comesTo w)).cplOf c st auto r n = s.cplOf c st auto r n := by
  simp only [State.cplOf, State.cx_setCx_same]
  rfl

theorem State.residualOf_comesTo (s : State) (c : Nat) (w : Wait) :
    (s.setCx c ((s.cx c).comesTo w)).residualOf c = s.residualOf c := by
  simp only [State.residualOf, State.cx_setCx_same]
  rfl

/-- A ready HALT or POST of a context with no open chain finds nothing to close (R115). -/
theorem closing_ready {s : State} {c : Nat} {y : Ctx} (h : y.regs.chainOpen = none) (k : State → Res) :
    closing c (s.setCx c y) k = k (s.setCx c y) := by
  have hopen : (s.setCx c y).openChain c = none := by simp only [State.openChain, State.cx_setCx_same, h]
  have hy : (y.upd fun r => { r with chainOpen := none }) = y := by
    simp only [Ctx.upd]
    rw [← h]
  have hclose : (s.setCx c y).closeChain c = s.setCx c y := by
    unfold State.closeChain
    rw [hopen, State.updCx_setCx, hy]
  unfold closing State.closeStatus
  rw [hopen, hclose]
  rfl

section
variable {h : Hdr} {s : State}

/-- A ready HALT comes to its wait and is kicked at once (R101). -/
theorem exec_halt_ready (hr : Ready { stop := true } h s) (hu : Unburdened (s.cx h.ctx.val)) :
    exec (.halt h) s = ((s.setCx h.ctx.val ((s.cx h.ctx.val).comesTo .halt)).kick h.ctx.val).done := by
  obtain ⟨hl, -, -⟩ := State.canIssue_live hr.1
  obtain ⟨-, -, -, -, -, -, -, -, -, hopen, -⟩ := hu
  show execHalt h s = _
  unfold execHalt
  dsimp only
  rw [issue_ready _ hr, show (s.cx h.ctx.val).seqFront { stop := true } h = (s.cx h.ctx.val).endSeq from rfl,
    closing_ready (y := (s.cx h.ctx.val).endSeq) hopen, State.updCx_setCx, if_pos (show (s.cx h.ctx.val).endSeq.live = true from hl)]
  rfl

variable {status : BitVec 8} {d : Fin 16} (hr : Ready { stop := true, rd := [d.val] } h s)
include hr

/-- A ready first POST comes to its wait and is kicked at once (R100). -/
theorem exec_post_first (hu : Unburdened (s.cx h.ctx.val)) (hp : (s.cx h.ctx.val).posted = false) : exec (.post h status d) s =
    ((s.setCx h.ctx.val ((s.cx h.ctx.val).comesTo (.post h.len status.toNat ((s.cx h.ctx.val).dreg d.val)))).kick h.ctx.val).done := by
  obtain ⟨hl, -, -⟩ := State.canIssue_live hr.1
  obtain ⟨-, -, -, -, -, -, -, -, -, hopen, -⟩ := hu
  have hfront : (s.cx h.ctx.val).seqFront { stop := true, rd := [d.val] } h = (s.cx h.ctx.val).endSeq := rfl
  show execPost h status d s = _
  unfold execPost
  dsimp only
  rw [issue_ready _ hr, hfront, State.cx_setCx_same, if_neg (show ¬(s.cx h.ctx.val).endSeq.posted = true by simp [Ctx.endSeq, hp]),
    closing_ready (y := (s.cx h.ctx.val).endSeq) hopen, State.updCx_setCx, if_pos (show (s.cx h.ctx.val).endSeq.live = true from hl)]
  rfl

/-- A ready second POST ends its program (R102). -/
theorem exec_post_again (hp : (s.cx h.ctx.val).posted = true) : exec (.post h status d) s =
    (((s.incSat (Fld.pgmStat.POST_AGAIN (clusterOf h.ctx.val))).setCx h.ctx.val (s.cx h.ctx.val).endSeq).autoEnd h.ctx.val 0).done := by
  have hfront : (s.cx h.ctx.val).seqFront { stop := true, rd := [d.val] } h = (s.cx h.ctx.val).endSeq := rfl
  show execPost h status d s = _
  unfold execPost
  dsimp only
  rw [issue_ready _ hr, hfront, State.cx_setCx_same, if_pos (show (s.cx h.ctx.val).endSeq.posted = true from hp)]
  rfl

end

/-- A context that waits, with nothing outstanding, is judged by its wait alone. -/
theorem State.kick_unburdened {s : State} {c : Nat} (hl : (s.cx c).live = true) (hu : Unburdened (s.cx c)) :
    s.kick c = match (s.cx c).wait with
      | .post len st r => s.postNow c len st r
      | .halt => s.haltNow c
      | _ => s.kick c := by
  have hq := hu.quiet
  obtain ⟨-, -, hch, hfl, -, hsq, -⟩ := hu
  have hsend : s.sendChain c = s := State.sendChain_waits fun e he => absurd (hch ▸ he) List.not_mem_nil
  split
  · next hw => simp only [State.kick, hsend, hl, hsq, hw, hfl, hq]; rfl
  · next hw => simp only [State.kick, hsend, hl, hsq, hw, hfl, hq]; rfl
  · rfl

/-- The entry of HALT (R101): AUTO 1, RESULT 0, and status 0x01 after a short last transfer. -/
def State.haltEntry (s : State) (c : Nat) : List Cpl :=
  if (s.cx c).posted then [] else [s.cplOf c (if (s.cx c).lastShort then 1 else 0) true 0 (s.residualOf c)]

theorem State.haltNow_gone {s : State} {c : Nat} (hws : ∀ e ∈ s.ctx, e.2.watchStop = false) (hu : Unburdened (s.cx c)) :
    ProgramGone c s (s.haltNow c) (s.haltEntry c) := by
  obtain ⟨-, hsl, -, hfl, -, -, hal, hfr, -, -, -⟩ := hu
  have hend : s.haltNow c = ((if (s.cx c).posted then s
      else s.handCpl (s.cplOf c (if (s.cx c).lastShort then 1 else 0) true 0 (s.residualOf c))).freeCtx c false).endLeave (s.cx c) := by
    simp only [State.haltNow, hfl]
    rfl
  rw [hend, State.haltEntry]
  refine ⟨_, ?_, (OnlyQueues.refl _).endLeave _⟩
  split
  · simp only [List.append_nil]
    exact State.freeCtx_freed hws hsl hal hfr false
  · exact State.freeCtx_freed (s := s.handCpl _) hws hsl hal hfr false

theorem State.haltEntry_comesTo (s : State) (c : Nat) (w : Wait) :
    (s.setCx c ((s.cx c).comesTo w)).haltEntry c = s.haltEntry c := by
  simp only [State.haltEntry, State.cplOf_comesTo, State.residualOf_comesTo, State.cx_setCx_same]
  rfl

/-- A POST with nothing to wait for hands in its entry and retires, and the machine stays quiet (R100). -/
theorem Quiet.postNow {s : State} {c len st : Nat} {r : Word} {w : Wait} (q : Quiet s) (hl : (s.cx c).live = true)
    (hu : Unburdened (s.cx c)) :
    ∃ z : Ctx, z.posted = true ∧ z.wait = .none ∧
      z.regs = { (s.cx c).regs with cpc := { (s.cx c).regs.cpc with off := ((s.cx c).regs.cpc.off + len) % 2 ^ 48 }, repOn := false } ∧
      (s.setCx c ((s.cx c).comesTo w)).postNow c len st r = (s.handCpl (s.cplOf c st false r (s.residualOf c))).setCx c z ∧
      Quiet ((s.handCpl (s.cplOf c st false r (s.residualOf c))).setCx c z) := by
  obtain ⟨-, -, -, hfl, -⟩ := hu
  let z := { (s.cx c).comesTo w with posted := true }.retireAt len false
  have hrest := Ctx.retireAt_rest { (s.cx c).comesTo w with posted := true } len false
  have hfl' : ((s.cx c).comesTo w).fails = [] := hfl
  refine ⟨z, ?_, Ctx.retireAt_wait _ _ _, Ctx.retireAt_regs _ _ _, ?_, ?_⟩
  · rw [show z = _ from hrest]
  · simp only [State.postNow, State.cplOf_comesTo, State.residualOf_comesTo, State.cx_setCx_same, hfl', List.isEmpty_nil, Bool.not_true,
      Bool.false_eq_true, if_false]
    exact State.updCx_setCx (s.handCpl (s.cplOf c st false r (s.residualOf c))) c ((s.cx c).comesTo w)
      fun y => { y with posted := true }.retireAt len false
  · refine q.ofCtx (c := c) (x := z) (SameFaults.of_regs rfl rfl rfl rfl rfl) ⟨fun _ _ => rfl, rfl, rfl, rfl, rfl, rfl, rfl, rfl, rfl, rfl, rfl⟩
      rfl (Ctx.retireAt_wait _ _ _) ?_ (fun _ => ⟨hl, ?_, ?_⟩) (fun _ _ => rfl) fun e he => ⟨e, he, rfl⟩
    · rw [show z = _ from hrest]
      exact q.watchStop hl
    · rw [show z = _ from hrest]
      rfl
    · rw [show z = _ from hrest]
      rfl

/-! #### Flag fall and undefined bytes -/

/-- A context to which the clock of its program has brought flag fall. -/
def Ctx.flagged (x : Ctx) : Ctx := { x with clock := some 0 }

/-- Flag fall meets a context that can issue and for which no stop waits (R128). -/
theorem exec_flagFall_ready {ctx : Fin 1024} {s : State} (hc : s.canIssue ctx.val = true) (hclk : (s.cx ctx.val).clock.isSome = true)
    (hdue : (s.cx ctx.val).due = 0) :
    exec (.chessClockFlagFall ctx) s = ((s.setCx ctx.val (s.cx ctx.val).flagged).flagEnd ctx.val).done := by
  obtain ⟨hl, hpk, -⟩ := State.canIssue_live hc
  have hw := State.canIssue_wait hc
  have hnone : (s.cx ctx.val).clock.isNone = false := by
    rw [← Option.not_isSome, hclk]
    rfl
  have hmid : (s.cx ctx.val).flagged.midway = false := by
    show (match (s.cx ctx.val).wait with | .xlate .. | .ld .. => !(s.cx ctx.val).speculating | _ => false) = false
    rw [hw]
  show execChessClockFlagFall ctx s = _
  simp only [execChessClockFlagFall, hl, hnone, hpk, hdue, hw]
  show ((s.setCx ctx.val (s.cx ctx.val).flagged).stopAt ctx.val dueFlag).done = _
  rw [State.stopAt, State.cx_setCx_same, hmid]
  rfl

theorem State.flagEnd_posted {s : State} {c : Nat} (hp : (s.cx c).posted = true) :
    s.flagEnd c = (s.incSat (Fld.pgmStat.SILENT_FALLS (clusterOf c))).stopSilent c 4 := by
  simp only [State.flagEnd, hp, if_true]

theorem State.flagEnd_unposted {s : State} {c : Nat} (hp : (s.cx c).posted = false) (hlk : (s.cx c).lock = none) :
    s.flagEnd c = (s.incSat (Fld.pgmStat.FLAG_FALLS (clusterOf c))).autoEnd c 0x40 { lockCause := 4 } := by
  simp only [State.flagEnd, hp, hlk, Option.isSome_none, Bool.false_eq_true, if_false]

theorem State.incSat_setCx (s : State) (c : Nat) (y : Ctx) (f : Field) : (s.setCx c y).incSat f = (s.incSat f).setCx c y := rfl

section
variable {ctx : Fin 1024} {s : State} (hc : s.canIssue ctx.val = true) (hclk : (s.cx ctx.val).clock.isSome = true)
  (hdue : (s.cx ctx.val).due = 0)
include hc hclk hdue

/-- Flag fall ends a program that has not posted (R128). -/
theorem exec_flagFall_unposted (hp : (s.cx ctx.val).posted = false) (hlk : (s.cx ctx.val).lock = none) :
    exec (.chessClockFlagFall ctx) s =
      (((s.incSat (Fld.pgmStat.FLAG_FALLS (clusterOf ctx.val))).setCx ctx.val (s.cx ctx.val).flagged).autoEnd ctx.val 0x40
        { lockCause := 4 }).done := by
  rw [exec_flagFall_ready hc hclk hdue, State.flagEnd_unposted (by rw [State.cx_setCx_same]; exact hp)
    (by rw [State.cx_setCx_same]; exact hlk), State.incSat_setCx]

/-- Flag fall stops one that has posted (R128). -/
theorem exec_flagFall_posted (hp : (s.cx ctx.val).posted = true) :
    exec (.chessClockFlagFall ctx) s =
      (((s.incSat (Fld.pgmStat.SILENT_FALLS (clusterOf ctx.val))).setCx ctx.val (s.cx ctx.val).flagged).stopSilent ctx.val 4).done := by
  rw [exec_flagFall_ready hc hclk hdue, State.flagEnd_posted (by rw [State.cx_setCx_same]; exact hp), State.incSat_setCx]

end

/-- Undefined bytes end a program outside speculation with the status that their decoding gives (R103, R138). -/
theorem exec_undefined_ready {op : Op} {h : Hdr} {bytes : List Byte} {st : Nat} {s : State} (hr : Ready op h s)
    (hck : (s.cx h.ctx.val).ckpts = [])
    (hd : ({ bytes := bytes, off := (s.cx h.ctx.val).regs.cpc.off, limit := (s.cx h.ctx.val).regs.cpc.seg.limit,
             bound := fun n => s.on (Fld.extBind.VALID n) } : IzEnv).decode = some st) :
    exec (.undefinedOpcode h.ctx bytes) s = (s.autoEnd h.ctx.val st { sel := (s.cx h.ctx.val).regs.cpc.sel }).done := by
  obtain ⟨hc, hf, -⟩ := hr
  have hseg : (s.cx h.ctx.val).regs.cpc.seg.live = true ∧ (s.cx h.ctx.val).regs.cpc.seg.inval = false := by
    unfold fetchCheck at hf
    split at hf
    · cases hf
    · split at hf
      · cases hf
      · simp_all
  show execUndefinedOpcode h.ctx bytes s = _
  simp only [execUndefinedOpcode, hc, hseg, hd, Bool.not_true, Bool.false_eq_true, if_false]
  rw [State.trap, Ctx.speculating, hck]
  rfl

/-- The byte 0x00 is no opcode (R138, R151). -/
theorem decode_zero {e : IzEnv} (hb : e.bytes = [0]) (hl : e.off < e.limit) : e.decode = some 0x10 := by
  have hbyte : ∀ k, e.byte 0 k = k 0 := fun k => by
    simp [IzEnv.byte, hb, Nat.not_le.2 hl]
  rw [IzEnv.decode, hbyte, if_neg (by decide), IzEnv.opcode, hbyte, if_neg (by decide), if_neg (by decide), if_neg (by simp)]
  rfl

/-! #### A quiet machine in which a program has gone -/

/-- A program is gone from a quiet machine in which at most registers that nothing waits for have changed before: it has ended, and
only registers of the queues and of the event sources, and what `Calm` names, have changed since. -/
theorem ProgramGone.ends {c : Nat} {ids : List RegId} {s v t : State} {more : List Cpl} (g : ProgramGone c v t more) (q : Quiet s)
    (hv : OnlyRegs ids s v) (hd : ∀ i ∈ faultIds ++ waitIds, i ∉ ids) :
    ∃ u, t.done = .next u ∧ Ended c s u more ∧ ∀ f : Field, f.reg.id = .pgmStat → u.get f = v.get f := by
  obtain ⟨u, hu, hcalm⟩ := State.done_of_quiet (g.quiet (hv.quiet hd q))
  have hctx : v.ctx = s.ctx := (congrArg State.ctx hv.1 :)
  have hcpl : v.cpl = s.cpl := (congrArg State.cpl hv.1 :)
  have hout : v.out = s.out := (congrArg State.out hv.1 :)
  have he := g.ended.calm hcalm
  simp only [Ended, State.cx, hctx, hcpl, hout] at he
  refine ⟨u, hu, he, fun f hf => ?_⟩
  obtain ⟨w, hw, ht⟩ := g
  rw [hcalm.get f (by rw [hf]; decide) (.inl (by rw [hf]; decide)), ht.get (by rw [hf]; decide) (by rw [hf]; decide)]
  simp only [State.get, State.reg, hw.regs]

/-- A context with its locked sequence ended, or at flag fall, hands in what it would have handed in before. -/
theorem State.endEntry_setCx {s v : State} {c st : Nat} {y : Ctx} (hv : v.xfer = s.xfer) (hy : y = { s.cx c with clock := y.clock, seqCount := y.seqCount, lock := y.lock }) :
    (v.setCx c y).endEntry c st = s.endEntry c st := by
  have hr : (v.setCx c y).residualOf c = s.residualOf c := by
    simp only [State.residualOf, State.cx_setCx_same, State.xf, State.setCx_xfer, hv]
    rw [hy]
  simp only [State.endEntry, State.cplOf, hr, State.cx_setCx_same]
  rw [hy]

end Sys2Proof.Machine

open Sys2Proof Sys2Proof.Machine

/-- Settles O9: each command comes to an end of the program, or to a POST, which in a quiet machine happens at once; the counters are
written before. -/
theorem programEndsAndPosts : Obligations.ProgramEndsAndPosts := by
  unfold Obligations.ProgramEndsAndPosts
  intro h status d bytes st s q hr hu c x entry plus1 env
  have hws : ∀ e ∈ s.ctx, e.2.watchStop = false := q.2.2.2.2.2.2.2
  have hws' : ∀ f : Machine.Field, ∀ e ∈ (s.incSat f).ctx, e.2.watchStop = false := fun f => by
    have hctx : (s.incSat f).ctx = s.ctx := (congrArg State.ctx ((OnlyRegs.refl [f.reg.id] s).incSat (.head _)).1 :)
    rwa [hctx]
  obtain ⟨hl, -, -⟩ := State.canIssue_live hr.1
  have hxs : x.watchStop = false := q.watchStop hl
  have hdue : x.due = 0 := hr.due
  have hflag : Unburdened x.flagged := hu.of_eq hu.lock rfl
  have hhalt : Ready { stop := true } h s := hr.mono rfl rfl (fun _ hn => absurd hn List.not_mem_nil) id (fun _ => id) id
  have hcount : ∀ n : Nat → Field, (n = Fld.pgmStat.FLAG_FALLS ∨ n = Fld.pgmStat.SILENT_FALLS ∨ n = Fld.pgmStat.POST_AGAIN) →
      OnlyRegs [.pgmStat] s (s.incSat (n (clusterOf c))) ∧ (n (clusterOf c)).reg.id = .pgmStat ∧
        (s.incSat (n (clusterOf c))).get (n (clusterOf c)) = plus1 (n (clusterOf c)) := fun n hn => by
    rcases hn with rfl | rfl | rfl <;>
      exact ⟨(OnlyRegs.refl _ s).incSat (.head _), rfl, State.get_incSat_same s _ (by simp [Fld.pgmStat.FLAG_FALLS, Fld.pgmStat.SILENT_FALLS, Fld.pgmStat.POST_AGAIN])⟩
  have hends : ∀ {n : Nat → Field} {t : State} {more : List Cpl},
      (n = Fld.pgmStat.FLAG_FALLS ∨ n = Fld.pgmStat.SILENT_FALLS ∨ n = Fld.pgmStat.POST_AGAIN) →
      ProgramGone c (s.incSat (n (clusterOf c))) t more →
      ∃ u, t.done = .next u ∧ Ended c s u more ∧ u.get (n (clusterOf c)) = plus1 (n (clusterOf c)) := fun hn g => by
    obtain ⟨hv, hid, hget⟩ := hcount _ hn
    obtain ⟨u, hu, he, hk⟩ := g.ends q hv (by decide)
    exact ⟨u, hu, he, (hk _ hid).trans hget⟩
  have hhalts : ∃ t, exec (.halt h) s = .next t ∧ Ended c s t (s.haltEntry c) := by
    let v := s.setCx c (x.comesTo .halt)
    have hvu : Unburdened (v.cx c) := by rw [State.cx_setCx_same]; exact hu.comesTo _
    have hkick : v.kick c = v.haltNow c := by
      rw [State.kick_unburdened (by rw [State.cx_setCx_same]; exact hl) hvu, State.cx_setCx_same]
      rfl
    have hgone := State.haltNow_gone (watchStop_setCx hws (y := x.comesTo .halt) hxs) hvu
    obtain ⟨u, hdone, he, -⟩ := hgone.of_setCx.ends q (OnlyRegs.refl [] s) (by simp)
    refine ⟨u, (exec_halt_ready hhalt hu).trans ((congrArg State.done hkick).trans hdone), ?_⟩
    rwa [State.haltEntry_comesTo] at he
  refine ⟨fun hp => ?_, fun hp => ?_, fun hp => ?_, fun hp => ?_, fun hclk hp => ?_, fun hclk hp => ?_, fun hp hdec => ?_,
    fun hb hlim => decode_zero hb hlim⟩
  · rw [State.haltEntry, show (s.cx c).posted = false from hp] at hhalts
    exact hhalts
  · rw [State.haltEntry, show (s.cx c).posted = true from hp] at hhalts
    exact hhalts
  · obtain ⟨z, hzp, hzw, hzr, hpost, hquiet⟩ := q.postNow (len := h.len) (st := status.toNat) (r := x.dreg d.val)
      (w := .post h.len status.toNat (x.dreg d.val)) hl hu
    let v := s.setCx c (x.comesTo (.post h.len status.toNat (x.dreg d.val)))
    have hkick : v.kick c = v.postNow c h.len status.toNat (x.dreg d.val) := by
      rw [State.kick_unburdened (by rw [State.cx_setCx_same]; exact hl) (by rw [State.cx_setCx_same]; exact hu.comesTo _), State.cx_setCx_same]
      rfl
    obtain ⟨u, hdone, hcalm⟩ := State.done_of_quiet hquiet
    have hctx : u.ctx = _ := (congrArg State.ctx hcalm.rest :)
    have hcx : ∀ c', u.cx c' = (s.setCx c z).cx c' := fun c' => by simp only [State.cx, hctx]; rfl
    refine ⟨u, (exec_post_first hr hu hp).trans ((congrArg State.done (hkick.trans hpost)).trans hdone), (congrArg State.cpl hcalm.rest :),
      ?_, ?_, ?_, fun c' hc => ?_, (congrArg State.out hcalm.rest :)⟩
    · rw [hcx, State.cx_setCx_same, hzp]
    · rw [hcx, State.cx_setCx_same, hzw]
    · rw [hcx, State.cx_setCx_same, hzr]
    · rw [hcx, State.cx_setCx_ne _ _ hc]
  · let v := (s.incSat (Fld.pgmStat.POST_AGAIN (clusterOf c))).setCx c x.endSeq
    have hgone : ProgramGone c v (v.autoEnd c 0) (v.endEntry c 0) := by
      have hg := State.autoEnd_gone_segv (s := v) (c := c) (st := 0) (i := {}) (watchStop_setCx (hws' _) hxs)
        (by rw [State.cx_setCx_same]; exact hu.of_eq rfl rfl) rfl
      rwa [State.segv_eq (.inl (by decide))] at hg
    have hnone : v.endEntry c 0 = [] := by
      rw [State.endEntry, State.cx_setCx_same, if_pos (show x.endSeq.posted = true from hp)]
    rw [hnone] at hgone
    obtain ⟨u, hdone, he⟩ := hends (.inr (.inr rfl)) hgone.of_setCx
    exact ⟨u, (exec_post_again hr hp).trans hdone, he⟩
  · let v := (s.incSat (Fld.pgmStat.FLAG_FALLS (clusterOf c))).setCx c x.flagged
    have hgone : ProgramGone c v (v.autoEnd c 0x40 { lockCause := 4 }) (v.endEntry c 0x40) := by
      have hg := State.autoEnd_gone_segv (s := v) (c := c) (st := 0x40) (i := { lockCause := 4 }) (watchStop_setCx (hws' _) hxs)
        (by rw [State.cx_setCx_same]; exact hflag) rfl
      rwa [State.segv_eq (.inr (by decide))] at hg
    have hentry : v.endEntry c 0x40 = [entry 0x40 false 0] := by
      rw [State.endEntry_setCx (s := s) (v := s.incSat (Fld.pgmStat.FLAG_FALLS (clusterOf c))) (y := x.flagged) rfl rfl, State.endEntry, if_neg (by rw [show (s.cx c).posted = false from hp]; decide)]
      rfl
    rw [hentry] at hgone
    obtain ⟨u, hdone, he⟩ := hends (.inl rfl) hgone.of_setCx
    exact ⟨u, (exec_flagFall_unposted hr.1 hclk hdue hp hu.lock).trans hdone, he⟩
  · let v := (s.incSat (Fld.pgmStat.SILENT_FALLS (clusterOf c))).setCx c x.flagged
    have hgone : ProgramGone c v (v.stopSilent c 4) [] :=
      State.stopSilent_gone (s := v) (watchStop_setCx (hws' _) hxs) (by rw [State.cx_setCx_same]; exact hflag)
    obtain ⟨u, hdone, he⟩ := hends (.inr (.inl rfl)) hgone.of_setCx
    exact ⟨u, (exec_flagFall_posted hr.1 hclk hdue hp).trans hdone, he⟩
  · obtain ⟨u, hdone, he, -⟩ := (State.autoEnd_gone_segv (st := st) (i := { sel := x.regs.cpc.sel }) hws hu rfl).ends q (State.segv_onlyRegs _ _ _ _ _)
      (by decide)
    rw [State.endEntry, if_neg (by rw [show (s.cx c).posted = false from hp]; decide)] at he
    exact ⟨u, (exec_undefined_ready hr hu.ckpts hdec).trans hdone, he⟩
end

section
/-! ### Dispatch: a read under a number that is taken -/

namespace Sys2Proof.Machine

/-- Queue 0 of function 0 is eligible for the general pipe. Context 1 waits for its stripe descriptor, which read 0 fetches; the
next read is to be number 0 again. No command leads here: a read takes its number from the count that it raises. -/
def readNumberTaken : State :=
  { State.reset.putAll [(Fld.hpuStat.LINK_UP, 1), (Fld.hpuStat.CACHE_EN, 1), (Fld.qctx.STATE 0, 2), (Fld.qctx.CLASS 0, 1),
      (Fld.qctx.SQ_LOG2 0, 4), (Fld.qctx.CQ_LOG2 0, 4), (Fld.qctx.SQ_TAIL 0, 1)] with
    bme := [0]
    ctx := [(1, { live := true, wait := .stripe { ctx := 1, len := 8 } false {} 0 64 [] })]
    hreq := [(0, { purp := .desc 1, func := 0, addr := 0, n := 32 })] }

theorem readNumberTaken_quiet : Quiet readNumberTaken := by unfold Quiet; decide +kernel

/-- How much has left the device when a command has run. -/
def sentAfter (r : Res) : Nat := match r with | .next t => t.out.length | _ => 0

/-- The dispatch takes the number of the read that context 1 awaits, and the end of the command asks for its descriptor again. -/
theorem readNumberTaken_sends : sentAfter (exec .generalPipeDecision readNumberTaken) = 2 := by decide +kernel

end Sys2Proof.Machine

open Sys2Proof Sys2Proof.Machine

/-- Refutes O30: of `State` nothing is asked but `Quiet`, so the number of the next read of host memory (`State.hreqNext`) may already
stand in the table of reads. In `readNumberTaken` it is that of a descriptor that context 1 awaits: the read of the dispatched entry
(R42) replaces it, the machine is no longer quiet, and the descriptor's read leaves once more beside the entry's. The counterexample
is a table of reads out of step with its count, which no run reaches. -/
theorem not_dispatchDecisions : ¬ Obligations.DispatchDecisions := by
  unfold Obligations.DispatchDecisions
  intro h
  obtain ⟨-, hgeneral⟩ := h readNumberTaken readNumberTaken_quiet (by decide +kernel) (by decide +kernel) (by decide +kernel) rfl rfl rfl
  obtain ⟨t, q, cl, c, ht, -, -, -, -, -, -, -, hout⟩ := hgeneral ⟨0, by decide +kernel⟩ ⟨0, by decide +kernel⟩
  have hsent := readNumberTaken_sends
  rw [ht, sentAfter, hout, List.length_cons] at hsent
  exact absurd hsent (by decide)
end

section
/-! ### The entry returns: two reads under one number -/

namespace Sys2Proof.Machine

/-- Contexts 0 and 1 of function 0 await the reads of an entry and of a stripe descriptor, and both stand in the table of reads under
number 0. No command leads here: the table holds one read under each number. -/
def readsOfOneNumber : State :=
  { State.reset.putAll [(Fld.hpuStat.LINK_UP, 1), (Fld.pdData.VALID 0, 1), (Fld.pdData.ST_LOG2 0, 4)] with
    bme := [0]
    ctx := [(0, { live := true, wait := .entry }), (1, { live := true, wait := .stripe { ctx := 1, len := 8 } false {} 0 64 [] })]
    segCache := [(segKey 0 1, { x := true, limit := 64 })]
    hreq := [(0, { purp := .entry 0, func := 0, addr := 0, n := 64 }), (0, { purp := .desc 1, func := 0, addr := 0, n := 32 })] }

/-- An entry whose program begins at the start of segment 1. -/
def entryOfSegOne : Entry := { w0 := 1, w1 := 0, p0 := 0, p1 := 0, p2 := 0, p3 := 0, p4 := 0, p5 := 0 }

theorem readsOfOneNumber_quiet : Quiet readsOfOneNumber := by unfold Quiet; decide +kernel

/-- The return of the entry drops both reads, and the end of the command asks for the descriptor again. -/
theorem readsOfOneNumber_sends : sentAfter (exec (.entryReturn 0 entryOfSegOne) readsOfOneNumber) = 1 := by decide +kernel

end Sys2Proof.Machine

open Sys2Proof Sys2Proof.Machine

/-- Refutes O34: of `State` nothing is asked but `Quiet`, so two reads of host memory may stand under one number. In `readsOfOneNumber`
they are the read of an entry (R42) and that of a descriptor that context 1 awaits (R249): the return of the entry drops what stands under
its number, the machine is no longer quiet, and the descriptor's read leaves once more. The counterexample is a table of reads out of
canonical form, which no run reaches. -/
theorem not_queuesExchangeEntriesWithTheHost : ¬ Obligations.QueuesExchangeEntriesWithTheHost := by
  unfold Obligations.QueuesExchangeEntriesWithTheHost
  intro h
  obtain ⟨hentry, -⟩ := h readsOfOneNumber readsOfOneNumber_quiet
  obtain ⟨t, ht, -, -, hout, -⟩ := hentry 0 entryOfSegOne 0 { purp := .entry 0, func := 0, addr := 0, n := 64 } { x := true, limit := 64 }
    rfl rfl rfl rfl rfl (by decide +kernel) (fun _ ho => absurd ho List.not_mem_nil) (by decide +kernel) rfl (by decide)
  have hsent := readsOfOneNumber_sends
  rw [ht, sentAfter, hout] at hsent
  exact absurd hsent (by decide)
end

section
/-! ### SUSPEND: a context entered twice -/

namespace Sys2Proof.Machine

/-- Queue 0 is Idle with nothing in flight, and the table of contexts has two entries for context 0: the first, the one that `State.cx`
reads, is not live; the second is a live program of the queue. No command leads here. -/
def idleQueueTwice : State :=
  { State.reset.putAll [(Fld.qctx.STATE 0, 1)] with ctx := [(0, {}), (0, { live := true })] }

theorem idleQueueTwice_quiet : Quiet idleQueueTwice := by unfold Quiet; decide +kernel

/-- No context that `State.cx` reads is live. -/
theorem idleQueueTwice_dead (c : Nat) : (idleQueueTwice.cx c).live = false := by
  cases c <;> rfl

/-- STATE of queue 0 after a command. -/
def queueZeroState (r : Res) : Nat := match r with | .next t => t.get (Fld.qctx.STATE 0) | _ => 0

/-- The queue counts as busy, so it does not become Suspended. -/
theorem idleQueueTwice_busy : queueZeroState (exec (.suspend 0 false) idleQueueTwice) = 3 := by decide +kernel

end Sys2Proof.Machine

open Sys2Proof Sys2Proof.Machine

/-- Refutes O37: of `State` nothing is asked but `Quiet`, so the table of contexts may hold two entries for one context. Whether a
program of a queue runs (`State.qBusy`, R60) is asked of every entry, the premise that none is live of the first entries alone, which
`State.cx` reads. In `idleQueueTwice` the premise holds and SUSPEND leaves the queue Running where the clause has it Suspended at
once. The counterexample is a table out of canonical form, which no run reaches. -/
theorem not_queueCommandsChangeState : ¬ Obligations.QueueCommandsChangeState := by
  unfold Obligations.QueueCommandsChangeState
  intro h
  obtain ⟨-, hcommands⟩ := h
  obtain ⟨-, -, -, -, -, -, -, -, -, -, -, -, -, -, hsuspend, -⟩ :=
    hcommands 0 false idleQueueTwice idleQueueTwice_quiet (by decide +kernel)
  have hdead : ∀ c, ¬((idleQueueTwice.cx c).live = true ∧ (idleQueueTwice.cx c).qid = (0 : BitVec 16).toNat) := fun c hc => by
    rw [idleQueueTwice_dead] at hc
    cases hc.1
  obtain ⟨t, ht, -, -, hstate, -⟩ := hsuspend (by decide +kernel) (by decide +kernel) ⟨hdead, rfl, by decide +kernel⟩
  have hbusy := idleQueueTwice_busy
  rw [ht] at hbusy
  exact absurd (hbusy.symm.trans hstate) (by decide)
end

section
/-! ### ATS Enable: a context entered twice -/

namespace Sys2Proof.Machine

/-- The device has booted, and its table of contexts is that of `twiceEntered`. -/
def bootedTwiceEntered : State := { State.reset with boot := .ready, ctx := twiceEntered.ctx }

theorem bootedTwiceEntered_quiet : Quiet bootedTwiceEntered := by unfold Quiet; decide +kernel

/-- How many contexts are not in their reset state when a command has run. -/
def ctxsAfter (r : Res) : Nat := match r with | .next t => t.ctx.length | _ => 0

/-- The clearing of ATS Enable ends the context whose number stands among the live ones. -/
theorem bootedTwiceEntered_ends : ctxsAfter (exec (.atsEnableClear 0) bootedTwiceEntered) = 0 := by decide +kernel

end Sys2Proof.Machine

open Sys2Proof Sys2Proof.Machine

/-- Refutes O40: of `State` nothing is asked but `Quiet` and that the device is out of reset, so the table of contexts may hold two
entries for one context. The clearing of ATS Enable (R342) goes through the live entries by their numbers (`State.liveCtx`) and reads
each context by its number (`State.cx`), which finds the first entry. In `bootedTwiceEntered` that entry waits for a translation and is
not live, so the premise about waiting contexts does not speak of it, yet the context is ended and the contexts are not those of before.
The counterexample is a table out of canonical form, which no run reaches. -/
theorem not_functionsStopAndReset : ¬ Obligations.FunctionsStopAndReset := by
  unfold Obligations.FunctionsStopAndReset
  intro h
  obtain ⟨-, -, -, -, hats, -⟩ := h 0 bootedTwiceEntered bootedTwiceEntered_quiet rfl
  have hwait : ∀ c h m g p w, (bootedTwiceEntered.cx c).live = true → (bootedTwiceEntered.cx c).wait ≠ .xlate h m g p w :=
    fun c _ _ _ _ _ hl => absurd (hl.symm.trans (twiceEntered_dead c)) (by decide)
  obtain ⟨t, ht, -, -, hbesides, -⟩ := hats ⟨rfl, hwait⟩ fun _ he => absurd he List.not_mem_nil
  have hends := bootedTwiceEntered_ends
  have hctx : t.ctx = bootedTwiceEntered.ctx := (congrArg State.ctx hbesides :)
  rw [ht, ctxsAfter, hctx] at hends
  exact absurd hends (by decide)
end

section
/-! ### A cycle with no command waiting: what goes on in it leaves FCLK's count and the queue of commands -/

namespace Sys2Proof.Machine

/-- FCLK's count and the commands that wait are the same. -/
structure SameClock (s t : State) : Prop where
  fclk : t.fclk = s.fclk
  pending : t.pending = s.pending

namespace SameClock

theorem refl (s : State) : SameClock s s := ⟨rfl, rfl⟩

theorem trans {s t u : State} (h : SameClock s t) (g : SameClock t u) : SameClock s u := ⟨g.fclk.trans h.fclk, g.pending.trans h.pending⟩

theorem ite {s t u : State} {p : Prop} [Decidable p] (h : SameClock s t) (g : SameClock s u) : SameClock s (if p then t else u) := by
  split
  · exact h
  · exact g

theorem all {α : Type} {s t : State} {l : List α} {f : State → α → State} (h : SameClock s t)
    (hf : ∀ u a, SameClock s u → SameClock s (f u a)) : SameClock s (forAll l f t) := by
  unfold forAll
  induction l generalizing t with
  | nil => exact h
  | cons a l ih => exact ih (hf t a h)

theorem of_onlyQueues {s t u : State} (h : SameClock s t) (g : OnlyQueues t u) : SameClock s u :=
  h.trans ⟨(congrArg State.fclk g.rest :), (congrArg State.pending g.rest :)⟩

/-! #### Registers, contexts, sources and logs -/

section
variable {s t : State} (h : SameClock s t)
include h

theorem setReg (r : Reg) (v : Word) : SameClock s (t.setReg r v) := ⟨h.fclk, h.pending⟩
theorem commit (r : Reg) : SameClock s (t.commit r) := ⟨h.fclk, h.pending⟩
theorem put (f : Field) (v : Nat) : SameClock s (t.put f v) := h.setReg _ _
theorem inc (f : Field) : SameClock s (t.inc f) := h.put _ _
theorem incSat (f : Field) : SameClock s (t.incSat f) := h.put _ _
theorem setCx (c : Nat) (x : Ctx) : SameClock s (t.setCx c x) := ⟨h.fclk, h.pending⟩
theorem updCx (c : Nat) (f : Ctx → Ctx) : SameClock s (t.updCx c f) := h.setCx _ _
theorem emit (o : Out) : SameClock s (t.emit o) := ⟨h.fclk, h.pending⟩
theorem takeFree : SameClock s t.takeFree := ⟨h.fclk, h.pending⟩
theorem setQd (q : Nat) (x : QDyn) : SameClock s (t.setQd q x) := ⟨h.fclk, h.pending⟩
theorem setAr (a : ArbId) (x : Arb) : SameClock s (t.setAr a x) := ⟨h.fclk, h.pending⟩
theorem setSem (cl a : Nat) (b : SemBit) : SameClock s (t.setSem cl a b) := ⟨h.fclk, h.pending⟩
theorem handCpl (e : Cpl) : SameClock s (t.handCpl e) := ⟨h.fclk, h.pending⟩

theorem putAll (l : List (Field × Nat)) : SameClock s (t.putAll l) := by
  induction l generalizing t with
  | nil => exact h
  | cons e l ih => exact ih (h.put _ _)

theorem logFirst (valid ovf : Field) (fs : List (Field × Nat)) : SameClock s (t.logFirst valid ovf fs) :=
  .ite (h.put _ _) ((h.putAll _).put _ _)

theorem setPend (src : Nat) : SameClock s (t.setPend src) := .ite h ⟨h.fclk, h.pending⟩
theorem raise (src : Nat) : SameClock s (t.raise src) := (h.setPend _).incSat _

theorem level (src : Nat) (input : Bool) : SameClock s (t.level src input) :=
  .ite (.ite h (h.raise _)) ((h.put _ _).put _ _)

theorem arbDecide {a : ArbId} {reqs : List Nat} {hp : Nat → Bool} {cost r : Nat} {u : State}
    (hd : t.arbDecide a reqs hp cost = some (r, u)) : SameClock s u := by
  unfold State.arbDecide at hd
  dsimp only at hd
  split at hd
  · split at hd
    · cases hd
      exact h.setAr _ _
    · cases hd
  · split at hd
    · cases hd
      exact h.setAr _ _
    · split at hd
      · cases hd
      · cases hd
        exact h.setAr _ _

theorem semServe (cl a : Nat) : SameClock s (t.semServe cl a) := by
  unfold State.semServe
  split
  · exact h
  · split
    · exact h
    · next hd => exact ((h.arbDecide hd).setSem _ _ _).updCx _ _

/-! #### Requests and packets -/

theorem markSlot (port : Option Nat) : SameClock s (t.markSlot port) := by
  unfold State.markSlot
  split
  · exact .ite ⟨h.fclk, h.pending⟩ h
  · exact h

theorem supdStep (port : Nat) (p : Pkt) : SameClock s (t.supdStep port p) := .ite ⟨h.fclk, h.pending⟩ h
theorem setTxCred (port vc k d : Nat) : SameClock s (t.setTxCred port vc k d) := .ite ⟨h.fclk, h.pending⟩ ((h.put _ _).put _ _)
theorem putOnLink (port : Nat) (p : Pkt) : SameClock s (t.putOnLink port p) := (h.setTxCred _ _ _ _).emit _
theorem setLk (p : Nat) (x : LinkDyn) : SameClock s (t.setLk p x) := ⟨h.fclk, h.pending⟩

theorem drainTx (port key n : Nat) : SameClock s (t.drainTx port key n) := by
  induction n generalizing t with
  | zero => exact h
  | succ n ih =>
    unfold State.drainTx
    split
    · exact h
    · exact .ite (ih (((h.setLk _ _).putOnLink _ _).supdStep _ _)) h

theorem sendPkt (port : Nat) (p : Pkt) : SameClock s (t.sendPkt port p) := .ite (h.emit _) ((h.setLk _ _).drainTx _ _ _)

theorem sendRouted (p : Pkt) : SameClock s (t.sendRouted p) := by
  unfold State.sendRouted
  split
  · exact h.sendPkt _ _
  · exact .ite h (h.sendPkt _ _)
  · exact h.emit _
  · exact h

theorem request {purp : Purpose} {p : Pkt} {n : Nat} {port : Option (Nat × Nat)} {nonPosted : Bool} {tmo tag : Nat} {seg : Desc} {u : State}
    (hr : t.request purp p n port nonPosted tmo seg = some (u, tag)) : SameClock s u := by
  have hkeep : ∀ {v : State} {m : AMap Nat Txn}, SameClock s v → SameClock s (if nonPosted then { v with txn := m } else v) :=
    fun hv => .ite ⟨hv.fclk, hv.pending⟩ hv
  have hm := h.markSlot (port.map fun q => q.1)
  unfold State.request at hr
  dsimp only at hr
  split at hr
  · cases hr
  · split at hr
    · cases hr
      exact hkeep (hm.sendPkt _ _)
    · cases hr
      exact hkeep (hm.sendPkt _ _)
    · cases hr
      exact hkeep (hm.emit _)
    · cases hr

/-! #### Host memory -/

theorem hostMwr (addr : Nat) (data : List Byte) (n : Nat) : SameClock s (t.hostMwr addr data n) := by
  induction n generalizing t addr data with
  | zero => exact h
  | succ n ih =>
    unfold State.hostMwr
    exact .ite h (ih (h.sendRouted _) _ _)

theorem hostWriteBy (by_ : Option Nat) (func addr : Nat) (data : List Byte) : SameClock s (t.hostWriteBy by_ func addr data) :=
  have h1 : SameClock s { t with hits := t.watchHits by_ func (linesOf addr data.length) ++ t.hits } := ⟨h.fclk, h.pending⟩
  .ite (.ite (h1.hostMwr _ _ _) (h1.emit _)) h

theorem hostWrite (func addr : Nat) (data : List Byte) : SameClock s (t.hostWrite func addr data) := h.hostWriteBy _ _ _ _
theorem setHreq (id : Nat) (r : HReq) : SameClock s (t.setHreq id r) := ⟨h.fclk, h.pending⟩
theorem dropHreq (id : Nat) : SameClock s (t.dropHreq id) := h.setHreq _ _

theorem readOut (id : Nat) (r : HReq) : SameClock s (t.readOut id r) := by
  unfold State.readOut
  refine .ite (h.setHreq _ _) (.ite ?_ ((h.setHreq _ _).emit _))
  split
  · next hr => exact (h.request hr).setHreq _ _
  · exact h.setHreq _ _

theorem askAts (func addr : Nat) : SameClock s (t.askAts func addr) := .ite h ⟨h.fclk, h.pending⟩
theorem askRead (r : HReq) : SameClock s (t.askRead r) := .ite h ((h.askAts _ _).askAts _ _)

theorem hostRead (p : Purpose) (func : Nat) (op : HostOp) (addr n vc : Nat) (seg : Desc) :
    SameClock s (t.hostRead p func op addr n vc seg) :=
  have h1 : SameClock s { t with hreqNext := t.hreqNext + 1 } := ⟨h.fclk, h.pending⟩
  .ite (h1.readOut _ _) ((h1.setHreq _ _).askRead _)

theorem sendHeld : SameClock s t.sendHeld :=
  all h fun _ _ hu => .ite (hu.dropHreq _) (.ite (hu.readOut _ _) hu)

/-! #### Pools -/

theorem setPl (p : Nat) (x : Pool) : SameClock s (t.setPl p x) := ⟨h.fclk, h.pending⟩
theorem holdPath (c : Nat) : SameClock s (t.holdPath c) := h.updCx _ _
theorem pause (c : Nat) : SameClock s (t.pause c) := (h.holdPath c).inc _

theorem takeIndex {p ix : Nat} {u : State} (ht : t.takeIndex p = some (ix, u)) : SameClock s u := by
  unfold State.takeIndex at ht
  split at ht
  · cases ht
    exact (h.setPl _ _).put _ _
  · split at ht
    · cases ht
    · dsimp only at ht
      split at ht
      · cases ht
        exact h.put _ _
      · cases ht

theorem poolLow (p : Nat) : SameClock s (t.poolLow p) :=
  .ite (.ite (h.put _ _) (((h.put _ _).put _ _).raise _)) (.ite (h.put _ _) h)

theorem grantBuf (p ix c : Nat) : SameClock s (t.grantBuf p ix c) := by
  have h1 := (h.put (Fld.poolData.FREE p) (t.get (Fld.poolData.FREE p) - 1)).poolLow p
  unfold State.grantBuf
  dsimp only
  split
  · exact h1.updCx _ _
  · exact h1

theorem startRefill (p : Nat) : SameClock s (t.startRefill p) := .ite ((h.setPl _ _).hostRead _ _ _ _ _ _ _) h

theorem serveRounds (p n : Nat) : SameClock s (t.serveRounds p n) := by
  induction n generalizing t with
  | zero => exact h
  | succ n ih =>
    unfold State.serveRounds
    split
    · exact h
    · refine .ite (ih ((h.setPl _ _).pause _)) (.ite h ?_)
      split
      · next ht => exact ih (((h.takeIndex ht).setPl _ _).grantBuf _ _ _)
      · exact h.startRefill _

theorem servePool (p : Nat) : SameClock s (t.servePool p) := h.serveRounds _ _

theorem freeBuf (p ix : Nat) : SameClock s (t.freeBuf p ix) := by
  unfold State.freeBuf
  exact (((ite ((h.setPl _ _).put _ _) ((h.hostWrite _ _ _).setPl _ _)).put _ _).poolLow _).servePool _

theorem freeHandle (k : Nat) : SameClock s (t.freeHandle k) := .ite (h.freeBuf _ _) h
theorem freeHandles (l : List Nat) : SameClock s (t.freeHandles l) := all h fun _ _ hu => hu.freeHandle _

/-! #### Ends of programs -/

theorem setWatch (cl : Nat) (ws : List (Nat × Nat × Nat × Nat)) : SameClock s (t.setWatch cl ws) :=
  .ite ⟨h.fclk, h.pending⟩ ⟨h.fclk, h.pending⟩

theorem dropHeld (c k : Nat) : SameClock s (t.dropHeld c k) :=
  have h1 : ∀ hl, SameClock s { t with held := hl } := fun _ => ⟨h.fclk, h.pending⟩
  (h1 _).setWatch _ _

theorem squash (c k : Nat) (cause : SqCause) : SameClock s (t.squash c k cause) := by
  have h1 := (h.inc (cause.cnt (clusterOf c))).dropHeld c (k + 1)
  have h2 : ∀ r x, SameClock s { (t.inc (cause.cnt (clusterOf c))).dropHeld c (k + 1) with hreq := r, txn := x } :=
    fun _ _ => ⟨h1.fclk, h1.pending⟩
  unfold State.squash
  dsimp only
  split
  · exact h
  · refine SameClock.freeHandles (SameClock.setCx ?_ _ _) _
    split
    · exact (h2 _ _).setPl _ _
    · exact h2 _ _

theorem squashAll (c : Nat) (cause : SqCause) : SameClock s (t.squashAll c cause) := h.squash _ _ _
theorem unspec (c : Nat) : SameClock s (t.unspec c) := .ite (h.squashAll _ _) h

theorem abandon (c : Nat) : SameClock s (t.abandon c) :=
  have hr := State.abandon_rest (s := t) (c := c) rfl
  h.trans ⟨(congrArg State.fclk hr :), (congrArg State.pending hr :)⟩

theorem laneQueue (m : Nat) : SameClock s (t.laneQueue m) := ⟨h.fclk, h.pending⟩

theorem dropXfer (k : Nat) : SameClock s (t.dropXfer k) := ⟨h.fclk, h.pending⟩

theorem freeCtx (c : Nat) (b : Bool) : SameClock s (t.freeCtx c b) := by
  have h1 : SameClock s (forAll (t.cx c).slots (fun u sl => u.dropXfer (4 * c + sl)) ((t.abandon c).dropHeld c 0)) :=
    all ((h.abandon c).dropHeld c 0) fun _ _ hu => hu.dropXfer _
  unfold State.freeCtx
  dsimp only
  refine .ite (SameClock.freeHandles (SameClock.setCx ?_ _ _) _) (SameClock.setCx ?_ _ _) <;>
  · split
    · exact h1.setPl _ _
    · exact h1

theorem breakLock (c cause : Nat) : SameClock s (t.breakLock c cause) := by
  unfold State.breakLock
  split
  · exact h
  · exact (h.logFirst _ _ _).updCx _ _

theorem qUpdate (q : Nat) : SameClock s (t.qUpdate q) := h.of_onlyQueues ((OnlyQueues.refl t).qUpdate q)
theorem endLeave (x : Ctx) : SameClock s (t.endLeave x) := h.of_onlyQueues ((OnlyQueues.refl t).endLeave x)
theorem stopSilent (c cause : Nat) : SameClock s (t.stopSilent c cause) := (((h.unspec _).breakLock _ _).freeCtx _ _).endLeave _
theorem segv (c st sel : Nat) (port : Bool) : SameClock s (t.segv c st sel port) := .ite (h.logFirst _ _ _) h

theorem autoEnd (c st : Nat) (i : EndInfo) : SameClock s (t.autoEnd c st i) := by
  have h1 := ((h.unspec c).segv c (if ((t.unspec c).cx c).lock.isSome then 0x80 else st) i.sel i.port).breakLock c i.lockCause
  exact .ite (h.stopSilent _ _) (((SameClock.ite h1 (h1.handCpl _)).freeCtx _ _).endLeave _)

end

end SameClock
end Sys2Proof.Machine
end

section
/-! ### FIFOs, movers and waits in a cycle -/

namespace Sys2Proof.Machine

/-- What an access at SELF leaves has the clock of `s`. -/
def Acc.Keeps (s : State) : Acc → Prop
  | .ok _ t | .refused t | .devErr t => SameClock s t
  | .outside => True

/-- What a request to a port's node leaves, where it is sent, has the clock of `s`. -/
def Sent.Keeps (s : State) : Sent → Prop
  | .sent t _ => SameClock s t
  | _ => True

/-- What a read of a part of a descriptor leaves has the clock of `s`. -/
def DescRead.Keeps (s : State) : DescRead → Prop
  | .now _ t | .later t | .fails _ t => SameClock s t
  | .busy => True

theorem Sent.Keeps.of_sent {s t : State} {r : Sent} {tag : Nat} (h : r.Keeps s) (hr : r = .sent t tag) : SameClock s t := by
  rw [hr] at h
  exact h

theorem Acc.Keeps.of_eq {s : State} {r r' : Acc} (h : r.Keeps s) (hr : r = r') : r'.Keeps s := hr ▸ h

theorem DescRead.Keeps.of_eq {s : State} {r r' : DescRead} (h : r.Keeps s) (hr : r = r') : r'.Keeps s := hr ▸ h

namespace SameClock

theorem of_fst {α : Type} {s u : State} {a : α} {p : State × α} (hp : p = (u, a)) (h : SameClock s p.1) : SameClock s u := by
  rw [hp] at h
  exact h

variable {s t : State} (h : SameClock s t)
include h

/-! #### FIFOs -/

theorem ownViol (req bank : Nat) (w : Bool) : SameClock s (t.ownViol req bank w) := (h.incSat _).logFirst _ _ _
theorem fBad (f : Nat) : SameClock s (t.fBad f) := h.incSat _
theorem setPtr (a b : Nat → Field) (f v : Nat) : SameClock s (t.setPtr a b f v) := (h.put _ _).put _ _
theorem setEvb (bit : Nat) (v : Bool) : SameClock s (t.setEvb bit v) := ⟨h.fclk, h.pending⟩
theorem setFd (f : Nat) (x : FifoDyn) : SameClock s (t.setFd f x) := ⟨h.fclk, h.pending⟩
theorem setPktCnt (f v : Nat) : SameClock s (t.setPktCnt f v) := .ite ((h.put _ _).setEvb _ _) (h.put _ _)

theorem xoffUpdate : SameClock s t.xoffUpdate :=
  all h fun _ _ hu => .ite (.ite hu ⟨hu.fclk, hu.pending⟩) (.ite hu ⟨hu.fclk, hu.pending⟩)

theorem fLevelUpdate (f old : Nat) : SameClock s (t.fLevelUpdate f old) := by
  have h1 : SameClock s (if old < t.get (Fld.fifoWm.HI_WM f) ∧ t.fLevel f ≥ t.get (Fld.fifoWm.HI_WM f) then
    t.put (Fld.fifoStat.HI_SEEN f) 1 else t) := .ite (h.put _ _) h
  exact SameClock.level (SameClock.xoffUpdate (.ite ((SameClock.ite (h1.put _ _) h1).put _ _)
    (.ite ((SameClock.ite (h1.put _ _) h1).put _ _) (.ite (h1.put _ _) h1)))) _ _

theorem fPop (f : Nat) : SameClock s (t.fPop f).2 := by
  unfold State.fPop
  split
  · exact h.incSat _
  · have h1 := h.setPtr Fld.fifoPtr.RD Fld.fifoPtrB.RD f ((t.get (Fld.fifoPtr.RD f) + 1) % 8192)
    have h2 := SameClock.ite (p := t.on (Fld.fifoStat.MARK_ACT f)) h1
      (h1.setPtr Fld.fifoPtr.REL Fld.fifoPtrB.REL f ((t.get (Fld.fifoPtr.RD f) + 1) % 8192))
    exact SameClock.fLevelUpdate (.ite (h2.setPktCnt _ _) h2) _ _

theorem groupPop (g req : Nat) : SameClock s (t.groupPop g req).2 := by
  unfold State.groupPop
  split
  · exact h.fPop _
  · exact h

theorem pops {pop : State → BitVec 128 × State} (hp : ∀ u, SameClock s u → SameClock s (pop u).2) (n : Nat) :
    SameClock s (popN pop n t).2 := by
  induction n generalizing t with
  | zero => exact h
  | succ n ih => exact ih (hp t h)

theorem fMark (f : Nat) : SameClock s (t.fMark f) := (((h.setPtr _ _ _ _).setPtr _ _ _ _).put _ _).fLevelUpdate _ _
theorem fRewind (f : Nat) : SameClock s (t.fRewind f) := .ite ((h.setPtr _ _ _ _).setPktCnt _ _) h
theorem fRelease (f : Nat) : SameClock s (t.fRelease f) := ((h.setPtr _ _ _ _).put _ _).fLevelUpdate _ _

theorem fStore (f data info src : Nat) (endW gap : Bool) : SameClock s (t.fStore f data info src endW gap) := by
  have h1 : ∀ m fd, SameClock s { t with fifoMem := m, fifo := fd } := fun _ _ => ⟨h.fclk, h.pending⟩
  exact .ite (((h1 _ _).setPtr _ _ _ _).setPktCnt _ _) ((h1 _ _).setPtr _ _ _ _)

theorem fPush (f data info src : Nat) (endW : Bool) : SameClock s (t.fPush f data info src endW) := by
  have hdrop := fun d v => (((h.incSat (Fld.fifoCnt.DROPS f)).put (Fld.fifoStat.GAP_PEND f) 1).setFd f d).put (Fld.fifoStat.DROP_PKT f) v
  exact .ite (hdrop _ _) (.ite (hdrop _ _) (.ite
    (.ite (((((h.fStore _ _ _ _ _ _).put _ _).setFd _ _).fStore _ _ _ _ _ _).fLevelUpdate _ _) (hdrop _ _))
    ((h.fStore _ _ _ _ _ _).fLevelUpdate _ _)))

theorem pushWords (f src : Nat) (bs : List Byte) (n : Nat) : SameClock s (t.pushWords f src bs n) := by
  induction n generalizing t bs with
  | zero => exact h
  | succ n ih => exact ih (h.fPush _ _ _ _ _) _

/-! #### Accesses at SELF -/

theorem bankAcc (req off n : Nat) (w : Option (List Byte)) : (t.bankAcc req off n w).Keeps s := by
  unfold State.bankAcc
  dsimp only
  split
  · trivial
  · split
    · exact h
    · split
      · split
        · exact h
        · exact ⟨h.fclk, h.pending⟩
      · exact h.ownViol _ _ _

theorem fifoRead (req f o n : Nat) : (t.fifoRead req f o n).Keeps s := by
  unfold State.fifoRead
  dsimp only
  split
  · exact h.fBad f
  · split
    · exact h.pops (fun _ hu => hu.fPop f) _
    · split
      · exact h.fPop f
      · split
        · exact h
        · split
          · exact h
          · exact h.fBad f

theorem fifoWrite (req src f o : Nat) (d : List Byte) : (t.fifoWrite req src f o d).Keeps s := by
  unfold State.fifoWrite
  dsimp only
  split
  · split
    · split
      · exact h.fMark f
      · exact h.fRewind f
      · exact h.fRelease f
      · exact h
    · exact h.fBad f
  · split
    · exact h.fBad f
    · split
      · exact h.pushWords _ _ _ _
      · split
        · exact h.fPush _ _ _ _ _
        · exact h.fBad f

theorem selfAcc (req src a n : Nat) (w : Option (List Byte)) : (t.selfAcc req src a n w).Keeps s := by
  unfold State.selfAcc
  dsimp only
  generalize (a - fifoBase) / 0x1000 = f
  generalize (a - fifoBase) % 0x1000 = o
  generalize (a - groupBase) / 0x1000 = g
  generalize (a - groupBase) % 0x1000 = p
  split
  · exact h.bankAcc _ _ _ _
  · split
    · split
      · exact h.fifoRead _ _ _ _
      · exact h.fifoWrite _ _ _ _ _
    · split
      · split
        · exact h
        · split
          · exact h.pops (fun _ hu => hu.groupPop _ _) _
          · split
            · exact h.groupPop _ _
            · exact h
      · trivial

/-! #### The output of a transfer -/

theorem putPiece (c vc : Nat) (tg : Tgt) (bs : List Byte) : SameClock s (t.putPiece c vc tg bs).1 := by
  unfold State.putPiece
  split
  · split
    · exact h.hostWriteBy _ _ _ _
    · exact h
  · split
    · exact h
    · split
      · next hr => exact (h.request hr).markSlot _
      · exact h
  · next req a =>
    have hacc := h.selfAcc req t.selfNode a bs.length (some bs)
    split
    · next hs => exact hacc.of_eq hs
    · next hs => exact hacc.of_eq hs
    · next hs => exact hacc.of_eq hs
    · exact h
  · exact h

theorem putBytes (c vc : Nat) (tg : Tgt) (bs : List Byte) (n : Nat) : SameClock s (t.putBytes c vc tg bs n).1 := by
  induction n generalizing t tg bs with
  | zero => exact h
  | succ n ih =>
    unfold State.putBytes
    split
    · exact h
    · dsimp only
      split
      · exact h.askAts _ _
      · split
        · next hp => exact .of_fst hp (h.putPiece _ _ _ _)
        · next hp => exact ih (.of_fst hp (h.putPiece _ _ _ _)) _ _

theorem putTaken (wild : Bool) : SameClock s (t.putTaken wild) := .ite h.takeFree h
theorem setXf (k : Nat) (x : Xfer) : SameClock s (t.setXf k x) := ⟨h.fclk, h.pending⟩

theorem writeOut (k : Nat) (bs : List Byte) (n : Nat) : SameClock s (t.writeOut k bs n).1 := by
  induction n generalizing t bs with
  | zero => exact h
  | succ n ih =>
    unfold State.writeOut
    dsimp only
    split
    · exact h
    · exact h
    · split
      · exact ih (h.setXf _ _) _
      · split
        · next hp => exact ih (SameClock.setXf (.of_fst hp ((h.putTaken _).putBytes _ _ _ _ _)) _ _) _
        · next hp => exact SameClock.setXf (.of_fst hp ((h.putTaken _).putBytes _ _ _ _ _)) _ _

theorem xferRecord (k cause : Nat) (off : Option Nat) : SameClock s (t.xferRecord k cause off) := h.logFirst _ _ _
theorem xferFail (k cause st sel : Nat) (off : Option Nat) : SameClock s (t.xferFail k cause st sel off) :=
  (h.xferRecord _ _ _).autoEnd _ _ _

theorem flush (k : Nat) : SameClock s (t.flush k) := by
  have hw := fun bs n x => (h.writeOut k bs n).setXf k x
  unfold State.flush
  dsimp only
  split
  · exact (hw _ _ _).xferFail _ _ _ _ _
  · exact hw _ _ _
  · split
    · exact (hw _ _ _).xferFail _ _ _ _ _
    · exact hw _ _ _

/-! #### STRIPE and GATHER -/

theorem shardFail (k i cause : Nat) (rewriteOnly : Bool) : SameClock s (t.shardFail k i cause rewriteOnly) := by
  have h1 := fun off x => (h.xferRecord k cause off).setXf k x
  have h2 : ∀ off x y r m, SameClock s { ((t.xferRecord k cause off).setXf k x).setXf k y with hreq := r, txn := m } :=
    fun off x y _ _ => ⟨((h1 off x).setXf k y).fclk, ((h1 off x).setXf k y).pending⟩
  unfold State.shardFail
  dsimp only
  split
  · exact h
  · exact .ite h (.ite (h1 _ _) (.ite (.ite ((h1 _ _).autoEnd _ _ _) (h2 _ _ _ _ _)) (.ite ((h1 _ _).autoEnd _ _ _) (h1 _ _))))

theorem putShard (k i : Nat) (rewriteOnly : Bool) (p : Nat) (bs : List Byte) : SameClock s (t.putShard k i rewriteOnly p bs) := by
  unfold State.putShard
  dsimp only
  split
  · exact h
  · refine .ite h ?_
    split
    · next hp => exact SameClock.shardFail (.of_fst hp ((h.putTaken _).putBytes _ _ _ _ _)) _ _ _ _
    · next hp => exact .of_fst hp ((h.putTaken _).putBytes _ _ _ _ _)

theorem gatherShard (k j : Nat) (fin : Bool) (whole : List (List Nat)) : SameClock s (t.gatherShard k j fin whole) := by
  have hput := fun wild vc tg b n x => ((h.putTaken wild).putBytes (t.xg k).ctx vc tg b n).setXf k x
  unfold State.gatherShard
  dsimp only
  split
  · exact h
  · split
    · exact (hput _ _ _ _ _ _).xferFail _ _ _ _ _
    · exact hput _ _ _ _ _ _
    · split
      · exact (hput _ _ _ _ _ _).xferFail _ _ _ _ _
      · exact hput _ _ _ _ _ _

theorem flushGather (k n : Nat) : SameClock s (t.flushGather k n) := by
  induction n generalizing t with
  | zero => exact h
  | succ n ih =>
    unfold State.flushGather
    dsimp only
    split
    · exact h
    · refine .ite h ?_
      have h3 : ∀ {u : State} {l : List Nat} {p : State → Bool} {fin : Bool} {whole : List (List Nat)}, SameClock s u →
          SameClock s (forAll l (fun v j => if p v then v.gatherShard k j fin whole else v) u) :=
        fun hu => all hu fun _ _ hv => .ite (hv.gatherShard _ _ _ _) hv
      have h2 : ∀ {p : Prop} [Decidable p] {l : List Nat} {bs : Nat → List Byte} {x : Xfer},
          SameClock s ((if p then forAll l (fun v i => v.putShard k i true (t.xg k).outPos (bs i)) t else t).setXf k x) :=
        fun {_ _ _ _ _} => SameClock.setXf (.ite (all h fun _ _ hu => hu.putShard _ _ _ _ _) h) _ _
      exact .ite (ih (h3 h2)) (h3 h2)

theorem putRow (k kk m p n : Nat) (st : List (List Nat)) : SameClock s (t.putRow k kk m p n st) := by
  have h1 : SameClock s (forAll (List.range (kk + m)) (fun u i =>
      if u.sameXf k (t.xg k) then u.putShard k i false p (nb (if i < kk then (st.map fun l => (l.drop p).take n).getD i []
        else rsShard kk i (st.map fun l => (l.drop p).take n))) else u) t) :=
    all h fun _ _ hu => .ite (hu.putShard _ _ _ _ _) hu
  exact .ite (h1.setXf _ _) h1

theorem flushStripe (k n : Nat) : SameClock s (t.flushStripe k n) := by
  induction n generalizing t with
  | zero => exact h
  | succ n ih =>
    unfold State.flushStripe
    dsimp only
    split
    · exact h
    · refine .ite (.ite (ih (h.putRow _ _ _ _ _ _)) (h.putRow _ _ _ _ _ _)) ?_
      split
      · exact h.xferFail _ _ _ _ _
      · exact h

theorem flushOut (k : Nat) : SameClock s (t.flushOut k) := by
  unfold State.flushOut
  dsimp only
  split
  · exact h.flush _
  · exact h.flushGather _ _
  · exact h.flushStripe _ _

/-! #### The reads of a transfer -/

theorem readFail (k cause st : Nat) : SameClock s (t.readFail k cause st) := by
  unfold State.readFail
  dsimp only
  split
  · exact h.shardFail _ _ _ _
  · exact h.xferFail _ _ _ _ _
  · exact h.xferFail _ _ _ _ _

theorem feed (k : Nat) (bs : List Byte) : SameClock s (t.feed k bs) := (h.setXf _ _).flushOut _

theorem pump (k n : Nat) : SameClock s (t.pump k n) := by
  induction n generalizing t with
  | zero => exact h
  | succ n ih =>
    have h0 : SameClock s (if (t.xg k).stuck then t.flushOut k else t) := .ite (h.flushOut k) h
    unfold State.pump
    dsimp only
    generalize (if (t.xg k).stuck then t.flushOut k else t) = u at h0
    refine .ite h0 ?_
    split
    · exact h0
    · next tg len sh _ =>
      refine .ite ?_ ?_
      · split
        · exact h0.askAts _ _
        · exact h0
      · have h1 := h0.setXf k { u.xg k with rdN := len, rdShard := sh, req := true }
        split
        · exact h1.hostRead _ _ _ _ _ _ _
        · split
          · exact h1.readFail _ _ _
          · split
            · next hr => exact h1.request hr
            · exact h0
        · next req a _ =>
          have hacc := h1.selfAcc req u.selfNode a len none
          split
          · next hs => exact ih (SameClock.feed (hacc.of_eq hs) _ _)
          · next hs => exact SameClock.readFail (hacc.of_eq hs) _ _ _
          · next hs => exact SameClock.readFail (hacc.of_eq hs) _ _ _
          · exact h1.readFail _ _ _
        · exact h1.readFail _ _ _

theorem goXf (k : Nat) : SameClock s (t.goXf k) := .ite (h.pump _ _) (all (h.pump _ _) fun _ _ hu => hu.pump _ _)

/-! #### Waits that end -/

theorem closeChain (c : Nat) : SameClock s (t.closeChain c) := by
  have h1 := h.updCx c fun x => x.upd fun r => { r with chainOpen := none }
  unfold State.closeChain
  dsimp only
  split
  · exact h1
  · exact ((h1.setXf _ _).flush _).goXf _

theorem portReq (p gen : Nat) (purp : Purpose) (pk : Pkt) (n : Nat) : (t.portReq p gen purp pk n).Keeps s := by
  unfold State.portReq
  split
  · trivial
  · split
    · trivial
    · split
      · next hr => exact h.request hr
      · trivial

theorem sendChain (c : Nat) : SameClock s (t.sendChain c) := by
  refine all h fun u e hu => .ite hu ?_
  split
  · next hs => exact SameClock.updCx ((hu.portReq _ _ _ _ _).of_sent hs) _ _
  · exact hu.autoEnd _ _ _
  · exact hu

theorem postNow (c len st : Nat) (r : Word) : SameClock s (t.postNow c len st r) := .ite (h.autoEnd _ _ _) ((h.handCpl _).updCx _ _)
theorem haltNow (c : Nat) : SameClock s (t.haltNow c) :=
  .ite (h.autoEnd _ _ _) (((SameClock.ite h (h.handCpl _)).freeCtx _ _).endLeave _)
theorem waitxNow (c len d : Nat) : SameClock s (t.waitxNow c len d) := h.updCx _ _
theorem waitcNow (c len d : Nat) : SameClock s (t.waitcNow c len d) := h.updCx _ _

theorem waitxGo (c len d : Nat) : SameClock s (t.waitxGo c len d) := by
  have h1 : SameClock s (if (t.cx c).speculating then t else t.closeChain c) := .ite h (h.closeChain c)
  unfold State.waitxGo
  dsimp only
  split
  · exact .ite (h1.waitxNow _ _ _) h1
  · exact h1

theorem histMove (cl q i : Nat) (up : Bool) : SameClock s (t.histMove cl q i up) := h.put _ _
theorem hist (c off : Nat) (up : Bool) : SameClock s (t.hist c off up) := .ite (h.histMove _ _ _ _) h
theorem openCkpt (c : Nat) (w : Wait) (lock : Bool) (pred : Resolved) (go : Ctx → Ctx) : SameClock s (t.openCkpt c w lock pred go) :=
  (h.updCx _ _).inc _
theorem beginWait (c : Nat) (w : Wait) (lock : Bool) (sp : Spec) : SameClock s (t.beginWait c w lock sp) := h.updCx _ _
theorem dcmdSent (c len d port : Nat) (word : Word) (king : Bool) (tag : Nat) (lock : Bool) (sp : Spec) :
    SameClock s (t.dcmdSent c len d port word king tag lock sp) := .ite (h.openCkpt _ _ _ _ _) (h.beginWait _ _ _ _)

/-! #### Descriptors -/

theorem clockGrp (g : Nat) : SameClock s (t.clockGrp g) := ⟨h.fclk, h.pending⟩
theorem enqueue (k : Nat) (x : Xfer) : SameClock s (t.enqueue k x) := ⟨h.fclk, h.pending⟩
theorem startXfer (c w : Nat) (king dc : Bool) (l : Link) (sl : Nat) : SameClock s (t.startXfer c w king dc l sl) := by
  unfold State.startXfer
  exact (h.enqueue _ _).updCx _ _

theorem stripeStart (c : Nat) (i : Hdr) (gather : Bool) (size : Nat) (d : List Byte) : SameClock s (t.stripeStart c i gather size d) := by
  unfold State.stripeStart
  dsimp only
  refine .ite (h.autoEnd _ _ _) ?_
  split
  · exact h.autoEnd _ _ _
  · split
    · exact h.autoEnd _ _ _
    · split
      · exact h.autoEnd _ _ _
      · refine .ite (h.updCx _ _) (.ite (h.autoEnd _ _ _) ?_)
        split
        · exact h
        · exact (((h.startXfer _ _ _ _ _ _).setXf _ _).updCx _ _).updCx _ _

theorem descRead (c : Nat) (g : Desc) (off most : Nat) : (t.descRead c g off most).Keeps s := by
  unfold State.descRead
  dsimp only
  split
  · exact h
  · exact h.hostRead _ _ _ _ _ _ _
  · next req a _ =>
    have hacc := h.selfAcc req t.selfNode a (Nat.min most (512 - (t.target (t.cx c).pdom g off false).addr % 512)) none
    split
    · next hs => exact hacc.of_eq hs
    · next hs => exact hacc.of_eq hs
    · next hs => exact hacc.of_eq hs
    · exact h
  · split
    · exact h
    · split
      · next hr => exact h.request hr
      · trivial

theorem descGo (c n : Nat) : SameClock s (t.descGo c n) := by
  induction n generalizing t with
  | zero => exact h
  | succ n ih =>
    unfold State.descGo
    split
    · next i gather g off size d _ =>
      refine .ite h ?_
      split
      · exact h.autoEnd _ _ _
      · refine .ite (.ite h (h.stripeStart _ _ _ _ _)) ?_
        have hread := h.descRead c g (off + d.length) (descLen d - d.length)
        split
        · next hs => exact SameClock.autoEnd (hread.of_eq hs) _ _ _
        · next hs => exact hread.of_eq hs
        · next hs => exact ih (SameClock.updCx (hread.of_eq hs) _ _)
        · exact h
    · exact h

theorem kick (c : Nat) : SameClock s (t.kick c) := by
  have h0 := h.sendChain c
  unfold State.kick
  dsimp only
  generalize t.sendChain c = u at h0
  refine .ite h0 ?_
  split
  · exact .ite (h0.autoEnd _ _ _) (.ite (h0.postNow _ _ _ _) h0)
  · exact .ite (h0.autoEnd _ _ _) (.ite (h0.haltNow _) h0)
  · exact h0.waitxGo _ _ _
  · exact .ite ((h0.hist _ _ _).waitcNow _ _ _) h0
  · next port word king _ =>
    refine .ite h0 ?_
    have hreq := fun gen pk => h0.portReq port gen (.dcmd c) pk 0
    split
    · next hs => exact SameClock.dcmdSent ((hreq _ _).of_sent hs) _ _ _ _ _ _ _ _ _
    · exact h0.autoEnd _ _ _
    · exact h0
  · exact h0.descGo _ _
  · exact h0

theorem setDisc (key : Nat) (d : Disc) : SameClock s (t.setDisc key d) := ⟨h.fclk, h.pending⟩

theorem discGo (key : Nat) : SameClock s (t.discGo key) := by
  unfold State.discGo
  dsimp only
  refine .ite (h.setDisc _ _) ?_
  split
  · next hr => exact (h.request hr).setDisc _ _
  · exact h

theorem retry : SameClock s t.retry := by
  have h1 : SameClock s (forAll t.semFree (fun u e => u.semServe e.1 e.2) t) := all h fun _ _ hu => hu.semServe _ _
  unfold State.retry
  dsimp only
  have h2 := all (l := (forAll t.semFree (fun u e => u.semServe e.1 e.2) t).stalled) h1 fun _ c hu => hu.kick c
  exact all (all (.ite h2.sendHeld h2) fun _ key hu => hu.discGo key) fun _ k hu => hu.goXf k

end SameClock
end Sys2Proof.Machine
end

section
/-! ### Castling and the planner in a cycle -/

namespace Sys2Proof.Machine

namespace SameClock

variable {s t : State} (h : SameClock s t)
include h

/-! #### What the blocks do when they are handed a version -/

theorem stopAll (ks : List Nat) (cause st : Nat) (sel : Xfer → Nat) : SameClock s (t.stopAll ks cause st sel) :=
  all (all h fun _ _ hu => .ite hu (hu.xferRecord _ _ _)) fun _ _ hu => .ite hu (hu.autoEnd _ _ _)

theorem stopScope (i : Inv) : SameClock s (t.stopScope i) := by
  unfold State.stopScope
  exact (h.put _ _).stopAll _ _ _ _

theorem invSteps (i : Inv) : SameClock s (t.invSteps i) := by
  have h1 : ∀ r k, SameClock s { t with segRead := r, segCache := k } := fun _ _ => ⟨h.fclk, h.pending⟩
  have h2 := fun r k l => all (l := l) (h1 r k) fun u c hu => hu.updCx c fun x => x.markAll i
  unfold State.invSteps
  dsimp only
  refine .ite (SameClock.stopScope (all (h2 _ _ _) fun u c hu => ?_) _) (all (h2 _ _ _) fun u c hu => ?_) <;>
  · split
    · exact hu.squash _ _ _
    · exact hu

theorem stuBegin (v : Ver) : SameClock s (t.stuBegin v) := by
  have h1 := fun l => all (l := l) h fun u d hu =>
    hu.invSteps { scope := 1, stop := false, notify := false, dom := d, sel := 0 }
  exact ⟨(h1 _).fclk, (h1 _).pending⟩

theorem unborrow (b : Nat) : SameClock s (t.unborrow b) := .ite ((h.put _ _).put _ _) h
theorem spmBegin (v : Ver) : SameClock s (t.spmBegin v) := all h fun _ _ hu => (hu.put _ _).unborrow _
theorem setByte (id : RegId) (c v : Nat) : SameClock s (t.setByte id c v) := h.put _ _
theorem effUpdate : SameClock s t.effUpdate := all h fun _ _ hu => .ite (hu.setByte _ _ _) (hu.setByte _ _ _)
theorem headRecord (c : Nat) : SameClock s (t.headRecord c) := h.put _ _

theorem setCap (c : Nat) (step : Option Nat) : SameClock s (t.setCap c step) :=
  have h1 : ∀ m, SameClock s { t with cap := m } := fun _ => ⟨h.fclk, h.pending⟩
  (h1 _).put _ _

theorem recap : SameClock s t.recap :=
  have h1 : SameClock s { t with pcmSw := 2 } := ⟨h.fclk, h.pending⟩
  (all h1 fun _ c hu => (hu.setCap c _).headRecord c).effUpdate

theorem vddSettled : SameClock s t.vddSettled := .ite h.recap h
theorem takeBits (v : Ver) (r : Reg) (m : Nat) : SameClock s (t.takeBits v r m) := .ite ((h.setReg _ _).commit _) (h.setReg _ _)
theorem takeAll (v : Ver) (blk : Nat) (keep : Reg → Nat) : SameClock s (t.takeAll v blk keep) := all h fun _ _ hu => hu.takeBits _ _ _

theorem takePcm (v : Ver) : SameClock s (t.takePcm v) := by
  have h1 := (h.takeAll v 37 fun _ => 0).effUpdate
  have h2 : SameClock s { (t.takeAll v 37 fun _ => 0).effUpdate with pcmSw := 1 } := ⟨h1.fclk, h1.pending⟩
  exact h2.vddSettled

theorem handOver (v : Ver) (blk : Nat) : SameClock s (t.handOver v blk) :=
  .ite (h.stuBegin _) (.ite ⟨h.fclk, h.pending⟩ (.ite (h.spmBegin _) (.ite (h.takePcm _) h)))

/-! #### The planner -/

theorem castleStart (slot : Nat) (byRollback : Bool) (win : Option Nat) : SameClock s (t.castleStart slot byRollback win) :=
  have h1 : ∀ c, SameClock s { t with castle := c, rstSw := [] } := fun _ => ⟨h.fclk, h.pending⟩
  all ((h1 _).putAll _) fun _ _ hu => hu.handOver _ _

theorem floorNote (old : State) : SameClock s (t.floorNote old) := .ite ((h.raise _).put _ _) h

theorem castle1 (k : Nat) (byRollback : Bool) (win : Option Nat) : SameClock s (t.castle1 k byRollback win) :=
  .ite (((h.castleStart _ _ _).floorNote _).put _ _) ((h.castleStart _ _ _).floorNote _)

theorem planCastle : SameClock s t.planCastle := by
  unfold State.planCastle
  split
  · exact .ite (h.castle1 _ _ _) h
  · exact h

theorem setRoles (active prev staged : Option Nat) : SameClock s (t.setRoles active prev staged) :=
  .ite ⟨h.fclk, h.pending⟩ ⟨h.fclk, h.pending⟩

theorem staged1 (k : Nat) (img : List Byte) : SameClock s (t.staged1 k img) := by
  have h1 : SameClock s ({ t with planWait := [] }.writeSlot k img) := ⟨h.fclk, h.pending⟩
  exact .ite (h1.putAll _).planCastle (h1.putAll _)

theorem planStage (img : List Byte) : SameClock s (t.planStage img) := by
  have h1 : SameClock s { t with planWait := img } := ⟨h.fclk, h.pending⟩
  unfold State.planStage
  split
  · exact .ite (h.staged1 _ _) ((h1.put _ _).raise _)
  · exact (h.setRoles _ _ _).staged1 _ _

theorem planBuild (cause : Nat) : SameClock s (t.planBuild cause) := by
  have h0 : SameClock s { t with planWant := none } := ⟨h.fclk, h.pending⟩
  have h1 := h0.put Fld.agmPlan.CAUSE cause
  have h2 : ∀ m, SameClock s { ({ t with planWant := none }.put Fld.agmPlan.CAUSE cause) with planDeg := m } :=
    fun _ => ⟨h1.fclk, h1.pending⟩
  unfold State.planBuild
  dsimp only
  split
  · exact h1
  · exact ((h2 _).put _ _).planStage _

theorem planNow : SameClock s t.planNow := by
  unfold State.planNow
  refine .ite h ?_
  split
  · exact h.planBuild _
  · exact .ite (h.planBuild _) h

end SameClock

/-! #### The cycle and the step -/

theorem State.tick_asleep {s : State} (h : s.get Fld.pcmStat.DSTATE = 2) : s.tick = s := by
  unfold State.tick
  exact if_pos h

/-- A cycle outside Sleep is one more FCLK cycle; the planner and what waits go on in it (R52, R149, R461). -/
theorem State.tick_awake {s : State} (h : s.get Fld.pcmStat.DSTATE ≠ 2) : SameClock { s with fclk := s.fclk + 1 } s.tick := by
  have h1 : ∀ m, SameClock { s with fclk := s.fclk + 1 } { s with fclk := s.fclk + 1, ctx := m } := fun _ => ⟨rfl, rfl⟩
  unfold State.tick
  rw [if_neg h]
  exact (h1 _).planNow.retry

theorem step_of_pending_nil {s : State} (h : s.pending = []) : step s = .next s.tick := by
  unfold step
  rw [h]

theorem step_of_pending_cons {s : State} {c : Instr} {rest : List Instr} (h : s.pending = c :: rest) :
    step s = exec c { s with pending := rest } := by
  unfold step
  rw [h]

end Sys2Proof.Machine

open Sys2Proof Sys2Proof.Machine

/-- Settles O1: what goes on in a cycle, from the planner to the transfers that wait, keeps FCLK's count and the queue. -/
theorem stepRunsTheFrontCommandOrOneCyclePasses : Obligations.StepRunsTheFrontCommandOrOneCyclePasses := by
  refine ⟨fun _ _ _ hp => step_of_pending_cons hp, fun s hp => ⟨s.tick, step_of_pending_nil hp, ?_⟩⟩
  by_cases hs : s.get Fld.pcmStat.DSTATE = 2
  · rw [State.tick_asleep hs, if_pos hs]
    exact ⟨rfl, hp⟩
  · rw [if_neg hs]
    have hk := State.tick_awake hs
    exact ⟨hk.fclk, hk.pending.trans hp⟩

end

section
/-! ### Sets of requesters, and the rotation among them (R71) -/

namespace Sys2Proof.Machine

theorem NSet.mem_add {l : List Nat} {k a : Nat} : a ∈ NSet.add l k ↔ a = k ∨ a ∈ l := by
  induction l with
  | nil => simp [NSet.add]
  | cons b r ih =>
    unfold NSet.add
    split
    · simp
    · split
      · next hk => simp [hk]
      · simp only [List.mem_cons, ih, or_left_comm]

theorem NSet.rising_add {l : List Nat} (k : Nat) (h : l.Pairwise (· < ·)) : (NSet.add l k).Pairwise (· < ·) := by
  induction l with
  | nil => simp [NSet.add]
  | cons b r ih =>
    obtain ⟨hb, hr⟩ := List.pairwise_cons.1 h
    unfold NSet.add
    split
    · next hlt =>
      refine List.pairwise_cons.2 ⟨fun a ha => ?_, h⟩
      rcases List.mem_cons.1 ha with rfl | ha
      · exact hlt
      · exact Nat.lt_trans hlt (hb a ha)
    · split
      · exact h
      · refine List.pairwise_cons.2 ⟨fun a ha => ?_, ih hr⟩
        rcases NSet.mem_add.1 ha with rfl | ha
        · omega
        · exact hb a ha

theorem NSet.mem_addAll {l : List Nat} (ks : List Nat) {a : Nat} : a ∈ ks.foldl NSet.add l ↔ a ∈ ks ∨ a ∈ l := by
  induction ks generalizing l with
  | nil => simp
  | cons k ks ih => rw [List.foldl_cons, ih, NSet.mem_add, List.mem_cons, or_left_comm, or_assoc]

theorem NSet.rising_addAll {l : List Nat} (ks : List Nat) (h : l.Pairwise (· < ·)) : (ks.foldl NSet.add l).Pairwise (· < ·) := by
  induction ks generalizing l with
  | nil => exact h
  | cons k ks ih => exact ih (NSet.rising_add k h)

theorem mem_of_fromPtr {l : List Nat} {ptr w : Nat} (h : fromPtr l ptr = some w) : w ∈ l := by
  unfold fromPtr at h
  split at h
  · next hf => cases h; exact List.mem_of_find?_eq_some hf
  · exact List.mem_of_head? h

theorem fromPtr_of_mem {l : List Nat} {r : Nat} (ptr : Nat) (h : r ∈ l) : ∃ w, fromPtr l ptr = some w := by
  unfold fromPtr
  split
  · exact ⟨_, rfl⟩
  · exact ⟨_, List.head?_eq_some_head (List.ne_nil_of_mem h)⟩

/-- Nothing of a rising list stands between the pointer and the winner, wrapping. -/
theorem fromPtr_first {l : List Nat} {ptr w r : Nat} (hl : l.Pairwise (· < ·)) (h : fromPtr l ptr = some w) (hr : r ∈ l) :
    if ptr ≤ w then r < ptr ∨ w ≤ r else r < ptr ∧ w ≤ r := by
  unfold fromPtr at h
  split at h
  · next v hf =>
    cases h
    obtain ⟨hw, before, after, rfl, hb⟩ := List.find?_eq_some_iff_append.1 hf
    rw [if_pos (of_decide_eq_true hw)]
    rcases List.mem_append.1 hr with hr | hr
    · exact .inl (by simpa using hb r hr)
    · rcases List.mem_cons.1 hr with rfl | hr
      · exact .inr (Nat.le_refl _)
      · exact .inr (Nat.le_of_lt ((List.pairwise_cons.1 (List.pairwise_append.1 hl).2.1).1 r hr))
  · next hf =>
    have hlow : ∀ a ∈ l, a < ptr := fun a ha => by simpa using List.find?_eq_none.1 hf a ha
    rw [if_neg (Nat.not_le.2 (hlow w (List.mem_of_head? h)))]
    refine ⟨hlow r hr, ?_⟩
    obtain ⟨tl, rfl⟩ := List.head?_eq_some_iff.1 h
    rcases List.mem_cons.1 hr with rfl | hr
    · exact Nat.le_refl _
    · exact Nat.le_of_lt ((List.pairwise_cons.1 hl).1 r hr)

/-- The running maximum bounds what it runs over, and is its start or one of the values. -/
theorem foldl_max_greatest {f : Nat → Nat} {l : List Nat} {m top : Nat} (h : l.foldl (fun m r => Nat.max m (f r)) m = top) :
    m ≤ top ∧ (∀ r ∈ l, f r ≤ top) ∧ (m = top ∨ ∃ r ∈ l, f r = top) := by
  induction l generalizing m with
  | nil => exact ⟨Nat.le_of_eq h, fun _ hr => absurd hr List.not_mem_nil, .inl h⟩
  | cons a l ih =>
    obtain ⟨hm, hle, hat⟩ := ih h
    obtain ⟨hm1, hm2⟩ := Nat.max_le.1 hm
    refine ⟨hm1, List.forall_mem_cons.2 ⟨hm2, hle⟩, ?_⟩
    rcases hat with rfl | ⟨r, hr, hrt⟩
    · rcases Nat.le_total m (f a) with hma | hma
      · exact .inr ⟨a, List.mem_cons_self, (Nat.max_eq_right hma).symm⟩
      · exact .inl (Nat.max_eq_left hma).symm
    · exact .inr ⟨r, List.mem_cons_of_mem a hr, hrt⟩

/-- The maximum from 0 over a list that is not empty is attained. -/
theorem foldl_max_attained {f : Nat → Nat} {l : List Nat} {a top : Nat} (h : l.foldl (fun m r => Nat.max m (f r)) 0 = top)
    (ha : a ∈ l) : ∃ r ∈ l, f r = top := by
  obtain ⟨-, hle, hat⟩ := foldl_max_greatest h
  refine hat.elim (fun h0 => ⟨a, ha, ?_⟩) id
  have := hle a ha
  omega

end Sys2Proof.Machine
end

section
/-! ### A decision of an arbiter (R71), case by case -/

namespace Sys2Proof.Machine

/-- The requesters that a decision takes up: the unmasked ones, without the high-priority ones once their quota is spent. -/
def State.arbOpen (s : State) (a : ArbId) (reqs : List Nat) (hp : Nat → Bool) : List Nat :=
  reqs.filter fun r => !s.isMasked a r && !((s.ar a).quotaMask && hp r)

/-- The credit that a requester has left in the window. -/
def State.arbCredit (s : State) (a : ArbId) (r : Nat) : Nat := s.arbW a r - SMap.get (s.ar a).spent 0 r

/-- The arbiter with a requester charged, never above its weight. -/
def State.arbCharged (s : State) (a : ArbId) (cost r : Nat) : Arb :=
  { s.ar a with spent := SMap.set (s.ar a).spent 0 r (Nat.min (s.arbW a r) (SMap.get (s.ar a).spent 0 r + cost)) }

/-- The arbiter after a high-priority grant: the quota's count and the pointer of those requesters have moved. -/
def State.arbServedHigh (s : State) (a : ArbId) (cost w : Nat) : Arb :=
  { s.ar a with
    hpUsed := (s.ar a).hpUsed + cost
    hpPtr := (w + 1) % arbN a
    quotaMask := match s.arbQuota a with | some q => decide ((s.ar a).hpUsed + cost ≥ q) | none => false }

theorem State.spent_arbCharged (s : State) (a : ArbId) (cost w r : Nat) : SMap.get (s.arbCharged a cost w).spent 0 r =
    if r = w then Nat.min (s.arbW a w) (SMap.get (s.ar a).spent 0 w + cost) else SMap.get (s.ar a).spent 0 r :=
  SMap.get_set ..

section
variable {s : State} {a : ArbId} {reqs : List Nat} {hp : Nat → Bool} {cost : Nat}

theorem State.mem_arbOpen {r : Nat} : r ∈ s.arbOpen a reqs hp ↔
    r ∈ reqs ∧ s.isMasked a r = false ∧ ((s.ar a).quotaMask = true → hp r = false) := by
  cases hq : (s.ar a).quotaMask <;> simp [State.arbOpen, hq]

theorem State.arbDecide_owned {o : Nat} (ho : s.arbOwner a = some o) (hr : o ∈ s.arbOpen a reqs hp) :
    s.arbDecide a reqs hp cost = some (o, s.setAr a (s.arbCharged a cost o)) := by
  unfold State.arbDecide
  simp only [ho]
  exact if_pos (List.contains_iff_mem.2 hr)

theorem State.arbDecide_owner_absent {o : Nat} (ho : s.arbOwner a = some o) (hr : o ∉ s.arbOpen a reqs hp) :
    s.arbDecide a reqs hp cost = none := by
  unfold State.arbDecide
  simp only [ho]
  exact if_neg fun h => hr (List.contains_iff_mem.1 h)

/-- A high-priority requester that is not masked wins outright. -/
theorem State.arbDecide_high (ho : s.arbOwner a = none) {r : Nat} (hr : r ∈ s.arbOpen a reqs hp) (hh : hp r = true) :
    ∃ w ∈ s.arbOpen a reqs hp, hp w = true ∧ s.arbDecide a reqs hp cost = some (w, s.setAr a (s.arbServedHigh a cost w)) := by
  obtain ⟨w, hw⟩ := fromPtr_of_mem (s.ar a).hpPtr (List.mem_filter.2 ⟨hr, hh⟩)
  obtain ⟨hwo, hwh⟩ := List.mem_filter.1 (mem_of_fromPtr hw)
  refine ⟨w, hwo, hwh, ?_⟩
  unfold State.arbOpen at hw
  unfold State.arbDecide
  simp only [ho, hw]
  rfl

/-- With no high-priority requester the greatest credit wins, among equals the first from the pointer on. -/
theorem State.arbDecide_credit (ho : s.arbOwner a = none) (hs : reqs.Pairwise (· < ·)) (hno : ∀ r ∈ s.arbOpen a reqs hp, hp r = false)
    {r : Nat} (hr : r ∈ s.arbOpen a reqs hp) :
    ∃ w ∈ s.arbOpen a reqs hp,
      s.arbDecide a reqs hp cost = some (w, s.setAr a { s.arbCharged a cost w with ptr := (w + 1) % arbN a }) ∧
      ∀ r ∈ s.arbOpen a reqs hp, s.arbCredit a r ≤ s.arbCredit a w ∧
        (s.arbCredit a r = s.arbCredit a w →
          if (s.ar a).ptr ≤ w then r < (s.ar a).ptr ∨ w ≤ r else r < (s.ar a).ptr ∧ w ≤ r) := by
  have hnil : (s.arbOpen a reqs hp).filter hp = [] := List.filter_eq_nil_iff.2 fun r hr => by simp [hno r hr]
  obtain ⟨top, htop⟩ : ∃ top, (s.arbOpen a reqs hp).foldl (fun m r => Nat.max m (s.arbCredit a r)) 0 = top := ⟨_, rfl⟩
  obtain ⟨v, hv, hvt⟩ := foldl_max_attained htop hr
  obtain ⟨-, hle, -⟩ := foldl_max_greatest htop
  obtain ⟨w, hw⟩ := fromPtr_of_mem (l := (s.arbOpen a reqs hp).filter fun r => s.arbCredit a r == top) (s.ar a).ptr
    (List.mem_filter.2 ⟨hv, beq_iff_eq.2 hvt⟩)
  obtain ⟨hwo, hwt⟩ := List.mem_filter.1 (mem_of_fromPtr hw)
  have hwt := beq_iff_eq.1 hwt
  refine ⟨w, hwo, ?_, fun r hr => ⟨hwt ▸ hle r hr, fun he => ?_⟩⟩
  · have hnone : fromPtr ([] : List Nat) (s.ar a).hpPtr = none := rfl
    rw [← htop] at hw
    unfold State.arbOpen State.arbCredit at hw
    unfold State.arbOpen at hnil
    unfold State.arbDecide
    simp only [ho, hnil, hnone, hw]
    rfl
  · exact fromPtr_first ((hs.sublist List.filter_sublist).sublist List.filter_sublist) hw
      (List.mem_filter.2 ⟨hr, beq_iff_eq.2 (he.trans hwt)⟩)

theorem State.arbDecide_idle (ho : s.arbOwner a = none) (hr : s.arbOpen a reqs hp = []) : s.arbDecide a reqs hp cost = none := by
  unfold State.arbOpen at hr
  unfold State.arbDecide
  simp only [ho, hr]
  rfl

end

/-! #### The command -/

/-- The requesters that the command names, rising. -/
def arbReqs (a : ArbId) (reqs : List Nat) : List Nat := ((reqs.map (· % 65536)).filter (· < arbN a)).foldl NSet.add []

theorem mem_arbReqs {a : ArbId} {reqs : List Nat} {r : Nat} : r ∈ arbReqs a reqs ↔ r < arbN a ∧ ∃ q ∈ reqs, q % 65536 = r := by
  simp [arbReqs, NSet.mem_addAll, and_comm]

theorem arbReqs_rising (a : ArbId) (reqs : List Nat) : (arbReqs a reqs).Pairwise (· < ·) := NSet.rising_addAll _ .nil

/-- What the command answers when requester `w` wins and its arbiter becomes `y`: a context's first issue is spent. -/
def State.granted (s : State) (a : ArbId) (w : Nat) (y : Arb) : State :=
  { s with
    arb := (s.setAr a y).arb
    out := .grant a w :: s.out
    ctx := if a.kind = akEngine then (s.updCx (a.i * 8 + w) fun x => { x with fresh := false }).ctx else s.ctx }

theorem State.ar_granted_same (s : State) (a : ArbId) (w : Nat) (y : Arb) : (s.granted a w y).ar a = y := AMap.get_set_same _ _ _ _ _

theorem State.ar_granted_ne (s : State) {a b : ArbId} (w : Nat) (y : Arb) (h : b ≠ a) : (s.granted a w y).ar b = s.ar b :=
  AMap.get_set_ne _ _ _ _ _ h

theorem State.cx_granted (s : State) (a : ArbId) (w : Nat) (y : Arb) (c : Nat) :
    (s.granted a w y).cx c = if a.kind = akEngine ∧ c = a.i * 8 + w then { s.cx c with fresh := false } else s.cx c := by
  by_cases hk : a.kind = akEngine
  · have hctx : (s.granted a w y).cx c = (s.updCx (a.i * 8 + w) fun x => { x with fresh := false }).cx c :=
      congrArg (fun m : SMap Ctx => SMap.get m {} c) (if_pos hk)
    by_cases hc : c = a.i * 8 + w
    · rw [hctx, if_pos ⟨hk, hc⟩, hc, State.cx_updCx_same]
    · rw [hctx, if_neg fun h => hc h.2, State.cx_updCx_ne s _ hc]
  · rw [if_neg fun h => hk h.1]
    exact congrArg (fun m : SMap Ctx => SMap.get m {} c) (if_neg hk)

/-- The high-priority requesters as the command's arbiter takes them. -/
def State.arbHigh (s : State) (a : ArbId) (reqs : List Nat) : Nat → Bool := s.arbHp a fun r => reqs.contains (65536 + r)

theorem State.arbHigh_iff {s : State} {a : ArbId} {reqs : List Nat} {r : Nat} : s.arbHigh a reqs r = true ↔
    if a.kind = akKing ∨ a.kind = akPath ∨ a.kind = akFxbVc then r = 0
    else if a.kind = akEngine then (s.cx (a.i * 8 + r)).fresh = true
    else (a.kind = akPort ∨ a.kind = akTag ∨ a.kind = akEic) ∧ 65536 + r ∈ reqs := by
  unfold State.arbHigh State.arbHp
  split
  · exact beq_iff_eq
  · split
    · exact Iff.rfl
    · simp [or_assoc]

theorem exec_arbiterDecision_grants {a : ArbId} {reqs : List Nat} {beats w : Nat} {y : Arb} {s : State}
    (h : s.arbDecide a (arbReqs a reqs) (s.arbHigh a reqs) (arbCost a beats) = some (w, s.setAr a y)) :
    exec (.arbiterDecision a reqs beats) s = .next (s.granted a w y) := by
  show execArbiterDecision a reqs beats s = _
  unfold State.arbHigh arbReqs at h
  unfold execArbiterDecision
  simp only [h]
  unfold State.granted
  split <;> rfl

theorem exec_arbiterDecision_idle {a : ArbId} {reqs : List Nat} {beats : Nat} {s : State}
    (h : s.arbDecide a (arbReqs a reqs) (s.arbHigh a reqs) (arbCost a beats) = none) :
    exec (.arbiterDecision a reqs beats) s = .next s := by
  show execArbiterDecision a reqs beats s = _
  unfold State.arbHigh arbReqs at h
  unfold execArbiterDecision
  simp only [h]

end Sys2Proof.Machine
end

section
/-! ### Window starts and the swap of the King slot table (R71, R82) -/

namespace Sys2Proof.Machine

theorem AMap.get_of_absent {κ β : Type} [DecidableEq κ] {m : AMap κ β} {k : κ} (d : β) (h : k ∉ m.map Prod.fst) : m.get d k = d := by
  induction m with
  | nil => rfl
  | cons e m ih =>
    rw [List.map_cons, List.mem_cons, not_or] at h
    rw [AMap.get, if_neg (Ne.symm h.1)]
    exact ih h.2

theorem AMap.nodup_keys_of_wf {κ β : Type} [DecidableEq β] {lt : κ → κ → Bool} {d : κ → β} {m : AMap κ β}
    (hlt : ∀ k, lt k k = false) (h : AMap.wf lt d m = true) : (m.map Prod.fst).Nodup := by
  induction m with
  | nil => exact List.nodup_nil
  | cons e m ih =>
    simp only [AMap.wf, Bool.and_eq_true, List.all_eq_true] at h
    obtain ⟨⟨-, hall⟩, hm⟩ := h
    refine List.nodup_cons.2 ⟨fun hmem => ?_, ih hm⟩
    obtain ⟨x, hx, hxe⟩ := List.mem_map.1 hmem
    exact absurd (hall x hx) (by rw [hxe, hlt]; exact Bool.false_ne_true)

/-- A change of every entry, where an unlisted key stays as it is, after which the entries that have become the default go. -/
theorem AMap.get_map_filter {κ β : Type} [DecidableEq κ] [DecidableEq β] {m : AMap κ β} {d : β} {f : κ × β → κ × β} (hf : ∀ e, (f e).1 = e.1)
    (hd : ∀ k, f (k, d) = (k, d)) (hm : (m.map Prod.fst).Nodup) (k : κ) :
    AMap.get ((m.map f).filter fun e => e.2 != d) d k = (f (k, m.get d k)).2 := by
  induction m with
  | nil => exact (congrArg Prod.snd (hd k)).symm
  | cons e m ih =>
    obtain ⟨k', v⟩ := e
    obtain ⟨hk, hm⟩ := List.nodup_cons.1 hm
    have hkey := hf (k', v)
    rw [List.map_cons, List.filter_cons]
    by_cases he : k' = k
    · have hrest : AMap.get m d k = d := AMap.get_of_absent d (he ▸ hk)
      rw [AMap.get, if_pos he, ← he]
      split
      · rw [AMap.get, if_pos hkey]
      · next hz =>
        rw [he, ih hm, hrest, hd, ← he]
        exact (by simpa using hz : (f (k', v)).2 = d).symm
    · rw [AMap.get, if_neg he]
      split
      · rw [AMap.get, if_neg (hkey.symm ▸ he)]
        exact ih hm
      · exact ih hm

theorem ArbId.lt_irrefl (a : ArbId) : ArbId.lt a a = false := by simp [ArbId.lt]

theorem State.ar_windowStart {s : State} (h : AMap.wf ArbId.lt (fun _ => {}) s.arb = true) (p : ArbId → Bool) (b : ArbId) :
    (s.windowStart p).ar b = if p b then (s.ar b).window else s.ar b := by
  refine (AMap.get_map_filter (f := fun e => if p e.1 then (e.1, e.2.window) else e) (fun e => ?_) (fun k => ?_)
    (AMap.nodup_keys_of_wf ArbId.lt_irrefl h) b).trans ?_
  · exact apply_ite Prod.fst .. |>.trans (ite_self _)
  · exact (ite_self _ : (if p k then (k, ({} : Arb)) else (k, {})) = _)
  · exact apply_ite Prod.snd ..

theorem Quiet.windowStart {s : State} (q : Quiet s) (p : ArbId → Bool) : Quiet (s.windowStart p) :=
  SameFaults.quiet (SameFaults.of_regs rfl rfl rfl rfl rfl) ⟨fun _ _ => rfl, rfl, rfl, rfl, rfl, rfl, rfl, rfl, rfl, rfl, rfl⟩ q

/-! #### The King slot table -/

/-- The shadow bank's words of some slots put into the active bank. -/
def State.kstCopy (s : State) (ks : List Nat) : State :=
  forAll ks (fun t k => t.setReg ⟨.kstActive, k, 0⟩ (t.reg ⟨.kstShadow, k, 0⟩)) s

theorem State.reg_kstCopy (s : State) (ks : List Nat) (r : Reg) : (s.kstCopy ks).reg r =
    if r.id = .kstActive ∧ r.i ∈ ks ∧ r.j = 0 then s.reg ⟨.kstShadow, r.i, 0⟩ else s.reg r := by
  induction ks generalizing s with
  | nil => simp [State.kstCopy, forAll]
  | cons k ks ih =>
    have hstep : s.kstCopy (k :: ks) = (s.setReg ⟨.kstActive, k, 0⟩ (s.reg ⟨.kstShadow, k, 0⟩)).kstCopy ks := rfl
    have hsh : ∀ v i, (s.setReg ⟨.kstActive, k, 0⟩ v).reg ⟨.kstShadow, i, 0⟩ = s.reg ⟨.kstShadow, i, 0⟩ := fun v i =>
      State.reg_setReg_ne s v (by simp)
    rw [hstep, ih, hsh]
    by_cases hr : r = ⟨.kstActive, k, 0⟩
    · subst hr
      simp
    · rw [State.reg_setReg_ne s _ hr]
      have hne : r.id = .kstActive → r.j = 0 → r.i ≠ k := fun h1 h2 h3 => hr (by cases r; simp_all)
      refine ite_congr (propext ⟨fun h => ⟨h.1, List.mem_cons_of_mem _ h.2.1, h.2.2⟩, fun h => ⟨h.1, ?_, h.2.2⟩⟩) (fun _ => rfl) fun _ => rfl
      exact (List.mem_cons.1 h.2.1).resolve_left (hne h.1 h.2.2)

theorem State.besides_kstCopy (s : State) (ks : List Nat) : (s.kstCopy ks).besides = s.besides := by
  induction ks generalizing s with
  | nil => rfl
  | cons k ks ih => exact ih (s.setReg ⟨.kstActive, k, 0⟩ (s.reg ⟨.kstShadow, k, 0⟩))

theorem State.kingKeep_eq (s : State) : s.kingKeep = { s with waking := s.kingKeep.waking } := by
  unfold State.kingKeep
  split <;> rfl

theorem State.kingKeep_swapped (u : State) : ({ u with swapAt := none } : State).kingKeep =
    { u with waking := ({ u with swapAt := none } : State).kingKeep.waking, swapAt := none } := State.kingKeep_eq _

theorem State.reg_kingKeep_swapped (u : State) (r : Reg) : ({ u with swapAt := none } : State).kingKeep.reg r = u.reg r :=
  congrArg (fun m => AMap.get m r.reset r) (congrArg State.regs u.kingKeep_swapped :)

theorem State.kstExchange_eq (s : State) :
    s.kstExchange = { (s.kstCopy (List.range 128)).put Fld.kstCtl.SWAP 0 with waking := s.kstExchange.waking, swapAt := none } :=
  State.kingKeep_swapped ((s.kstCopy (List.range 128)).put Fld.kstCtl.SWAP 0)

/-- The exchange touches the active bank and KST_CTL, and wakes King engines. -/
theorem State.kstExchange_onlyRegs (s : State) :
    OnlyRegs [.kstActive, .kstCtl] { s with waking := s.kstExchange.waking, swapAt := none } s.kstExchange := by
  have hcopy : OnlyRegs [.kstActive, .kstCtl] s (s.kstCopy (List.range 128)) :=
    ⟨s.besides_kstCopy _, fun r hr _ _ => (s.reg_kstCopy _ r).trans (if_neg fun h => hr (by simp [h.1]))⟩
  obtain ⟨hrest, hreg⟩ := hcopy.put (f := Fld.kstCtl.SWAP) 0 (by simp [Fld.kstCtl.SWAP])
  have hall := congrArg State.besides s.kstExchange_eq
  refine ⟨hall.trans (congrArg (fun u : State => { u with waking := s.kstExchange.waking, swapAt := none }) hrest :), fun r h1 h2 h3 => ?_⟩
  exact (State.reg_kingKeep_swapped _ r).trans (hreg r h1 h2 h3)

theorem Quiet.kstExchange {s : State} (q : Quiet s) : Quiet s.kstExchange := by
  have q0 : Quiet { s with waking := s.kstExchange.waking, swapAt := none } :=
    SameFaults.quiet (SameFaults.of_regs rfl rfl rfl rfl rfl) ⟨fun _ _ => rfl, rfl, rfl, rfl, rfl, rfl, rfl, rfl, rfl, rfl, rfl⟩ q
  exact s.kstExchange_onlyRegs.quiet (by decide) q0

theorem State.arb_kstExchange (s : State) : s.kstExchange.arb = s.arb := (congrArg State.arb s.kstExchange_onlyRegs.1 :)

theorem State.reg_kstExchange_eq (s : State) (r : Reg) :
    s.kstExchange.reg r = ((s.kstCopy (List.range 128)).put Fld.kstCtl.SWAP 0).reg r :=
  State.reg_kingKeep_swapped _ r

theorem State.reg_kstExchange (s : State) {k : Nat} (hk : k < 128) :
    s.kstExchange.reg ⟨.kstActive, k, 0⟩ = s.reg ⟨.kstShadow, k, 0⟩ := by
  rw [State.reg_kstExchange_eq, State.reg_put_ne _ 0 (by simp [Fld.kstCtl.SWAP]), State.reg_kstCopy,
    if_pos ⟨rfl, List.mem_range.2 hk, rfl⟩]

theorem State.get_kstExchange_swap (s : State) : s.kstExchange.get Fld.kstCtl.SWAP = 0 := by
  rw [State.get, State.reg_kstExchange_eq]
  exact State.get_put_same _ Fld.kstCtl.SWAP 0

/-! #### The commands -/

/-- A swap that is asked for again keeps the cycle of its first request. -/
theorem exec_kstSwap (s : State) : ∃ t, exec .kstSwap s = .next t ∧ t.get Fld.kstCtl.SWAP = 1 ∧
    t.swapAt = some (s.swapAt.getD s.fclk) ∧ OnlyRegs [.kstCtl] { s with swapAt := t.swapAt } t := by
  refine ⟨_, rfl, State.get_put_same s Fld.kstCtl.SWAP 1, ?_, ?_⟩
  · cases s.swapAt <;> simp
  · exact OnlyRegs.put (OnlyRegs.refl _ { s with swapAt := _ }) (f := Fld.kstCtl.SWAP) 1 (by simp [Fld.kstCtl.SWAP])

theorem exec_arbiterWindowStart_reloads {g : WinId} {s : State} (h : ∀ t0, g = .qsc → s.swapAt = some t0 → s.fclk < t0 + 2) :
    exec (.arbiterWindowStart g) s = .next (s.windowStart (WinIdHas g)) := by
  show execArbiterWindowStart g s = _
  unfold execArbiterWindowStart
  dsimp only
  split
  · next t0 hsw => exact if_neg (Nat.not_le.2 (h t0 rfl hsw))
  · rfl

theorem exec_arbiterWindowStart_swaps {s : State} {t0 : Nat} (hsw : s.swapAt = some t0) (ht : t0 + 2 ≤ s.fclk) :
    exec (.arbiterWindowStart .qsc) s = (s.windowStart (WinIdHas .qsc)).kstExchange.done := by
  show execArbiterWindowStart .qsc s = _
  unfold execArbiterWindowStart
  simp only [hsw]
  exact if_pos ht

/-- A swap asked for early enough is carried out at the start of the QSC window. -/
theorem exec_arbiterWindowStart_quiet {s : State} {t0 : Nat} (q : Quiet s) (hsw : s.swapAt = some t0) (ht : t0 + 2 ≤ s.fclk) :
    ∃ t, exec (.arbiterWindowStart .qsc) s = .next t ∧ t.arb = (s.windowStart (WinIdHas .qsc)).arb ∧
      (∀ k, k < 128 → t.reg ⟨.kstActive, k, 0⟩ = s.reg ⟨.kstShadow, k, 0⟩) ∧ t.get Fld.kstCtl.SWAP = 0 ∧
      OnlyRegs [.kstActive, .kstCtl] { s with arb := t.arb, waking := t.waking, swapAt := none } t := by
  obtain ⟨w, hw⟩ : ∃ w, w = s.windowStart (WinIdHas .qsc) := ⟨_, rfl⟩
  have hws : { w with arb := s.arb } = s := by rw [hw]; rfl
  obtain ⟨t, ht', hcalm⟩ := State.done_of_quiet (hw ▸ q.windowStart (WinIdHas .qsc) : Quiet w).kstExchange
  have harb : t.arb = w.arb := (congrArg State.arb hcalm.rest :).trans w.arb_kstExchange
  have hwake : t.waking = w.kstExchange.waking := (congrArg State.waking hcalm.rest :)
  refine ⟨t, ?_, hw ▸ harb, fun k hk => ?_, ?_, ?_⟩
  · rw [exec_arbiterWindowStart_swaps hsw ht, ← hw, ht']
  · rw [hcalm.reg _ (by simp) (by simp), w.reg_kstExchange hk, ← hws]
    rfl
  · rw [hcalm.get _ (by simp [Fld.kstCtl.SWAP]) (by simp [Fld.kstCtl.SWAP]), w.get_kstExchange_swap]
  · rw [harb, hwake, ← hws]
    exact w.kstExchange_onlyRegs.calm hcalm

end Sys2Proof.Machine
end

section
/-! ### Commits of shadowed weights, windows and quotas (R75) -/

namespace Sys2Proof.Machine

/-- The active copy of a register word. -/
def State.activeReg (s : State) (r : Reg) : Word := AMap.get s.act r.reset r

theorem State.activeReg_commit (s : State) (r r' : Reg) :
    (s.commit r).activeReg r' = if r' = r then s.reg r' else s.activeReg r' := by
  by_cases h : r' = r
  · subst h
    rw [if_pos rfl]
    exact AMap.get_set_same _ _ _ _ _
  · rw [if_neg h]
    exact AMap.get_set_ne _ _ _ _ _ h

theorem State.activeReg_commits (s : State) (l : List Reg) (r : Reg) :
    (forAll l State.commit s).activeReg r = if r ∈ l then s.reg r else s.activeReg r := by
  induction l generalizing s with
  | nil => rfl
  | cons a l ih =>
    refine (ih (s.commit a)).trans ?_
    rw [State.activeReg_commit]
    by_cases hl : r ∈ l
    · rw [if_pos hl, if_pos (List.mem_cons_of_mem _ hl)]
      rfl
    · rw [if_neg hl]
      exact ite_congr (by simp [hl]) (fun _ => rfl) fun _ => rfl

/-- `t` is `s` with the shadowed words of `p` active; beside the active copies only arbiters have changed. -/
structure Activates (p : Reg → Prop) (s t : State) : Prop where
  rest : { t with act := s.act, arb := s.arb } = s
  active : ∀ r, p r → t.activeReg r = s.reg r

namespace Activates
variable {p : Reg → Prop} {s t : State}

theorem getA (h : Activates p s t) (f : Field) (hf : p f.reg) : t.getA f = s.get f :=
  congrArg (fun w : Word => bitsOf w.toNat f.lo f.w) (h.active f.reg hf)

theorem actByte (h : Activates p s t) {id : RegId} {i j : Nat} (hr : p ⟨id, i, j⟩) (b : Nat) : t.actByte id i j b = s.regByte id i j b :=
  congrArg (fun w : Word => bitsOf w.toNat (8 * b) 8) (h.active ⟨id, i, j⟩ hr)

theorem commits (s : State) (l : List Reg) : Activates (· ∈ l) s (forAll l State.commit s) := by
  refine ⟨?_, fun r hr => (s.activeReg_commits l r).trans (if_pos hr)⟩
  induction l generalizing s with
  | nil => rfl
  | cons a l ih => exact congrArg (fun u : State => { u with act := s.act }) (ih (s.commit a))

theorem arbClip (h : Activates p s t) (a : ArbId → Bool) : Activates p s (t.arbClip a) := ⟨h.rest, h.active⟩

theorem setAr (h : Activates p s t) (a : ArbId) (x : Arb) : Activates p s (t.setAr a x) := ⟨h.rest, h.active⟩

theorem arbQuotaNew (h : Activates p s t) (ids : List ArbId) : Activates p s (t.arbQuotaNew ids) := by
  induction ids generalizing t with
  | nil => exact h
  | cons a ids ih =>
    refine ih ?_
    dsimp only
    split
    · exact h.setAr _ _
    · exact h

/-- A word that neither its register nor its active copy lists reads alike in both. -/
theorem commitQw (h : Activates p s t) : Activates (fun r => p r ∨ r.id = .qwData) s t.commitQw := by
  obtain ⟨ks, hks⟩ : ∃ ks, ks = (t.regs.map (·.1) ++ t.act.map (·.1)).filter fun r => r.id == .qwData := ⟨_, rfl⟩
  have hreg : ∀ r, t.reg r = s.reg r := fun r => congrArg (fun m => AMap.get m r.reset r) (congrArg State.regs h.rest :)
  have hc := commits t ks
  have hcommit : t.commitQw = forAll ks State.commit t := by rw [hks]; rfl
  rw [hcommit]
  refine ⟨(congrArg (fun u : State => { u with act := s.act, arb := s.arb }) hc.rest :).trans h.rest, fun r hr => ?_⟩
  rw [State.activeReg_commits]
  split
  · exact hreg r
  · next hn =>
    refine hr.elim (h.active r) fun hid => ?_
    have hab : r ∉ t.regs.map Prod.fst ∧ r ∉ t.act.map Prod.fst := by
      rw [hks, List.mem_filter, List.mem_append, beq_iff_eq, not_and'] at hn
      exact not_or.1 (hn hid)
    rw [← hreg r]
    exact (AMap.get_of_absent _ hab.2).trans (AMap.get_of_absent _ hab.1).symm

end Activates

/-! #### The commands -/

theorem exec_qscCommit {s : State} (h1 : 8 ≤ s.get Fld.qscCtl.WIN_LOG2) (h2 : s.get Fld.qscCtl.WIN_LOG2 ≤ 16)
    (h3 : s.get Fld.kingQuota.QUOTA ≠ 0) : ∃ t, exec .qscCommit s = .next t ∧
      Activates (fun r => r ∈ [⟨.qscCtl, 0, 0⟩, ⟨.clsW, 0, 0⟩, ⟨.cluW, 0, 0⟩, ⟨.kingQuota, 0, 0⟩] ∨ r.id = .qwData) s t :=
  ⟨_, if_neg (by omega), ((Activates.commits s _).commitQw.arbClip _).arbQuotaNew _⟩

theorem exec_fxbCommit {s : State} (h1 : 6 ≤ s.get Fld.fxbCtl.WIN_LOG2) (h2 : s.get Fld.fxbCtl.WIN_LOG2 ≤ 14) :
    ∃ t, exec .fxbCommit s = .next t ∧ Activates (· ∈ [⟨.fxbCtl, 0, 0⟩, ⟨.fxbVc, 0, 0⟩]) s t :=
  ⟨_, if_neg (by omega), ((Activates.commits s _).arbClip _).arbQuotaNew _⟩

theorem exec_eicCommit {s : State} (h1 : 6 ≤ s.get Fld.eicCtl.WIN_LOG2) (h2 : s.get Fld.eicCtl.WIN_LOG2 ≤ 14) :
    ∃ t, exec .eicCommit s = .next t ∧ Activates (· ∈ [⟨.eicCtl, 0, 0⟩]) s t :=
  ⟨_, if_neg (by omega), (Activates.commits s [⟨.eicCtl, 0, 0⟩]).arbQuotaNew _⟩

theorem exec_dmgCommit {d : Fin 4} {s : State} (h1 : 6 ≤ s.get (Fld.dmgCtl.WIN_LOG2 d.val)) (h2 : s.get (Fld.dmgCtl.WIN_LOG2 d.val) ≤ 14) :
    ∃ t, exec (.dmgCommit d) s = .next t ∧ Activates (· ∈ [⟨.dmgCtl, d.val, 0⟩, ⟨.dmgCw, d.val, 0⟩]) s t :=
  ⟨_, if_neg (by omega), (Activates.commits s [⟨.dmgCtl, d.val, 0⟩, ⟨.dmgCw, d.val, 0⟩]).arbClip _⟩

end Sys2Proof.Machine

open Sys2Proof Sys2Proof.Machine

/-- Settles O31: each case of R71's decision, the window's reload of every entry, and the commits word by word. -/
theorem arbitersGrantByRemainingCredit : Obligations.ArbitersGrantByRemainingCredit := by
  unfold Obligations.ArbitersGrantByRemainingCredit
  intro a reqs beats g d s n x wins hp cost cnt charged granted
  have hreq : ∀ r, r ∈ arbReqs a reqs ↔ wins r := fun r => mem_arbReqs
  have hhigh : ∀ r, s.arbHigh a reqs r = true ↔ hp r := fun r => State.arbHigh_iff
  have hgranted : ∀ w y, granted (s.granted a w y) w := fun w y =>
    ⟨rfl, s.cx_granted a w y, fun b hb => s.ar_granted_ne w y hb, rfl⟩
  have hcharged : ∀ w y, y.spent = (s.arbCharged a cost w).spent → charged (s.granted a w y) w := fun w y hy r => by
    rw [State.ar_granted_same, hy]
    exact s.spent_arbCharged a cost w r
  have hopen : (∀ r, wins r → s.isMasked a r = false) → ∀ r, r ∈ s.arbOpen a (arbReqs a reqs) (s.arbHigh a reqs) ↔
      wins r ∧ (x.quotaMask = true → ¬hp r) := fun hm r => by
    rw [State.mem_arbOpen, hreq, ← hhigh, Bool.not_eq_true]
    exact ⟨fun ⟨h1, _, h3⟩ => ⟨h1, h3⟩, fun ⟨h1, h3⟩ => ⟨h1, hm r h1, h3⟩⟩
  refine ⟨fun hm _ _ => ⟨fun o ho hq => ⟨fun hw => ?_, fun hw => ?_⟩, fun ho => ⟨?_, ?_, fun hall => ?_⟩⟩,
    fun hwf => ⟨fun h => ?_, fun t0 hg hsw ht => ?_, fun t0 q hg hsw ht => ?_⟩, ?_, ?_, ?_, ?_, ?_⟩
  · have hmem := (hopen hm o).2 ⟨hw, fun h => absurd h (by simp [hq])⟩
    refine ⟨_, exec_arbiterDecision_grants (State.arbDecide_owned ho hmem), hgranted _ _, hcharged _ _ rfl, ?_⟩
    rw [State.ar_granted_same]
    exact ⟨rfl, rfl⟩
  · exact exec_arbiterDecision_idle (State.arbDecide_owner_absent ho fun h => hw ((hopen hm o).1 h).1)
  · rintro ⟨r, hw, hh⟩ hq
    obtain ⟨w, hwo, hwh, hdec⟩ := State.arbDecide_high (cost := cost) ho ((hopen hm r).2 ⟨hw, fun h => absurd h (by simp [hq])⟩)
      ((hhigh r).2 hh)
    refine ⟨_, w, exec_arbiterDecision_grants hdec, ((hopen hm w).1 hwo).1, (hhigh w).1 hwh, hgranted _ _, ?_⟩
    rw [State.ar_granted_same]
    refine ⟨rfl, rfl, rfl, rfl, fun q hq => ?_⟩
    unfold State.arbServedHigh
    rw [hq]
  · rintro ⟨r, hw, hh⟩ hspent
    have hlow : ∀ r, r ∈ s.arbOpen a (arbReqs a reqs) (s.arbHigh a reqs) ↔ wins r ∧ ¬hp r := fun r =>
      (hopen hm r).trans (and_congr_right fun hr => ⟨fun h hh => h (hspent r hr hh) hh, fun h _ => h⟩)
    obtain ⟨w, hwo, hdec, hbest⟩ := State.arbDecide_credit (cost := cost) ho (arbReqs_rising a reqs)
      (fun r hr => Bool.eq_false_iff.2 fun h => ((hlow r).1 hr).2 ((hhigh r).1 h)) ((hlow r).2 ⟨hw, hh⟩)
    obtain ⟨hww, hwl⟩ := (hlow w).1 hwo
    refine ⟨_, w, exec_arbiterDecision_grants hdec, hww, hwl, hgranted _ _, hcharged _ _ rfl,
      fun r hr hn => (hbest r ((hlow r).2 ⟨hr, hn⟩)).1, fun r hr hn => (hbest r ((hlow r).2 ⟨hr, hn⟩)).2, ?_⟩
    rw [State.ar_granted_same]
    exact ⟨rfl, rfl⟩
  · refine exec_arbiterDecision_idle (State.arbDecide_idle ho (List.eq_nil_iff_forall_not_mem.2 fun r hr => ?_))
    obtain ⟨hw, hn⟩ := (hopen hm r).1 hr
    exact hn (hall r hw).2 (hall r hw).1
  · exact ⟨_, exec_arbiterWindowStart_reloads fun t0 hg hsw =>
      absurd ((h.resolve_left (Classical.not_not.2 hg)).symm.trans hsw) (Option.some_ne_none t0).symm, s.ar_windowStart hwf _, rfl⟩
  · exact ⟨_, exec_arbiterWindowStart_reloads fun t1 _ hsw1 => Option.some.inj (hsw.symm.trans hsw1) ▸ ht,
      s.ar_windowStart hwf _, rfl⟩
  · subst hg
    obtain ⟨t, hex, harb, hbank, hswap, honly⟩ := exec_arbiterWindowStart_quiet q hsw ht
    refine ⟨t, hex, fun b => ?_, hbank, hswap, honly⟩
    rw [State.ar, harb]
    exact s.ar_windowStart hwf _ b
  · exact exec_kstSwap s
  · intro h1 h2 h3
    obtain ⟨t, hex, hact⟩ := exec_qscCommit h1 h2 h3
    have hA : ∀ f : Field, f.reg ∈ [(⟨.qscCtl, 0, 0⟩ : Reg), ⟨.clsW, 0, 0⟩, ⟨.cluW, 0, 0⟩, ⟨.kingQuota, 0, 0⟩] → t.getA f = s.get f :=
      fun f hf => hact.getA f (.inl hf)
    exact ⟨t, hex, hact.rest, hA _ (by decide), hA _ (by decide), hA _ (by decide), hA _ (by decide), hA _ (by decide), hA _ (by decide),
      fun cl _ => hact.actByte (.inl (by decide)) cl, fun q b _ _ => hact.actByte (.inr rfl) (b % 8)⟩
  · intro h1 h2
    obtain ⟨t, hex, hact⟩ := exec_fxbCommit h1 h2
    exact ⟨t, hex, hact.rest, hact.getA _ (by decide), hact.getA _ (by decide), hact.getA _ (by decide), hact.getA _ (by decide),
      hact.getA _ (by decide)⟩
  · intro h1 h2
    obtain ⟨t, hex, hact⟩ := exec_eicCommit h1 h2
    exact ⟨t, hex, hact.rest, hact.getA _ (by decide), hact.getA _ (by decide)⟩
  · intro h1 h2
    obtain ⟨t, hex, hact⟩ := exec_dmgCommit h1 h2
    exact ⟨t, hex, hact.rest, hact.getA _ (.head _), hact.getA _ (.head _), fun cl _ => hact.actByte (.tail _ (.head _)) cl⟩
end
